-- ==== Sys2Proof/Word.lean ====
section
/-!
DEFINITION. The word types, the sparse maps of the state, and the small operand types that the
syntax of the HM-8 is written over (00 R7, 01 R26, R33).
-/

namespace Sys2Proof

/-- A byte of memory. -/
abbrev Byte := BitVec 8

/-- A unit of the instruction stream (R14). -/
abbrev HUnit := BitVec 16

/-- A parcel word or a bundle header (R20, R21). -/
abbrev W32 := BitVec 32

/-- A scalar value (R26). -/
abbrev Word := BitVec 64

/-- A 6-bit operand or destination specifier, or a literal register number (R26, R27, R30). -/
abbrev Spec := BitVec 6

/-- A finite map from keys to values, as a list of pairs. -/
abbrev Map (α : Type) := List (Nat × α)

/-- The token and flag fields that every S7 parcel carries (R33): the produced token, the three
consumed tokens, the flag enable and the flag number. -/
structure Tail where
  prod : BitVec 6
  c1 : BitVec 6
  c2 : BitVec 6
  c3 : BitVec 6
  fen : Bool
  fnum : BitVec 4
  deriving DecidableEq, Repr

/-- A register named from outside an instruction's own row (R10, R88, R432). -/
inductive RegTarget where
  /-- A system register of the current context, by number (R88). -/
  | sys (n : BitVec 12)
  /-- A register of the module register block, written by the host or else by the management controller: module's corner die and byte
  offset (R432). -/
  | bar0 (host : Bool) (m off : Nat)
  deriving DecidableEq, Repr

/-- What the fast current limiter senses against its ceiling (R393). -/
inductive Sense where
  /-- Above the ceiling. -/
  | above
  /-- At or below the ceiling and at or above 90 % of it. -/
  | within
  /-- Below 90 % of the ceiling. -/
  | below
  deriving DecidableEq, Repr

/-- The management inputs of a cluster's arbiter (R397), of its throttle group (R399), and the
configured awake budget of its die (R401). -/
inductive CapKind where
  | boost
  | thermal
  | current
  | group
  | awake
  deriving DecidableEq, Repr

/-- What crosses a rated limit of the coolant (R402). -/
inductive Coolant where
  /-- Within the rated range. -/
  | normal
  /-- Inlet above 60 °C or flow below 6.0 L/min. -/
  | hot
  /-- Inlet above 65 °C or flow below 4.0 L/min. -/
  | critical
  deriving DecidableEq, Repr

/-- The cause a power-fail halt records (R423). -/
inductive HaltCause where
  | lowInput
  | lossOfInput
  | coolant
  deriving DecidableEq, Repr

/-- What management configuration can set through a signed record (R440). -/
inductive ConfigItem where
  /-- Energy table of a core (R389). -/
  | ewtable (core : Nat) (v : Word)
  /-- `BFW` of a core (R390). -/
  | bfw (core : Nat) (v : BitVec 9)
  /-- Torus extents (R311). -/
  | extents (x y z : Nat)
  /-- Grandmaster candidates, first reachable serves (R335). -/
  | grandmasters (dies : List Nat)
  /-- A throttle group: its number, member dies and leader (R399). -/
  | throttleGroup (g : Nat) (dies : List Nat) (leader : Nat)
  /-- Migration threshold (R319). -/
  | threshold (v : Nat)
  /-- Configured awake budget of a die (R401). -/
  | awake (die w : Nat)
  /-- Almanac base of a cluster: physical key (R400). -/
  | almanac (cluster base : Nat)
  /-- Hibernation area of a module: base and size in bytes (R417). -/
  | hib (base size : Nat)
  /-- Shed order of local die indices (R428). -/
  | shedOrder (order : List Nat)
  /-- A multicast table entry of a die: group and ports (R316). -/
  | multicast (die group : Nat) (ports : BitVec 10)
  /-- Location of a die's tier remap table (R290). -/
  | remapTable (die base : Nat)
  /-- An HDM window: index, host base, size, die and physical address (R431). -/
  | hdm (i hbase size die pa : Nat)
  deriving DecidableEq, Repr

/-- What the coolant sensors of a module read: the inlet in tenths of a °C, the flow in tenths of a litre per minute (R402). -/
structure CoolantReading where
  inlet : Int
  flow : Nat
  deriving DecidableEq, Repr

/-- Whether each of the two signatures of an image verifies, Ed25519 and ML-DSA-65 (R1, R441). -/
structure Signatures where
  ed25519 : Bool
  mlDsa65 : Bool
  deriving DecidableEq, Repr

/-- Both signatures must verify (R1). -/
def Signatures.both (x : Signatures) : Bool := x.ed25519 && x.mlDsa65

/-- The types of configuration records: one for each line of R440's list, and one for the HDM windows of R431 (assumption log 115). -/
inductive RecordKind where
  /-- Energy tables and `BFW`. -/
  | energy
  /-- Torus extents, grandmaster candidates and throttle groups. -/
  | domain
  /-- Migration threshold and configured W. -/
  | budget
  /-- Almanac bases and the location of the tier remap tables. -/
  | tables
  /-- `HIBBASE`, `HIBSIZE` and the shed order. -/
  | hibernation
  /-- Multicast entries. -/
  | multicast
  /-- HDM windows. -/
  | hdm
  deriving DecidableEq, Repr

/-- The type of record that holds an item (R440). -/
def ConfigItem.kind : ConfigItem → RecordKind
  | .ewtable .. => .energy
  | .bfw .. => .energy
  | .extents .. => .domain
  | .grandmasters .. => .domain
  | .throttleGroup .. => .domain
  | .threshold .. => .budget
  | .awake .. => .budget
  | .almanac .. => .tables
  | .remapTable .. => .tables
  | .hib .. => .hibernation
  | .shedOrder .. => .hibernation
  | .multicast .. => .multicast
  | .hdm .. => .hdm

/-- A signed configuration record: type, sequence number, the items of its payload, and which of its signatures verify (R440). -/
structure ConfigRecord where
  kind : RecordKind
  seq : BitVec 64
  items : List ConfigItem
  sigs : Signatures
  deriving DecidableEq, Repr

/-- Whether a record is valid: both signatures verify, and its payload is of its type (R440). -/
def ConfigRecord.valid (r : ConfigRecord) : Bool := r.sigs.both && r.items.all fun i => decide (i.kind = r.kind)

/-- What the management controller finds of an image that stands complete: which signatures verify, and the security and image versions
of its signed header (R432, R441). -/
structure ImageHeader where
  sigs : Signatures
  secVer : Nat
  imgVer : Nat
  deriving DecidableEq, Repr

/-- A chunk of an image: its bytes, and of the chunk that completes the image what the controller finds of it (R441). -/
structure ImageChunk where
  bytes : List Byte
  check : Option ImageHeader
  deriving DecidableEq, Repr

/-- What a debug halt or a resume names: a core, or a partition of a module (R416, R442). -/
inductive HaltTarget where
  | core (k : Nat)
  | partition (m p : Nat)
  deriving DecidableEq, Repr

/-- What the host accesses: the device memory behind an HDM window (R431), or its own memory (R387, R388). -/
inductive HostSide where
  | hdm (i : Nat)
  | own
  deriving DecidableEq, Repr

end Sys2Proof
end

