-- ==== Sys2Proof/Config.lean ====
section
/-!
DEFINITION. What the spec leaves to the part or leaves open: constants without a body, of which nothing can be proved but
that they have some value.
-/

namespace Sys2Proof.Config

/-- A byte whose value the spec does not give, by the model's tick and a position (assumption log 14). -/
opaque freeByte : Nat → Nat → Byte

/-- A number whose value the spec does not give, by the model's tick (assumption log 14). -/
opaque freeNat : Nat → Nat

/-- Where an edge of a cluster's core clock stands, in thousandths of a cycle, by the cluster and the time of its latest change of
step (R8, assumption log 86). -/
opaque clockPhase : Nat → Nat → Nat

/-- How many W above 250 the reserve of a module charges at, modulo 151, by its corner die and since when it charges (R417). -/
opaque chargeWatts : Nat → Nat → Nat

/-- What a full reserve of a module holds beyond 38 kJ, in nJ, by its corner die (R417). -/
opaque packExtra : Nat → Nat

/-- The device sealing key of a module, by its corner die (R424). -/
opaque sealKey : Nat → List Byte

/-- The security version fused into a module (R441). -/
opaque fusedVersion : Nat → Nat

end Sys2Proof.Config
end

