-- ==== Sys2Proof/Syntax.lean ====
section
/-!
DEFINITION. The one inductive of the instruction set: a constructor for every row of the opcode table.
A parcel's constructor holds its G bit and its operand fields (01 R25–R39); a bundle holds its header and
parcel words as they stand in the stream (R20, R21); a step of another agent holds what identifies the
agent and what the outside world supplies.
Identities: `cx` a global context identifier (R4), `core` an identifier shifted right by two, `cl` by five,
`q` by six, `die` a die number; `m` a module's corner die; `p` a packet, `l` a launch, by the model's number.
-/

namespace Sys2Proof

inductive Instr where
  /-- FULL_BUNDLE (R20): One repetition of a full bundle issues, running its present slots and re-issuing its sticky streaming slots; a header-only bundle does only the re-issues. -/
  | fullBundle (hdr : W32) (words : List W32)
  /-- TCALL (R50): A one-unit template call reads a window entry whole and issues it as a bundle RC + 1 times. -/
  | tcall (index : BitVec 9) (rc : BitVec 6)
  /-- CONTEXT_SWITCH (R64): When the running context cannot issue and another is ready, the selector spends 2 cy and hands issue to the next ready context. -/
  | contextSwitch (core : Nat)
  /-- QUANTUM_EXPIRY (R65): After 1,024 cycles of the running context's quantum, the selector switches at the next bundle boundary if another context is ready. -/
  | quantumExpiry (core : Nat)
  /-- STREAMING_ENTRY_START (R68): A queued streaming entry starts once it is at the head of its queue and its resources are ready, served round-robin across contexts. -/
  | streamingEntryStart (cx slot : Nat)
  /-- STREAMING_WRITE (R69): A streaming write to a named or vector register takes effect in issue order and sets the presence bit when it is the last outstanding one. -/
  | streamingWrite (cx i : Nat)
  /-- DIVIDE_COMPLETE (R97): A divide completes 26 cy after issue, performing the repetition's pushes and register writes and freeing the divider. -/
  | divideComplete (core : Nat)
  /-- TRAP_ENTRY (R75): A trap saves cause, resume point and frame, clears stickiness and enters the handler at system level. -/
  | trapEntry (cx : Nat)
  /-- RETIREMENT_COMPLETE (R83): An exited context completes retirement once its queues are empty, its commands completed and AWC is 0, releasing the hardware context and its leases. -/
  | retirementComplete (cx : Nat)
  /-- COMMAND_COMPLETION (R71): An S7 command completes or fails, completing or failing its token and setting its done flag. -/
  | commandCompletion (id : Nat)
  /-- SAVEBASE_WRITE (R102): An MTS to SAVEBASE writes dirty registers back to the old area, invalidates the vector slots and installs the new base. -/
  | savebaseWrite (v : Word)
  /-- FLAGS_WRITE (R93): An MTS to FLAGS sets the flags, ordered before engine completions of the same cycle. -/
  | flagsWrite (v : Word)
  /-- ENGFAIL_WRITE (R92): An MTS to ENGFAIL clears the FFAIL bits written as 1. -/
  | engfailWrite (v : Word)
  /-- FPSTATUS_WRITE (R131): An MTS to FPSTATUS sets the status bits, taking effect before settings arriving in the same cycle. -/
  | fpstatusWrite (v : Word)
  /-- PN_WRITE (R85): An MTS to a PN register writes the program-level register, sets its presence bit and clears its poison bit. -/
  | pnWrite (i : BitVec 5) (v : Word)
  /-- EWTABLE_WRITE (R389): An MTS to EWTABLE writes the core's energy table, governing repetitions from the next cycle. -/
  | ewtableWrite (v : Word)
  /-- REGISTER_WRITE (R10): A write to a register or field with no row of its own sets it as its access code directs. -/
  | registerWrite (tgt : RegTarget) (v : Word)
  /-- BR (R78): Branch to the bundle's first unit plus simm24. -/
  | br (g : Bool) (off : BitVec 24)
  /-- CALL (R78): Write the link to n31 and branch relative. -/
  | call (g : Bool) (off : BitVec 24)
  /-- JMP (R78): Jump to the unit named by operand a in the current bank. -/
  | jmp (g : Bool) (a : Spec)
  /-- RET (R78): Return to the unit held in n31. -/
  | ret (g : Bool)
  /-- LOOP (R79): Start a hardware loop of len units run a times, or skip it when a is 0. -/
  | loop (g : Bool) (a : Spec) (len : BitVec 12)
  /-- BRX (R78): Branch to a unit index in the other instruction bank and empty the loop stack. -/
  | brx (g : Bool) (u : BitVec 14)
  /-- FENCEI (R81): Discard fetched-ahead units so later fetches see earlier bank writes. -/
  | fencei (g : Bool)
  /-- WAITF (R80): Hold until all masked flags are set, trap ENGINE_FAIL on failure, then clear them. -/
  | waitf (g : Bool) (mask : BitVec 16)
  /-- PEEKF (R80): Hold until all masked flags are set, without clearing them. -/
  | peekf (g : Bool) (mask : BitVec 16)
  /-- SETF (R80): Set the masked flags. -/
  | setf (g : Bool) (mask : BitVec 16)
  /-- CLRF (R80): Clear the masked flags. -/
  | clrf (g : Bool) (mask : BitVec 16)
  /-- YIELD (R82): End the running context's quantum after its bundle. -/
  | yield (g : Bool)
  /-- EXIT (R83): Make this the context's last bundle and begin retirement, withdrawing pending lease requests. -/
  | exit (g : Bool)
  /-- TRAP (R84): After the rest of the bundle, take trap SOFTWARE with n in DETAIL. -/
  | trap (g : Bool) (n : BitVec 8)
  /-- RFT (R84): Return from trap, restoring the frame, replaying held entries and resuming at the recorded point. -/
  | rft (g : Bool)
  /-- MFS (R85): Read a system register into a named register. -/
  | mfs (g : Bool) (sr : BitVec 12) (d : Spec)
  /-- MTS (R85): Write an operand to a system register field by field. -/
  | mts (g : Bool) (sr : BitVec 12) (a : Spec)
  /-- BKPT (R84): Raise BREAKPOINT precisely before any slot takes effect, or halt when the debug unit is armed. -/
  | bkpt (g : Bool) (n : BitVec 8)
  /-- PWRREQ (R86): Write a target frequency step to the cluster's power mailbox. -/
  | pwrreq (g : Bool) (a : Spec)
  /-- AWAIT (R81): Hold until the accumulator wait counter is at most n. -/
  | await (g : Bool) (n : BitVec 4)
  /-- TWAIT (R81): Hold until local meridian time reaches operand a. -/
  | twait (g : Bool) (a : Spec)
  /-- CKPT (R410): Make the bundle a checkpoint: in a guarded launch release held stores, commit or roll back the region and take a snapshot; otherwise drain the queues. -/
  | ckpt (g : Bool)
  /-- NOP_CTL (R25): No operation in S0. -/
  | nopCtl (g : Bool)
  /-- NOP_SA (R94): No operation in S1, pushing nothing. -/
  | nopSa (g : Bool)
  /-- NOP_SB (R94): No operation in S2, pushing nothing. -/
  | nopSb (g : Bool)
  /-- NOP_MEM (R44): No operation in S3, ending its stickiness. -/
  | nopMem (g : Bool)
  /-- NOP_VEC (R44): No operation in S4, ending its stickiness. -/
  | nopVec (g : Bool)
  /-- NOP_MX (R44): No operation in S5, ending its stickiness. -/
  | nopMx (g : Bool)
  /-- NOP_ACC (R44): No operation in S6, ending its stickiness. -/
  | nopAcc (g : Bool)
  /-- NOP_ENG (R44): No operation in S7, ending its stickiness. -/
  | nopEng (g : Bool)
  /-- ADD (R109): Push a + b modulo 2^64. -/
  | add (g : Bool) (d a b : Spec)
  /-- SUB (R109): Push a - b modulo 2^64. -/
  | sub (g : Bool) (d a b : Spec)
  /-- ADDI (R109): Push a plus a sign-extended 12-bit immediate. -/
  | addi (g : Bool) (d a : Spec) (imm : BitVec 12)
  /-- MUL (R109): Push the low 64 bits of a × b. -/
  | mul (g : Bool) (d a b : Spec)
  /-- MULH (R109): Push the high 64 bits of the signed product. -/
  | mulh (g : Bool) (d a b : Spec)
  /-- MULHW (R109): Push the high 64 bits of the unsigned product. -/
  | mulhw (g : Bool) (d a b : Spec)
  /-- DIV (R110): Start a signed divide on the core's divider. -/
  | div (g : Bool) (d a b : Spec)
  /-- DIVW (R110): Start an unsigned divide on the core's divider. -/
  | divw (g : Bool) (d a b : Spec)
  /-- REM (R110): Start a signed remainder on the core's divider. -/
  | rem (g : Bool) (d a b : Spec)
  /-- REMW (R110): Start an unsigned remainder on the core's divider. -/
  | remw (g : Bool) (d a b : Spec)
  /-- MIN (R109): Push the signed minimum. -/
  | min (g : Bool) (d a b : Spec)
  /-- MAX (R109): Push the signed maximum. -/
  | max (g : Bool) (d a b : Spec)
  /-- MINW (R109): Push the unsigned minimum. -/
  | minw (g : Bool) (d a b : Spec)
  /-- MAXW (R109): Push the unsigned maximum. -/
  | maxw (g : Bool) (d a b : Spec)
  /-- ABS (R109): Push the absolute value of a. -/
  | abs (g : Bool) (d a : Spec)
  /-- AND (R111): Push a AND b. -/
  | and (g : Bool) (d a b : Spec)
  /-- OR (R111): Push a OR b. -/
  | or (g : Bool) (d a b : Spec)
  /-- XOR (R111): Push a XOR b. -/
  | xor (g : Bool) (d a b : Spec)
  /-- ANDN (R111): Push a AND NOT b. -/
  | andn (g : Bool) (d a b : Spec)
  /-- ORN (R111): Push a OR NOT b. -/
  | orn (g : Bool) (d a b : Spec)
  /-- ANDI (R111): Push a AND a zero-extended immediate. -/
  | andi (g : Bool) (d a : Spec) (imm : BitVec 12)
  /-- ORI (R111): Push a OR a zero-extended immediate. -/
  | ori (g : Bool) (d a : Spec) (imm : BitVec 12)
  /-- XORI (R111): Push a XOR a zero-extended immediate. -/
  | xori (g : Bool) (d a : Spec) (imm : BitVec 12)
  /-- SHL (R111): Shift left by b[5:0]. -/
  | shl (g : Bool) (d a b : Spec)
  /-- SHR (R111): Shift right logically by b[5:0]. -/
  | shr (g : Bool) (d a b : Spec)
  /-- SAR (R111): Shift right arithmetically by b[5:0]. -/
  | sar (g : Bool) (d a b : Spec)
  /-- ROL (R111): Rotate left by b[5:0]. -/
  | rol (g : Bool) (d a b : Spec)
  /-- SHLI (R111): Shift left by the amount in f. -/
  | shli (g : Bool) (d a : Spec) (f : BitVec 6)
  /-- SHRI (R111): Shift right logically by the amount in f. -/
  | shri (g : Bool) (d a : Spec) (f : BitVec 6)
  /-- SARI (R111): Shift right arithmetically by the amount in f. -/
  | sari (g : Bool) (d a : Spec) (f : BitVec 6)
  /-- ROLI (R111): Rotate left by the amount in f. -/
  | roli (g : Bool) (d a : Spec) (f : BitVec 6)
  /-- CEQ (R112): Push 1 if a = b. -/
  | ceq (g : Bool) (d a b : Spec)
  /-- CNE (R112): Push 1 if a ≠ b. -/
  | cne (g : Bool) (d a b : Spec)
  /-- CLT (R112): Push 1 if a < b signed. -/
  | clt (g : Bool) (d a b : Spec)
  /-- CLE (R112): Push 1 if a ≤ b signed. -/
  | cle (g : Bool) (d a b : Spec)
  /-- CLTW (R112): Push 1 if a < b unsigned. -/
  | cltw (g : Bool) (d a b : Spec)
  /-- CLEW (R112): Push 1 if a ≤ b unsigned. -/
  | clew (g : Bool) (d a b : Spec)
  /-- CEQI (R112): Push 1 if a equals a sign-extended immediate. -/
  | ceqi (g : Bool) (d a : Spec) (imm : BitVec 12)
  /-- CLTI (R112): Push 1 if a is less than a sign-extended immediate. -/
  | clti (g : Bool) (d a : Spec) (imm : BitVec 12)
  /-- CLZ (R113): Push the count of leading zeros. -/
  | clz (g : Bool) (d a : Spec)
  /-- CTZ (R113): Push the count of trailing zeros. -/
  | ctz (g : Bool) (d a : Spec)
  /-- POPC (R113): Push the number of 1 bits. -/
  | popc (g : Bool) (d a : Spec)
  /-- BREV (R113): Push a with its bits reversed. -/
  | brev (g : Bool) (d a : Spec)
  /-- BSWAP (R113): Push a with its bytes reversed. -/
  | bswap (g : Bool) (d a : Spec)
  /-- EXTS (R114): Push a bit field sign-extended. -/
  | exts (g : Bool) (d a : Spec) (len pos : BitVec 6)
  /-- EXTZ (R114): Push a bit field zero-extended. -/
  | extz (g : Bool) (d a : Spec) (len pos : BitVec 6)
  /-- INS (R115): Insert the low bits of b into a at the position and length given by c. -/
  | ins (g : Bool) (d a b c : Spec)
  /-- BPERM (R116): Build a 32-bit value from eight source bytes under control c. -/
  | bperm (g : Bool) (d a b c : Spec)
  /-- BSET (R117): Push a with bit f set. -/
  | bset (g : Bool) (d a : Spec) (f : BitVec 6)
  /-- BCLR (R117): Push a with bit f cleared. -/
  | bclr (g : Bool) (d a : Spec) (f : BitVec 6)
  /-- BTST (R117): Push bit f of a. -/
  | btst (g : Bool) (d a : Spec) (f : BitVec 6)
  /-- BFLIP (R117): Push a with bit f inverted. -/
  | bflip (g : Bool) (d a : Spec) (f : BitVec 6)
  /-- MOV (R118): Push a. -/
  | mov (g : Bool) (d a : Spec)
  /-- MOVZ (R118): Push a 16-bit immediate shifted by 16·h. -/
  | movz (g : Bool) (d : Spec) (h : BitVec 2) (imm : BitVec 16)
  /-- MOVK (R118): Replace one 16-bit field of n[d] with an immediate. -/
  | movk (g : Bool) (d : Spec) (h : BitVec 2) (imm : BitVec 16)
  /-- SEL (R118): Push a if c is nonzero, else b. -/
  | sel (g : Bool) (d a b c : Spec)
  /-- LEA (R118): Push a + (b << f). -/
  | lea (g : Bool) (d a b : Spec) (f : BitVec 6)
  /-- FADD (R119): FP32 add in the given rounding mode. -/
  | fadd (g : Bool) (d a b : Spec) (rm : BitVec 2)
  /-- FSUB (R119): FP32 subtract in the given rounding mode. -/
  | fsub (g : Bool) (d a b : Spec) (rm : BitVec 2)
  /-- FMUL (R119): FP32 multiply in the given rounding mode. -/
  | fmul (g : Bool) (d a b : Spec) (rm : BitVec 2)
  /-- FMA (R119): FP32 fused multiply-add, rounded once in RNE. -/
  | fma (g : Bool) (d a b c : Spec)
  /-- FMIN (R119): FP32 minimum. -/
  | fmin (g : Bool) (d a b : Spec)
  /-- FMAX (R119): FP32 maximum. -/
  | fmax (g : Bool) (d a b : Spec)
  /-- FCMP (R120): FP32 compare under a condition, pushing 1 or 0. -/
  | fcmp (g : Bool) (d a b : Spec) (cond : BitVec 3)
  /-- FCVTF (R121): Convert an integer to FP32. -/
  | fcvtf (g : Bool) (d a : Spec) (t rm : BitVec 2)
  /-- FCVTI (R121): Convert FP32 to an integer. -/
  | fcvti (g : Bool) (d a : Spec) (t rm : BitVec 2)
  /-- FABS (R119): FP32 absolute value. -/
  | fabs (g : Bool) (d a : Spec)
  /-- FNEG (R119): FP32 negation. -/
  | fneg (g : Bool) (d a : Spec)
  /-- LD (R219): Load 1, 2, 4 or 8 bytes into a named register. -/
  | ld (g : Bool) (d base : Spec) (size : BitVec 2) (sx : Bool) (off : BitVec 9)
  /-- ST (R219): Store 1, 2, 4 or 8 bytes. -/
  | st (g : Bool) (src base : Spec) (size : BitVec 2) (off : BitVec 9)
  /-- LDA (R349): Load with acquire at the given scope. -/
  | lda (g : Bool) (d base : Spec) (size : BitVec 2) (sx : Bool) (scope : BitVec 3)
  /-- STL (R350): Drain at the given scope, then store. -/
  | stl (g : Bool) (src base : Spec) (size : BitVec 2) (scope : BitVec 3)
  /-- LDFE (R220): Wait for a FULL word, load it and make it EMPTY. -/
  | ldfe (g : Bool) (d base : Spec) (size : BitVec 2) (sx : Bool) (off : BitVec 9)
  /-- LDFF (R220): Wait for a FULL word and load it, leaving it FULL. -/
  | ldff (g : Bool) (d base : Spec) (size : BitVec 2) (sx : Bool) (off : BitVec 9)
  /-- STEF (R220): Wait for an EMPTY word, store and make it FULL. -/
  | stef (g : Bool) (src base : Spec) (size : BitVec 2) (off : BitVec 9)
  /-- STFF (R220): Store and make the word FULL unconditionally. -/
  | stff (g : Bool) (src base : Spec) (size : BitVec 2) (off : BitVec 9)
  /-- FEINIT (R221): Set a run of scratch words EMPTY or FULL. -/
  | feinit (g : Bool) (cnt base : Spec) (st : Bool)
  /-- VLD (R222): Load a 16-row tile into a vector register. -/
  | vld (g : Bool) (v base stride : Spec) (step : BitVec 6)
  /-- VST (R222): Store a vector register as 16 rows. -/
  | vst (g : Bool) (v base stride : Spec) (step : BitVec 6)
  /-- VLDW (R222): Wait until all 512 words are FULL, then load the tile. -/
  | vldw (g : Bool) (v base stride : Spec) (step : BitVec 6)
  /-- VSTF (R222): Store a tile and make each word FULL. -/
  | vstf (g : Bool) (v base stride : Spec) (step : BitVec 6)
  /-- LDNB (R357): Load not before a meridian time. -/
  | ldnb (g : Bool) (d base time : Spec) (size : BitVec 2) (strict : Bool)
  /-- STT (R357): Store in transit, performed at a meridian time. -/
  | stt (g : Bool) (src base time : Spec) (size : BitVec 2) (strict : Bool)
  /-- WAITA (R362): Wait until a memory word meets a condition against an expected value. -/
  | waita (g : Bool) (d addr opd : Spec) (dbl : Bool) (cond : BitVec 4)
  /-- FENCE (R347): Order the context's die-homed accesses at a scope. -/
  | fence (g : Bool) (scope : BitVec 3)
  /-- DRAIN (R348): Hold issue until every earlier access is performed at a scope. -/
  | drain (g : Bool) (scope : BitVec 3)
  /-- PERSIST (R310): Drain, then hold until covered SCM writes are persistent. -/
  | persist (g : Bool) (scope : BitVec 3)
  /-- PREF (R309): Prefetch a line in the background without faulting. -/
  | pref (g : Bool) (hint : Bool) (base : Spec) (size : BitVec 2) (off : BitVec 9)
  /-- CFLUSH (R224): Write back and invalidate a line of the cluster cache. -/
  | cflush (g : Bool) (base : Spec) (off : BitVec 9)
  /-- AFADD (R330): Atomic fetch-and-add at home. -/
  | afadd (g : Bool) (d addr opd : Spec) (dbl : Bool)
  /-- AFADDF (R331): Add a floating-point operand exactly into an exact-sum cell. -/
  | afaddf (g : Bool) (d addr opd : Spec) (size : BitVec 2)
  /-- AFMIN (R330): Atomic fetch-and-minimum, signed. -/
  | afmin (g : Bool) (d addr opd : Spec) (dbl : Bool)
  /-- AFMAX (R330): Atomic fetch-and-maximum, signed. -/
  | afmax (g : Bool) (d addr opd : Spec) (dbl : Bool)
  /-- AFAND (R330): Atomic fetch-and-AND. -/
  | afand (g : Bool) (d addr opd : Spec) (dbl : Bool)
  /-- AFOR (R330): Atomic fetch-and-OR. -/
  | afor (g : Bool) (d addr opd : Spec) (dbl : Bool)
  /-- AFXOR (R330): Atomic fetch-and-XOR. -/
  | afxor (g : Bool) (d addr opd : Spec) (dbl : Bool)
  /-- AXCHG (R330): Atomic exchange. -/
  | axchg (g : Bool) (d addr opd : Spec) (dbl : Bool)
  /-- ACAS (R330): Atomic compare-and-swap against the value in n[d]. -/
  | acas (g : Bool) (d addr opd : Spec) (dbl : Bool)
  /-- FPUSH (R223): Push a 64-bit value into a FIFO bank. -/
  | fpush (g : Bool) (src : Spec) (fifo : BitVec 6)
  /-- FPOP (R223): Pop the oldest FIFO entry into a named register. -/
  | fpop (g : Bool) (d : Spec) (fifo : BitVec 6)
  /-- LDXS (R332): Read an exact-sum cell and round it to FP32. -/
  | ldxs (g : Bool) (d base : Spec) (sx : Bool) (off : BitVec 9)
  /-- VADD (R150): Elementwise add. -/
  | vadd (g : Bool) (vd va vb : Spec) (ty : BitVec 4) (rm : BitVec 2)
  /-- VSUB (R150): Elementwise subtract. -/
  | vsub (g : Bool) (vd va vb : Spec) (ty : BitVec 4) (rm : BitVec 2)
  /-- VMUL (R150): Elementwise multiply. -/
  | vmul (g : Bool) (vd va vb : Spec) (ty : BitVec 4) (rm : BitVec 2)
  /-- VFMA (R150): Elementwise fused multiply-add into vd. -/
  | vfma (g : Bool) (vd va vb : Spec) (ty : BitVec 4) (rm : BitVec 2)
  /-- VMIN (R150): Elementwise minimum. -/
  | vmin (g : Bool) (vd va vb : Spec) (ty : BitVec 4)
  /-- VMAX (R150): Elementwise maximum. -/
  | vmax (g : Bool) (vd va vb : Spec) (ty : BitVec 4)
  /-- VABS (R150): Elementwise absolute value. -/
  | vabs (g : Bool) (vd va : Spec) (ty : BitVec 4) (rm : BitVec 2)
  /-- VNEG (R150): Elementwise negation. -/
  | vneg (g : Bool) (vd va : Spec) (ty : BitVec 4) (rm : BitVec 2)
  /-- VADDS (R150): Elementwise halved sum. -/
  | vadds (g : Bool) (vd va vb : Spec) (ty : BitVec 4) (rm : BitVec 2)
  /-- VSUBS (R150): Elementwise halved difference. -/
  | vsubs (g : Bool) (vd va vb : Spec) (ty : BitVec 4) (rm : BitVec 2)
  /-- VMULH (R150): Elementwise high half of an integer product. -/
  | vmulh (g : Bool) (vd va vb : Spec) (ty : BitVec 4)
  /-- VAND (R151): Bitwise AND of registers. -/
  | vand (g : Bool) (vd va vb : Spec) (ty : BitVec 4)
  /-- VOR (R151): Bitwise OR of registers. -/
  | vor (g : Bool) (vd va vb : Spec) (ty : BitVec 4)
  /-- VXOR (R151): Bitwise XOR of registers. -/
  | vxor (g : Bool) (vd va vb : Spec) (ty : BitVec 4)
  /-- VSHL (R151): Per-lane shift left. -/
  | vshl (g : Bool) (vd va vb : Spec) (ty : BitVec 4)
  /-- VSHR (R151): Per-lane logical shift right. -/
  | vshr (g : Bool) (vd va vb : Spec) (ty : BitVec 4)
  /-- VSAR (R151): Per-lane arithmetic shift right. -/
  | vsar (g : Bool) (vd va vb : Spec) (ty : BitVec 4)
  /-- VCMP (R152): Per-lane compare writing all ones or zeros. -/
  | vcmp (g : Bool) (vd va vb : Spec) (ty : BitVec 4) (cond : BitVec 2)
  /-- VSEL (R153): Per-lane select by the sign bit of the old vd. -/
  | vsel (g : Bool) (vd va vb : Spec) (ty : BitVec 4)
  /-- VACS (R154): Add-compare-select on i16x2 lanes, writing VDEC. -/
  | vacs (g : Bool) (vd va vb : Spec)
  /-- VROTR (R156): Rotate columns within each row. -/
  | vrotr (g : Bool) (vd va n : Spec)
  /-- VROTC (R156): Rotate rows within each column. -/
  | vrotc (g : Bool) (vd va n : Spec)
  /-- VBCR (R156): Broadcast one row to all rows. -/
  | vbcr (g : Bool) (vd va n : Spec)
  /-- VBCC (R156): Broadcast one column to all columns. -/
  | vbcc (g : Bool) (vd va n : Spec)
  /-- VREDR (R161): Reduce each row by a fixed tree. -/
  | vredr (g : Bool) (vd va : Spec) (sat : Bool) (ty : BitVec 4) (kind : BitVec 2)
  /-- VREDC (R161): Reduce each column by a fixed tree. -/
  | vredc (g : Bool) (vd va : Spec) (sat : Bool) (ty : BitVec 4) (kind : BitVec 2)
  /-- VSHUF (R157): Permute lanes within each row by index. -/
  | vshuf (g : Bool) (vd va vb : Spec) (ty : BitVec 4)
  /-- VTRN (R158): Transpose the four 16 × 16 blocks. -/
  | vtrn (g : Bool) (vd va : Spec)
  /-- VMOV (R159): Copy a vector register. -/
  | vmov (g : Bool) (vd va : Spec)
  /-- VSPLAT (R159): Copy a scalar bit pattern into every lane. -/
  | vsplat (g : Bool) (vd src : Spec) (ty : BitVec 4)
  /-- VINS (R160): Write one lane of vd from a scalar. -/
  | vins (g : Bool) (vd idx src : Spec) (ty : BitVec 4)
  /-- VEXT (R160): Extract one lane into a named register. -/
  | vext (g : Bool) (d va idx : Spec) (ty : BitVec 4)
  /-- VIOTA (R159): Set each lane to its lane index. -/
  | viota (g : Bool) (vd : Spec) (ty : BitVec 4)
  /-- VCVT (R162): Convert lanes between types. -/
  | vcvt (g : Bool) (vd va : Spec) (dst ty : BitVec 4) (rm : BitVec 2)
  /-- VDECMV (R155): Move 64 decision bits of VDEC into a named register. -/
  | vdecmv (g : Bool) (d row : Spec) (half : Bool)
  /-- VEXP2 (R166): Per-lane base-2 exponential by the reference algorithm. -/
  | vexp2 (g : Bool) (vd va : Spec)
  /-- VLOG2 (R167): Per-lane base-2 logarithm by the reference algorithm. -/
  | vlog2 (g : Bool) (vd va : Spec)
  /-- VRCP (R168): Per-lane reciprocal by the reference algorithm. -/
  | vrcp (g : Bool) (vd va : Spec)
  /-- VRSQ (R169): Per-lane reciprocal square root by the reference algorithm. -/
  | vrsq (g : Bool) (vd va : Spec)
  /-- VECTOR_FILL (R144): An invalid vector register slot is filled from the save area on the core's fill path. -/
  | vectorFill (cx r : Nat)
  /-- VECTOR_EARLY_WRITEBACK (R145): The hardware writes a dirty vector slot back early and keeps it valid. -/
  | vectorEarlyWriteback (cx r : Nat)
  /-- MBEAT (R187): Queue a matrix beat with push, wload, wswap and out-action. -/
  | mbeat (g : Bool) (push : Bool) (kind : BitVec 2) (src : Spec) (out : BitVec 2) (bank : BitVec 3) (row : BitVec 7) (wload wswap : Bool)
  /-- MWSEL (R188): Select a weight-buffer half, reset the row pointer and empty the other half. -/
  | mwsel (g : Bool) (h : Bool)
  /-- MMODE (R189): Set the array's three formats when the pipeline is empty. -/
  | mmode (g : Bool) (afmt wfmt dfmt : BitVec 4)
  /-- BEAT (R178): The array performs one beat: fetch, wload, wswap, push and the out-action of the emerging row. -/
  | beat (cx : Nat)
  /-- KIND1_FETCH (R182): A kind-1 MBEAT's fetch of a FULL scratch pitch begins. -/
  | kind1Fetch (cx : Nat)
  /-- AGET (R191): Read accumulator rows into a vector register, converting as cvt selects. -/
  | aget (g : Bool) (vd : Spec) (bank : BitVec 3) (row : BitVec 7) (cvt : BitVec 4) (rm : BitVec 2)
  /-- APUT (R191): Write eight accumulator rows from a vector register. -/
  | aput (g : Bool) (vd : Spec) (bank : BitVec 3) (row : BitVec 7) (cvt : BitVec 4)
  /-- APUTA (R191): Add a vector register into eight accumulator rows. -/
  | aputa (g : Bool) (vd : Spec) (bank : BitVec 3) (row : BitVec 7) (cvt : BitVec 4)
  /-- ACLR (R191): Clear eight accumulator rows. -/
  | aclr (g : Bool) (bank : BitVec 3) (row : BitVec 7)
  /-- CONDITIONED_OP_PERFORM (R209): A parked conditioned op, FIFO push or pop performs in the first cycle its condition holds. -/
  | conditionedOpPerform (cx slot : Nat)
  /-- CPY (R251): Place a copy descriptor on a copy-engine channel. -/
  | cpy (g : Bool) (t : Tail) (desc : Spec) (ch : BitVec 4)
  /-- STAGE (R252): Add to the launch's stage counter in the cluster. -/
  | stage (g : Bool) (t : Tail) (inc : Spec)
  /-- RINIT (R253): Set up a ring from a descriptor once no copy is bound to it. -/
  | rinit (g : Bool) (t : Tail) (desc cons : Spec) (ring : BitVec 5)
  /-- RAWAIT (R240): Wait for a filled ring slot and return its slot word. -/
  | rawait (g : Bool) (t : Tail) (d : Spec) (ring : BitVec 5)
  /-- RREL (R240): Release a ring slot, freeing it when every consumer has released. -/
  | rrel (g : Bool) (t : Tail) (word : Spec) (ring : BitVec 5)
  /-- LEASE (R275): Request an engine of a kind at a priority into a free lease slot. -/
  | lease (g : Bool) (t : Tail) (d : Spec) (kind : BitVec 3) (prio : BitVec 2)
  /-- LCMD (R276): Queue a command descriptor to a held lease. -/
  | lcmd (g : Bool) (t : Tail) (h desc : Spec)
  /-- UNLEASE (R277): End a lease after its commands, or free a lost slot. -/
  | unlease (g : Bool) (t : Tail) (h : Spec)
  /-- LWARM (R278): Register or withdraw a warm request for an engine kind. -/
  | lwarm (g : Bool) (t : Tail) (kind : BitVec 3) (keep : Bool)
  /-- LAUNCH (R379): Add a launch record to a device queue. -/
  | launch (g : Bool) (t : Tail) (rec : Spec) (q : BitVec 7)
  /-- WSTR (R255): Hand a weight stream to a DCX lease to fill a weight-buffer half. -/
  | wstr (g : Bool) (t : Tail) (h sdesc : Spec) (half : Bool)
  /-- BANKCFG (R214): Switch a set of cluster banks to a new mode. -/
  | bankcfg (g : Bool) (t : Tail) (mask : Spec) (mode : BitVec 2)
  /-- TLOAD (R256): Load template entries into the context's window. -/
  | tload (g : Bool) (t : Tail) (src first : Spec) (count : BitVec 9)
  /-- PINWIN (R288): Pin a physical window into its slice. -/
  | pinwin (g : Bool) (t : Tail) (base size d : Spec)
  /-- UNPIN (R289): Release a pin named by its handle. -/
  | unpin (g : Bool) (t : Tail) (h : Spec)
  /-- SWAPPG (R293): Start a swap pair exchanging a far and a near granule. -/
  | swappg (g : Bool) (t : Tail) (far near d : Spec)
  /-- TLBINV (R307): Invalidate TLB and walk-cache entries by page, ASID or all. -/
  | tlbinv (g : Bool) (t : Tail) (va asid : Spec) (mode : BitVec 2)
  /-- MAPWIN (R323): Replace a reduction window descriptor in every router of the domain. -/
  | mapwin (g : Bool) (t : Tail) (base size : Spec) (w : BitVec 4) (exact : Bool)
  /-- BANK_SWITCH_COMPLETE (R215): The bank controller finishes a mode switch after write-backs and parity removal. -/
  | bankSwitchComplete (cl : Nat)
  /-- COPY_BEGIN (R225): A copy or playbook entry begins on its channel after the previous command, reading its descriptor. -/
  | copyBegin (cl ch : Nat)
  /-- RING_SLOT_BIND (R239): A ring copy binds to the slot at WP once the ring is valid and its credit fits. -/
  | ringSlotBind (cl ch : Nat)
  /-- COPY_COMPLETE (R230): A copy completes or fails, crediting its ring and completing its token and flag. -/
  | copyComplete (cl ch : Nat)
  /-- PLAYBOOK_ENTRY_START (R243): A playbook entry starts once the stage counter reaches its STAGE and the previous entry has started. -/
  | playbookEntryStart (cl l : Nat)
  /-- RAWAIT_RETURN (R254): A waiting RAWAIT's condition holds and its slot word is written 4 cy later. -/
  | rawaitReturn (cx : Nat)
  /-- WEIGHT_STREAM_WRITE (R248): A DCX begins writing a weight-buffer half once it is EMPTY and sets it FULL when done. -/
  | weightStreamWrite (die eng : Nat)
  /-- BENCH_ARRIVAL (R262): A lease request reaches its kind's bench 16 ns after its LEASE starts. -/
  | benchArrival (die id : Nat)
  /-- HOLD_THRESHOLD_PASSED (R263): A lease passing 8,192 ns of hold becomes a substitution candidate and the arbiter acts. -/
  | holdThresholdPassed (die eng : Nat)
  /-- LEASE_GRANT (R263): After the wake time a reserved engine is granted, the handle written and the LEASE token completed. -/
  | leaseGrant (die eng : Nat)
  /-- ENGINE_WAKE_END (R259): An engine woken for a warm request becomes warm 2,048 ns later. -/
  | engineWakeEnd (die eng : Nat)
  /-- WARM_ENGINE_SLEEP (R259): A warm engine not held warm falls asleep after 50 µs without a lease. -/
  | warmEngineSleep (die eng : Nat)
  /-- DCX_DECODE (R267): A DCX command decodes a weight stream to memory. -/
  | dcxDecode (die eng : Nat)
  /-- SRT_SORT (R268): An SRT command sorts keys and writes the first K. -/
  | srtSort (die eng : Nat)
  /-- GSX_GATHER (R269): A GSX command gathers elements by an index list. -/
  | gsxGather (die eng : Nat)
  /-- GSX_SCATTER (R269): A GSX command scatters elements by an index list. -/
  | gsxScatter (die eng : Nat)
  /-- SMX_SOFTMAX (R270): An SMX command computes a row softmax with running maximum. -/
  | smxSoftmax (die eng : Nat)
  /-- HSH_CRC32C (R271): An HSH command computes a CRC32C. -/
  | hshCrc32c (die eng : Nat)
  /-- HSH_SHA3_256 (R271): An HSH command computes a SHA3-256 digest. -/
  | hshSha3256 (die eng : Nat)
  /-- RED_REDUCE (R272): A RED command joins a collective reduction across its members. -/
  | redReduce (die eng : Nat)
  /-- ENGINE_COMMAND_COMPLETE (R273): A leased-engine command completes once its last write, RESULT included, is performed. -/
  | engineCommandComplete (die eng : Nat)
  /-- SLICE_FILL (R284): A line arrives in its slice from media and queued byte-masked writes merge into it. -/
  | sliceFill (q line : Nat)
  /-- PIN_FADE_TICK (R286): At each 1 ms instant every pin's fade counter is reloaded or decremented, releasing it at zero. -/
  | pinFadeTick (q : Nat)
  /-- REMAP_COUNT_UPDATE (R291): At each 1 ms instant remap-table COUNT fields are aged and sampled accesses added. -/
  | remapCountUpdate (q : Nat)
  /-- SWAP_LINE_EXCHANGE (R293): One line of a swap pair is exchanged, and after the last the remap entries swap and the record frees. -/
  | swapLineExchange (q r : Nat)
  /-- PAGE_WALK (R298): A walker reads the five-level table for an access, returning a leaf or a fault. -/
  | pageWalk (cx : Nat) (va : Word) (kind : BitVec 2)
  /-- DRAIN_COMPLETE (R348): A DRAIN completes when every covered access is performed at its scope. -/
  | drainComplete (cx : Nat)
  /-- PERSIST_COMPLETE (R310): A PERSIST completes when every covered SCM write is persistent. -/
  | persistComplete (cx : Nat)
  /-- REMOTE_ACCESS_AT_HOME (R314): A remote request arrives at its home and is performed there. -/
  | remoteAccessAtHome (p : Nat)
  /-- STORE_ACKNOWLEDGEMENT (R314): A remote store's acknowledgement reaches its issuer, making it performed for drains. -/
  | storeAcknowledgement (p : Nat)
  /-- ATOMIC_REPLY (R330): An atomic's reply reaches its issuer and writes the old value. -/
  | atomicReply (p : Nat)
  /-- SELECTIVE_ACK (R313): A target's acknowledgement bitmap arrives at a flow's source. -/
  | selectiveAck (src dst base : Nat) (bits : BitVec 64)
  /-- RETRANSMIT_TIMEOUT (R313): A packet unacknowledged for 16 µs is retransmitted. -/
  | retransmitTimeout (p : Nat)
  /-- LINK_RETRAIN (R315): A link retrains after errors, stopping for 2 µs and possibly changing width. -/
  | linkRetrain (die port lanes : Nat)
  /-- LINK_WIDTH_CHANGE (R315): Power management changes a link's width between packets. -/
  | linkWidthChange (die port lanes : Nat)
  /-- LINK_MARKED_DOWN (R315): A link failing to retrain within 1 ms is marked down and routed around. -/
  | linkMarkedDown (die port : Nat)
  /-- MULTICAST_ENTRY_WRITE (R316): A multicast table entry gets a new version, waiting while two are live. -/
  | multicastEntryWrite (die group : Nat) (ports : BitVec 10)
  /-- HUDDLE_ARRIVAL (R325): A windowed AFADD or AFADDF arriving at a router merges into, opens or bypasses a huddle entry. -/
  | huddleArrival (p : Nat)
  /-- REPLY_SPLIT (R326): A lead's reply is split among its huddle records. -/
  | replySplit (p : Nat)
  /-- HUDDLE_COPY_LOSS (R327): An ECC-protected copy of a huddle entry or record is lost. -/
  | huddleCopyLoss (die e : Nat) (rec : Option Nat)
  /-- ATOMIC_UNKNOWN_TIMEOUT (R327): A merged requester without a reply for 32 µs traps ATOMIC_UNKNOWN. -/
  | atomicUnknownTimeout (p : Nat)
  /-- MIGRATION_COUNTER_CLEAR (R319): At each 1 ms instant every migration counter is cleared. -/
  | migrationCounterClear (q : Nat)
  /-- MT_EXCHANGE (R335): Every 62.5 µs routers exchange timestamped messages and discipline meridian time. -/
  | mtExchange (die : Nat)
  /-- DISCIPLINE_LOSS (R337): A die whose offset exceeds 10 ns or which has had no exchange for 10 ms clears VALID. -/
  | disciplineLoss (die : Nat)
  /-- DISCIPLINE_REGAIN (R337): VALID is set again after the offset has stayed within 10 ns for 1 ms. -/
  | disciplineRegain (die : Nat)
  /-- TRANSIT_ACCEPT (R358): A timed request is accepted at its home's memory port and judged on time or late. -/
  | transitAccept (p : Nat)
  /-- TRANSIT_STORE_PERFORM (R358): A transit store performs when home meridian time reaches its time. -/
  | transitStorePerform (q : Nat)
  /-- LDNB_DUE_READ (R358): A not-before load reads when home meridian time reaches its time. -/
  | ldnbDueRead (q : Nat)
  /-- WAITA_REREAD (R363): A watched line is written and the waiting WAITA reads again. -/
  | waitaReread (cx : Nat)
  /-- RECORD_AT_HEAD (R370): A launch record reaches the head of its queue and is checked, rejected or waits on dependences. -/
  | recordAtHead (m q : Nat)
  /-- DEPENDENCE_SATISFIED (R372): A watched dependence word matches and the record becomes a candidate when all are satisfied. -/
  | dependenceSatisfied (m q j : Nat)
  /-- SCHEDULER_PLACEMENT (R376): The scheduler places waiting launches by effective priority at an event that may allow placement. -/
  | schedulerPlacement (m : Nat)
  /-- AGEING_STEP (R375): Every 2 ms a waiting launch's effective priority rises by one. -/
  | ageingStep (l : Nat)
  /-- STOP_RULE_TIMEOUT (R381): Entries neither waiting nor started 20 µs after the decision are held. -/
  | stopRuleTimeout (cx : Nat)
  /-- SAVE_COMPLETE (R381): The last core of a victim is saved and its cores become free. -/
  | saveComplete (l : Nat)
  /-- LAUNCH_COMPLETION (R374): A launch whose contexts have ended frees its resources, writes its event and frees its slot. -/
  | launchCompletion (l : Nat)
  /-- WATCHDOG_EXPIRY (R384): A launch's budget reaches 0 and its partition is reset. -/
  | watchdogExpiry (l : Nat)
  /-- QUEUE_ENABLE (R365): A write of EN enables or disables a hardware queue. -/
  | queueEnable (m q : Nat) (en : Bool)
  /-- TAIL_DOORBELL (R366): A host write of TAIL adds records to a queue if accepted. -/
  | tailDoorbell (m q : Nat) (tail : BitVec 32)
  /-- PREEMPT_WRITE (R380): A write of PREEMPT pre-empts the queue's pre-emptible running launches. -/
  | preemptWrite (m q : Nat)
  /-- PMASK_WRITE (R364): A write of a partition mask takes effect only while the partition is idle. -/
  | pmaskWrite (m p : Nat) (v : Word)
  /-- CURRENT_LIMITER_TICK (R393): Every 1 µs a cluster's current limiter raises or lowers its level L. -/
  | currentLimiterTick (cl : Nat) (sense : Sense)
  /-- ARBITER_INTERVAL (R397): At each 10 µs instant a cluster's arbiter computes its target step and starts a move. -/
  | arbiterInterval (cl : Nat)
  /-- MOVE_COMPLETE (R395): A frequency move ends and the cluster runs at the target step. -/
  | moveComplete (cl : Nat)
  /-- POWER_MAILBOX_WRITE (R396): The management controller writes a cluster's power mailbox. -/
  | powerMailboxWrite (cl : Nat) (step : BitVec 5)
  /-- THERMAL_TRIP (R398): A sensor reading 110 °C moves every cluster of the die to step 0. -/
  | thermalTrip (die : Nat)
  /-- THERMAL_TRIP_CLEAR (R398): Management clears a thermal trip. -/
  | thermalTripClear (die : Nat)
  /-- GROUP_ANNOUNCEMENT (R399): A throttle-group member receives the leader's step announcement. -/
  | groupAnnouncement (cl : Nat) (step : BitVec 5) (mtApply : Nat)
  /-- GROUP_STEP_APPLY (R399): A member cluster starts its move to the group step when its meridian time reaches MT_apply. -/
  | groupStepApply (cl : Nat)
  /-- HBM_TEMPERATURE_READ (R403): Every 1 ms a stack controller reads its temperature and sets its refresh row. -/
  | hbmTemperatureRead (q : Nat) (temp : Int)
  /-- COOLANT_LIMIT (R402): Coolant inlet or flow crosses a rated limit, lowering caps or forcing a halt. -/
  | coolantLimit (m : Nat) (c : CoolantReading)
  /-- POWER_COMPARATOR_INTERVAL (R435): At each 10 µs interval the module power comparator lowers current caps if input power exceeds LIMIT. -/
  | powerComparatorInterval (m watts : Nat)
  /-- SCRATCH_WORD_ERROR (R210): An uncorrectable error poisons a scratch word. -/
  | scratchWordError (cl w : Nat)
  /-- TAG_ARRAY_ERROR (R210): An uncorrectable tag-array error poisons words and sets them FULL. -/
  | tagArrayError (cl w n : Nat)
  /-- MEDIA_ERROR (R308): An uncorrectable error in media or a slice poisons a 128 B line. -/
  | mediaError (line : Nat)
  /-- REGISTER_FILE_ERROR (R413): An uncorrectable vector register file error is detected at read. -/
  | registerFileError (cx r : Nat)
  /-- ACCUMULATOR_ROW_ERROR (R192): An uncorrectable accumulator row error is detected at read. -/
  | accumulatorRowError (core row : Nat)
  /-- RESIDUE_MISMATCH (R179): A column sum fails its mod-3 residue check at the beat. -/
  | residueMismatch (core : Nat)
  /-- QUEUE_PARITY_ERROR (R413): A parity error is found in a streaming queue entry at execution. -/
  | queueParityError (cx slot : Nat)
  /-- BROWN_OUT (R428): Input between 30 and 40 V for 20 µs starts a brown-out. -/
  | brownOut (m volts : Nat)
  /-- DIE_SHED (R428): Every 100 µs during a brown-out one more die is shed. -/
  | dieShed (m : Nat)
  /-- DIE_RESTORE (R428): Every 1 ms after the input recovers one shed die is restored and serves its due transit entries. -/
  | dieRestore (m : Nat)
  /-- PWR_HALT (R419): A power failure stops, saves and drains the module into SCM and seals the manifest. -/
  | pwrHalt (m : Nat) (cause : HaltCause)
  /-- RESTART (R425): After input holds 48 V for 100 ms the controller verifies the seal and restores or cold-starts. -/
  | restart (m : Nat) (sealOk : Bool) (mt : Option Nat)
  /-- RESERVE_READY (R417): The reserve reaches the dispatch threshold and dispatch may proceed. -/
  | reserveReady (m : Nat)
  /-- PARKED_RETRY (R430): A requester answered PARKED retries every 1 µs. -/
  | parkedRetry (p : Nat)
  /-- PARKED_TIMEOUT (R430): An access still parked after 50 ms traps ACCESS_PEER or fails its command. -/
  | parkedTimeout (p : Nat)
  /-- HOST_MEMORY_ACCESS (R431): A host CXL.mem access through an HDM window is performed at the home slice. -/
  | hostMemoryAccess (m : Nat) (w : HostSide) (off : Nat) (write : Bool) (data : List Byte)
  /-- CXL_LINK_DOWN (R434): The CXL link goes down, refusing host accesses and ending host watches. -/
  | cxlLinkDown (m : Nat)
  /-- DMA_WINDOW_WRITE (R433): A host write changes a DMA window for accesses sent afterwards. -/
  | dmaWindowWrite (m w : Nat) (hi : Bool) (v : Word)
  /-- PWRLIM_WRITE (R435): A host write sets the module power limit, clamped to 1,000–4,800 W. -/
  | pwrlimWrite (m : Nat) (v : Word)
  /-- WRITE_IMAGE (R442): A mailbox command writes a chunk of the firmware image and clears pending. -/
  | writeImage (m off : Nat) (chunk : ImageChunk)
  /-- ACTIVATE (R441): A mailbox command resets the controller to verify and start the pending image. -/
  | activate (m : Nat) (sigs : Signatures) (secVer imgVer : Nat)
  /-- WRITE_RECORD (R440): A mailbox command stores a signed configuration record. -/
  | writeRecord (m : Nat) (r : ConfigRecord)
  /-- READ_LOG (R437): A mailbox command returns event log records from a sequence number. -/
  | readLog (m seq : Nat)
  /-- READ_LIFETIME (R438): A mailbox command returns the lifetime record. -/
  | readLifetime (m : Nat)
  /-- PLAIN_HALT (R416): A debug halt stops issue at the next bundle boundary while streaming work runs on. -/
  | plainHalt (tgt : HaltTarget)
  /-- QUIESCED_HALT (R416): A debug halt stops issue and waits until started work has completed. -/
  | quiescedHalt (tgt : HaltTarget)
  /-- RESUME (R442): A mailbox command ends a debug halt. -/
  | resume (tgt : HaltTarget)
  /-- CLEAR_RETIREMENT (R442): A mailbox command returns a retired core to service. -/
  | clearRetirement (core : Nat)
  /-- BRING_UP (R443): After input holds 48 V for 100 ms the module verifies firmware, trains, and enables CXL. -/
  | bringUp (m : Nat) (mt : Option Nat)
  /-- CAP_AND_BOOST_WRITE (R397): The management controller sets a cluster's boost grant, thermal cap, current cap or group cap, firmware raising the current cap again after the limiter lowered it. -/
  | capAndBoostWrite (cl : Nat) (kind : CapKind) (step : BitVec 5)
  /-- EXTERNAL_REFERENCE_CHANGE (R335): The grandmaster gains or loses its external IEEE 1588 or 1PPS reference on the management port, with the TAI time in ns that it gives, changing its discipline and MTSKEW.EXT. -/
  | externalReferenceChange (ref : Option Nat)
  /-- CXL_LINK_TRAIN (R431): The CXL link trains, possibly at a lower rate or width, so that host accesses are no longer refused for a link that is down. -/
  | cxlLinkTrain (m lanes rate : Nat)
  deriving DecidableEq, Repr

end Sys2Proof
end

