-- ==== Sys2Proof/WellFormed.lean ====
section
/-!
DEFINITION. Which instructions are well formed: the reserved codes and the illegal destination specifiers of
01 R25–R33 and of each op's own rule. What depends on the context that runs a bundle (allotments, stickiness,
privilege) is checked at issue (01 R52).
-/

namespace Sys2Proof

/-- A destination specifier of 16–47: a named register (R27). -/
def isNamed (d : Spec) : Bool := 16 ≤ d.toNat && d.toNat ≤ 47

/-- A legal destination specifier: push only, or a named register (R27). -/
def isDest (d : Spec) : Bool := d == 0 || isNamed d

/-- The system registers of R88; every other number is reserved. -/
def sysRegKnown (n : BitVec 12) : Bool :=
  let k := n.toNat
  k ≤ 0xC || k == 0x10 || k == 0x11 || (0x20 ≤ k && k ≤ 0x23) || k == 0x30 || k == 0x31 ||
    k == 0x40 || k == 0x41 || (0x100 ≤ k && k ≤ 0x12F)

/-- A type code that names a type (R30). -/
def tyOk (t : BitVec 4) : Bool := t.toNat ≤ 10

/-- The float types f32, bf16x2 and f16x2 (R139). -/
def tyFloat (t : BitVec 4) : Bool := t == 0 || t == 3 || t == 4

/-- The fp8 types e4m3x4 and e5m2x4 (R139). -/
def tyFp8 (t : BitVec 4) : Bool := t == 9 || t == 10

/-- The six integer types (R139). -/
def tyInt (t : BitVec 4) : Bool := t == 1 || t == 2 || t == 5 || t == 6 || t == 7 || t == 8

/-- The group of a matrix format code (R174): FP8, integer, MX-8/6, MX-4, 16-bit; none when reserved (R31). -/
def matGroup (f : BitVec 4) : Option Nat :=
  match f.toNat with
  | 0 | 1 => some 0
  | 2 | 10 => some 1
  | 3 | 4 | 5 | 6 => some 2
  | 7 => some 3
  | 8 | 9 => some 4
  | _ => none

/-- The legal combinations of formats (R174): one group; in the integer group dfmt equals afmt. -/
def mmodeOk (a w d : BitVec 4) : Bool :=
  match matGroup a with
  | none => false
  | some k => matGroup w == some k && matGroup d == some k && (k != 1 || d == a)

/-- The flag number is reserved when the flag enable bit is 0 (R33). -/
def Tail.wf (t : Tail) : Bool := t.fen || t.fnum == 0

/-- How many parcel words follow a header (R21). -/
def bundleWords (hdr : W32) : Nat :=
  let bit := fun k => (hdr.getLsbD k).toNat
  bit 0 + bit 1 + bit 2 + bit 3 + bit 4 + bit 5 + bit 6 + 2 * bit 7

/-- An instruction all of whose fields hold codes the spec defines. -/
def Instr.wf : Instr → Bool
  | .fullBundle hdr words => !hdr.getLsbD 15 && words.length == bundleWords hdr
  | .tcall .. => true
  | .contextSwitch .. => true
  | .quantumExpiry .. => true
  | .streamingEntryStart .. => true
  | .streamingWrite .. => true
  | .divideComplete .. => true
  | .trapEntry .. => true
  | .retirementComplete .. => true
  | .commandCompletion .. => true
  | .savebaseWrite .. => true
  | .flagsWrite .. => true
  | .engfailWrite .. => true
  | .fpstatusWrite .. => true
  | .pnWrite .. => true
  | .ewtableWrite .. => true
  | .registerWrite .. => true
  | .br _ _ => true
  | .call _ _ => true
  | .jmp _ _ => true
  | .ret _ => true
  | .loop _ _ len => len != 0
  | .brx _ _ => true
  | .fencei _ => true
  | .waitf _ _ => true
  | .peekf _ _ => true
  | .setf _ _ => true
  | .clrf _ _ => true
  | .yield _ => true
  | .exit _ => true
  | .trap _ _ => true
  | .rft _ => true
  | .mfs _ sr d => sysRegKnown sr && isNamed d
  | .mts _ sr _ => sysRegKnown sr
  | .bkpt _ _ => true
  | .pwrreq _ _ => true
  | .await _ _ => true
  | .twait _ _ => true
  | .ckpt _ => true
  | .nopCtl _ => true
  | .nopSa _ => true
  | .nopSb _ => true
  | .nopMem _ => true
  | .nopVec _ => true
  | .nopMx _ => true
  | .nopAcc _ => true
  | .nopEng _ => true
  | .add _ d _ _ => isDest d
  | .sub _ d _ _ => isDest d
  | .addi _ d _ _ => isDest d
  | .mul _ d _ _ => isDest d
  | .mulh _ d _ _ => isDest d
  | .mulhw _ d _ _ => isDest d
  | .div _ d _ _ => isDest d
  | .divw _ d _ _ => isDest d
  | .rem _ d _ _ => isDest d
  | .remw _ d _ _ => isDest d
  | .min _ d _ _ => isDest d
  | .max _ d _ _ => isDest d
  | .minw _ d _ _ => isDest d
  | .maxw _ d _ _ => isDest d
  | .abs _ d _ => isDest d
  | .and _ d _ _ => isDest d
  | .or _ d _ _ => isDest d
  | .xor _ d _ _ => isDest d
  | .andn _ d _ _ => isDest d
  | .orn _ d _ _ => isDest d
  | .andi _ d _ _ => isDest d
  | .ori _ d _ _ => isDest d
  | .xori _ d _ _ => isDest d
  | .shl _ d _ _ => isDest d
  | .shr _ d _ _ => isDest d
  | .sar _ d _ _ => isDest d
  | .rol _ d _ _ => isDest d
  | .shli _ d _ _ => isDest d
  | .shri _ d _ _ => isDest d
  | .sari _ d _ _ => isDest d
  | .roli _ d _ _ => isDest d
  | .ceq _ d _ _ => isDest d
  | .cne _ d _ _ => isDest d
  | .clt _ d _ _ => isDest d
  | .cle _ d _ _ => isDest d
  | .cltw _ d _ _ => isDest d
  | .clew _ d _ _ => isDest d
  | .ceqi _ d _ _ => isDest d
  | .clti _ d _ _ => isDest d
  | .clz _ d _ => isDest d
  | .ctz _ d _ => isDest d
  | .popc _ d _ => isDest d
  | .brev _ d _ => isDest d
  | .bswap _ d _ => isDest d
  | .exts _ d _ len pos => isDest d && len != 0 && pos.toNat + len.toNat ≤ 64
  | .extz _ d _ len pos => isDest d && len != 0 && pos.toNat + len.toNat ≤ 64
  | .ins _ d _ _ _ => isDest d
  | .bperm _ d _ _ _ => isDest d
  | .bset _ d _ _ => isDest d
  | .bclr _ d _ _ => isDest d
  | .btst _ d _ _ => isDest d
  | .bflip _ d _ _ => isDest d
  | .mov _ d _ => isDest d
  | .movz _ d _ _ => isDest d
  | .movk _ d _ _ => isNamed d
  | .sel _ d _ _ _ => isDest d
  | .lea _ d _ _ f => isDest d && f.toNat ≤ 6
  | .fadd _ d _ _ _ => isDest d
  | .fsub _ d _ _ _ => isDest d
  | .fmul _ d _ _ _ => isDest d
  | .fma _ d _ _ _ => isDest d
  | .fmin _ d _ _ => isDest d
  | .fmax _ d _ _ => isDest d
  | .fcmp _ d _ _ _ => isDest d
  | .fcvtf _ d _ _ _ => isDest d
  | .fcvti _ d _ _ _ => isDest d
  | .fabs _ d _ => isDest d
  | .fneg _ d _ => isDest d
  | .ld _ d _ size sx _ => isNamed d && (!sx || size != 3)
  | .st _ _ _ _ _ => true
  | .lda _ d _ size sx _ => isNamed d && (!sx || size != 3)
  | .stl _ _ _ _ _ => true
  | .ldfe _ d _ size sx _ => isNamed d && (!sx || size != 3)
  | .ldff _ d _ size sx _ => isNamed d && (!sx || size != 3)
  | .stef _ _ _ _ _ => true
  | .stff _ _ _ _ _ => true
  | .feinit _ _ _ _ => true
  | .vld _ _ _ _ _ => true
  | .vst _ _ _ _ _ => true
  | .vldw _ _ _ _ _ => true
  | .vstf _ _ _ _ _ => true
  | .ldnb _ d _ _ _ _ => isNamed d
  | .stt _ _ _ _ _ _ => true
  | .waita _ d _ _ _ cond => isDest d && cond.toNat ≤ 9
  | .fence _ _ => true
  | .drain _ _ => true
  | .persist _ _ => true
  | .pref _ _ _ _ _ => true
  | .cflush _ _ _ => true
  | .afadd _ d _ _ _ => isDest d
  | .afaddf _ d _ _ size => isDest d && size != 3
  | .afmin _ d _ _ _ => isDest d
  | .afmax _ d _ _ _ => isDest d
  | .afand _ d _ _ _ => isDest d
  | .afor _ d _ _ _ => isDest d
  | .afxor _ d _ _ _ => isDest d
  | .axchg _ d _ _ _ => isDest d
  | .acas _ d _ _ _ => isNamed d
  | .fpush _ _ fifo => fifo.toNat < 32
  | .fpop _ d fifo => isNamed d && fifo.toNat < 32
  | .ldxs _ d _ _ _ => isNamed d
  | .vadd _ _ _ _ ty rm => (tyFloat ty || (tyInt ty && rm.toNat < 2))
  | .vsub _ _ _ _ ty rm => (tyFloat ty || (tyInt ty && rm.toNat < 2))
  | .vmul _ _ _ _ ty rm => (tyFloat ty || (tyInt ty && rm.toNat < 2))
  | .vfma _ _ _ _ ty rm => (tyFloat ty || (tyInt ty && rm.toNat < 2))
  | .vmin _ _ _ _ ty => tyOk ty
  | .vmax _ _ _ _ ty => tyOk ty
  | .vabs _ _ _ ty rm => tyOk ty && (rm == 0 || (tyInt ty && rm == 1))
  | .vneg _ _ _ ty rm => tyOk ty && (rm == 0 || (tyInt ty && rm == 1))
  | .vadds _ _ _ _ ty rm => (tyFloat ty || (tyInt ty && rm == 0))
  | .vsubs _ _ _ _ ty rm => (tyFloat ty || (tyInt ty && rm == 0))
  | .vmulh _ _ _ _ ty => tyInt ty
  | .vand _ _ _ _ ty => tyOk ty
  | .vor _ _ _ _ ty => tyOk ty
  | .vxor _ _ _ _ ty => tyOk ty
  | .vshl _ _ _ _ ty => tyInt ty
  | .vshr _ _ _ _ ty => tyInt ty
  | .vsar _ _ _ _ ty => tyInt ty
  | .vcmp _ _ _ _ ty _ => tyOk ty
  | .vsel _ _ _ _ ty => tyOk ty
  | .vacs _ _ _ _ => true
  | .vrotr _ _ _ _ => true
  | .vrotc _ _ _ _ => true
  | .vbcr _ _ _ _ => true
  | .vbcc _ _ _ _ => true
  | .vredr _ _ _ sat ty kind => kind != 3 && (tyInt ty || (tyFloat ty && !sat))
  | .vredc _ _ _ sat ty kind => kind != 3 && (tyInt ty || (tyFloat ty && !sat))
  | .vshuf _ _ _ _ ty => tyOk ty
  | .vtrn _ _ _ => true
  | .vmov _ _ _ => true
  | .vsplat _ _ _ ty => tyOk ty
  | .vins _ _ _ _ ty => tyOk ty
  | .vext _ d _ _ ty => isNamed d && tyOk ty
  | .viota _ _ ty => (ty == 0 || tyInt ty)
  | .vcvt _ _ _ dst ty rm => tyOk ty && tyOk dst && ty != dst && (!(tyInt ty && tyInt dst) || rm.toNat < 2)
  | .vdecmv _ d _ _ => isNamed d
  | .vexp2 _ _ _ => true
  | .vlog2 _ _ _ => true
  | .vrcp _ _ _ => true
  | .vrsq _ _ _ => true
  | .vectorFill .. => true
  | .vectorEarlyWriteback .. => true
  | .mbeat _ push kind src out bank row _ _ => kind != 3 && out != 3 && (push || (kind == 0 && src == 0)) && (out != 0 || (bank == 0 && row == 0)) && (kind != 2 || src.toNat % 8 == 0)
  | .mwsel _ _ => true
  | .mmode _ afmt wfmt dfmt => mmodeOk afmt wfmt dfmt
  | .beat .. => true
  | .kind1Fetch .. => true
  | .aget _ _ _ _ cvt rm => cvt.toNat ≤ 6 && (rm == 0 || cvt == 3 || cvt == 4 || (3 < cvt.toNat && rm == 1))
  | .aput _ _ _ _ cvt => cvt.toNat ≤ 2
  | .aputa _ _ _ _ cvt => cvt.toNat ≤ 2
  | .aclr _ _ _ => true
  | .conditionedOpPerform .. => true
  | .cpy _ t _ _ => t.wf
  | .stage _ t _ => t.wf
  | .rinit _ t _ _ _ => t.wf
  | .rawait _ t d _ => t.wf && isNamed d
  | .rrel _ t _ _ => t.wf
  | .lease _ t d kind _ => t.wf && isNamed d && kind.toNat < 6
  | .lcmd _ t _ _ => t.wf
  | .unlease _ t _ => t.wf
  | .lwarm _ t kind _ => t.wf && kind.toNat < 6
  | .launch _ t _ _ => t.wf
  | .wstr _ t _ _ _ => t.wf
  | .bankcfg _ t _ _ => t.wf
  | .tload _ t _ _ _ => t.wf
  | .pinwin _ t _ _ d => t.wf && isNamed d
  | .unpin _ t _ => t.wf
  | .swappg _ t _ _ d => t.wf && isNamed d
  | .tlbinv _ t _ _ mode => t.wf && mode != 3
  | .mapwin _ t _ _ _ _ => t.wf
  | .bankSwitchComplete .. => true
  | .copyBegin .. => true
  | .ringSlotBind .. => true
  | .copyComplete .. => true
  | .playbookEntryStart .. => true
  | .rawaitReturn .. => true
  | .weightStreamWrite .. => true
  | .benchArrival .. => true
  | .holdThresholdPassed .. => true
  | .leaseGrant .. => true
  | .engineWakeEnd .. => true
  | .warmEngineSleep .. => true
  | .dcxDecode .. => true
  | .srtSort .. => true
  | .gsxGather .. => true
  | .gsxScatter .. => true
  | .smxSoftmax .. => true
  | .hshCrc32c .. => true
  | .hshSha3256 .. => true
  | .redReduce .. => true
  | .engineCommandComplete .. => true
  | .sliceFill .. => true
  | .pinFadeTick .. => true
  | .remapCountUpdate .. => true
  | .swapLineExchange .. => true
  | .pageWalk .. => true
  | .drainComplete .. => true
  | .persistComplete .. => true
  | .remoteAccessAtHome .. => true
  | .storeAcknowledgement .. => true
  | .atomicReply .. => true
  | .selectiveAck .. => true
  | .retransmitTimeout .. => true
  | .linkRetrain .. => true
  | .linkWidthChange .. => true
  | .linkMarkedDown .. => true
  | .multicastEntryWrite .. => true
  | .huddleArrival .. => true
  | .replySplit .. => true
  | .huddleCopyLoss .. => true
  | .atomicUnknownTimeout .. => true
  | .migrationCounterClear .. => true
  | .mtExchange .. => true
  | .disciplineLoss .. => true
  | .disciplineRegain .. => true
  | .transitAccept .. => true
  | .transitStorePerform .. => true
  | .ldnbDueRead .. => true
  | .waitaReread .. => true
  | .recordAtHead .. => true
  | .dependenceSatisfied .. => true
  | .schedulerPlacement .. => true
  | .ageingStep .. => true
  | .stopRuleTimeout .. => true
  | .saveComplete .. => true
  | .launchCompletion .. => true
  | .watchdogExpiry .. => true
  | .queueEnable .. => true
  | .tailDoorbell .. => true
  | .preemptWrite .. => true
  | .pmaskWrite .. => true
  | .currentLimiterTick .. => true
  | .arbiterInterval .. => true
  | .moveComplete .. => true
  | .powerMailboxWrite .. => true
  | .thermalTrip .. => true
  | .thermalTripClear .. => true
  | .groupAnnouncement .. => true
  | .groupStepApply .. => true
  | .hbmTemperatureRead .. => true
  | .coolantLimit .. => true
  | .powerComparatorInterval .. => true
  | .scratchWordError .. => true
  | .tagArrayError .. => true
  | .mediaError .. => true
  | .registerFileError .. => true
  | .accumulatorRowError .. => true
  | .residueMismatch .. => true
  | .queueParityError .. => true
  | .brownOut .. => true
  | .dieShed .. => true
  | .dieRestore .. => true
  | .pwrHalt .. => true
  | .restart .. => true
  | .reserveReady .. => true
  | .parkedRetry .. => true
  | .parkedTimeout .. => true
  | .hostMemoryAccess .. => true
  | .cxlLinkDown .. => true
  | .dmaWindowWrite .. => true
  | .pwrlimWrite .. => true
  | .writeImage .. => true
  | .activate .. => true
  | .writeRecord .. => true
  | .readLog .. => true
  | .readLifetime .. => true
  | .plainHalt .. => true
  | .quiescedHalt .. => true
  | .resume .. => true
  | .clearRetirement .. => true
  | .bringUp .. => true
  | .capAndBoostWrite .. => true
  | .externalReferenceChange .. => true
  | .cxlLinkTrain .. => true

end Sys2Proof
end

