-- ==== Sys2Proof/Decode.lean ====
section
/-!
DEFINITION. The encodings of 01: the encoder of every parcel, the decoder of parcels slot by slot, and the
decoder of the instruction stream, which is total on any bytes and refuses by name.
-/

namespace Sys2Proof

/-- Why a word or a stream is refused. `truncated`: the bytes end inside an instruction; `illegalOp`: the opcode is
absent from its slot's map (R40); `illegalBundle`: a reserved code, a nonzero reserved field or an S1-only op in S2. -/
inductive DecErr where
  | truncated
  | illegalOp
  | illegalBundle
  deriving DecidableEq, Repr

/-- One bit as a field. -/
def bit (b : Bool) : BitVec 1 := BitVec.ofBool b

/-- Word 0 of a parcel: G in bit 31, the opcode in 30:24, 24 operand bits (R25). -/
def pk (g : Bool) (op : BitVec 7) (x : BitVec 24) : W32 := bit g ++ op ++ x

/-- Word 1 of an S7 parcel (R33). -/
def pk7 (a b c : Spec) (t : Tail) (imm : BitVec 9) : W32 := a ++ b ++ c ++ bit t.fen ++ t.fnum ++ imm

/-- The token fields of word 0 of an S7 parcel (R33). -/
def Tail.tokens (t : Tail) : BitVec 24 := t.prod ++ t.c1 ++ t.c2 ++ t.c3

def parcelG (w : W32) : Bool := w.getLsbD 31
def parcelOp (w : W32) : BitVec 7 := w.extractLsb' 24 7
def parcelX (w : W32) : BitVec 24 := w.extractLsb' 0 24

/-- The tail of an S7 parcel, read from its two words (R33). -/
def tailOf (w0 w1 : W32) : Tail :=
  { prod := w0.extractLsb' 18 6, c1 := w0.extractLsb' 12 6, c2 := w0.extractLsb' 6 6, c3 := w0.extractLsb' 0 6,
    fen := w1.getLsbD 13, fnum := w1.extractLsb' 9 4 }

/-- The words of a parcel in its slot's format (R28–R33, R77, R108, R147 and the ops' own rules); word 1 is zero
for slots S0–S6. Instructions that are no parcels have no words here. -/
def encodeParcel : Instr → W32 × W32
  | .fullBundle .. => (0#32, 0#32)
  | .tcall .. => (0#32, 0#32)
  | .contextSwitch .. => (0#32, 0#32)
  | .quantumExpiry .. => (0#32, 0#32)
  | .streamingEntryStart .. => (0#32, 0#32)
  | .streamingWrite .. => (0#32, 0#32)
  | .divideComplete .. => (0#32, 0#32)
  | .trapEntry .. => (0#32, 0#32)
  | .retirementComplete .. => (0#32, 0#32)
  | .commandCompletion .. => (0#32, 0#32)
  | .savebaseWrite .. => (0#32, 0#32)
  | .flagsWrite .. => (0#32, 0#32)
  | .engfailWrite .. => (0#32, 0#32)
  | .fpstatusWrite .. => (0#32, 0#32)
  | .pnWrite .. => (0#32, 0#32)
  | .ewtableWrite .. => (0#32, 0#32)
  | .registerWrite .. => (0#32, 0#32)
  | .br g off => (pk g 1#7 (off), 0#32)
  | .call g off => (pk g 2#7 (off), 0#32)
  | .jmp g a => (pk g 3#7 (a ++ 0#18), 0#32)
  | .ret g => (pk g 4#7 (0#24), 0#32)
  | .loop g a len => (pk g 5#7 (a ++ 0#6 ++ len), 0#32)
  | .brx g u => (pk g 6#7 (0#10 ++ u), 0#32)
  | .fencei g => (pk g 7#7 (0#24), 0#32)
  | .waitf g mask => (pk g 8#7 (0#8 ++ mask), 0#32)
  | .peekf g mask => (pk g 9#7 (0#8 ++ mask), 0#32)
  | .setf g mask => (pk g 10#7 (0#8 ++ mask), 0#32)
  | .clrf g mask => (pk g 11#7 (0#8 ++ mask), 0#32)
  | .yield g => (pk g 12#7 (0#24), 0#32)
  | .exit g => (pk g 13#7 (0#24), 0#32)
  | .trap g n => (pk g 14#7 (0#16 ++ n), 0#32)
  | .rft g => (pk g 15#7 (0#24), 0#32)
  | .mfs g sr d => (pk g 16#7 (sr ++ d ++ 0#6), 0#32)
  | .mts g sr a => (pk g 17#7 (sr ++ a ++ 0#6), 0#32)
  | .bkpt g n => (pk g 18#7 (0#16 ++ n), 0#32)
  | .pwrreq g a => (pk g 19#7 (a ++ 0#18), 0#32)
  | .await g n => (pk g 20#7 (0#20 ++ n), 0#32)
  | .twait g a => (pk g 21#7 (a ++ 0#18), 0#32)
  | .ckpt g => (pk g 22#7 (0#24), 0#32)
  | .nopCtl g => (pk g 0#7 (0#24), 0#32)
  | .nopSa g => (pk g 0#7 (0#24), 0#32)
  | .nopSb g => (pk g 0#7 (0#24), 0#32)
  | .nopMem g => (pk g 0#7 (0#24), 0#32)
  | .nopVec g => (pk g 0#7 (0#24), 0#32)
  | .nopMx g => (pk g 0#7 (0#24), 0#32)
  | .nopAcc g => (pk g 0#7 (0#24), 0#32)
  | .nopEng g => (pk g 0#7 (0#24), 0#32)
  | .add g d a b => (pk g 1#7 (d ++ a ++ b ++ 0#6), 0#32)
  | .sub g d a b => (pk g 2#7 (d ++ a ++ b ++ 0#6), 0#32)
  | .addi g d a imm => (pk g 3#7 (d ++ a ++ imm), 0#32)
  | .mul g d a b => (pk g 4#7 (d ++ a ++ b ++ 0#6), 0#32)
  | .mulh g d a b => (pk g 5#7 (d ++ a ++ b ++ 0#6), 0#32)
  | .mulhw g d a b => (pk g 6#7 (d ++ a ++ b ++ 0#6), 0#32)
  | .div g d a b => (pk g 7#7 (d ++ a ++ b ++ 0#6), 0#32)
  | .divw g d a b => (pk g 8#7 (d ++ a ++ b ++ 0#6), 0#32)
  | .rem g d a b => (pk g 9#7 (d ++ a ++ b ++ 0#6), 0#32)
  | .remw g d a b => (pk g 10#7 (d ++ a ++ b ++ 0#6), 0#32)
  | .min g d a b => (pk g 11#7 (d ++ a ++ b ++ 0#6), 0#32)
  | .max g d a b => (pk g 12#7 (d ++ a ++ b ++ 0#6), 0#32)
  | .minw g d a b => (pk g 13#7 (d ++ a ++ b ++ 0#6), 0#32)
  | .maxw g d a b => (pk g 14#7 (d ++ a ++ b ++ 0#6), 0#32)
  | .abs g d a => (pk g 15#7 (d ++ a ++ 0#12), 0#32)
  | .and g d a b => (pk g 16#7 (d ++ a ++ b ++ 0#6), 0#32)
  | .or g d a b => (pk g 17#7 (d ++ a ++ b ++ 0#6), 0#32)
  | .xor g d a b => (pk g 18#7 (d ++ a ++ b ++ 0#6), 0#32)
  | .andn g d a b => (pk g 19#7 (d ++ a ++ b ++ 0#6), 0#32)
  | .orn g d a b => (pk g 20#7 (d ++ a ++ b ++ 0#6), 0#32)
  | .andi g d a imm => (pk g 21#7 (d ++ a ++ imm), 0#32)
  | .ori g d a imm => (pk g 22#7 (d ++ a ++ imm), 0#32)
  | .xori g d a imm => (pk g 23#7 (d ++ a ++ imm), 0#32)
  | .shl g d a b => (pk g 24#7 (d ++ a ++ b ++ 0#6), 0#32)
  | .shr g d a b => (pk g 25#7 (d ++ a ++ b ++ 0#6), 0#32)
  | .sar g d a b => (pk g 26#7 (d ++ a ++ b ++ 0#6), 0#32)
  | .rol g d a b => (pk g 27#7 (d ++ a ++ b ++ 0#6), 0#32)
  | .shli g d a f => (pk g 28#7 (d ++ a ++ 0#6 ++ f), 0#32)
  | .shri g d a f => (pk g 29#7 (d ++ a ++ 0#6 ++ f), 0#32)
  | .sari g d a f => (pk g 30#7 (d ++ a ++ 0#6 ++ f), 0#32)
  | .roli g d a f => (pk g 31#7 (d ++ a ++ 0#6 ++ f), 0#32)
  | .ceq g d a b => (pk g 32#7 (d ++ a ++ b ++ 0#6), 0#32)
  | .cne g d a b => (pk g 33#7 (d ++ a ++ b ++ 0#6), 0#32)
  | .clt g d a b => (pk g 34#7 (d ++ a ++ b ++ 0#6), 0#32)
  | .cle g d a b => (pk g 35#7 (d ++ a ++ b ++ 0#6), 0#32)
  | .cltw g d a b => (pk g 36#7 (d ++ a ++ b ++ 0#6), 0#32)
  | .clew g d a b => (pk g 37#7 (d ++ a ++ b ++ 0#6), 0#32)
  | .ceqi g d a imm => (pk g 38#7 (d ++ a ++ imm), 0#32)
  | .clti g d a imm => (pk g 39#7 (d ++ a ++ imm), 0#32)
  | .clz g d a => (pk g 40#7 (d ++ a ++ 0#12), 0#32)
  | .ctz g d a => (pk g 41#7 (d ++ a ++ 0#12), 0#32)
  | .popc g d a => (pk g 42#7 (d ++ a ++ 0#12), 0#32)
  | .brev g d a => (pk g 43#7 (d ++ a ++ 0#12), 0#32)
  | .bswap g d a => (pk g 44#7 (d ++ a ++ 0#12), 0#32)
  | .exts g d a len pos => (pk g 45#7 (d ++ a ++ len ++ pos), 0#32)
  | .extz g d a len pos => (pk g 46#7 (d ++ a ++ len ++ pos), 0#32)
  | .ins g d a b c => (pk g 47#7 (d ++ a ++ b ++ c), 0#32)
  | .bperm g d a b c => (pk g 48#7 (d ++ a ++ b ++ c), 0#32)
  | .bset g d a f => (pk g 49#7 (d ++ a ++ 0#6 ++ f), 0#32)
  | .bclr g d a f => (pk g 50#7 (d ++ a ++ 0#6 ++ f), 0#32)
  | .btst g d a f => (pk g 51#7 (d ++ a ++ 0#6 ++ f), 0#32)
  | .bflip g d a f => (pk g 52#7 (d ++ a ++ 0#6 ++ f), 0#32)
  | .mov g d a => (pk g 53#7 (d ++ a ++ 0#12), 0#32)
  | .movz g d h imm => (pk g 54#7 (d ++ h ++ imm), 0#32)
  | .movk g d h imm => (pk g 55#7 (d ++ h ++ imm), 0#32)
  | .sel g d a b c => (pk g 56#7 (d ++ a ++ b ++ c), 0#32)
  | .lea g d a b f => (pk g 57#7 (d ++ a ++ b ++ f), 0#32)
  | .fadd g d a b rm => (pk g 64#7 (d ++ a ++ b ++ 0#4 ++ rm), 0#32)
  | .fsub g d a b rm => (pk g 65#7 (d ++ a ++ b ++ 0#4 ++ rm), 0#32)
  | .fmul g d a b rm => (pk g 66#7 (d ++ a ++ b ++ 0#4 ++ rm), 0#32)
  | .fma g d a b c => (pk g 67#7 (d ++ a ++ b ++ c), 0#32)
  | .fmin g d a b => (pk g 68#7 (d ++ a ++ b ++ 0#6), 0#32)
  | .fmax g d a b => (pk g 69#7 (d ++ a ++ b ++ 0#6), 0#32)
  | .fcmp g d a b cond => (pk g 70#7 (d ++ a ++ b ++ 0#3 ++ cond), 0#32)
  | .fcvtf g d a t rm => (pk g 71#7 (d ++ a ++ 0#8 ++ t ++ rm), 0#32)
  | .fcvti g d a t rm => (pk g 72#7 (d ++ a ++ 0#8 ++ t ++ rm), 0#32)
  | .fabs g d a => (pk g 73#7 (d ++ a ++ 0#12), 0#32)
  | .fneg g d a => (pk g 74#7 (d ++ a ++ 0#12), 0#32)
  | .ld g d base size sx off => (pk g 1#7 (d ++ base ++ size ++ bit sx ++ off), 0#32)
  | .st g src base size off => (pk g 2#7 (src ++ base ++ size ++ 0#1 ++ off), 0#32)
  | .lda g d base size sx scope => (pk g 3#7 (d ++ base ++ size ++ bit sx ++ scope ++ 0#6), 0#32)
  | .stl g src base size scope => (pk g 4#7 (src ++ base ++ size ++ 0#1 ++ scope ++ 0#6), 0#32)
  | .ldfe g d base size sx off => (pk g 5#7 (d ++ base ++ size ++ bit sx ++ off), 0#32)
  | .ldff g d base size sx off => (pk g 6#7 (d ++ base ++ size ++ bit sx ++ off), 0#32)
  | .stef g src base size off => (pk g 7#7 (src ++ base ++ size ++ 0#1 ++ off), 0#32)
  | .stff g src base size off => (pk g 8#7 (src ++ base ++ size ++ 0#1 ++ off), 0#32)
  | .feinit g cnt base st => (pk g 9#7 (cnt ++ base ++ 3#2 ++ 0#9 ++ bit st), 0#32)
  | .vld g v base stride step => (pk g 10#7 (v ++ base ++ stride ++ step), 0#32)
  | .vst g v base stride step => (pk g 11#7 (v ++ base ++ stride ++ step), 0#32)
  | .vldw g v base stride step => (pk g 12#7 (v ++ base ++ stride ++ step), 0#32)
  | .vstf g v base stride step => (pk g 13#7 (v ++ base ++ stride ++ step), 0#32)
  | .ldnb g d base time size strict => (pk g 14#7 (d ++ base ++ time ++ size ++ bit strict ++ 0#3), 0#32)
  | .stt g src base time size strict => (pk g 15#7 (src ++ base ++ time ++ size ++ bit strict ++ 0#3), 0#32)
  | .waita g d addr opd dbl cond => (pk g 16#7 (d ++ addr ++ opd ++ 1#1 ++ bit dbl ++ cond), 0#32)
  | .fence g scope => (pk g 17#7 (scope ++ 0#21), 0#32)
  | .drain g scope => (pk g 18#7 (scope ++ 0#21), 0#32)
  | .persist g scope => (pk g 19#7 (scope ++ 0#21), 0#32)
  | .pref g hint base size off => (pk g 20#7 (0#5 ++ bit hint ++ base ++ size ++ 0#1 ++ off), 0#32)
  | .cflush g base off => (pk g 21#7 (0#6 ++ base ++ 3#2 ++ 0#1 ++ off), 0#32)
  | .afadd g d addr opd dbl => (pk g 22#7 (d ++ addr ++ opd ++ 1#1 ++ bit dbl ++ 0#4), 0#32)
  | .afaddf g d addr opd size => (pk g 23#7 (d ++ addr ++ opd ++ size ++ 0#4), 0#32)
  | .afmin g d addr opd dbl => (pk g 24#7 (d ++ addr ++ opd ++ 1#1 ++ bit dbl ++ 0#4), 0#32)
  | .afmax g d addr opd dbl => (pk g 25#7 (d ++ addr ++ opd ++ 1#1 ++ bit dbl ++ 0#4), 0#32)
  | .afand g d addr opd dbl => (pk g 26#7 (d ++ addr ++ opd ++ 1#1 ++ bit dbl ++ 0#4), 0#32)
  | .afor g d addr opd dbl => (pk g 27#7 (d ++ addr ++ opd ++ 1#1 ++ bit dbl ++ 0#4), 0#32)
  | .afxor g d addr opd dbl => (pk g 28#7 (d ++ addr ++ opd ++ 1#1 ++ bit dbl ++ 0#4), 0#32)
  | .axchg g d addr opd dbl => (pk g 29#7 (d ++ addr ++ opd ++ 1#1 ++ bit dbl ++ 0#4), 0#32)
  | .acas g d addr opd dbl => (pk g 30#7 (d ++ addr ++ opd ++ 1#1 ++ bit dbl ++ 0#4), 0#32)
  | .fpush g src fifo => (pk g 31#7 (src ++ fifo ++ 3#2 ++ 0#10), 0#32)
  | .fpop g d fifo => (pk g 32#7 (d ++ fifo ++ 3#2 ++ 0#10), 0#32)
  | .ldxs g d base sx off => (pk g 33#7 (d ++ base ++ 2#2 ++ bit sx ++ off), 0#32)
  | .vadd g vd va vb ty rm => (pk g 1#7 (vd ++ va ++ vb ++ ty ++ rm), 0#32)
  | .vsub g vd va vb ty rm => (pk g 2#7 (vd ++ va ++ vb ++ ty ++ rm), 0#32)
  | .vmul g vd va vb ty rm => (pk g 3#7 (vd ++ va ++ vb ++ ty ++ rm), 0#32)
  | .vfma g vd va vb ty rm => (pk g 4#7 (vd ++ va ++ vb ++ ty ++ rm), 0#32)
  | .vmin g vd va vb ty => (pk g 5#7 (vd ++ va ++ vb ++ ty ++ 0#2), 0#32)
  | .vmax g vd va vb ty => (pk g 6#7 (vd ++ va ++ vb ++ ty ++ 0#2), 0#32)
  | .vabs g vd va ty rm => (pk g 7#7 (vd ++ va ++ 0#6 ++ ty ++ rm), 0#32)
  | .vneg g vd va ty rm => (pk g 8#7 (vd ++ va ++ 0#6 ++ ty ++ rm), 0#32)
  | .vadds g vd va vb ty rm => (pk g 9#7 (vd ++ va ++ vb ++ ty ++ rm), 0#32)
  | .vsubs g vd va vb ty rm => (pk g 10#7 (vd ++ va ++ vb ++ ty ++ rm), 0#32)
  | .vmulh g vd va vb ty => (pk g 11#7 (vd ++ va ++ vb ++ ty ++ 0#2), 0#32)
  | .vand g vd va vb ty => (pk g 16#7 (vd ++ va ++ vb ++ ty ++ 0#2), 0#32)
  | .vor g vd va vb ty => (pk g 17#7 (vd ++ va ++ vb ++ ty ++ 0#2), 0#32)
  | .vxor g vd va vb ty => (pk g 18#7 (vd ++ va ++ vb ++ ty ++ 0#2), 0#32)
  | .vshl g vd va vb ty => (pk g 19#7 (vd ++ va ++ vb ++ ty ++ 0#2), 0#32)
  | .vshr g vd va vb ty => (pk g 20#7 (vd ++ va ++ vb ++ ty ++ 0#2), 0#32)
  | .vsar g vd va vb ty => (pk g 21#7 (vd ++ va ++ vb ++ ty ++ 0#2), 0#32)
  | .vcmp g vd va vb ty cond => (pk g 24#7 (vd ++ va ++ vb ++ ty ++ cond), 0#32)
  | .vsel g vd va vb ty => (pk g 25#7 (vd ++ va ++ vb ++ ty ++ 0#2), 0#32)
  | .vacs g vd va vb => (pk g 26#7 (vd ++ va ++ vb ++ 5#4 ++ 0#2), 0#32)
  | .vrotr g vd va n => (pk g 32#7 (vd ++ va ++ n ++ 0#6), 0#32)
  | .vrotc g vd va n => (pk g 33#7 (vd ++ va ++ n ++ 0#6), 0#32)
  | .vbcr g vd va n => (pk g 34#7 (vd ++ va ++ n ++ 0#6), 0#32)
  | .vbcc g vd va n => (pk g 35#7 (vd ++ va ++ n ++ 0#6), 0#32)
  | .vredr g vd va sat ty kind => (pk g 36#7 (vd ++ va ++ 0#5 ++ bit sat ++ ty ++ kind), 0#32)
  | .vredc g vd va sat ty kind => (pk g 37#7 (vd ++ va ++ 0#5 ++ bit sat ++ ty ++ kind), 0#32)
  | .vshuf g vd va vb ty => (pk g 38#7 (vd ++ va ++ vb ++ ty ++ 0#2), 0#32)
  | .vtrn g vd va => (pk g 39#7 (vd ++ va ++ 0#12), 0#32)
  | .vmov g vd va => (pk g 40#7 (vd ++ va ++ 0#12), 0#32)
  | .vsplat g vd src ty => (pk g 41#7 (vd ++ 0#6 ++ src ++ ty ++ 0#2), 0#32)
  | .vins g vd idx src ty => (pk g 42#7 (vd ++ idx ++ src ++ ty ++ 0#2), 0#32)
  | .vext g d va idx ty => (pk g 43#7 (d ++ va ++ idx ++ ty ++ 0#2), 0#32)
  | .viota g vd ty => (pk g 44#7 (vd ++ 0#12 ++ ty ++ 0#2), 0#32)
  | .vcvt g vd va dst ty rm => (pk g 45#7 (vd ++ va ++ 0#2 ++ dst ++ ty ++ rm), 0#32)
  | .vdecmv g d row half => (pk g 46#7 (d ++ 0#6 ++ row ++ 0#5 ++ bit half), 0#32)
  | .vexp2 g vd va => (pk g 48#7 (vd ++ va ++ 0#12), 0#32)
  | .vlog2 g vd va => (pk g 49#7 (vd ++ va ++ 0#12), 0#32)
  | .vrcp g vd va => (pk g 50#7 (vd ++ va ++ 0#12), 0#32)
  | .vrsq g vd va => (pk g 51#7 (vd ++ va ++ 0#12), 0#32)
  | .vectorFill .. => (0#32, 0#32)
  | .vectorEarlyWriteback .. => (0#32, 0#32)
  | .mbeat g push kind src out bank row wload wswap => (pk g 1#7 (bit push ++ kind ++ src ++ out ++ bank ++ row ++ bit wload ++ bit wswap ++ 0#1), 0#32)
  | .mwsel g h => (pk g 2#7 (bit h ++ 0#23), 0#32)
  | .mmode g afmt wfmt dfmt => (pk g 3#7 (afmt ++ wfmt ++ dfmt ++ 0#12), 0#32)
  | .beat .. => (0#32, 0#32)
  | .kind1Fetch .. => (0#32, 0#32)
  | .aget g vd bank row cvt rm => (pk g 1#7 (vd ++ bank ++ row ++ cvt ++ rm ++ 0#2), 0#32)
  | .aput g vd bank row cvt => (pk g 2#7 (vd ++ bank ++ row ++ cvt ++ 0#4), 0#32)
  | .aputa g vd bank row cvt => (pk g 3#7 (vd ++ bank ++ row ++ cvt ++ 0#4), 0#32)
  | .aclr g bank row => (pk g 4#7 (0#6 ++ bank ++ row ++ 0#8), 0#32)
  | .conditionedOpPerform .. => (0#32, 0#32)
  | .cpy g t desc ch => (pk g 1#7 t.tokens, pk7 desc 0#6 0#6 t (0#5 ++ ch))
  | .stage g t inc => (pk g 2#7 t.tokens, pk7 inc 0#6 0#6 t (0#9))
  | .rinit g t desc cons ring => (pk g 3#7 t.tokens, pk7 desc cons 0#6 t (0#4 ++ ring))
  | .rawait g t d ring => (pk g 4#7 t.tokens, pk7 0#6 0#6 d t (0#4 ++ ring))
  | .rrel g t word ring => (pk g 5#7 t.tokens, pk7 word 0#6 0#6 t (0#4 ++ ring))
  | .lease g t d kind prio => (pk g 6#7 t.tokens, pk7 0#6 0#6 d t (0#4 ++ prio ++ kind))
  | .lcmd g t h desc => (pk g 7#7 t.tokens, pk7 h desc 0#6 t (0#9))
  | .unlease g t h => (pk g 8#7 t.tokens, pk7 h 0#6 0#6 t (0#9))
  | .lwarm g t kind keep => (pk g 9#7 t.tokens, pk7 0#6 0#6 0#6 t (0#5 ++ bit keep ++ kind))
  | .launch g t rec q => (pk g 10#7 t.tokens, pk7 rec 0#6 0#6 t (0#2 ++ q))
  | .wstr g t h sdesc half => (pk g 11#7 t.tokens, pk7 h sdesc 0#6 t (0#8 ++ bit half))
  | .bankcfg g t mask mode => (pk g 12#7 t.tokens, pk7 mask 0#6 0#6 t (0#7 ++ mode))
  | .tload g t src first count => (pk g 13#7 t.tokens, pk7 src first 0#6 t (count))
  | .pinwin g t base size d => (pk g 16#7 t.tokens, pk7 base size d t (0#9))
  | .unpin g t h => (pk g 17#7 t.tokens, pk7 h 0#6 0#6 t (0#9))
  | .swappg g t far near d => (pk g 18#7 t.tokens, pk7 far near d t (0#9))
  | .tlbinv g t va asid mode => (pk g 19#7 t.tokens, pk7 va asid 0#6 t (0#7 ++ mode))
  | .mapwin g t base size w exact => (pk g 20#7 t.tokens, pk7 base size 0#6 t (0#4 ++ bit exact ++ w))
  | .bankSwitchComplete .. => (0#32, 0#32)
  | .copyBegin .. => (0#32, 0#32)
  | .ringSlotBind .. => (0#32, 0#32)
  | .copyComplete .. => (0#32, 0#32)
  | .playbookEntryStart .. => (0#32, 0#32)
  | .rawaitReturn .. => (0#32, 0#32)
  | .weightStreamWrite .. => (0#32, 0#32)
  | .benchArrival .. => (0#32, 0#32)
  | .holdThresholdPassed .. => (0#32, 0#32)
  | .leaseGrant .. => (0#32, 0#32)
  | .engineWakeEnd .. => (0#32, 0#32)
  | .warmEngineSleep .. => (0#32, 0#32)
  | .dcxDecode .. => (0#32, 0#32)
  | .srtSort .. => (0#32, 0#32)
  | .gsxGather .. => (0#32, 0#32)
  | .gsxScatter .. => (0#32, 0#32)
  | .smxSoftmax .. => (0#32, 0#32)
  | .hshCrc32c .. => (0#32, 0#32)
  | .hshSha3256 .. => (0#32, 0#32)
  | .redReduce .. => (0#32, 0#32)
  | .engineCommandComplete .. => (0#32, 0#32)
  | .sliceFill .. => (0#32, 0#32)
  | .pinFadeTick .. => (0#32, 0#32)
  | .remapCountUpdate .. => (0#32, 0#32)
  | .swapLineExchange .. => (0#32, 0#32)
  | .pageWalk .. => (0#32, 0#32)
  | .drainComplete .. => (0#32, 0#32)
  | .persistComplete .. => (0#32, 0#32)
  | .remoteAccessAtHome .. => (0#32, 0#32)
  | .storeAcknowledgement .. => (0#32, 0#32)
  | .atomicReply .. => (0#32, 0#32)
  | .selectiveAck .. => (0#32, 0#32)
  | .retransmitTimeout .. => (0#32, 0#32)
  | .linkRetrain .. => (0#32, 0#32)
  | .linkWidthChange .. => (0#32, 0#32)
  | .linkMarkedDown .. => (0#32, 0#32)
  | .multicastEntryWrite .. => (0#32, 0#32)
  | .huddleArrival .. => (0#32, 0#32)
  | .replySplit .. => (0#32, 0#32)
  | .huddleCopyLoss .. => (0#32, 0#32)
  | .atomicUnknownTimeout .. => (0#32, 0#32)
  | .migrationCounterClear .. => (0#32, 0#32)
  | .mtExchange .. => (0#32, 0#32)
  | .disciplineLoss .. => (0#32, 0#32)
  | .disciplineRegain .. => (0#32, 0#32)
  | .transitAccept .. => (0#32, 0#32)
  | .transitStorePerform .. => (0#32, 0#32)
  | .ldnbDueRead .. => (0#32, 0#32)
  | .waitaReread .. => (0#32, 0#32)
  | .recordAtHead .. => (0#32, 0#32)
  | .dependenceSatisfied .. => (0#32, 0#32)
  | .schedulerPlacement .. => (0#32, 0#32)
  | .ageingStep .. => (0#32, 0#32)
  | .stopRuleTimeout .. => (0#32, 0#32)
  | .saveComplete .. => (0#32, 0#32)
  | .launchCompletion .. => (0#32, 0#32)
  | .watchdogExpiry .. => (0#32, 0#32)
  | .queueEnable .. => (0#32, 0#32)
  | .tailDoorbell .. => (0#32, 0#32)
  | .preemptWrite .. => (0#32, 0#32)
  | .pmaskWrite .. => (0#32, 0#32)
  | .currentLimiterTick .. => (0#32, 0#32)
  | .arbiterInterval .. => (0#32, 0#32)
  | .moveComplete .. => (0#32, 0#32)
  | .powerMailboxWrite .. => (0#32, 0#32)
  | .thermalTrip .. => (0#32, 0#32)
  | .thermalTripClear .. => (0#32, 0#32)
  | .groupAnnouncement .. => (0#32, 0#32)
  | .groupStepApply .. => (0#32, 0#32)
  | .hbmTemperatureRead .. => (0#32, 0#32)
  | .coolantLimit .. => (0#32, 0#32)
  | .powerComparatorInterval .. => (0#32, 0#32)
  | .scratchWordError .. => (0#32, 0#32)
  | .tagArrayError .. => (0#32, 0#32)
  | .mediaError .. => (0#32, 0#32)
  | .registerFileError .. => (0#32, 0#32)
  | .accumulatorRowError .. => (0#32, 0#32)
  | .residueMismatch .. => (0#32, 0#32)
  | .queueParityError .. => (0#32, 0#32)
  | .brownOut .. => (0#32, 0#32)
  | .dieShed .. => (0#32, 0#32)
  | .dieRestore .. => (0#32, 0#32)
  | .pwrHalt .. => (0#32, 0#32)
  | .restart .. => (0#32, 0#32)
  | .reserveReady .. => (0#32, 0#32)
  | .parkedRetry .. => (0#32, 0#32)
  | .parkedTimeout .. => (0#32, 0#32)
  | .hostMemoryAccess .. => (0#32, 0#32)
  | .cxlLinkDown .. => (0#32, 0#32)
  | .dmaWindowWrite .. => (0#32, 0#32)
  | .pwrlimWrite .. => (0#32, 0#32)
  | .writeImage .. => (0#32, 0#32)
  | .activate .. => (0#32, 0#32)
  | .writeRecord .. => (0#32, 0#32)
  | .readLog .. => (0#32, 0#32)
  | .readLifetime .. => (0#32, 0#32)
  | .plainHalt .. => (0#32, 0#32)
  | .quiescedHalt .. => (0#32, 0#32)
  | .resume .. => (0#32, 0#32)
  | .clearRetirement .. => (0#32, 0#32)
  | .bringUp .. => (0#32, 0#32)
  | .capAndBoostWrite .. => (0#32, 0#32)
  | .externalReferenceChange .. => (0#32, 0#32)
  | .cxlLinkTrain .. => (0#32, 0#32)

/-- The slots an instruction's parcel may stand in (R34–R39): S1-only ops list S1 alone. -/
def Instr.slots : Instr → List Nat
  | .fullBundle .. => []
  | .tcall .. => []
  | .contextSwitch .. => []
  | .quantumExpiry .. => []
  | .streamingEntryStart .. => []
  | .streamingWrite .. => []
  | .divideComplete .. => []
  | .trapEntry .. => []
  | .retirementComplete .. => []
  | .commandCompletion .. => []
  | .savebaseWrite .. => []
  | .flagsWrite .. => []
  | .engfailWrite .. => []
  | .fpstatusWrite .. => []
  | .pnWrite .. => []
  | .ewtableWrite .. => []
  | .registerWrite .. => []
  | .br .. => [0]
  | .call .. => [0]
  | .jmp .. => [0]
  | .ret .. => [0]
  | .loop .. => [0]
  | .brx .. => [0]
  | .fencei .. => [0]
  | .waitf .. => [0]
  | .peekf .. => [0]
  | .setf .. => [0]
  | .clrf .. => [0]
  | .yield .. => [0]
  | .exit .. => [0]
  | .trap .. => [0]
  | .rft .. => [0]
  | .mfs .. => [0]
  | .mts .. => [0]
  | .bkpt .. => [0]
  | .pwrreq .. => [0]
  | .await .. => [0]
  | .twait .. => [0]
  | .ckpt .. => [0]
  | .nopCtl .. => [0]
  | .nopSa .. => [1]
  | .nopSb .. => [2]
  | .nopMem .. => [3]
  | .nopVec .. => [4]
  | .nopMx .. => [5]
  | .nopAcc .. => [6]
  | .nopEng .. => [7]
  | .add .. => [1, 2]
  | .sub .. => [1, 2]
  | .addi .. => [1, 2]
  | .mul .. => [1, 2]
  | .mulh .. => [1, 2]
  | .mulhw .. => [1, 2]
  | .div .. => [1]
  | .divw .. => [1]
  | .rem .. => [1]
  | .remw .. => [1]
  | .min .. => [1, 2]
  | .max .. => [1, 2]
  | .minw .. => [1, 2]
  | .maxw .. => [1, 2]
  | .abs .. => [1, 2]
  | .and .. => [1, 2]
  | .or .. => [1, 2]
  | .xor .. => [1, 2]
  | .andn .. => [1, 2]
  | .orn .. => [1, 2]
  | .andi .. => [1, 2]
  | .ori .. => [1, 2]
  | .xori .. => [1, 2]
  | .shl .. => [1, 2]
  | .shr .. => [1, 2]
  | .sar .. => [1, 2]
  | .rol .. => [1, 2]
  | .shli .. => [1, 2]
  | .shri .. => [1, 2]
  | .sari .. => [1, 2]
  | .roli .. => [1, 2]
  | .ceq .. => [1, 2]
  | .cne .. => [1, 2]
  | .clt .. => [1, 2]
  | .cle .. => [1, 2]
  | .cltw .. => [1, 2]
  | .clew .. => [1, 2]
  | .ceqi .. => [1, 2]
  | .clti .. => [1, 2]
  | .clz .. => [1, 2]
  | .ctz .. => [1, 2]
  | .popc .. => [1, 2]
  | .brev .. => [1, 2]
  | .bswap .. => [1, 2]
  | .exts .. => [1, 2]
  | .extz .. => [1, 2]
  | .ins .. => [1, 2]
  | .bperm .. => [1, 2]
  | .bset .. => [1, 2]
  | .bclr .. => [1, 2]
  | .btst .. => [1, 2]
  | .bflip .. => [1, 2]
  | .mov .. => [1, 2]
  | .movz .. => [1, 2]
  | .movk .. => [1, 2]
  | .sel .. => [1, 2]
  | .lea .. => [1, 2]
  | .fadd .. => [1]
  | .fsub .. => [1]
  | .fmul .. => [1]
  | .fma .. => [1]
  | .fmin .. => [1]
  | .fmax .. => [1]
  | .fcmp .. => [1]
  | .fcvtf .. => [1]
  | .fcvti .. => [1]
  | .fabs .. => [1]
  | .fneg .. => [1]
  | .ld .. => [3]
  | .st .. => [3]
  | .lda .. => [3]
  | .stl .. => [3]
  | .ldfe .. => [3]
  | .ldff .. => [3]
  | .stef .. => [3]
  | .stff .. => [3]
  | .feinit .. => [3]
  | .vld .. => [3]
  | .vst .. => [3]
  | .vldw .. => [3]
  | .vstf .. => [3]
  | .ldnb .. => [3]
  | .stt .. => [3]
  | .waita .. => [3]
  | .fence .. => [3]
  | .drain .. => [3]
  | .persist .. => [3]
  | .pref .. => [3]
  | .cflush .. => [3]
  | .afadd .. => [3]
  | .afaddf .. => [3]
  | .afmin .. => [3]
  | .afmax .. => [3]
  | .afand .. => [3]
  | .afor .. => [3]
  | .afxor .. => [3]
  | .axchg .. => [3]
  | .acas .. => [3]
  | .fpush .. => [3]
  | .fpop .. => [3]
  | .ldxs .. => [3]
  | .vadd .. => [4]
  | .vsub .. => [4]
  | .vmul .. => [4]
  | .vfma .. => [4]
  | .vmin .. => [4]
  | .vmax .. => [4]
  | .vabs .. => [4]
  | .vneg .. => [4]
  | .vadds .. => [4]
  | .vsubs .. => [4]
  | .vmulh .. => [4]
  | .vand .. => [4]
  | .vor .. => [4]
  | .vxor .. => [4]
  | .vshl .. => [4]
  | .vshr .. => [4]
  | .vsar .. => [4]
  | .vcmp .. => [4]
  | .vsel .. => [4]
  | .vacs .. => [4]
  | .vrotr .. => [4]
  | .vrotc .. => [4]
  | .vbcr .. => [4]
  | .vbcc .. => [4]
  | .vredr .. => [4]
  | .vredc .. => [4]
  | .vshuf .. => [4]
  | .vtrn .. => [4]
  | .vmov .. => [4]
  | .vsplat .. => [4]
  | .vins .. => [4]
  | .vext .. => [4]
  | .viota .. => [4]
  | .vcvt .. => [4]
  | .vdecmv .. => [4]
  | .vexp2 .. => [4]
  | .vlog2 .. => [4]
  | .vrcp .. => [4]
  | .vrsq .. => [4]
  | .vectorFill .. => []
  | .vectorEarlyWriteback .. => []
  | .mbeat .. => [5]
  | .mwsel .. => [5]
  | .mmode .. => [5]
  | .beat .. => []
  | .kind1Fetch .. => []
  | .aget .. => [6]
  | .aput .. => [6]
  | .aputa .. => [6]
  | .aclr .. => [6]
  | .conditionedOpPerform .. => []
  | .cpy .. => [7]
  | .stage .. => [7]
  | .rinit .. => [7]
  | .rawait .. => [7]
  | .rrel .. => [7]
  | .lease .. => [7]
  | .lcmd .. => [7]
  | .unlease .. => [7]
  | .lwarm .. => [7]
  | .launch .. => [7]
  | .wstr .. => [7]
  | .bankcfg .. => [7]
  | .tload .. => [7]
  | .pinwin .. => [7]
  | .unpin .. => [7]
  | .swappg .. => [7]
  | .tlbinv .. => [7]
  | .mapwin .. => [7]
  | .bankSwitchComplete .. => []
  | .copyBegin .. => []
  | .ringSlotBind .. => []
  | .copyComplete .. => []
  | .playbookEntryStart .. => []
  | .rawaitReturn .. => []
  | .weightStreamWrite .. => []
  | .benchArrival .. => []
  | .holdThresholdPassed .. => []
  | .leaseGrant .. => []
  | .engineWakeEnd .. => []
  | .warmEngineSleep .. => []
  | .dcxDecode .. => []
  | .srtSort .. => []
  | .gsxGather .. => []
  | .gsxScatter .. => []
  | .smxSoftmax .. => []
  | .hshCrc32c .. => []
  | .hshSha3256 .. => []
  | .redReduce .. => []
  | .engineCommandComplete .. => []
  | .sliceFill .. => []
  | .pinFadeTick .. => []
  | .remapCountUpdate .. => []
  | .swapLineExchange .. => []
  | .pageWalk .. => []
  | .drainComplete .. => []
  | .persistComplete .. => []
  | .remoteAccessAtHome .. => []
  | .storeAcknowledgement .. => []
  | .atomicReply .. => []
  | .selectiveAck .. => []
  | .retransmitTimeout .. => []
  | .linkRetrain .. => []
  | .linkWidthChange .. => []
  | .linkMarkedDown .. => []
  | .multicastEntryWrite .. => []
  | .huddleArrival .. => []
  | .replySplit .. => []
  | .huddleCopyLoss .. => []
  | .atomicUnknownTimeout .. => []
  | .migrationCounterClear .. => []
  | .mtExchange .. => []
  | .disciplineLoss .. => []
  | .disciplineRegain .. => []
  | .transitAccept .. => []
  | .transitStorePerform .. => []
  | .ldnbDueRead .. => []
  | .waitaReread .. => []
  | .recordAtHead .. => []
  | .dependenceSatisfied .. => []
  | .schedulerPlacement .. => []
  | .ageingStep .. => []
  | .stopRuleTimeout .. => []
  | .saveComplete .. => []
  | .launchCompletion .. => []
  | .watchdogExpiry .. => []
  | .queueEnable .. => []
  | .tailDoorbell .. => []
  | .preemptWrite .. => []
  | .pmaskWrite .. => []
  | .currentLimiterTick .. => []
  | .arbiterInterval .. => []
  | .moveComplete .. => []
  | .powerMailboxWrite .. => []
  | .thermalTrip .. => []
  | .thermalTripClear .. => []
  | .groupAnnouncement .. => []
  | .groupStepApply .. => []
  | .hbmTemperatureRead .. => []
  | .coolantLimit .. => []
  | .powerComparatorInterval .. => []
  | .scratchWordError .. => []
  | .tagArrayError .. => []
  | .mediaError .. => []
  | .registerFileError .. => []
  | .accumulatorRowError .. => []
  | .residueMismatch .. => []
  | .queueParityError .. => []
  | .brownOut .. => []
  | .dieShed .. => []
  | .dieRestore .. => []
  | .pwrHalt .. => []
  | .restart .. => []
  | .reserveReady .. => []
  | .parkedRetry .. => []
  | .parkedTimeout .. => []
  | .hostMemoryAccess .. => []
  | .cxlLinkDown .. => []
  | .dmaWindowWrite .. => []
  | .pwrlimWrite .. => []
  | .writeImage .. => []
  | .activate .. => []
  | .writeRecord .. => []
  | .readLog .. => []
  | .readLifetime .. => []
  | .plainHalt .. => []
  | .quiescedHalt .. => []
  | .resume .. => []
  | .clearRetirement .. => []
  | .bringUp .. => []
  | .capAndBoostWrite .. => []
  | .externalReferenceChange .. => []
  | .cxlLinkTrain .. => []

/-- The S0 map (R34). -/
def rawS0 (op : Nat) (g : Bool) (x : BitVec 24) : Option Instr :=
  match op with
  | 0 => some (.nopCtl g)
  | 1 => some (.br g x)
  | 2 => some (.call g x)
  | 3 => some (.jmp g (x.extractLsb' 18 6))
  | 4 => some (.ret g)
  | 5 => some (.loop g (x.extractLsb' 18 6) (x.extractLsb' 0 12))
  | 6 => some (.brx g (x.extractLsb' 0 14))
  | 7 => some (.fencei g)
  | 8 => some (.waitf g (x.extractLsb' 0 16))
  | 9 => some (.peekf g (x.extractLsb' 0 16))
  | 10 => some (.setf g (x.extractLsb' 0 16))
  | 11 => some (.clrf g (x.extractLsb' 0 16))
  | 12 => some (.yield g)
  | 13 => some (.exit g)
  | 14 => some (.trap g (x.extractLsb' 0 8))
  | 15 => some (.rft g)
  | 16 => some (.mfs g (x.extractLsb' 12 12) (x.extractLsb' 6 6))
  | 17 => some (.mts g (x.extractLsb' 12 12) (x.extractLsb' 6 6))
  | 18 => some (.bkpt g (x.extractLsb' 0 8))
  | 19 => some (.pwrreq g (x.extractLsb' 18 6))
  | 20 => some (.await g (x.extractLsb' 0 4))
  | 21 => some (.twait g (x.extractLsb' 18 6))
  | 22 => some (.ckpt g)
  | _ => none

/-- The map of S1 and S2 (R35), `NOP` apart. -/
def rawScalar (op : Nat) (g : Bool) (x : BitVec 24) : Option Instr :=
  match op with
  | 1 => some (.add g (x.extractLsb' 18 6) (x.extractLsb' 12 6) (x.extractLsb' 6 6))
  | 2 => some (.sub g (x.extractLsb' 18 6) (x.extractLsb' 12 6) (x.extractLsb' 6 6))
  | 3 => some (.addi g (x.extractLsb' 18 6) (x.extractLsb' 12 6) (x.extractLsb' 0 12))
  | 4 => some (.mul g (x.extractLsb' 18 6) (x.extractLsb' 12 6) (x.extractLsb' 6 6))
  | 5 => some (.mulh g (x.extractLsb' 18 6) (x.extractLsb' 12 6) (x.extractLsb' 6 6))
  | 6 => some (.mulhw g (x.extractLsb' 18 6) (x.extractLsb' 12 6) (x.extractLsb' 6 6))
  | 7 => some (.div g (x.extractLsb' 18 6) (x.extractLsb' 12 6) (x.extractLsb' 6 6))
  | 8 => some (.divw g (x.extractLsb' 18 6) (x.extractLsb' 12 6) (x.extractLsb' 6 6))
  | 9 => some (.rem g (x.extractLsb' 18 6) (x.extractLsb' 12 6) (x.extractLsb' 6 6))
  | 10 => some (.remw g (x.extractLsb' 18 6) (x.extractLsb' 12 6) (x.extractLsb' 6 6))
  | 11 => some (.min g (x.extractLsb' 18 6) (x.extractLsb' 12 6) (x.extractLsb' 6 6))
  | 12 => some (.max g (x.extractLsb' 18 6) (x.extractLsb' 12 6) (x.extractLsb' 6 6))
  | 13 => some (.minw g (x.extractLsb' 18 6) (x.extractLsb' 12 6) (x.extractLsb' 6 6))
  | 14 => some (.maxw g (x.extractLsb' 18 6) (x.extractLsb' 12 6) (x.extractLsb' 6 6))
  | 15 => some (.abs g (x.extractLsb' 18 6) (x.extractLsb' 12 6))
  | 16 => some (.and g (x.extractLsb' 18 6) (x.extractLsb' 12 6) (x.extractLsb' 6 6))
  | 17 => some (.or g (x.extractLsb' 18 6) (x.extractLsb' 12 6) (x.extractLsb' 6 6))
  | 18 => some (.xor g (x.extractLsb' 18 6) (x.extractLsb' 12 6) (x.extractLsb' 6 6))
  | 19 => some (.andn g (x.extractLsb' 18 6) (x.extractLsb' 12 6) (x.extractLsb' 6 6))
  | 20 => some (.orn g (x.extractLsb' 18 6) (x.extractLsb' 12 6) (x.extractLsb' 6 6))
  | 21 => some (.andi g (x.extractLsb' 18 6) (x.extractLsb' 12 6) (x.extractLsb' 0 12))
  | 22 => some (.ori g (x.extractLsb' 18 6) (x.extractLsb' 12 6) (x.extractLsb' 0 12))
  | 23 => some (.xori g (x.extractLsb' 18 6) (x.extractLsb' 12 6) (x.extractLsb' 0 12))
  | 24 => some (.shl g (x.extractLsb' 18 6) (x.extractLsb' 12 6) (x.extractLsb' 6 6))
  | 25 => some (.shr g (x.extractLsb' 18 6) (x.extractLsb' 12 6) (x.extractLsb' 6 6))
  | 26 => some (.sar g (x.extractLsb' 18 6) (x.extractLsb' 12 6) (x.extractLsb' 6 6))
  | 27 => some (.rol g (x.extractLsb' 18 6) (x.extractLsb' 12 6) (x.extractLsb' 6 6))
  | 28 => some (.shli g (x.extractLsb' 18 6) (x.extractLsb' 12 6) (x.extractLsb' 0 6))
  | 29 => some (.shri g (x.extractLsb' 18 6) (x.extractLsb' 12 6) (x.extractLsb' 0 6))
  | 30 => some (.sari g (x.extractLsb' 18 6) (x.extractLsb' 12 6) (x.extractLsb' 0 6))
  | 31 => some (.roli g (x.extractLsb' 18 6) (x.extractLsb' 12 6) (x.extractLsb' 0 6))
  | 32 => some (.ceq g (x.extractLsb' 18 6) (x.extractLsb' 12 6) (x.extractLsb' 6 6))
  | 33 => some (.cne g (x.extractLsb' 18 6) (x.extractLsb' 12 6) (x.extractLsb' 6 6))
  | 34 => some (.clt g (x.extractLsb' 18 6) (x.extractLsb' 12 6) (x.extractLsb' 6 6))
  | 35 => some (.cle g (x.extractLsb' 18 6) (x.extractLsb' 12 6) (x.extractLsb' 6 6))
  | 36 => some (.cltw g (x.extractLsb' 18 6) (x.extractLsb' 12 6) (x.extractLsb' 6 6))
  | 37 => some (.clew g (x.extractLsb' 18 6) (x.extractLsb' 12 6) (x.extractLsb' 6 6))
  | 38 => some (.ceqi g (x.extractLsb' 18 6) (x.extractLsb' 12 6) (x.extractLsb' 0 12))
  | 39 => some (.clti g (x.extractLsb' 18 6) (x.extractLsb' 12 6) (x.extractLsb' 0 12))
  | 40 => some (.clz g (x.extractLsb' 18 6) (x.extractLsb' 12 6))
  | 41 => some (.ctz g (x.extractLsb' 18 6) (x.extractLsb' 12 6))
  | 42 => some (.popc g (x.extractLsb' 18 6) (x.extractLsb' 12 6))
  | 43 => some (.brev g (x.extractLsb' 18 6) (x.extractLsb' 12 6))
  | 44 => some (.bswap g (x.extractLsb' 18 6) (x.extractLsb' 12 6))
  | 45 => some (.exts g (x.extractLsb' 18 6) (x.extractLsb' 12 6) (x.extractLsb' 6 6) (x.extractLsb' 0 6))
  | 46 => some (.extz g (x.extractLsb' 18 6) (x.extractLsb' 12 6) (x.extractLsb' 6 6) (x.extractLsb' 0 6))
  | 47 => some (.ins g (x.extractLsb' 18 6) (x.extractLsb' 12 6) (x.extractLsb' 6 6) (x.extractLsb' 0 6))
  | 48 => some (.bperm g (x.extractLsb' 18 6) (x.extractLsb' 12 6) (x.extractLsb' 6 6) (x.extractLsb' 0 6))
  | 49 => some (.bset g (x.extractLsb' 18 6) (x.extractLsb' 12 6) (x.extractLsb' 0 6))
  | 50 => some (.bclr g (x.extractLsb' 18 6) (x.extractLsb' 12 6) (x.extractLsb' 0 6))
  | 51 => some (.btst g (x.extractLsb' 18 6) (x.extractLsb' 12 6) (x.extractLsb' 0 6))
  | 52 => some (.bflip g (x.extractLsb' 18 6) (x.extractLsb' 12 6) (x.extractLsb' 0 6))
  | 53 => some (.mov g (x.extractLsb' 18 6) (x.extractLsb' 12 6))
  | 54 => some (.movz g (x.extractLsb' 18 6) (x.extractLsb' 16 2) (x.extractLsb' 0 16))
  | 55 => some (.movk g (x.extractLsb' 18 6) (x.extractLsb' 16 2) (x.extractLsb' 0 16))
  | 56 => some (.sel g (x.extractLsb' 18 6) (x.extractLsb' 12 6) (x.extractLsb' 6 6) (x.extractLsb' 0 6))
  | 57 => some (.lea g (x.extractLsb' 18 6) (x.extractLsb' 12 6) (x.extractLsb' 6 6) (x.extractLsb' 0 6))
  | 64 => some (.fadd g (x.extractLsb' 18 6) (x.extractLsb' 12 6) (x.extractLsb' 6 6) (x.extractLsb' 0 2))
  | 65 => some (.fsub g (x.extractLsb' 18 6) (x.extractLsb' 12 6) (x.extractLsb' 6 6) (x.extractLsb' 0 2))
  | 66 => some (.fmul g (x.extractLsb' 18 6) (x.extractLsb' 12 6) (x.extractLsb' 6 6) (x.extractLsb' 0 2))
  | 67 => some (.fma g (x.extractLsb' 18 6) (x.extractLsb' 12 6) (x.extractLsb' 6 6) (x.extractLsb' 0 6))
  | 68 => some (.fmin g (x.extractLsb' 18 6) (x.extractLsb' 12 6) (x.extractLsb' 6 6))
  | 69 => some (.fmax g (x.extractLsb' 18 6) (x.extractLsb' 12 6) (x.extractLsb' 6 6))
  | 70 => some (.fcmp g (x.extractLsb' 18 6) (x.extractLsb' 12 6) (x.extractLsb' 6 6) (x.extractLsb' 0 3))
  | 71 => some (.fcvtf g (x.extractLsb' 18 6) (x.extractLsb' 12 6) (x.extractLsb' 2 2) (x.extractLsb' 0 2))
  | 72 => some (.fcvti g (x.extractLsb' 18 6) (x.extractLsb' 12 6) (x.extractLsb' 2 2) (x.extractLsb' 0 2))
  | 73 => some (.fabs g (x.extractLsb' 18 6) (x.extractLsb' 12 6))
  | 74 => some (.fneg g (x.extractLsb' 18 6) (x.extractLsb' 12 6))
  | _ => none

/-- The S3 map (R36). -/
def rawS3 (op : Nat) (g : Bool) (x : BitVec 24) : Option Instr :=
  match op with
  | 0 => some (.nopMem g)
  | 1 => some (.ld g (x.extractLsb' 18 6) (x.extractLsb' 12 6) (x.extractLsb' 10 2) (x.getLsbD 9) (x.extractLsb' 0 9))
  | 2 => some (.st g (x.extractLsb' 18 6) (x.extractLsb' 12 6) (x.extractLsb' 10 2) (x.extractLsb' 0 9))
  | 3 => some (.lda g (x.extractLsb' 18 6) (x.extractLsb' 12 6) (x.extractLsb' 10 2) (x.getLsbD 9) (x.extractLsb' 6 3))
  | 4 => some (.stl g (x.extractLsb' 18 6) (x.extractLsb' 12 6) (x.extractLsb' 10 2) (x.extractLsb' 6 3))
  | 5 => some (.ldfe g (x.extractLsb' 18 6) (x.extractLsb' 12 6) (x.extractLsb' 10 2) (x.getLsbD 9) (x.extractLsb' 0 9))
  | 6 => some (.ldff g (x.extractLsb' 18 6) (x.extractLsb' 12 6) (x.extractLsb' 10 2) (x.getLsbD 9) (x.extractLsb' 0 9))
  | 7 => some (.stef g (x.extractLsb' 18 6) (x.extractLsb' 12 6) (x.extractLsb' 10 2) (x.extractLsb' 0 9))
  | 8 => some (.stff g (x.extractLsb' 18 6) (x.extractLsb' 12 6) (x.extractLsb' 10 2) (x.extractLsb' 0 9))
  | 9 => some (.feinit g (x.extractLsb' 18 6) (x.extractLsb' 12 6) (x.getLsbD 0))
  | 10 => some (.vld g (x.extractLsb' 18 6) (x.extractLsb' 12 6) (x.extractLsb' 6 6) (x.extractLsb' 0 6))
  | 11 => some (.vst g (x.extractLsb' 18 6) (x.extractLsb' 12 6) (x.extractLsb' 6 6) (x.extractLsb' 0 6))
  | 12 => some (.vldw g (x.extractLsb' 18 6) (x.extractLsb' 12 6) (x.extractLsb' 6 6) (x.extractLsb' 0 6))
  | 13 => some (.vstf g (x.extractLsb' 18 6) (x.extractLsb' 12 6) (x.extractLsb' 6 6) (x.extractLsb' 0 6))
  | 14 => some (.ldnb g (x.extractLsb' 18 6) (x.extractLsb' 12 6) (x.extractLsb' 6 6) (x.extractLsb' 4 2) (x.getLsbD 3))
  | 15 => some (.stt g (x.extractLsb' 18 6) (x.extractLsb' 12 6) (x.extractLsb' 6 6) (x.extractLsb' 4 2) (x.getLsbD 3))
  | 16 => some (.waita g (x.extractLsb' 18 6) (x.extractLsb' 12 6) (x.extractLsb' 6 6) (x.getLsbD 4) (x.extractLsb' 0 4))
  | 17 => some (.fence g (x.extractLsb' 21 3))
  | 18 => some (.drain g (x.extractLsb' 21 3))
  | 19 => some (.persist g (x.extractLsb' 21 3))
  | 20 => some (.pref g (x.getLsbD 18) (x.extractLsb' 12 6) (x.extractLsb' 10 2) (x.extractLsb' 0 9))
  | 21 => some (.cflush g (x.extractLsb' 12 6) (x.extractLsb' 0 9))
  | 22 => some (.afadd g (x.extractLsb' 18 6) (x.extractLsb' 12 6) (x.extractLsb' 6 6) (x.getLsbD 4))
  | 23 => some (.afaddf g (x.extractLsb' 18 6) (x.extractLsb' 12 6) (x.extractLsb' 6 6) (x.extractLsb' 4 2))
  | 24 => some (.afmin g (x.extractLsb' 18 6) (x.extractLsb' 12 6) (x.extractLsb' 6 6) (x.getLsbD 4))
  | 25 => some (.afmax g (x.extractLsb' 18 6) (x.extractLsb' 12 6) (x.extractLsb' 6 6) (x.getLsbD 4))
  | 26 => some (.afand g (x.extractLsb' 18 6) (x.extractLsb' 12 6) (x.extractLsb' 6 6) (x.getLsbD 4))
  | 27 => some (.afor g (x.extractLsb' 18 6) (x.extractLsb' 12 6) (x.extractLsb' 6 6) (x.getLsbD 4))
  | 28 => some (.afxor g (x.extractLsb' 18 6) (x.extractLsb' 12 6) (x.extractLsb' 6 6) (x.getLsbD 4))
  | 29 => some (.axchg g (x.extractLsb' 18 6) (x.extractLsb' 12 6) (x.extractLsb' 6 6) (x.getLsbD 4))
  | 30 => some (.acas g (x.extractLsb' 18 6) (x.extractLsb' 12 6) (x.extractLsb' 6 6) (x.getLsbD 4))
  | 31 => some (.fpush g (x.extractLsb' 18 6) (x.extractLsb' 12 6))
  | 32 => some (.fpop g (x.extractLsb' 18 6) (x.extractLsb' 12 6))
  | 33 => some (.ldxs g (x.extractLsb' 18 6) (x.extractLsb' 12 6) (x.getLsbD 9) (x.extractLsb' 0 9))
  | _ => none

/-- The S4 map (R37). -/
def rawS4 (op : Nat) (g : Bool) (x : BitVec 24) : Option Instr :=
  match op with
  | 0 => some (.nopVec g)
  | 1 => some (.vadd g (x.extractLsb' 18 6) (x.extractLsb' 12 6) (x.extractLsb' 6 6) (x.extractLsb' 2 4) (x.extractLsb' 0 2))
  | 2 => some (.vsub g (x.extractLsb' 18 6) (x.extractLsb' 12 6) (x.extractLsb' 6 6) (x.extractLsb' 2 4) (x.extractLsb' 0 2))
  | 3 => some (.vmul g (x.extractLsb' 18 6) (x.extractLsb' 12 6) (x.extractLsb' 6 6) (x.extractLsb' 2 4) (x.extractLsb' 0 2))
  | 4 => some (.vfma g (x.extractLsb' 18 6) (x.extractLsb' 12 6) (x.extractLsb' 6 6) (x.extractLsb' 2 4) (x.extractLsb' 0 2))
  | 5 => some (.vmin g (x.extractLsb' 18 6) (x.extractLsb' 12 6) (x.extractLsb' 6 6) (x.extractLsb' 2 4))
  | 6 => some (.vmax g (x.extractLsb' 18 6) (x.extractLsb' 12 6) (x.extractLsb' 6 6) (x.extractLsb' 2 4))
  | 7 => some (.vabs g (x.extractLsb' 18 6) (x.extractLsb' 12 6) (x.extractLsb' 2 4) (x.extractLsb' 0 2))
  | 8 => some (.vneg g (x.extractLsb' 18 6) (x.extractLsb' 12 6) (x.extractLsb' 2 4) (x.extractLsb' 0 2))
  | 9 => some (.vadds g (x.extractLsb' 18 6) (x.extractLsb' 12 6) (x.extractLsb' 6 6) (x.extractLsb' 2 4) (x.extractLsb' 0 2))
  | 10 => some (.vsubs g (x.extractLsb' 18 6) (x.extractLsb' 12 6) (x.extractLsb' 6 6) (x.extractLsb' 2 4) (x.extractLsb' 0 2))
  | 11 => some (.vmulh g (x.extractLsb' 18 6) (x.extractLsb' 12 6) (x.extractLsb' 6 6) (x.extractLsb' 2 4))
  | 16 => some (.vand g (x.extractLsb' 18 6) (x.extractLsb' 12 6) (x.extractLsb' 6 6) (x.extractLsb' 2 4))
  | 17 => some (.vor g (x.extractLsb' 18 6) (x.extractLsb' 12 6) (x.extractLsb' 6 6) (x.extractLsb' 2 4))
  | 18 => some (.vxor g (x.extractLsb' 18 6) (x.extractLsb' 12 6) (x.extractLsb' 6 6) (x.extractLsb' 2 4))
  | 19 => some (.vshl g (x.extractLsb' 18 6) (x.extractLsb' 12 6) (x.extractLsb' 6 6) (x.extractLsb' 2 4))
  | 20 => some (.vshr g (x.extractLsb' 18 6) (x.extractLsb' 12 6) (x.extractLsb' 6 6) (x.extractLsb' 2 4))
  | 21 => some (.vsar g (x.extractLsb' 18 6) (x.extractLsb' 12 6) (x.extractLsb' 6 6) (x.extractLsb' 2 4))
  | 24 => some (.vcmp g (x.extractLsb' 18 6) (x.extractLsb' 12 6) (x.extractLsb' 6 6) (x.extractLsb' 2 4) (x.extractLsb' 0 2))
  | 25 => some (.vsel g (x.extractLsb' 18 6) (x.extractLsb' 12 6) (x.extractLsb' 6 6) (x.extractLsb' 2 4))
  | 26 => some (.vacs g (x.extractLsb' 18 6) (x.extractLsb' 12 6) (x.extractLsb' 6 6))
  | 32 => some (.vrotr g (x.extractLsb' 18 6) (x.extractLsb' 12 6) (x.extractLsb' 6 6))
  | 33 => some (.vrotc g (x.extractLsb' 18 6) (x.extractLsb' 12 6) (x.extractLsb' 6 6))
  | 34 => some (.vbcr g (x.extractLsb' 18 6) (x.extractLsb' 12 6) (x.extractLsb' 6 6))
  | 35 => some (.vbcc g (x.extractLsb' 18 6) (x.extractLsb' 12 6) (x.extractLsb' 6 6))
  | 36 => some (.vredr g (x.extractLsb' 18 6) (x.extractLsb' 12 6) (x.getLsbD 6) (x.extractLsb' 2 4) (x.extractLsb' 0 2))
  | 37 => some (.vredc g (x.extractLsb' 18 6) (x.extractLsb' 12 6) (x.getLsbD 6) (x.extractLsb' 2 4) (x.extractLsb' 0 2))
  | 38 => some (.vshuf g (x.extractLsb' 18 6) (x.extractLsb' 12 6) (x.extractLsb' 6 6) (x.extractLsb' 2 4))
  | 39 => some (.vtrn g (x.extractLsb' 18 6) (x.extractLsb' 12 6))
  | 40 => some (.vmov g (x.extractLsb' 18 6) (x.extractLsb' 12 6))
  | 41 => some (.vsplat g (x.extractLsb' 18 6) (x.extractLsb' 6 6) (x.extractLsb' 2 4))
  | 42 => some (.vins g (x.extractLsb' 18 6) (x.extractLsb' 12 6) (x.extractLsb' 6 6) (x.extractLsb' 2 4))
  | 43 => some (.vext g (x.extractLsb' 18 6) (x.extractLsb' 12 6) (x.extractLsb' 6 6) (x.extractLsb' 2 4))
  | 44 => some (.viota g (x.extractLsb' 18 6) (x.extractLsb' 2 4))
  | 45 => some (.vcvt g (x.extractLsb' 18 6) (x.extractLsb' 12 6) (x.extractLsb' 6 4) (x.extractLsb' 2 4) (x.extractLsb' 0 2))
  | 46 => some (.vdecmv g (x.extractLsb' 18 6) (x.extractLsb' 6 6) (x.getLsbD 0))
  | 48 => some (.vexp2 g (x.extractLsb' 18 6) (x.extractLsb' 12 6))
  | 49 => some (.vlog2 g (x.extractLsb' 18 6) (x.extractLsb' 12 6))
  | 50 => some (.vrcp g (x.extractLsb' 18 6) (x.extractLsb' 12 6))
  | 51 => some (.vrsq g (x.extractLsb' 18 6) (x.extractLsb' 12 6))
  | _ => none

/-- The S5 map (R38). -/
def rawS5 (op : Nat) (g : Bool) (x : BitVec 24) : Option Instr :=
  match op with
  | 0 => some (.nopMx g)
  | 1 => some (.mbeat g (x.getLsbD 23) (x.extractLsb' 21 2) (x.extractLsb' 15 6) (x.extractLsb' 13 2) (x.extractLsb' 10 3) (x.extractLsb' 3 7) (x.getLsbD 2) (x.getLsbD 1))
  | 2 => some (.mwsel g (x.getLsbD 23))
  | 3 => some (.mmode g (x.extractLsb' 20 4) (x.extractLsb' 16 4) (x.extractLsb' 12 4))
  | _ => none

/-- The S6 map (R38). -/
def rawS6 (op : Nat) (g : Bool) (x : BitVec 24) : Option Instr :=
  match op with
  | 0 => some (.nopAcc g)
  | 1 => some (.aget g (x.extractLsb' 18 6) (x.extractLsb' 15 3) (x.extractLsb' 8 7) (x.extractLsb' 4 4) (x.extractLsb' 2 2))
  | 2 => some (.aput g (x.extractLsb' 18 6) (x.extractLsb' 15 3) (x.extractLsb' 8 7) (x.extractLsb' 4 4))
  | 3 => some (.aputa g (x.extractLsb' 18 6) (x.extractLsb' 15 3) (x.extractLsb' 8 7) (x.extractLsb' 4 4))
  | 4 => some (.aclr g (x.extractLsb' 15 3) (x.extractLsb' 8 7))
  | _ => none

/-- The S7 map (R39), from the fields of both words (R33). -/
def rawS7 (op : Nat) (g : Bool) (t : Tail) (a b c : Spec) (imm : BitVec 9) : Option Instr :=
  match op with
  | 0 => some (.nopEng g)
  | 1 => some (.cpy g t a (imm.extractLsb' 0 4))
  | 2 => some (.stage g t a)
  | 3 => some (.rinit g t a b (imm.extractLsb' 0 5))
  | 4 => some (.rawait g t c (imm.extractLsb' 0 5))
  | 5 => some (.rrel g t a (imm.extractLsb' 0 5))
  | 6 => some (.lease g t c (imm.extractLsb' 0 3) (imm.extractLsb' 3 2))
  | 7 => some (.lcmd g t a b)
  | 8 => some (.unlease g t a)
  | 9 => some (.lwarm g t (imm.extractLsb' 0 3) (imm.getLsbD 3))
  | 10 => some (.launch g t a (imm.extractLsb' 0 7))
  | 11 => some (.wstr g t a b (imm.getLsbD 0))
  | 12 => some (.bankcfg g t a (imm.extractLsb' 0 2))
  | 13 => some (.tload g t a b imm)
  | 16 => some (.pinwin g t a b c)
  | 17 => some (.unpin g t a)
  | 18 => some (.swappg g t a b c)
  | 19 => some (.tlbinv g t a b (imm.extractLsb' 0 2))
  | 20 => some (.mapwin g t a b (imm.extractLsb' 0 4) (imm.getLsbD 4))
  | _ => none

/-- The instruction whose opcode and operand fields the words of a parcel in a slot hold, reserved fields unchecked. -/
def rawParcel (slot : Nat) (w0 w1 : W32) : Option Instr :=
  let op := (parcelOp w0).toNat
  let g := parcelG w0
  let x := parcelX w0
  match slot with
  | 0 => rawS0 op g x
  | 1 => if op = 0 then some (.nopSa g) else rawScalar op g x
  | 2 => if op = 0 then some (.nopSb g) else rawScalar op g x
  | 3 => rawS3 op g x
  | 4 => rawS4 op g x
  | 5 => rawS5 op g x
  | 6 => rawS6 op g x
  | 7 => rawS7 op g (tailOf w0 w1) (w1.extractLsb' 26 6) (w1.extractLsb' 20 6) (w1.extractLsb' 14 6) (w1.extractLsb' 0 9)
  | _ => none

/-- A parcel of a slot: an opcode absent from the map is illegal (R40); a reserved code, a nonzero reserved field or
an S1-only op in S2 makes the bundle illegal (R25, R35). -/
def decodeParcel (slot : Nat) (w0 w1 : W32) : Except DecErr Instr :=
  match rawParcel slot w0 w1 with
  | none => .error .illegalOp
  | some i => if i.slots.contains slot && i.wf && encodeParcel i == (w0, w1) then .ok i else .error .illegalBundle

/-- A 16-bit unit of two bytes, little-endian (R7, R14). -/
def unitOf (lo hi : Byte) : HUnit := hi ++ lo

/-- A 32-bit word of two units, low unit first (R21). -/
def wordOf (lo hi : HUnit) : W32 := hi ++ lo

def loUnit (w : W32) : HUnit := w.extractLsb' 0 16
def hiUnit (w : W32) : HUnit := w.extractLsb' 16 16

/-- `n` words from a list of units, with the units that remain. -/
def takeWords : Nat → List HUnit → Option (List W32 × List HUnit)
  | 0, us => some ([], us)
  | n + 1, lo :: hi :: us =>
    match takeWords n us with
    | some (ws, rest) => some (wordOf lo hi :: ws, rest)
    | none => none
  | _ + 1, _ => none

/-- The index and the repeat count of a template call unit (R19). -/
def tcallOf (u : HUnit) : Instr := .tcall (u.extractLsb' 6 9) (u.extractLsb' 0 6)

/-- One instruction of the stream of units, with the units that remain (R18, R20, R21). -/
def decodeUnits : List HUnit → Except DecErr (Instr × List HUnit)
  | [] => .error .truncated
  | u :: us =>
    if u.getLsbD 15 then .ok (tcallOf u, us)
    else
      match us with
      | [] => .error .truncated
      | v :: rest =>
        match takeWords (bundleWords (wordOf u v)) rest with
        | some (ws, rest') => .ok (.fullBundle (wordOf u v) ws, rest')
        | none => .error .truncated

/-- The units of a list of bytes; an odd byte at the end is dropped. -/
def unitsOf : List Byte → List HUnit
  | lo :: hi :: bs => unitOf lo hi :: unitsOf bs
  | _ => []

/-- The decoder of the instruction stream, total on any bytes. -/
def decode (bs : List Byte) : Except DecErr (Instr × List HUnit) := decodeUnits (unitsOf bs)

/-- The units of a word, low unit first (R21). -/
def unitsOfWord (w : W32) : List HUnit := [loUnit w, hiUnit w]

/-- The bytes of a unit, low byte first (R7). -/
def bytesOfUnit (u : HUnit) : List Byte := [u.extractLsb' 0 8, u.extractLsb' 8 8]

/-- The units of an instruction: a bundle's header and words, a call's unit, a parcel's word or words. -/
def encodeUnits (i : Instr) : List HUnit :=
  match i with
  | .fullBundle hdr ws => unitsOfWord hdr ++ ws.flatMap unitsOfWord
  | .tcall index rc => [(1#1 ++ index ++ rc : BitVec 16)]
  | _ =>
    match i.slots with
    | [] => []
    | 7 :: _ => unitsOfWord (encodeParcel i).1 ++ unitsOfWord (encodeParcel i).2
    | _ => unitsOfWord (encodeParcel i).1

/-- The bytes of an instruction. -/
def encode (i : Instr) : List Byte := (encodeUnits i).flatMap bytesOfUnit

/-- The slots in the order in which a lone word is tried (assumption log 6). -/
def tableSlots : List Nat := [1, 2, 3, 4, 5, 6, 0]

/-- The first slot of the list in which a word is a legal parcel, with its instruction. -/
def firstSlot (w0 : W32) : List Nat → Option (Nat × Instr)
  | [] => none
  | k :: ks =>
    match decodeParcel k w0 0 with
    | .ok i => some (k, i)
    | .error _ => firstSlot w0 ks

/-- The slot and the instruction of a table word: 16 bits are a template call, 32 bits a parcel of slots S0–S6 in the
order of `tableSlots`, 64 bits a parcel of S7, word 0 in bits 31:0 (R33; assumption log 6). -/
def tableParcel (nbits w : Nat) : Option (Nat × Instr) :=
  let w0 : W32 := BitVec.ofNat 32 w
  if nbits ≤ 32 then firstSlot w0 tableSlots
  else
    match decodeParcel 7 w0 (BitVec.ofNat 32 (w / 2 ^ 32)) with
    | .ok i => some (7, i)
    | .error _ => none

/-- The instruction the decoder reads from a table word. -/
def decodeTableWord (nbits w : Nat) : Option Instr :=
  if nbits ≤ 16 then
    match decodeUnits [BitVec.ofNat 16 w] with
    | .ok (i, _) => some i
    | .error _ => none
  else (tableParcel nbits w).map Prod.snd

end Sys2Proof
end

