-- ==== Sys2Proof/Machine/Float.lean ====
section
/-!
DEFINITION. Number formats, exact values, rounding, status, conversions and microscaling (04 R122–R137).
A finite value is held exactly, as a sign, a magnitude and a power of two; each operation forms its exact result and
rounds it once.
-/

namespace Sys2Proof.Machine

/-- The rounding modes (R30, R119): nearest even, towards zero, down, up. -/
inductive Rm where
  | rne | rtz | rdn | rup
  deriving DecidableEq, Repr

/-- The rounding mode of a two-bit code (R30). -/
def rmOf (c : BitVec 2) : Rm :=
  match c.toNat with
  | 0 => .rne
  | 1 => .rtz
  | 2 => .rdn
  | _ => .rup

/-- How a format spends its highest exponent (R122): infinities and NaNs, one NaN, or numbers only. -/
inductive Top where
  | ieee | oneNan | finite
  deriving DecidableEq, Repr

/-- A floating-point format (R122): widths of E and M, the bias, and the use of the highest exponent. -/
structure Fmt where
  eb : Nat
  mb : Nat
  bias : Nat
  top : Top
  deriving DecidableEq, Repr

def fp32 : Fmt := ⟨8, 23, 127, .ieee⟩
def bf16 : Fmt := ⟨8, 7, 127, .ieee⟩
def fp16 : Fmt := ⟨5, 10, 15, .ieee⟩
def e4m3 : Fmt := ⟨4, 3, 7, .oneNan⟩
def e5m2 : Fmt := ⟨5, 2, 15, .ieee⟩
def e3m2 : Fmt := ⟨3, 2, 3, .finite⟩
def e2m3 : Fmt := ⟨2, 3, 1, .finite⟩
def e2m1 : Fmt := ⟨2, 1, 1, .finite⟩

/-- The width of a format in bits. -/
def Fmt.width (f : Fmt) : Nat := 1 + f.eb + f.mb

/-- The status bits of R130 as a mask in the layout of `FPSTATUS`. -/
abbrev Status := BitVec 6

def stNone : Status := 0
def stIV : Status := 1
def stDZ : Status := 2
def stOF : Status := 4
def stUF : Status := 8
def stIX : Status := 16
def stSAT : Status := 32

/-- What an encoding stands for (R122, R124): a NaN, an infinity, or the finite value (−1)^neg · m · 2^e. -/
inductive Fv where
  | nan (signaling : Bool)
  | inf (neg : Bool)
  | fin (neg : Bool) (m : Nat) (e : Int)
  deriving DecidableEq, Repr

/-- An exact dyadic rational, m · 2^e. -/
structure Dy where
  m : Int
  e : Int
  deriving DecidableEq, Repr

/-- The integer m with m · 2^e0 = d, for e0 at most d's exponent. -/
def Dy.at (d : Dy) (e0 : Int) : Int := d.m * (2 : Int) ^ (d.e - e0).toNat

/-- The lesser of two integers. -/
def minInt (a b : Int) : Int := if a ≤ b then a else b

/-- The greater of two integers. -/
def maxInt (a b : Int) : Int := if a ≤ b then b else a

def Dy.add (a b : Dy) : Dy :=
  let e0 := minInt a.e b.e
  ⟨a.at e0 + b.at e0, e0⟩

def Dy.neg (a : Dy) : Dy := ⟨-a.m, a.e⟩
def Dy.mul (a b : Dy) : Dy := ⟨a.m * b.m, a.e + b.e⟩

/-- a ≤ b. -/
def Dy.le (a b : Dy) : Bool := let e0 := minInt a.e b.e; a.at e0 ≤ b.at e0

/-- a < b. -/
def Dy.lt (a b : Dy) : Bool := let e0 := minInt a.e b.e; a.at e0 < b.at e0

/-- The value of a finite encoding. -/
def dyOf (neg : Bool) (m : Nat) (e : Int) : Dy := ⟨if neg then -(m : Int) else m, e⟩

/-- The decoding of R122 and R124. -/
def Fmt.decode (f : Fmt) (x : Nat) : Fv :=
  let neg := x / 2 ^ (f.eb + f.mb) % 2 == 1
  let ex := x / 2 ^ f.mb % 2 ^ f.eb
  let ma := x % 2 ^ f.mb
  let isTop := ex == 2 ^ f.eb - 1
  if f.top == .ieee && isTop then
    if ma = 0 then .inf neg else .nan (ma < 2 ^ (f.mb - 1))
  else if f.top == .oneNan && isTop && ma == 2 ^ f.mb - 1 then .nan false
  else if ex = 0 then .fin neg ma (1 - (f.bias : Int) - f.mb)
  else .fin neg (2 ^ f.mb + ma) ((ex : Int) - f.bias - f.mb)

/-- The canonical NaN (R123). -/
def Fmt.nan (f : Fmt) : Nat :=
  match f.top with
  | .ieee => (2 ^ f.eb - 1) * 2 ^ f.mb + 2 ^ (f.mb - 1)
  | _ => 2 ^ (f.eb + f.mb) - 1

/-- The largest finite magnitude (R123). -/
def Fmt.maxFin (f : Fmt) : Nat :=
  match f.top with
  | .ieee => (2 ^ f.eb - 1) * 2 ^ f.mb - 1
  | .oneNan => 2 ^ (f.eb + f.mb) - 2
  | .finite => 2 ^ (f.eb + f.mb) - 1

/-- A sign above a magnitude. -/
def Fmt.signed (f : Fmt) (neg : Bool) (mag : Nat) : Nat := if neg then 2 ^ (f.eb + f.mb) + mag else mag

/-- An infinity, or the largest finite value of a format without infinities (R128). -/
def Fmt.inf (f : Fmt) (neg : Bool) : Nat :=
  f.signed neg (match f.top with | .ieee => (2 ^ f.eb - 1) * 2 ^ f.mb | _ => f.maxFin)

/-- Whether rounding moves away from zero, for a magnitude whose kept part is `lo` and whose discarded part is
`rem` of `2 · half` (R127). -/
def roundsUp (rm : Rm) (neg : Bool) (lo rem half : Nat) : Bool :=
  match rm with
  | .rne => half < rem || (rem == half && lo % 2 == 1)
  | .rtz => false
  | .rdn => neg && rem != 0
  | .rup => !neg && rem != 0

/-- A magnitude m · 2^e in units of 2^q, rounded, and whether rounding was inexact. -/
def roundAt (rm : Rm) (neg : Bool) (m : Nat) (e q : Int) : Nat × Bool :=
  if q ≤ e then (m * 2 ^ (e - q).toNat, false)
  else
    let k := (q - e).toNat
    let lo := m / 2 ^ k
    let rem := m % 2 ^ k
    (if roundsUp rm neg lo rem (2 ^ (k - 1)) then lo + 1 else lo, rem != 0)

/-- The overflowed result (R128). -/
def Fmt.overflow (f : Fmt) (rm : Rm) (neg : Bool) : Nat :=
  match f.top with
  | .ieee =>
    match rm with
    | .rne => f.inf neg
    | .rtz => f.signed neg f.maxFin
    | .rdn => if neg then f.inf neg else f.signed neg f.maxFin
    | .rup => if neg then f.signed neg f.maxFin else f.inf neg
  | _ => f.signed neg f.maxFin

/-- round(x) of R127–R130 for x = (−1)^neg · m · 2^e: the encoding and its status; a zero keeps the sign given. -/
def Fmt.round (f : Fmt) (rm : Rm) (neg : Bool) (m : Nat) (e : Int) : Nat × Status :=
  if m = 0 then (f.signed neg 0, stNone)
  else
    let emin : Int := 1 - (f.bias : Int)
    let l : Int := (Nat.log2 m : Int) + e
    let ex := maxInt l emin
    let (mant, inexact) := roundAt rm neg m e (ex - f.mb)
    let mag := (ex + f.bias).toNat * 2 ^ f.mb + mant - 2 ^ f.mb
    if f.maxFin < mag then (f.overflow rm neg, stOF ||| stIX)
    else
      let free := (roundAt rm neg m e (l - f.mb)).1
      let tiny := l < emin && !(l == emin - 1 && free == 2 ^ (f.mb + 1))
      (f.signed neg mag, (if inexact then stIX else stNone) ||| (if tiny && inexact then stUF else stNone))

/-- round(x) of a dyadic; an exact zero takes the sign `zneg` (R129). -/
def Fmt.roundDy (f : Fmt) (rm : Rm) (zneg : Bool) (d : Dy) : Nat × Status :=
  if d.m = 0 then f.round rm zneg 0 0 else f.round rm (d.m < 0) d.m.natAbs d.e

/-- Whether an encoding stands for a signaling NaN. -/
def Fv.sig : Fv → Bool
  | .nan s => s
  | _ => false

/-- Whether an encoding stands for a NaN. -/
def Fv.isNan : Fv → Bool
  | .nan _ => true
  | _ => false

/-- The NaN result with the invalid status where a signaling NaN or an invalid case asks for it (R119, R130). -/
def Fmt.nanRes (f : Fmt) (iv : Bool) : Nat × Status := (f.nan, if iv then stIV else stNone)

/-- Negation of a value. -/
def Fv.neg : Fv → Fv
  | .nan s => .nan s
  | .inf n => .inf !n
  | .fin n m e => .fin (!n) m e

/-- The sign of an exact zero sum (R129). -/
def zeroSign (rm : Rm) (na nb : Bool) : Bool := if na = nb then na else rm == .rdn

/-- round(k · (a + b)) with k = 2^sc: `FADD` and `VADD` with sc = 0, `VADDS` with sc = −1 (R119, R129, R150). -/
def Fmt.addV (f : Fmt) (rm : Rm) (sc : Int) (a b : Fv) : Nat × Status :=
  match a, b with
  | .nan s, y => f.nanRes (s || y.sig)
  | x, .nan s => f.nanRes (s || x.sig)
  | .inf n, .inf k => if n = k then (f.inf n, stNone) else f.nanRes true
  | .inf n, .fin .. => (f.inf n, stNone)
  | .fin .., .inf n => (f.inf n, stNone)
  | .fin na ma ea, .fin nb mb eb =>
    let s := (dyOf na ma ea).add (dyOf nb mb eb)
    f.roundDy rm (zeroSign rm na nb) ⟨s.m, s.e + sc⟩

/-- round(a + b). -/
def Fmt.add (f : Fmt) (rm : Rm) (x y : Nat) : Nat × Status := f.addV rm 0 (f.decode x) (f.decode y)

/-- round(a − b). -/
def Fmt.sub (f : Fmt) (rm : Rm) (x y : Nat) : Nat × Status := f.addV rm 0 (f.decode x) (f.decode y).neg

/-- round((a + b) / 2). -/
def Fmt.addHalf (f : Fmt) (rm : Rm) (x y : Nat) : Nat × Status := f.addV rm (-1) (f.decode x) (f.decode y)

/-- round((a − b) / 2). -/
def Fmt.subHalf (f : Fmt) (rm : Rm) (x y : Nat) : Nat × Status := f.addV rm (-1) (f.decode x) (f.decode y).neg

/-- round(a × b) (R119, R129). -/
def Fmt.mul (f : Fmt) (rm : Rm) (x y : Nat) : Nat × Status :=
  match f.decode x, f.decode y with
  | .nan s, b => f.nanRes (s || b.sig)
  | a, .nan s => f.nanRes (s || a.sig)
  | .inf n, .inf k => (f.inf (n != k), stNone)
  | .inf n, .fin k m _ => if m = 0 then f.nanRes true else (f.inf (n != k), stNone)
  | .fin n m _, .inf k => if m = 0 then f.nanRes true else (f.inf (n != k), stNone)
  | .fin n m e, .fin k m' e' => f.round rm (n != k) (m * m') (e + e')

/-- The product of two values that are no NaNs; none for 0 × ∞. -/
def Fv.mul : Fv → Fv → Option Fv
  | .inf n, .inf k => some (.inf (n != k))
  | .inf n, .fin k m _ => if m = 0 then none else some (.inf (n != k))
  | .fin n m _, .inf k => if m = 0 then none else some (.inf (n != k))
  | .fin n m e, .fin k m' e' => some (.fin (n != k) (m * m') (e + e'))
  | .nan s, _ => some (.nan s)
  | _, .nan s => some (.nan s)

/-- Whether a pair is 0 × ∞. -/
def zeroTimesInf : Fv → Fv → Bool
  | .inf _, .fin _ m _ => m == 0
  | .fin _ m _, .inf _ => m == 0
  | _, _ => false

/-- round(a × b + c) with one rounding; 0 × ∞ is invalid whatever the addend (R119). -/
def Fmt.fma (f : Fmt) (rm : Rm) (x y z : Nat) : Nat × Status :=
  let a := f.decode x
  let b := f.decode y
  let c := f.decode z
  if zeroTimesInf a b then f.nanRes true
  else if a.isNan || b.isNan || c.isNan then f.nanRes (a.sig || b.sig || c.sig)
  else
    match a.mul b with
    | none => f.nanRes true
    | some p => f.addV rm 0 p c

/-- a ≤ b for values that are no NaNs, with −0 and +0 equal. -/
def Fv.le : Fv → Fv → Bool
  | .inf true, _ => true
  | _, .inf false => true
  | .inf false, _ => false
  | _, .inf true => false
  | .fin n m e, .fin n' m' e' => (dyOf n m e).le (dyOf n' m' e')
  | _, _ => false

/-- The sign of a value. -/
def Fv.isNeg : Fv → Bool
  | .inf n => n
  | .fin n _ _ => n
  | .nan _ => false

/-- The smaller of a and b; −0 < +0; a NaN operand gives NaN (R119). -/
def Fmt.min (f : Fmt) (x y : Nat) : Nat × Status :=
  let a := f.decode x
  let b := f.decode y
  if a.isNan || b.isNan then f.nanRes (a.sig || b.sig)
  else if a.le b && b.le a then (if a.isNeg then x else y, stNone)
  else (if a.le b then x else y, stNone)

/-- The larger of a and b; −0 < +0; a NaN operand gives NaN (R119). -/
def Fmt.max (f : Fmt) (x y : Nat) : Nat × Status :=
  let a := f.decode x
  let b := f.decode y
  if a.isNan || b.isNan then f.nanRes (a.sig || b.sig)
  else if a.le b && b.le a then (if a.isNeg then y else x, stNone)
  else (if a.le b then y else x, stNone)

/-- The sign bit cleared; a NaN gives the canonical NaN; no status (R119, R150). -/
def Fmt.abs (f : Fmt) (x : Nat) : Nat := if (f.decode x).isNan then f.nan else x % 2 ^ (f.eb + f.mb)

/-- The sign bit inverted; a NaN gives the canonical NaN; no status (R119, R150). -/
def Fmt.negate (f : Fmt) (x : Nat) : Nat :=
  if (f.decode x).isNan then f.nan
  else if x / 2 ^ (f.eb + f.mb) % 2 = 1 then x - 2 ^ (f.eb + f.mb) else x + 2 ^ (f.eb + f.mb)

/-- The conditions of `FCMP` (R120). -/
def Fmt.cmp (f : Fmt) (cond : BitVec 3) (x y : Nat) : Bool × Status :=
  let a := f.decode x
  let b := f.decode y
  let un := a.isNan || b.isNan
  let eq := !un && a.le b && b.le a
  let lt := !un && a.le b && !b.le a
  let gt := !un && b.le a && !a.le b
  let quiet : Status := if a.sig || b.sig then stIV else stNone
  let ordered : Status := if un then stIV else stNone
  match cond.toNat with
  | 0 => (eq, quiet)
  | 1 => (!eq, quiet)
  | 2 => (lt, ordered)
  | 3 => (lt || eq, ordered)
  | 4 => (gt, ordered)
  | 5 => (gt || eq, ordered)
  | 6 => (un, quiet)
  | _ => (!un, quiet)

/-- The bounds of an integer type of width w (R126). -/
def intMin (signed : Bool) (w : Nat) : Int := if signed then -(2 : Int) ^ (w - 1) else 0
def intMax (signed : Bool) (w : Nat) : Int := if signed then (2 : Int) ^ (w - 1) - 1 else (2 : Int) ^ w - 1

/-- The low w bits of an integer. -/
def wrapInt (w : Nat) (x : Int) : Nat := (x % (2 : Int) ^ w).toNat

/-- The integer that w bits hold. -/
def readInt (signed : Bool) (w : Nat) (x : Nat) : Int :=
  if signed && x / 2 ^ (w - 1) % 2 == 1 then (x % 2 ^ w : Nat) - (2 : Int) ^ w else (x % 2 ^ w : Nat)

/-- An integer rounded to a format (R121, R132). -/
def Fmt.ofInt (f : Fmt) (rm : Rm) (x : Int) : Nat × Status := f.roundDy rm false ⟨x, 0⟩

/-- A value converted to an integer type: a NaN gives 0, a value out of range the nearer bound, both invalid
(R121, R163). -/
def Fv.toInt (rm : Rm) (signed : Bool) (w : Nat) : Fv → Int × Status
  | .nan _ => (0, stIV)
  | .inf n => (if n then intMin signed w else intMax signed w, stIV)
  | .fin n m e =>
    let (mag, inexact) := roundAt rm n m e 0
    let y : Int := if n then -(mag : Int) else mag
    if y < intMin signed w then (intMin signed w, stIV)
    else if intMax signed w < y then (intMax signed w, stIV)
    else (y, if inexact then stIX else stNone)

/-- A value delivered in a format (R128, R132): canonical NaN, infinity or largest finite, one rounding. -/
def Fmt.deliver (g : Fmt) (rm : Rm) : Fv → Nat × Status
  | .nan s => g.nanRes s
  | .inf n => (g.inf n, if g.top == .ieee then stNone else stOF ||| stIX)
  | .fin n m e => g.round rm n m e

/-- A conversion between formats (R132). -/
def convert (f g : Fmt) (rm : Rm) (x : Nat) : Nat × Status := g.deliver rm (f.decode x)

/-- FP32 rounded to nearest even of a dyadic, status dropped: the intermediate roundings of R164. -/
def rne32 (d : Dy) : Dy :=
  match fp32.decode (fp32.roundDy .rne false d).1 with
  | .fin n m e => dyOf n m e
  | _ => ⟨0, 0⟩

/-- The exponent of the largest element magnitude of an MX element format (R133). -/
def mxEmax (g : Fmt) : Int := if g == e4m3 then 8 else if g == e5m2 then 15 else if g == e3m2 then 4 else 2

/-- The largest magnitude of a list of finite values. -/
def maxMag : List Fv → Dy
  | [] => ⟨0, 0⟩
  | .fin _ m e :: vs => let r := maxMag vs; if r.lt ⟨m, e⟩ then ⟨m, e⟩ else r
  | _ :: vs => maxMag vs

/-- The microscaling rule for one block (R133): the scale byte and the elements. -/
def mxBlock (g : Fmt) (vs : List Fv) : Nat × List Nat :=
  if vs.any (fun v => match v with | .fin .. => false | _ => true) then (0xFF, vs.map fun _ => 0)
  else
    let a := maxMag vs
    if a.m = 0 then (0, vs.map fun _ => 0)
    else
      let s := maxInt ((Nat.log2 a.m.natAbs : Int) + a.e - mxEmax g) (-127)
      ((s + 127).toNat, vs.map fun v =>
        match v with
        | .fin n m e =>
          let r := g.round .rne n m (e - s)
          if g.top == .ieee && f_isInf g r.1 then g.signed n g.maxFin else r.1
        | _ => 0)
where
  /-- Whether an encoding of a format with infinities is one. -/
  f_isInf (g : Fmt) (x : Nat) : Bool := match g.decode x with | .inf _ => true | _ => false

end Sys2Proof.Machine
end

