-- ==== Sys2Proof/Machine/State.lean ====
section
/-!
DEFINITION. The state of the domain as plain data, everything the spec gives the machine, and the state after reset.
Sparse maps are lists of key and value pairs with strictly rising keys.
-/

namespace Sys2Proof.Machine

/-- A finite map's value at a key, with the value an unlisted key reads as. -/
def mget {α : Type} (d : α) (k : Nat) : Map α → α
  | [] => d
  | (k', v) :: t => if k = k' then v else mget d k t

/-- A finite map with a key set. -/
def mput {α : Type} (k : Nat) (v : α) : Map α → Map α
  | [] => [(k, v)]
  | (k', v') :: t =>
    if k < k' then (k, v) :: (k', v') :: t else if k = k' then (k, v) :: t else (k', v') :: mput k v t

/-- A finite map without a key. -/
def merase {α : Type} (k : Nat) (l : Map α) : Map α := l.filter fun p => p.1 != k

/-- A change to every entry of a finite map. -/
def mmap {α : Type} (f : α → α) (l : Map α) : Map α := l.map fun p => (p.1, f p.2)

/-- A finite map with a key set, listing no entry that equals what an unlisted key reads as. -/
def mset {α : Type} [DecidableEq α] (d : α) (k : Nat) (v : α) (l : Map α) : Map α :=
  if v = d then merase k l else mput k v l

/-- Whether the keys of a map rise strictly. -/
def mrising {α : Type} : Map α → Bool
  | [] => true
  | [_] => true
  | (k, _) :: (k', v') :: t => decide (k < k') && mrising ((k', v') :: t)

/-- The canonical form of a map of values: strictly rising keys, no entry equal to what an unlisted key reads as. -/
def mwf {α : Type} [DecidableEq α] (d : α) (l : Map α) : Bool := mrising l && l.all fun p => p.2 != d

/-- A register set of a level: named registers, presence and poison bits, result queue (R73, R94, R99). -/
structure RegSet where
  n : Map Word
  pres : BitVec 32
  pois : BitVec 32
  q : List Word
  deriving DecidableEq, Repr

/-- A register set of a newly created context (R61). -/
def RegSet.init : RegSet := { n := [], pres := BitVec.allOnes 32, pois := 0, q := List.replicate 16 0 }

/-- The cursors of a context (R41): S3 and S5 source in bytes, S5 destination and S6 in rows. -/
structure Cursors where
  s3 : Int := 0
  s5s : Int := 0
  s5d : Int := 0
  s6 : Int := 0
  deriving DecidableEq, Repr

/-- An entry of the loop stack (R79): units of the current bank, and the count left. -/
structure LoopEntry where
  start : Nat
  stop : Nat
  bank : Nat
  count : Nat
  deriving DecidableEq, Repr

/-- The words of a parcel. -/
structure Parcel where
  w0 : W32
  w1 : W32
  deriving DecidableEq, Repr

/-- What trap entry saves beside the trap registers (R75): sticky slots with their ops, cursors and loop stack. -/
structure Frame where
  sticky : Map Parcel := []
  cursors : Cursors := {}
  loops : List LoopEntry := []
  deriving DecidableEq, Repr

/-- What a trap records beside its resume point: cause code (R404), `TRAPINFO0.SLOT` and `DETAIL` (R91), `TRAPINFO1`. -/
structure Trap where
  cause : Nat
  slot : Nat := 0
  detail : Nat := 0
  info1 : Word := 0
  deriving DecidableEq, Repr

/-- Where an entry at the head of its queue stands: not started; a conditioned op parked since a tick (R209); a request
in flight whose answer it awaits (R349, R360); a watch armed (R363); a kind-1 fetch done (R182); a not-before load that a debug
halt has withdrawn, at rest until the core resumes (R361). -/
inductive EntryPhase where
  | queued
  | resting
  | parked (since : Nat)
  | sent (p : Nat)
  | watching
  | fetched (bytes : List Byte)
  deriving DecidableEq, Repr

/-- An entry of a streaming queue (R67): the parcel as issued, the values captured at issue in field order, the cursors
it uses, its repetition index and bundle, its place in program order, the level it issued at, whether it issued in a
checkpoint bundle (R408), whether it is the faulting entry of a trap (R405), and how far it has come; of an S7 command also
the commands that produce the tokens it consumes and have not ended, by their place in program order, and whether one it
consumes has failed (R43, R71); `PAGEROOT` and `ASID` as it issued (R295); the SCM lines written by the commands whose tokens an
S7 command consumes (R310). -/
structure Entry where
  slot : Nat
  par : Parcel
  vals : List Word
  cur : Int
  cur2 : Int
  rep : Nat
  pc : Nat
  ord : Nat
  sys : Bool
  ckpt : Bool
  fault : Bool
  phase : EntryPhase
  waits : List Nat := []
  dead : Bool := false
  root : Word := 0
  asid : Word := 0
  scm : List Nat := []
  deriving DecidableEq, Repr

/-- A register that a streaming op writes: a named register of a level's set, or a vector register. -/
inductive Dst where
  | n (sys : Bool) (i : Nat)
  | v (i : Nat)
  deriving DecidableEq, Repr

/-- The result of a streaming op before it takes effect: the value of a named register or the columns of a vector
register, the poison it carries, whether the register keeps its old value (R71, R308), the status bits that are set
with it (R131), whether it ends an `AGET` (R186), and the decision register where the op writes it (R147, R154). -/
structure OutVal where
  word : Word := 0
  vec : Map W32 := []
  poison : Bool := false
  keep : Bool := false
  status : Status := stNone
  awc : Bool := false
  vdec : Option (BitVec 2048) := none
  deriving DecidableEq, Repr

/-- An outstanding write of a streaming op (R69, R140): listed at issue, valued when the op has its result. -/
structure Out where
  ord : Nat
  slot : Nat
  dst : Dst
  val : Option OutVal
  deriving DecidableEq, Repr

/-- A fault of a streaming op, detected and not yet reported (R74): the faulting entry is held; `drop` as in R75. -/
structure SFault where
  slot : Nat
  ord : Nat
  trap : Trap
  drop : Bool
  deriving DecidableEq, Repr

/-- The state of a token (R71). -/
inductive Tok where
  | complete | pending | failed
  deriving DecidableEq, Repr

/-- The states of a hardware context (R59); a bound context runs or retires after `EXIT` (R83), and one whose state moves to or from
its save area is to retire or to run afterwards. -/
inductive Phase where
  | free | running | retiring
  | saving (retiring : Bool)
  deriving DecidableEq, Repr

/-- The state of a lease slot (R260, R261). -/
inductive LeaseState where
  | free | pending | held | lost
  deriving DecidableEq, Repr

/-- A lease slot of a context (R260, R261): handle, state, reason of a loss, requested kind and priority, serial. -/
structure LeaseSlot where
  handle : BitVec 32 := 0
  st : LeaseState := .free
  why : BitVec 2 := 0
  kind : BitVec 3 := 0
  prio : BitVec 2 := 0
  serial : BitVec 16 := 0
  deriving DecidableEq, Repr

/-- The energy window (R391): weights of the 32 most recent entries, newest first, and which are stalls. -/
structure EnergyWin where
  weights : List Nat := List.replicate 32 0
  stalls : List Bool := List.replicate 32 false
  deriving DecidableEq, Repr

/-- A row of 128 values of an accumulator bank (R184) or of the array's pipeline (R178). -/
abbrev AccRow := List W32

/-- A row of zeros. -/
def accZero : AccRow := List.replicate 128 0

/-- Where an access goes: scratch by its offset, a FIFO port by bank and offset in the port, the instruction banks and
the ring state by window offset (R201), or memory by key with the leaf's MODE (R297). -/
inductive Place where
  | scratch (off : Nat)
  | fifo (bank off : Nat)
  | ibank (off : Nat)
  | ring (off : Nat)
  | mem (key : Nat) (mode : BitVec 2)
  deriving DecidableEq, Repr

/-- A part of an access that lies in one line. -/
structure Piece where
  place : Place
  len : Nat
  deriving DecidableEq, Repr

/-- A store held until the region's checkpoint (R409): its entry, one part of its access with the bytes, whether they are poisoned,
the step in which it was translated, and whether it is the last part of an access that writes all of its line (R308). -/
structure HeldStore where
  entry : Entry
  piece : Piece
  bytes : List Byte
  poison : Bool
  tick : Nat := 0
  whole : Bool := false
  deriving DecidableEq, Repr

/-- A row of a weight plane (R176): the 128 bytes of its elements and its eight scale bytes. -/
structure PlaneRow where
  w : List Byte := List.replicate 128 0
  sc : List Byte := List.replicate 8 0
  deriving DecidableEq, Repr

/-- A weight plane or a half of the weight buffer (R176): 128 rows. -/
abbrev Plane := Map PlaneRow

/-- A row in the pipeline of the array (R178): 128 column values and its poison. -/
structure PipeRow where
  vals : AccRow
  poison : Bool
  deriving DecidableEq, Repr

/-- The matrix array and the weight buffer of a core (R172, R176, R177, R187, R194). -/
structure MatArray where
  pipe : List (Option PipeRow) := List.replicate 130 none
  active : Plane := []
  shadow : Plane := []
  activePois : Bool := false
  shadowPois : Bool := false
  wb0 : Plane := []
  wb1 : Plane := []
  full0 : Bool := false
  full1 : Bool := false
  poisRows0 : List Nat := []
  poisRows1 : List Nat := []
  sel : Bool := false
  p : BitVec 7 := 0
  afmt : BitVec 4 := 0
  wfmt : BitVec 4 := 0
  dfmt : BitVec 4 := 0
  clean : Bool := false
  deriving DecidableEq, Repr

/-- A command in progress (R71): issuing context and cluster, its entry, since when it runs, the playbook entry it carries
out, the launch and rank of its context while that is saved (R382), its descriptor once read, the elements or
blocks a copy has moved, the ring slot it is bound to with its credit, since when an answer PARKED holds it up, the value of
`RESULT` with its poison, a failure found, since when it waits for a pop or a push of a FIFO bank (R213), the SCM lines it has
written (R310), and of scratch words that a copy has written in parts the bytes that hold clean data (R210). -/
structure Command where
  cx : Nat
  cl : Nat
  entry : Entry
  since : Nat := 0
  play : Option (Nat × Nat) := none
  area : Option (Nat × Nat) := none
  begun : Bool := false
  desc : List Byte := []
  moved : Nat := 0
  bound : Option (Nat × Nat × Nat) := none
  parked : Option Nat := none
  result : Option (Word × Bool) := none
  fail : Option Nat := none
  fifo : Option (Nat × Nat × Bool) := none
  scm : List Nat := []
  cover : Map (BitVec 8) := []
  deriving DecidableEq, Repr

/-- The part of a context that a rollback restores (R406). -/
structure Snapshot where
  pc : Nat := 0
  rcLeft : Nat := 0
  mid : Bool := false
  sys : Bool := false
  prog : RegSet := RegSet.init
  shad : RegSet := RegSet.init
  v : Map (Map W32) := []
  vpres : Word := BitVec.allOnes 64
  vpois : Word := 0
  vdec : BitVec 2048 := 0
  flags : BitVec 16 := 0
  fpstatus : Status := stNone
  engfail : Word := 0
  loops : List LoopEntry := []
  cursors : Cursors := {}
  sticky : Map Parcel := []
  awc : Nat := 0
  frame : Frame := {}
  trapcause : Word := 0
  trappc : Word := 0
  info0 : Word := 0
  info1 : Word := 0
  trapvec : BitVec 16 := 0
  skipS0 : Bool := false
  retiring : Bool := false
  acc : Map AccRow := []
  accPois : Map Bool := []
  held : List Entry := []
  engrec : Bool := false
  energy : EnergyWin := {}
  deriving DecidableEq, Repr

/-- The region signature: five running CRC32C values (R412). -/
structure RegionSig where
  sc : BitVec 32 := 0xFFFFFFFF
  s3 : BitVec 32 := 0xFFFFFFFF
  s4 : BitVec 32 := 0xFFFFFFFF
  s5 : BitVec 32 := 0xFFFFFFFF
  s6 : BitVec 32 := 0xFFFFFFFF
  deriving DecidableEq, Repr

/-- The guard state of a context of an error-guarded launch (R406–R414): snapshot, hold buffer, region counts, signature,
the runs compared, whether two that agree let the region commit, whether held stores have been released since the checkpoint,
whether a checkpoint bundle has issued whose snapshot is to come, and the weight streams of the closing
checkpoint bundle that have ended since, by die and engine (R196); `err` a detected error still to be dealt with, and whether
its source is a scratch word (R413). -/
structure Guard where
  snap : Snapshot := {}
  hold : List HeldStore := []
  reps : Nat := 0
  holdCount : Nat := 0
  rows : List Nat := []
  vregs : List Nat := []
  sig : RegionSig := {}
  runs : List (Nat × RegionSig) := []
  committing : Bool := false
  released : Bool := false
  closing : Bool := false
  err : Option Bool := none
  wstr : List (Nat × Nat × Command) := []
  deriving DecidableEq, Repr

/-- A bundle that its context has decoded and issued in part (R50, R52): the instruction, and of a template call the entry
that it read. -/
structure Decoded where
  instr : Instr
  entry : BitVec 256 := 0
  deriving DecidableEq, Repr

/-- A hardware context (R59, R60). `pc` holds the bank times 32,768 plus the unit index 0–16,384, so that a sequence that
runs past the end of a bank stays in it (R17). `frozen` says that its entries not started are held where they stand, at a
stop (R381) or a quiesced halt (R416). `decoded` is the bundle of which `rcLeft` repetitions are left, as it was decoded; `leftTag` is the save area that the slots of a context which is not bound
still belong to, those valid in `vvalid` (R143);
`unpersisted` lists the SCM lines that a `PERSIST` covers, `flagScm` and `tokScm` those written by commands that have set a flag
or completed a token which the context has not waited on (R310). -/
structure Ctx where
  phase : Phase := .free
  pc : Nat := 0
  rcLeft : Nat := 0
  mid : Bool := false
  decoded : Option Decoded := none
  sys : Bool := false
  prog : RegSet := RegSet.init
  shad : RegSet := RegSet.init
  v : Map (Map W32) := []
  vpres : Word := BitVec.allOnes 64
  vpois : Word := 0
  vvalid : Word := BitVec.allOnes 64
  leftTag : Option Word := none
  vdirty : Word := BitVec.allOnes 64
  vdec : BitVec 2048 := 0
  flags : BitVec 16 := 0
  tokens : Map Tok := []
  tokOf : Map Nat := []
  engfail : Word := 0
  engrec : Bool := false
  fpstatus : Status := stNone
  loops : List LoopEntry := []
  queues : Map (List Entry) := []
  outs : List Out := []
  cursors : Cursors := {}
  sticky : Map Parcel := []
  awc : Nat := 0
  trapcause : Word := 0
  trappc : Word := 0
  info0 : Word := 0
  info1 : Word := 0
  frame : Frame := {}
  held : List Entry := []
  sfault : List SFault := []
  trapvec : BitVec 16 := 0
  savebase : Word := 0
  tbase : Nat := 0
  tsize : BitVec 2 := 0
  tshared : Bool := false
  accbanks : Word := 0
  pageroot : Word := 0
  asid : Word := 0
  launchid : Word := 0
  args : Word := 0
  res : Word := 0
  cycBase : Word := 0
  rcount : BitVec 32 := 0
  rrun : BitVec 2 := 0
  energy : EnergyWin := {}
  stalls : BitVec 24 := 0
  marks : Map (BitVec 32) := []
  leases : Map LeaseSlot := []
  skipS0 : Bool := false
  frozen : Bool := false
  ord : Nat := 0
  launch : Option Nat := none
  guard : Option Guard := none
  unpersisted : List Nat := []
  flagScm : Map (List Nat) := []
  tokScm : Map (List Nat) := []
  deriving DecidableEq, Repr

/-- A divide in progress (R97): its context, the level it issued at, the pushes and register writes of S1 and S2, and of a `TRAP` in
its bundle, whose entry waits for it, the operand, the program counter, the repetition and the next bundle. -/
structure DivOp where
  cx : Nat
  sys : Bool
  pushes : List Word
  writes : List (Nat × Word)
  trap : Option (BitVec 8 × Nat × Nat × Nat) := none
  deriving DecidableEq, Repr

/-- A translation held by a TLB (R303, R304): its address space, the first virtual address and the size 2^bits of the
page or merged run, and the leaf as the walk left it. -/
structure TlbEntry where
  asid : BitVec 16
  lo : Nat
  bits : Nat
  leaf : Word
  deriving DecidableEq, Repr

/-- A table entry held by a walk cache (R304): address space, level, the virtual address bits above the level's page,
and the entry. -/
structure WalkEntry where
  asid : BitVec 16
  lvl : Nat
  idx : Nat
  word : Word
  deriving DecidableEq, Repr

/-- The debug halt of a core (R416); a plain one is pending while a divide is in progress (R97). -/
inductive DebugHalt where
  | none | pending | plain | quiesced
  deriving DecidableEq, Repr

/-- What an instruction bank holds of a launch's code (R377): code address, length and address space. -/
structure CodeRes where
  code : Nat
  len : Nat
  asid : BitVec 16
  deriving DecidableEq, Repr

/-- A core (R2, R14, R47, R64, R97, R170, R389, R390, R415, R416). `accSeed` names the free contents of each accumulator bank
that was allotted since reset, `beatRow` the row that the latest beat wrote (R413), `fillq` the entries that wait for vector
fills, by context, slot and place in program order, in the order they asked (R144), `contain` the contexts whose detected errors
are to be contained, in the order of their detection (R414). `quantum` counts in thousandths of a cycle. -/
structure Core where
  ibank : Map HUnit := []
  tmpl : Map (BitVec 256) := []
  running : Nat := 0
  quantum : Nat := 0
  hasRun : Bool := false
  quantumEnded : Bool := false
  divider : Option DivOp := none
  ewtable : Word := 0
  bfw : BitVec 9 := 0
  arr : MatArray := {}
  acc : Map AccRow := []
  accPois : Map Bool := []
  accSeed : Map Nat := []
  beatRow : Option Nat := none
  tlb : List TlbEntry := []
  fillq : List (Nat × Nat × Nat) := []
  contain : List Nat := []
  code0 : Option CodeRes := none
  code1 : Option CodeRes := none
  halt : DebugHalt := .none
  armed : Bool := false
  retired : Bool := false
  deriving DecidableEq, Repr

/-- A line of the cluster cache (R211): the bank that is its way, its home key, its bytes, dirty bytes and poison. -/
structure CacheLine where
  way : Nat
  key : Nat
  bytes : List Byte
  dirty : Bool
  poison : Bool
  deriving DecidableEq, Repr

/-- A ring (R238). -/
structure Ring where
  nslot : BitVec 7 := 0
  cons : BitVec 6 := 0
  valid : Bool := false
  base : BitVec 23 := 0
  slotsz : BitVec 32 := 0
  target : BitVec 32 := 0
  wp : BitVec 6 := 0
  rp : BitVec 6 := 0
  gen : BitVec 16 := 0
  filled : BitVec 7 := 0
  relcnt : BitVec 6 := 0
  arrive : BitVec 32 := 0
  booked : BitVec 32 := 0
  fail : Word := 0
  deriving DecidableEq, Repr

/-- A launch's playbook in a cluster (R243, R244): stage counter, next entry, and entries withdrawn by a pre-emption. -/
structure Play where
  stage : Nat := 0
  next : Nat := 0
  again : List Nat := []
  deriving DecidableEq, Repr

/-- A cluster (R198–R216, R236, R304, R393–R400). `parity` holds the parity banks `P0`–`P3` one after another (R205), `werr` marks
the words with an uncorrectable error (R210, R413). `cyc` counts the thousandths of core clock cycles up to the time `cycAt`, when
the cluster last changed step (R8). `move` is the target of a frequency move and when it ends, `cause` the
almanac's cause of the latest move, `ratioNs` the time spent in each converter ratio up to `cycAt` (R438), `announced` the group steps received with the meridian times they apply at, `arbAt` and `limAt` the last
instants of R397 and R393 served, `mgmtAt` the core clock cycle in which the management controller last wrote the mailbox (R396). -/
structure Cluster where
  modes : Map (BitVec 2) := []
  owners : Map Nat := []
  scratch : Map Byte := []
  parity : Map Byte := []
  full : Map Bool := []
  wpois : Map Bool := []
  werr : Map Bool := []
  fifos : Map (List (Word × Bool)) := []
  cache : List CacheLine := []
  switching : BitVec 32 := 0
  bankq : List Nat := []
  rings : Map Ring := []
  chans : Map (List Nat) := []
  plays : Map Play := []
  tlb : List TlbEntry := []
  step : BitVec 5 := 18
  cyc : Nat := 0
  cycAt : Nat := 0
  move : Option (Nat × Nat) := none
  cause : Nat := 6
  ratioNs : Map Nat := []
  mailbox : Option (BitVec 5) := none
  limit : BitVec 3 := 0
  limited : Bool := false
  boost : Nat := 0
  thermalCap : Nat := 23
  currentCap : Nat := 23
  groupCap : Nat := 23
  groupStep : Nat := 18
  announced : List (Nat × Nat) := []
  almanac : Option Nat := none
  almSeq : Nat := 0
  arbAt : Nat := 0
  limAt : Nat := 0
  mgmtAt : Option Nat := none
  deriving DecidableEq, Repr

/-- An entry of a pin table (R285, R286); the serial outlives the pin. -/
structure Pin where
  valid : Bool := false
  base : Nat := 0
  size : Nat := 0
  serial : BitVec 16 := 0
  count : BitVec 8 := 0
  reload : BitVec 8 := 0
  touched : Bool := false
  deriving DecidableEq, Repr

/-- A swap record (R292): its far and near granules, the lines exchanged so far, and its command. -/
structure SwapRec where
  far : Nat
  near : Nat
  done : Nat
  cmd : Nat
  deriving DecidableEq, Repr

/-- A cached-remote copy of a line (R318). -/
structure CopyLine where
  epoch : Nat
  bytes : List Byte
  poison : Bool
  deriving DecidableEq, Repr

/-- A migration counter (R319): its granule and requesting die, its count, and whether its event has been posted. -/
structure MigCount where
  granule : Nat
  die : Nat
  count : Nat
  posted : Bool
  deriving DecidableEq, Repr

/-- An accepted entry of a transit buffer (R358): its packet, a store's time and bytes or a not-before load's time. -/
structure Transit where
  pkt : Nat
  store : Bool
  time : Nat
  key : Nat
  bytes : List Byte
  deriving DecidableEq, Repr

/-- An entry of the tier remap table (R290). -/
structure Remap where
  mg : BitVec 24
  count : BitVec 16
  deriving DecidableEq, Repr

/-- A quadrant (R282–R293, R304, R318, R319, R358, R403). `present` lists the lines that the slice holds, each with whether it
is dirty, `wq` the byte-masked writes queued for a line, oldest first, each with its poison (R284, R308). `readAt` is the meridian time of
the latest read served at home (R359). `fadeAt`, `countAt` and
`migAt` are the last instants of R286, R291 and R319 served. -/
structure Quad where
  present : Map Bool := []
  wq : Map (List (BitVec 128 × Bool)) := []
  readAt : Option Nat := none
  walk : List WalkEntry := []
  pins : Map Pin := []
  remapCache : List Nat := []
  swaps : Map SwapRec := []
  media : Nat := 0
  samples : Map Nat := []
  copies : Map CopyLine := []
  migs : List MigCount := []
  transit : List Transit := []
  refresh : Nat := 0
  fadeAt : Nat := 0
  countAt : Nat := 0
  migAt : Nat := 0
  deriving DecidableEq, Repr

/-- A reduction window's descriptor in a router (R320). -/
structure RWindow where
  base : Nat
  size : Nat
  exact : Bool
  deriving DecidableEq, Repr

/-- A huddle record (R324): the merged packet, its input port, its prefix, and the copies of it that are left (R327). -/
structure HudRec where
  pkt : Nat
  port : Nat
  pre : Int
  copies : Nat
  deriving DecidableEq, Repr

/-- An exact partial cell (R331): the sum in units of 2^-149, the status bits and the count. -/
structure Partial where
  v : Int
  st : BitVec 4
  n : Nat
  deriving DecidableEq, Repr

/-- A huddle entry (R324): lead packet, input port, whether it is open, the merged operand (an integer, or an exact
partial cell), the records, and the copies of it that are left. -/
structure HudEntry where
  lead : Nat
  port : Nat
  isOpen : Bool
  sum : Int
  cell : Partial
  recs : List HudRec
  copies : Nat
  deriving DecidableEq, Repr

/-- A link of a die's router (R312, R315): its lanes, whether it is up and not marked down, until when it retrains, and since when it
has failed to. -/
structure Link where
  up : Bool := true
  lanes : Nat := 8
  retrain : Nat := 0
  failing : Option Nat := none
  deriving DecidableEq, Repr

/-- A flow (R313): the next sequence number and the packets not yet acknowledged. -/
structure Flow where
  next : BitVec 16 := 0
  unacked : List (Nat × Nat) := []
  deriving DecidableEq, Repr

/-- What a remote request asks (R314, R330, R358). -/
inductive PktKind where
  | load | store | atomic | transit
  deriving DecidableEq, Repr

/-- How far a packet has come: on its way, performed at home with its reply to come, merged under another packet's lead,
accepted into a transit buffer, answered PARKED since a time (R430), or answered. -/
inductive PktStage where
  | going | performed | merged | accepted | parked (since : Nat) | done
  deriving DecidableEq, Repr

/-- A request in flight (R312–R314): issuing context and die, home die, the op's entry, the part it accesses and a store's
bytes and poison, whether it is the last part of an access that writes all of its line (R308), the load of several parts that
it belongs to, with its place in it; its place and port on its path, the moves of a detour still to make (dimension, and whether upwards), the huddle entries it leads, its custody time, its operand and reply. -/
structure Packet where
  cx : Nat
  die : Nat
  home : Nat
  kind : PktKind
  entry : Entry
  pieces : List Piece
  bytes : List Byte := []
  poison : Bool := false
  whole : Bool := false
  gather : Option (Nat × Nat) := none
  windowed : Bool := false
  exact : Bool := false
  place : Nat := 0
  arrived : Bool := false
  port : Nat := 0
  way : List (Nat × Bool) := []
  leads : List (Nat × Nat) := []
  custody : Option Nat := none
  sum : Int := 0
  cell : Partial := ⟨0, 0, 0⟩
  reply : Word := 0
  replyPoison : Bool := false
  lost : Bool := false
  late : Nat := 0
  invalid : Bool := false
  sentAt : Nat := 0
  seq : BitVec 16 := 0
  acked : Bool := false
  stage : PktStage := .going
  deriving DecidableEq, Repr

/-- A load of several parts of which some are in flight (R222, R312): its context and entry, how many parts are to come, the
bytes of those that have come by their place in the access, and whether one carried poison. -/
structure Gather where
  cx : Nat
  entry : Entry
  left : Nat
  parts : Map (List Byte)
  poison : Bool
  deriving DecidableEq, Repr

/-- The states of an engine (R258); `reserved` is the waking engine of a grant (R263), `aborting` one whose lease was substituted and
that is granted again (R264). -/
inductive EngState where
  | asleep | waking | reserved | aborting | leased | warm
  deriving DecidableEq, Repr

/-- A leasable engine (R258–R263, R276): its state and since when it is in it, when it is ready, the `LEASE` it was granted
to with its context (its launch and rank while it is saved), lease slot and priority, and the commands queued to the
lease. -/
structure Engine where
  st : EngState := .asleep
  since : Nat := 0
  ready : Nat := 0
  req : Nat := 0
  cx : Nat := 0
  area : Option (Nat × Nat) := none
  slot : Nat := 0
  prio : Nat := 0
  queue : List Nat := []
  deriving DecidableEq, Repr

/-- A die (R257–R263, R278, R290, R311–R337, R428). Its meridian time is off the true time by `mtOfs` at `mtAt`, and from there is
slewed towards `mtAim` (R334). `within` says since when its estimated offset has been within 10 ns (R337), `exchAt` is the last
instant of R335 served. `multicast` lists the versions of each entry, newest first, with their ports, `castWait` the writes that wait (R316). -/
structure Die where
  mtOfs : Int := 0
  mtAim : Int := 0
  mtAt : Nat := 0
  mtMin : Nat := 0
  within : Option Nat := none
  mtskew : Word := 0
  epoch : Nat := 0
  windows : Map RWindow := []
  huddle : Map HudEntry := []
  multicast : Map (List (Nat × BitVec 10)) := []
  castWait : List (Nat × BitVec 10) := []
  links : Map Link := []
  flows : Map Flow := []
  remap : Map Remap := []
  remapBase : Option Nat := none
  shed : Bool := false
  engines : Map Engine := []
  benches : Map (List Nat) := []
  budget : Nat := 24
  warmReqs : Map (List Nat) := []
  steps : List (Nat × Nat) := []
  tripped : Bool := false
  wconf : Nat := 24
  exchAt : Nat := 0
  deriving DecidableEq, Repr

/-- An announcement of a throttle group on its way (R399): its step, the meridian time it applies at, the version of the multicast
entry it travels under (R316), and the clusters that have not received it. -/
structure Announcement where
  step : Nat
  apply : Nat
  ver : Nat
  todo : List Nat
  deriving DecidableEq, Repr

/-- A throttle group (R399): member dies, leader, the values its clusters sent at the instant of that number, the step announced last,
and the announcements on their way. -/
structure ThrottleGroup where
  dies : List Nat := []
  leader : Nat := 0
  vals : Map Nat := []
  instant : Nat := 0
  step : Nat := 18
  anns : List Announcement := []
  deriving DecidableEq, Repr

/-- A host DMA window (R433). -/
structure DmaWin where
  en : Bool := false
  wr : Bool := false
  base : Nat := 0
  size : Nat := 0
  deriving DecidableEq, Repr

/-- What the event log records (R437); the spec gives no event codes. -/
inductive LogCode where
  | linkDown | migration | disciplineLoss | maskConflict | tailIgnored | eventDropped | groupLate | recordIgnored
  | debugHalt | powerHalt | coldStart | coreRetired | brownOut | thermal | thermalClear
  deriving DecidableEq, Repr

/-- A record of the event log (R437): time, code, source die, sequence number, and 48 bytes of data. -/
structure LogRec where
  mt : Word
  code : LogCode
  die : BitVec 16
  seq : BitVec 32
  data : List Byte
  deriving DecidableEq, Repr

/-- A hardware queue (R365), with the records whose slots are free although an older one is occupied (R366). -/
structure HwQueue where
  en : Bool := false
  part : BitVec 4 := 0
  devok : Bool := false
  sysok : Bool := false
  log2 : BitVec 4 := 0
  qaddr : BitVec 52 := 0
  qdie : BitVec 12 := 0
  root : Word := 0
  asid : BitVec 16 := 0
  tail : BitVec 32 := 0
  head : BitVec 32 := 0
  oldest : BitVec 32 := 0
  svaddr : BitVec 52 := 0
  svdie : BitVec 12 := 0
  svsize : Word := 0
  done : List (BitVec 32) := []
  atHead : Option Nat := none
  deriving DecidableEq, Repr

/-- An HDM window (R431): host base, size, die and physical address. -/
structure HdmWin where
  hbase : Nat := 0
  size : Nat := 0
  die : Nat := 0
  pa : Nat := 0
  deriving DecidableEq, Repr

/-- How far a launch has come (R370–R385): at the head of its queue awaiting its dependences, a candidate, bound, being
pre-empted, saved, or stopping to complete with a status. -/
inductive LaunchState where
  | waiting | candidate | bound | preempting | saved
  | ended (status since : Nat)
  deriving DecidableEq, Repr

/-- A launch whose record has reached the head of its queue (R366–R385): module, queue, sequence number, record, what its
queue named when it was read, state, of one that has given up its cores with the status of the event it is to write and since
when, the dependences satisfied, the meridian time since which it is a candidate or was last pre-empted, the ageing steps since
then, its cores in rank order, when it was placed, the
cores reserved for it, playbook header by die, saved contexts by rank, the status it is to stop with and its `DETAIL`, and
the ns of its watchdog budget that are left. -/
structure Launch where
  m : Nat := 0
  q : Nat := 0
  seq : BitVec 32 := 0
  image : List Byte := []
  root : Word := 0
  asid : BitVec 16 := 0
  part : Nat := 0
  qdie : Nat := 0
  st : LaunchState := .waiting
  deps : List Bool := []
  since : Nat := 0
  aged : Nat := 0
  cores : List Nat := []
  placed : Nat := 0
  reserve : List Nat := []
  pb : Map (List Byte) := []
  saved : Map Ctx := []
  pbfail : Bool := false
  stop : Option Nat := none
  detail : Nat := 0
  wdog : Option Nat := none
  deriving DecidableEq, Repr

/-- The power of a module (R417, R418): off, up, in a brown-out, stopping for a power-fail halt, halted. -/
inductive Power where
  | off | up | brownOut
  | halting (cause : HaltCause)
  | halted
  deriving DecidableEq, Repr

/-- What a power-fail halt keeps of the module beside memory (R419): clusters, window descriptors and step tables by die,
queue and partition registers, timed entries by quadrant with their remaining durations, the counter value of the seal, the
meridian time of the halt, the reductions that failed (R427): tag, cluster and place of the `RESULT` word, the launches with the
numbers of those that ran, and whether the halt has sealed it. -/
structure HaltImage where
  clusters : Map Cluster := []
  windows : Map (Map RWindow) := []
  steps : Map (List (Nat × Nat)) := []
  queues : Map HwQueue := []
  pmask : Map Word := []
  timed : Map (List Transit) := []
  mtHalt : Nat := 0
  reds : List (Nat × Nat × Place) := []
  launches : Map Launch := []
  running : List Nat := []
  isSealed : Bool := false
  deriving DecidableEq, Repr

/-- What a count of the lifetime record stands for (R438): corrected errors of a vector register file, an accumulator store, a cluster
SRAM, a slice, an HBM stack, a far channel or an SCM channel, writes of a GiB of SCM, retrains of a link, and time in a bin of a
die's temperature histogram. -/
inductive LifeKey where
  | vecErr (core : Nat)
  | accErr (core : Nat)
  | sramErr (cl : Nat)
  | sliceErr (q : Nat)
  | hbmErr (q : Nat)
  | farErr (ch : Nat)
  | scmErr (ch : Nat)
  | wear (gib : Nat)
  | retrain (link : Nat)
  | temp (die bin : Nat)
  deriving DecidableEq, Repr

/-- The lifetime record (R438): 64-bit saturating counters, of what has a number by what they count, and the drain durations of the
power-fail halts in µs. -/
structure Lifetime where
  rollbacks : Word := 0
  reruns : Word := 0
  retired : Word := 0
  halts : Word := 0
  drains : List Nat := []
  counts : List (LifeKey × Word) := []
  deriving DecidableEq, Repr

/-- The completion status of a mailbox command (R442). -/
inductive MboxStatus where
  | success | busy | refused
  deriving DecidableEq, Repr

/-- A module (R364–R376, R417–R443). `reserve` is the energy of its reserve in nJ as it stood at `chargeAt` (R417). Of a brown-out, `brownAt`
says since when the input has been below 40 V (R418), `heldAt` since when at 44 V or more, `shedAt` when a die was last shed or restored
(R428), `volts` what the input last read (R436). `pwrAt` is the last instant of R435 served, `fwReset` is when the controller's latest
reset ends, `fwGood` whether the image location holds a whole image that verifies, `fwNext` the version word of that image (R432,
R441), `mbox` what the latest mailbox command returned, `mboxStatus` its completion status, `mboxUntil` until when it runs (R442), `reply` the bytes that the host's latest read returned (R431). -/
structure Module where
  life : Lifetime := {}
  power : Power := .off
  ready : Bool := false
  reserve : Nat := 2000000000000
  chargeAt : Nat := 0
  brownAt : Option Nat := none
  heldAt : Option Nat := none
  shedAt : Nat := 0
  volts : Nat := 0
  dlAddr : Word := 0
  dlCount : BitVec 9 := 0
  pwrlim : Nat := 4800
  pwrTrip : Bool := false
  pwrPower : Nat := 0
  pwrAt : Nat := 0
  coolant : Coolant := .normal
  hibBase : Nat := 0
  hibSize : Nat := 0
  counter : Nat := 0
  image : Option HaltImage := none
  shedOrder : List Nat := []
  shed : List Nat := []
  hdm : Map HdmWin := []
  fw : Map Byte := []
  fwPending : Bool := false
  fwGood : Bool := true
  fwNext : Word := 0
  fwReset : Nat := 0
  fwVersion : Word := 0
  recovery : Bool := false
  records : List ConfigRecord := []
  mbox : List Nat := []
  mboxStatus : MboxStatus := .success
  mboxUntil : Nat := 0
  reply : List Byte := []
  cxlLanes : Nat := 16
  cxlRate : Nat := 128
  cxlUp : Bool := false
  dma : Map DmaWin := []
  log : List LogRec := []
  logSeq : BitVec 32 := 0
  pmask : Map Word := []
  queues : Map HwQueue := []
  lastQueue : Nat := 127
  deriving DecidableEq, Repr

/-- The repetition being carried out: its context, the unit of its bundle and the unit after it, whether the guard has
turned guarded slots off, the slot at hand, the repetition index, and the repetitions still to run after this one. -/
structure Cur where
  cx : Nat := 0
  pc : Nat := 0
  nxt : Nat := 0
  off : Bool := false
  slot : Nat := 0
  rep : Nat := 0
  left : Nat := 0
  deriving DecidableEq, Repr

/-- The domain. `redFails` lists the reductions of which a member has failed: the tag, and the dies of the members whose commands are
still to fail (R272). `extRef` is how far the external reference of the grandmaster is off the true time (R335). -/
structure State where
  inputs : List Instr := []
  sched : List Nat := []
  delays : List Nat := []
  tick : Nat := 0
  now : Nat := 0
  cur : Cur := {}
  ctxs : Map Ctx := []
  cores : Map Core := []
  clusters : Map Cluster := []
  quads : Map Quad := []
  dies : Map Die := []
  mods : Map Module := []
  net : Map Packet := []
  gathers : Map Gather := []
  nextPkt : Nat := 0
  cmds : Map Command := []
  nextCmd : Nat := 0
  redFails : List (Nat × List Nat) := []
  extents : Nat × Nat × Nat := (2, 2, 2)
  grandmasters : List Nat := []
  extRef : Option Int := none
  groups : Map ThrottleGroup := []
  threshold : Nat := 256
  mem : List Host.Cell := []
  mpoison : Map Bool := []
  launches : Map Launch := []
  bad : Option Nat := none
  deriving DecidableEq, Repr

/-- Why a step stops with a fault. `unpopulated`: the hardware itself reads or writes a physical address that R281 leaves
unpopulated (a save area, a queue or an almanac that configuration placed there); safe, since the spec says what no
memory there answers. -/
inductive Fault where
  | unpopulated (key : Nat)
  deriving DecidableEq, Repr

/-- Why an instruction has no meaning. `notModelled`: raised by the arm of exec that names the instruction; safe, since
nothing is claimed of it. -/
inductive Refusal where
  | notModelled (mnemonic : String)
  deriving DecidableEq, Repr

/-- The machine right after reset: nothing bound, nothing stored. -/
def State.reset : State := {}

end Sys2Proof.Machine
end

