-- ==== Sys2Proof/Machine/Names.lean ====
section
/-!
DEFINITION. What an instruction names, apart from any state: the specifiers it reads in field order and writes (01 R26–R33), its
vector registers and accumulator banks, its token fields; of a queue entry its instruction, operands and addresses (07 R217,
R222), and whether one entry must wait for another.
-/

namespace Sys2Proof.Machine

/-- The register that a specifier of 16–47 names (R26). -/
def namedIdx (sp : Spec) : Nat := sp.toNat - 16

/-- The operand specifiers an instruction reads, in field order from the high bits down (R28–R33, R405); `MOVK` reads
its destination (R118) and `RET` reads `n31` (R78). -/
def srcSpecs : Instr → List Spec
  | .jmp _ a => [a]
  | .ret _ => [47]
  | .loop _ a _ => [a]
  | .mts _ _ a => [a]
  | .pwrreq _ a => [a]
  | .twait _ a => [a]
  | .add _ _ a b => [a, b]
  | .sub _ _ a b => [a, b]
  | .addi _ _ a _ => [a]
  | .mul _ _ a b => [a, b]
  | .mulh _ _ a b => [a, b]
  | .mulhw _ _ a b => [a, b]
  | .div _ _ a b => [a, b]
  | .divw _ _ a b => [a, b]
  | .rem _ _ a b => [a, b]
  | .remw _ _ a b => [a, b]
  | .min _ _ a b => [a, b]
  | .max _ _ a b => [a, b]
  | .minw _ _ a b => [a, b]
  | .maxw _ _ a b => [a, b]
  | .abs _ _ a => [a]
  | .and _ _ a b => [a, b]
  | .or _ _ a b => [a, b]
  | .xor _ _ a b => [a, b]
  | .andn _ _ a b => [a, b]
  | .orn _ _ a b => [a, b]
  | .andi _ _ a _ => [a]
  | .ori _ _ a _ => [a]
  | .xori _ _ a _ => [a]
  | .shl _ _ a b => [a, b]
  | .shr _ _ a b => [a, b]
  | .sar _ _ a b => [a, b]
  | .rol _ _ a b => [a, b]
  | .shli _ _ a _ => [a]
  | .shri _ _ a _ => [a]
  | .sari _ _ a _ => [a]
  | .roli _ _ a _ => [a]
  | .ceq _ _ a b => [a, b]
  | .cne _ _ a b => [a, b]
  | .clt _ _ a b => [a, b]
  | .cle _ _ a b => [a, b]
  | .cltw _ _ a b => [a, b]
  | .clew _ _ a b => [a, b]
  | .ceqi _ _ a _ => [a]
  | .clti _ _ a _ => [a]
  | .clz _ _ a => [a]
  | .ctz _ _ a => [a]
  | .popc _ _ a => [a]
  | .brev _ _ a => [a]
  | .bswap _ _ a => [a]
  | .exts _ _ a _ _ => [a]
  | .extz _ _ a _ _ => [a]
  | .ins _ _ a b c => [a, b, c]
  | .bperm _ _ a b c => [a, b, c]
  | .bset _ _ a _ => [a]
  | .bclr _ _ a _ => [a]
  | .btst _ _ a _ => [a]
  | .bflip _ _ a _ => [a]
  | .mov _ _ a => [a]
  | .movk _ d _ _ => [d]
  | .sel _ _ a b c => [a, b, c]
  | .lea _ _ a b _ => [a, b]
  | .fadd _ _ a b _ => [a, b]
  | .fsub _ _ a b _ => [a, b]
  | .fmul _ _ a b _ => [a, b]
  | .fma _ _ a b c => [a, b, c]
  | .fmin _ _ a b => [a, b]
  | .fmax _ _ a b => [a, b]
  | .fcmp _ _ a b _ => [a, b]
  | .fcvtf _ _ a _ _ => [a]
  | .fcvti _ _ a _ _ => [a]
  | .fabs _ _ a => [a]
  | .fneg _ _ a => [a]
  | .ld _ _ base _ _ _ => [base]
  | .ldfe _ _ base _ _ _ => [base]
  | .ldff _ _ base _ _ _ => [base]
  | .st _ src base _ _ => [src, base]
  | .stef _ src base _ _ => [src, base]
  | .stff _ src base _ _ => [src, base]
  | .lda _ _ base _ _ _ => [base]
  | .stl _ src base _ _ => [src, base]
  | .feinit _ cnt base _ => [cnt, base]
  | .vld _ _ base stride _ => [base, stride]
  | .vst _ _ base stride _ => [base, stride]
  | .vldw _ _ base stride _ => [base, stride]
  | .vstf _ _ base stride _ => [base, stride]
  | .ldnb _ _ base time _ _ => [base, time]
  | .stt _ src base time _ _ => [src, base, time]
  | .waita _ _ addr opd _ _ => [addr, opd]
  | .pref _ _ base _ _ => [base]
  | .cflush _ base _ => [base]
  | .afadd _ _ addr opd _ => [addr, opd]
  | .afaddf _ _ addr opd _ => [addr, opd]
  | .afmin _ _ addr opd _ => [addr, opd]
  | .afmax _ _ addr opd _ => [addr, opd]
  | .afand _ _ addr opd _ => [addr, opd]
  | .afor _ _ addr opd _ => [addr, opd]
  | .afxor _ _ addr opd _ => [addr, opd]
  | .axchg _ _ addr opd _ => [addr, opd]
  | .acas _ d addr opd _ => [d, addr, opd]
  | .fpush _ src _ => [src]
  | .ldxs _ _ base _ _ => [base]
  | .vrotr _ _ _ n => [n]
  | .vrotc _ _ _ n => [n]
  | .vbcr _ _ _ n => [n]
  | .vbcc _ _ _ n => [n]
  | .vsplat _ _ src _ => [src]
  | .vins _ _ idx src _ => [idx, src]
  | .vext _ _ _ idx _ => [idx]
  | .vdecmv _ _ row _ => [row]
  | .cpy _ _ desc _ => [desc]
  | .stage _ _ inc => [inc]
  | .rinit _ _ desc cons _ => [desc, cons]
  | .rrel _ _ word _ => [word]
  | .lcmd _ _ h desc => [h, desc]
  | .unlease _ _ h => [h]
  | .launch _ _ rec _ => [rec]
  | .wstr _ _ h sdesc _ => [h, sdesc]
  | .bankcfg _ _ mask _ => [mask]
  | .tload _ _ src first _ => [src, first]
  | .pinwin _ _ base size _ => [base, size]
  | .unpin _ _ h => [h]
  | .swappg _ _ far near _ => [far, near]
  | .tlbinv _ _ va asid _ => [va, asid]
  | .mapwin _ _ base size _ _ => [base, size]
  | .mbeat _ push kind src _ _ _ _ _ => if push && kind == 1 then [src] else []
  | _ => []

/-- The destination specifier of the named register an instruction writes, if it writes one (R52, R78, R99). -/
def nWrite : Instr → Option Spec
  | .call _ _ => some 47
  | .mfs _ _ d => some d
  | .add _ d _ _ => if d == 0 then none else some d
  | .sub _ d _ _ => if d == 0 then none else some d
  | .addi _ d _ _ => if d == 0 then none else some d
  | .mul _ d _ _ => if d == 0 then none else some d
  | .mulh _ d _ _ => if d == 0 then none else some d
  | .mulhw _ d _ _ => if d == 0 then none else some d
  | .div _ d _ _ => if d == 0 then none else some d
  | .divw _ d _ _ => if d == 0 then none else some d
  | .rem _ d _ _ => if d == 0 then none else some d
  | .remw _ d _ _ => if d == 0 then none else some d
  | .min _ d _ _ => if d == 0 then none else some d
  | .max _ d _ _ => if d == 0 then none else some d
  | .minw _ d _ _ => if d == 0 then none else some d
  | .maxw _ d _ _ => if d == 0 then none else some d
  | .abs _ d _ => if d == 0 then none else some d
  | .and _ d _ _ => if d == 0 then none else some d
  | .or _ d _ _ => if d == 0 then none else some d
  | .xor _ d _ _ => if d == 0 then none else some d
  | .andn _ d _ _ => if d == 0 then none else some d
  | .orn _ d _ _ => if d == 0 then none else some d
  | .andi _ d _ _ => if d == 0 then none else some d
  | .ori _ d _ _ => if d == 0 then none else some d
  | .xori _ d _ _ => if d == 0 then none else some d
  | .shl _ d _ _ => if d == 0 then none else some d
  | .shr _ d _ _ => if d == 0 then none else some d
  | .sar _ d _ _ => if d == 0 then none else some d
  | .rol _ d _ _ => if d == 0 then none else some d
  | .shli _ d _ _ => if d == 0 then none else some d
  | .shri _ d _ _ => if d == 0 then none else some d
  | .sari _ d _ _ => if d == 0 then none else some d
  | .roli _ d _ _ => if d == 0 then none else some d
  | .ceq _ d _ _ => if d == 0 then none else some d
  | .cne _ d _ _ => if d == 0 then none else some d
  | .clt _ d _ _ => if d == 0 then none else some d
  | .cle _ d _ _ => if d == 0 then none else some d
  | .cltw _ d _ _ => if d == 0 then none else some d
  | .clew _ d _ _ => if d == 0 then none else some d
  | .ceqi _ d _ _ => if d == 0 then none else some d
  | .clti _ d _ _ => if d == 0 then none else some d
  | .clz _ d _ => if d == 0 then none else some d
  | .ctz _ d _ => if d == 0 then none else some d
  | .popc _ d _ => if d == 0 then none else some d
  | .brev _ d _ => if d == 0 then none else some d
  | .bswap _ d _ => if d == 0 then none else some d
  | .exts _ d _ _ _ => if d == 0 then none else some d
  | .extz _ d _ _ _ => if d == 0 then none else some d
  | .ins _ d _ _ _ => if d == 0 then none else some d
  | .bperm _ d _ _ _ => if d == 0 then none else some d
  | .bset _ d _ _ => if d == 0 then none else some d
  | .bclr _ d _ _ => if d == 0 then none else some d
  | .btst _ d _ _ => if d == 0 then none else some d
  | .bflip _ d _ _ => if d == 0 then none else some d
  | .mov _ d _ => if d == 0 then none else some d
  | .movz _ d _ _ => if d == 0 then none else some d
  | .movk _ d _ _ => if d == 0 then none else some d
  | .sel _ d _ _ _ => if d == 0 then none else some d
  | .lea _ d _ _ _ => if d == 0 then none else some d
  | .fadd _ d _ _ _ => if d == 0 then none else some d
  | .fsub _ d _ _ _ => if d == 0 then none else some d
  | .fmul _ d _ _ _ => if d == 0 then none else some d
  | .fma _ d _ _ _ => if d == 0 then none else some d
  | .fmin _ d _ _ => if d == 0 then none else some d
  | .fmax _ d _ _ => if d == 0 then none else some d
  | .fcmp _ d _ _ _ => if d == 0 then none else some d
  | .fcvtf _ d _ _ _ => if d == 0 then none else some d
  | .fcvti _ d _ _ _ => if d == 0 then none else some d
  | .fabs _ d _ => if d == 0 then none else some d
  | .fneg _ d _ => if d == 0 then none else some d
  | .ld _ d _ _ _ _ => some d
  | .ldfe _ d _ _ _ _ => some d
  | .ldff _ d _ _ _ _ => some d
  | .lda _ d _ _ _ _ => some d
  | .ldnb _ d _ _ _ _ => some d
  | .waita _ d _ _ _ _ => if d == 0 then none else some d
  | .afadd _ d _ _ _ => if d == 0 then none else some d
  | .afaddf _ d _ _ _ => if d == 0 then none else some d
  | .afmin _ d _ _ _ => if d == 0 then none else some d
  | .afmax _ d _ _ _ => if d == 0 then none else some d
  | .afand _ d _ _ _ => if d == 0 then none else some d
  | .afor _ d _ _ _ => if d == 0 then none else some d
  | .afxor _ d _ _ _ => if d == 0 then none else some d
  | .axchg _ d _ _ _ => if d == 0 then none else some d
  | .acas _ d _ _ _ => if d == 0 then none else some d
  | .fpop _ d _ => some d
  | .ldxs _ d _ _ _ => some d
  | .vext _ d _ _ _ => some d
  | .vdecmv _ d _ _ => some d
  | .rawait _ _ d _ => some d
  | .lease _ _ d _ _ => some d
  | .pinwin _ _ _ _ d => some d
  | .swappg _ _ _ _ d => some d
  | _ => none

/-- The vector registers an op reads (R140, R144). -/
def vReads : Instr → List Spec
  | .vst _ v _ _ _ => [v]
  | .vstf _ v _ _ _ => [v]
  | .vadd _ _ va vb _ _ => [va, vb]
  | .vsub _ _ va vb _ _ => [va, vb]
  | .vmul _ _ va vb _ _ => [va, vb]
  | .vfma _ vd va vb _ _ => [va, vb, vd]
  | .vmin _ _ va vb _ => [va, vb]
  | .vmax _ _ va vb _ => [va, vb]
  | .vabs _ _ va _ _ => [va]
  | .vneg _ _ va _ _ => [va]
  | .vadds _ _ va vb _ _ => [va, vb]
  | .vsubs _ _ va vb _ _ => [va, vb]
  | .vmulh _ _ va vb _ => [va, vb]
  | .vand _ _ va vb _ => [va, vb]
  | .vor _ _ va vb _ => [va, vb]
  | .vxor _ _ va vb _ => [va, vb]
  | .vshl _ _ va vb _ => [va, vb]
  | .vshr _ _ va vb _ => [va, vb]
  | .vsar _ _ va vb _ => [va, vb]
  | .vcmp _ _ va vb _ _ => [va, vb]
  | .vsel _ vd va vb _ => [va, vb, vd]
  | .vacs _ _ va vb => [va, vb]
  | .vrotr _ _ va _ => [va]
  | .vrotc _ _ va _ => [va]
  | .vbcr _ _ va _ => [va]
  | .vbcc _ _ va _ => [va]
  | .vredr _ _ va _ _ _ => [va]
  | .vredc _ _ va _ _ _ => [va]
  | .vshuf _ _ va vb _ => [va, vb]
  | .vtrn _ _ va => [va]
  | .vmov _ _ va => [va]
  | .vins _ vd _ _ _ => [vd]
  | .vext _ _ va _ _ => [va]
  | .vcvt _ _ va _ _ _ => [va]
  | .vexp2 _ _ va => [va]
  | .vlog2 _ _ va => [va]
  | .vrcp _ _ va => [va]
  | .vrsq _ _ va => [va]
  | .aput _ vd _ _ _ => [vd]
  | .aputa _ vd _ _ _ => [vd]
  | .mbeat _ push kind src _ _ _ _ _ => if push && kind == 0 then [src] else []
  | _ => []

/-- The vector register an op writes (R140). -/
def vWrite : Instr → Option Spec
  | .vld _ v _ _ _ => some v
  | .vldw _ v _ _ _ => some v
  | .vadd _ vd _ _ _ _ => some vd
  | .vsub _ vd _ _ _ _ => some vd
  | .vmul _ vd _ _ _ _ => some vd
  | .vfma _ vd _ _ _ _ => some vd
  | .vmin _ vd _ _ _ => some vd
  | .vmax _ vd _ _ _ => some vd
  | .vabs _ vd _ _ _ => some vd
  | .vneg _ vd _ _ _ => some vd
  | .vadds _ vd _ _ _ _ => some vd
  | .vsubs _ vd _ _ _ _ => some vd
  | .vmulh _ vd _ _ _ => some vd
  | .vand _ vd _ _ _ => some vd
  | .vor _ vd _ _ _ => some vd
  | .vxor _ vd _ _ _ => some vd
  | .vshl _ vd _ _ _ => some vd
  | .vshr _ vd _ _ _ => some vd
  | .vsar _ vd _ _ _ => some vd
  | .vcmp _ vd _ _ _ _ => some vd
  | .vsel _ vd _ _ _ => some vd
  | .vacs _ vd _ _ => some vd
  | .vrotr _ vd _ _ => some vd
  | .vrotc _ vd _ _ => some vd
  | .vbcr _ vd _ _ => some vd
  | .vbcc _ vd _ _ => some vd
  | .vredr _ vd _ _ _ _ => some vd
  | .vredc _ vd _ _ _ _ => some vd
  | .vshuf _ vd _ _ _ => some vd
  | .vtrn _ vd _ => some vd
  | .vmov _ vd _ => some vd
  | .vsplat _ vd _ _ => some vd
  | .vins _ vd _ _ _ => some vd
  | .viota _ vd _ => some vd
  | .vcvt _ vd _ _ _ _ => some vd
  | .vexp2 _ vd _ => some vd
  | .vlog2 _ vd _ => some vd
  | .vrcp _ vd _ => some vd
  | .vrsq _ vd _ => some vd
  | .aget _ vd _ _ _ _ => some vd
  | _ => none

/-- The accumulator banks an S5 or S6 op touches (R52). -/
def accBanks : Instr → List (BitVec 3)
  | .mbeat _ push kind src out bank _ _ _ =>
    (if out != 0 then [bank] else []) ++ (if push && kind == 2 then [src.extractLsb' 3 3] else [])
  | .aget _ _ bank _ _ _ => [bank]
  | .aput _ _ bank _ _ => [bank]
  | .aputa _ _ bank _ _ => [bank]
  | .aclr _ bank _ => [bank]
  | _ => []

/-- The bank an op writes (R185). -/
def accWrites : Instr → List (BitVec 3)
  | .mbeat _ _ _ _ out bank _ _ _ => if out != 0 then [bank] else []
  | .aput _ _ bank _ _ => [bank]
  | .aputa _ _ bank _ _ => [bank]
  | .aclr _ bank _ => [bank]
  | _ => []

/-- The banks an op reads (R185). -/
def accReads : Instr → List (BitVec 3)
  | .mbeat _ push kind src _ _ _ _ _ => if push && kind == 2 then [src.extractLsb' 3 3] else []
  | .aget _ _ bank _ _ _ => [bank]
  | .aputa _ _ bank _ _ => [bank]
  | _ => []

/-- The guard bit of a parcel. -/
def gBit (p : Parcel) : Bool := parcelG p.w0

/-- The instruction of an entry. -/
def Entry.instr (e : Entry) : Option Instr :=
  match decodeParcel e.slot e.par.w0 e.par.w1 with
  | .ok i => some i
  | .error _ => none

/-- The registers that a streaming op will write (R69, R140). -/
def dstsOf (i : Instr) (sys : Bool) : List Dst :=
  (match nWrite i with
   | some d => [Dst.n sys (namedIdx d)]
   | none => []) ++
  (match vWrite i with
   | some v => [Dst.v v.toNat]
   | none => [])

/-- The tail of an S7 instruction (R33). -/
def tailFields : Instr → Option Tail
  | .cpy _ t _ _ => some t
  | .stage _ t _ => some t
  | .rinit _ t _ _ _ => some t
  | .rawait _ t _ _ => some t
  | .rrel _ t _ _ => some t
  | .lease _ t _ _ _ => some t
  | .lcmd _ t _ _ => some t
  | .unlease _ t _ => some t
  | .lwarm _ t _ _ => some t
  | .launch _ t _ _ => some t
  | .wstr _ t _ _ _ => some t
  | .bankcfg _ t _ _ => some t
  | .tload _ t _ _ _ => some t
  | .pinwin _ t _ _ _ => some t
  | .unpin _ t _ => some t
  | .swappg _ t _ _ _ => some t
  | .tlbinv _ t _ _ _ => some t
  | .mapwin _ t _ _ _ _ => some t
  | _ => none

/-- The value of captured operand `k`. -/
def Entry.val (e : Entry) (k : Nat) : Word := e.vals.getD k 0

/-- The first address of the local window (R201). -/
def windowBase : Nat := 0x1FFFFFFFF000000

/-- The window offset of an address that lies in the local window (R201, R294). -/
def windowOff (va : Nat) : Option Nat := if windowBase ≤ va && va < 2 ^ 57 then some (va - windowBase) else none

/-- Whether any byte of an access of `n` bytes lies in the local window (R201). -/
def meetsWindow (va n : Nat) : Bool := (windowOff va).isSome || (windowOff ((va + n - 1) % 2 ^ 64)).isSome

/-- Addresses wrap modulo 2^64. -/
def wrap64 (x : Int) : Nat := (x % (2 : Int) ^ 64).toNat

/-- The addresses of the rows of a tile (R222). -/
def rowAddrs (base : Word) (cur : Int) (stride : Word) : List Nat :=
  (List.range 16).map fun (i : Nat) => wrap64 (base.toNat + cur + (i : Nat) * stride.toInt)

/-- The bytes of size code `k` (R29). -/
def sizeBytes (k : BitVec 2) : Nat := 2 ^ k.toNat

/-- The effective address of format MS (R217): base + sext(off9) · size + cursor. -/
def effAddr (base : Word) (off : BitVec 9) (size : Nat) (cur : Int) : Nat := wrap64 (base.toNat + off.toInt * size + cur)

/-- The address that an S3 op accesses (R217, R222, R329, R332, R346, R357). -/
def entryAddr (e : Entry) (i : Instr) : Nat :=
  match i with
  | .ld _ _ _ size _ off => effAddr (e.val 0) off (sizeBytes size) e.cur
  | .st _ _ _ size off => effAddr (e.val 1) off (sizeBytes size) e.cur
  | .ldfe _ _ _ size _ off => effAddr (e.val 0) off (sizeBytes size) e.cur
  | .ldff _ _ _ size _ off => effAddr (e.val 0) off (sizeBytes size) e.cur
  | .stef _ _ _ size off => effAddr (e.val 1) off (sizeBytes size) e.cur
  | .stff _ _ _ size off => effAddr (e.val 1) off (sizeBytes size) e.cur
  | .pref _ _ _ size off => effAddr (e.val 0) off (sizeBytes size) e.cur
  | .cflush _ _ off => effAddr (e.val 0) off 8 e.cur
  | .ldxs _ _ _ _ off => effAddr (e.val 0) off 4 e.cur
  | .stl .. => wrap64 ((e.val 1).toNat + e.cur)
  | .stt .. => wrap64 ((e.val 1).toNat + e.cur)
  | .feinit .. => wrap64 ((e.val 1).toNat + e.cur)
  | .acas .. => (e.val 1).toNat
  | _ => wrap64 ((e.val 0).toNat + e.cur)

/-- Whether an S3 entry accesses the window of its own cluster, by any byte of a row of a tile (R222, R249, R344). -/
def Entry.usesWindow (e : Entry) : Bool :=
  match e.instr with
  | some (.fpush ..) => true
  | some (.fpop ..) => true
  | some (.fence ..) => false
  | some (.drain ..) => false
  | some (.persist ..) => false
  | some (.nopMem _) => false
  | some (.vld ..) => (rowAddrs (e.val 0) e.cur (e.val 1)).any fun a => meetsWindow a 256
  | some (.vst ..) => (rowAddrs (e.val 0) e.cur (e.val 1)).any fun a => meetsWindow a 256
  | some (.vldw ..) => true
  | some (.vstf ..) => true
  | some i => e.slot = 3 && (windowOff (entryAddr e i)).isSome
  | none => false

/-- Whether an S3 op only reads memory (R343). -/
def readsOnly : Instr → Bool
  | .ld .. => true
  | .lda .. => true
  | .ldff .. => true
  | .vld .. => true
  | .vldw .. => true
  | .ldnb .. => true
  | .waita .. => true
  | .ldxs .. => true
  | .pref .. => true
  | .cflush .. => true
  | .nopMem _ => true
  | _ => false

/-- Whether a matrix format has block scales (R174). -/
def matMx (f : BitVec 4) : Bool := 3 ≤ f.toNat && f.toNat ≤ 7

/-- The pitch of an A vector (R174). -/
def matPitch (f : BitVec 4) : Nat := if matMx f then 256 else 128

/-- The scratch words that a kind-1 read tests, for a format (R180). -/
def Entry.kind1Words (e : Entry) (afmt : BitVec 4) : List Nat :=
  let a := wrap64 ((e.val 0).toNat + e.cur)
  (List.range (matPitch afmt / 8)).map fun i => (a % 2 ^ 24) / 8 + i

/-- Whether an entry is a kind-1 read that has not been performed (R180, R344). -/
def Entry.kind1 (e : Entry) : Bool :=
  match e.instr with
  | some (.mbeat _ true 1 _ _ _ _ _ _) => (match e.phase with | .fetched _ => false | _ => true)
  | _ => false

/-- Whether a later kind-1 read waits for an S3 entry: a window access (R344), an `LDA` (R349), a `FENCE` (R347). -/
def Entry.holdsKind1 (e : Entry) : Bool :=
  match e.instr with
  | some (.lda ..) => true
  | some (.fence ..) => true
  | _ => e.usesWindow

/-- Whether two ops meet at a vector register that one of them writes (R140). -/
def vecMeet (i j : Instr) : Bool :=
  let w := fun (a : Instr) => (vWrite a).toList
  (w i).any (fun v => (vReads j).contains v || (w j).contains v) || (w j).any fun v => (vReads i).contains v

/-- Whether two ops meet at an accumulator bank that one of them writes (R185). -/
def accMeet (i j : Instr) : Bool :=
  (accWrites i).any (fun b => (accReads j).contains b || (accWrites j).contains b) || (accWrites j).any fun b => (accReads i).contains b

/-- Whether an entry that is held keeps a later entry from starting: that of its own queue (R67), of a register or bank they
share (R140, R185), of an access of the window before a command or a kind-1 read, and of a kind-1 read before an S3 op
(R249, R344, R347). -/
def Entry.blocks (y x : Entry) : Bool :=
  match y.instr, x.instr with
  | some i, some j =>
    y.slot = x.slot || vecMeet i j || accMeet i j || (x.slot = 7 && (y.usesWindow || y.kind1)) ||
      (x.kind1 && y.holdsKind1) || (y.kind1 && x.slot = 3)
  | _, _ => y.slot = x.slot

end Sys2Proof.Machine
end

