-- ==== Sys2Proof/Machine/Ops.lean ====
section
/-!
DEFINITION. The named operations over the state: identities (00 R3, R4), the parts of the state by identity, time,
memory by the byte, the registers of a level, the trap sequence and its return (02 R75, R84).
-/

namespace Sys2Proof.Machine

/-- The core of a context, by the identifier of R4 without its context field. -/
def coreOf (cx : Nat) : Nat := cx / 4

/-- The cluster of a context. -/
def clusterOf (cx : Nat) : Nat := cx / 32

/-- The quadrant of a context. -/
def quadOf (cx : Nat) : Nat := cx / 64

/-- The die of a context. -/
def dieOf (cx : Nat) : Nat := cx / 256

/-- The corner die of a die's module (R3). -/
def cornerOf (die : Nat) : Nat := die &&& 0xEEE

/-- A die's local index within its module (R3). -/
def localIndex (die : Nat) : Nat := die % 2 + die / 16 % 2 * 2 + die / 256 % 2 * 4

/-- The die of a local index within a module (R3). -/
def dieAt (m k : Nat) : Nat := m + k % 2 + k / 2 % 2 * 16 + k / 4 % 2 * 256

def State.ctx (s : State) (cx : Nat) : Ctx := mget {} cx s.ctxs
def State.setCtx (s : State) (cx : Nat) (c : Ctx) : State := { s with ctxs := mput cx c s.ctxs }
def State.updCtx (s : State) (cx : Nat) (f : Ctx → Ctx) : State := s.setCtx cx (f (s.ctx cx))

def State.core (s : State) (k : Nat) : Core := mget {} k s.cores
def State.setCore (s : State) (k : Nat) (c : Core) : State := { s with cores := mput k c s.cores }
def State.updCore (s : State) (k : Nat) (f : Core → Core) : State := s.setCore k (f (s.core k))

def State.cluster (s : State) (k : Nat) : Cluster := mget {} k s.clusters
def State.setCluster (s : State) (k : Nat) (c : Cluster) : State := { s with clusters := mput k c s.clusters }
def State.updCluster (s : State) (k : Nat) (f : Cluster → Cluster) : State := s.setCluster k (f (s.cluster k))

def State.quad (s : State) (k : Nat) : Quad := mget {} k s.quads
def State.setQuad (s : State) (k : Nat) (q : Quad) : State := { s with quads := mput k q s.quads }
def State.updQuad (s : State) (k : Nat) (f : Quad → Quad) : State := s.setQuad k (f (s.quad k))

def State.die (s : State) (k : Nat) : Die := mget {} k s.dies
def State.setDie (s : State) (k : Nat) (d : Die) : State := { s with dies := mput k d s.dies }
def State.updDie (s : State) (k : Nat) (f : Die → Die) : State := s.setDie k (f (s.die k))

/-- How far a die's meridian time is off the true time: slewed towards its aim by at most 100 ppm (R334). -/
def Die.ofs (d : Die) (now : Nat) : Int :=
  let n : Int := ((now - d.mtAt) / 10000 : Nat)
  if d.mtAim < d.mtOfs then (if d.mtAim < d.mtOfs - n then d.mtOfs - n else d.mtAim)
  else if d.mtOfs + n < d.mtAim then d.mtOfs + n else d.mtAim

/-- The local meridian time of a die in ns (R334): it never falls below what it was at the die's last adjustment. -/
def State.mt (s : State) (die : Nat) : Nat :=
  let d := s.die die
  let t := ((s.now : Int) + d.ofs s.now).toNat
  if t < d.mtMin then d.mtMin else t

/-- The meridian time by which a module's scheduler measures waits and watchdogs (R375, R383): that of its die of local index 0
(assumption log 98). -/
def State.modMt (s : State) (m : Nat) : Nat := s.mt (dieAt m 0)

/-- The frequency of a step in MHz (R394). -/
def stepMHz (n : Nat) : Nat :=
  [450, 485, 520, 555, 590, 625, 660, 700, 730, 760, 790, 820, 850, 880, 915, 950,
   950, 1000, 1050, 1100, 1150, 1200, 1225, 1250].getD n 1250

/-- The step that a cluster runs at between moves. -/
def Cluster.at_ (k : Cluster) : Nat := k.step.toNat

/-- The step that a cluster runs at: during a move the lower one (R395). -/
def Cluster.runStep (k : Cluster) : Nat :=
  match k.move with
  | none => k.at_
  | some (t, _) => min k.at_ t

/-- The frequency that a cluster runs at (R394). -/
def Cluster.mhz (k : Cluster) : Nat := stepMHz k.runStep

/-- The thousandths of core clock cycles of a cluster up to now, at the steps it ran at (R8). -/
def State.millis (s : State) (cl : Nat) : Nat :=
  let k := s.cluster cl
  k.cyc + k.mhz * (s.now - k.cycAt)

/-- The cycles of a cluster's core clock up to now (R8); where its edges stand is free (assumption log 86). -/
def State.cycleOf (s : State) (cl : Nat) : Nat := (s.millis cl + Config.clockPhase cl (s.cluster cl).cycAt % 1000) / 1000

/-- The cycles of a cluster brought up to now before its clock changes (R8, R395): whole ones, since the new clock has no fixed phase
to the old one; and the time spent in its converter ratio (R394, R438). -/
def State.retime (s : State) (cl : Nat) : State :=
  let n := s.cycleOf cl
  s.updCluster cl fun k =>
    let r := k.runStep / 8
    { k with cyc := 1000 * n, cycAt := s.now, ratioNs := mput r (mget 0 r k.ratioNs + (s.now - k.cycAt)) k.ratioNs }

/-- A change of a cluster's step or move; the cycles so far are counted at the step so far (R8, R395). -/
def State.setClock (s : State) (cl : Nat) (f : Cluster → Cluster) : State :=
  (if (f (s.cluster cl)).runStep = (s.cluster cl).runStep then s else s.retime cl).updCluster cl f

/-- A 64-bit word of eight bytes, little-endian (R7). -/
def wordOfBytes (bs : List Byte) : Word := bs.foldr (fun b w => (w <<< 8) ||| b.setWidth 64) 0

/-- The first `n` bytes of a word, little-endian (R7). -/
def bytesOfWord : Nat → Word → List Byte
  | 0, _ => []
  | n + 1, w => w.setWidth 8 :: bytesOfWord n (w >>> 8)

/-- The number that a list of bytes holds, little-endian. -/
def natOfBytes (bs : List Byte) : Nat := bs.foldr (fun b n => b.toNat + 256 * n) 0

/-- `n` bytes of a number, little-endian. -/
def bytesOfNat : Nat → Nat → List Byte
  | 0, _ => []
  | n + 1, x => BitVec.ofNat 8 x :: bytesOfNat n (x / 256)

/-- One byte of memory at a key; an unlisted byte reads 0 (assumption log 1). -/
def State.byte (s : State) (key : Nat) : Byte := mget 0 key s.mem

/-- `n` bytes of memory from a key on. -/
def State.bytes (s : State) (key : Nat) : Nat → List Byte
  | 0 => []
  | n + 1 => s.byte key :: s.bytes (key + 1) n

/-- Memory with one byte written, in canonical form. -/
def memPut (m : List Host.Cell) (key : Nat) (b : Byte) : List Host.Cell := mset 0 key b m

/-- Memory with bytes written from a key on. -/
def memPuts (m : List Host.Cell) (key : Nat) : List Byte → List Host.Cell
  | [] => m
  | b :: bs => memPuts (memPut m key b) (key + 1) bs

/-- The state with bytes of memory written from a key on. -/
def State.putBytes (s : State) (key : Nat) (bs : List Byte) : State := { s with mem := memPuts s.mem key bs }

/-- The canonical form of the memory. -/
abbrev Memory.wf (m : List Host.Cell) : Bool := mwf (0 : Byte) m

/-- The line of a key (R280). -/
def lineOf (key : Nat) : Nat := key / 128 * 128

/-- Whether a line of memory is poisoned (R308). -/
def State.linePois (s : State) (key : Nat) : Bool := mget false (lineOf key) s.mpoison

/-- A line of memory marked as poisoned or clean. -/
def State.setLinePois (s : State) (key : Nat) (p : Bool) : State :=
  { s with mpoison := mset false (lineOf key) p s.mpoison }

/-- The regions of the physical address map (R281). -/
inductive Region where
  | near | far | scm | host | none
  deriving DecidableEq, Repr

/-- The region of a physical address (R281). -/
def regionOf (pa : Nat) : Region :=
  if pa < 2 ^ 38 then .near
  else if 2 ^ 40 ≤ pa && pa < 2 ^ 40 + 2 ^ 39 then .far
  else if 2 ^ 41 ≤ pa && pa < 2 ^ 41 + 2 ^ 42 then .scm
  else if 2 ^ 48 ≤ pa && pa < 2 ^ 49 then .host
  else .none

/-- The memory key of a physical address with its die: SCM and host addresses name the module (R281). -/
def keyOf (die pa : Nat) : Nat :=
  match regionOf pa with
  | .scm => cornerOf die * 2 ^ 52 + pa
  | .host => cornerOf die * 2 ^ 52 + pa
  | _ => die * 2 ^ 52 + pa

def keyDie (key : Nat) : Nat := key / 2 ^ 52
def keyPa (key : Nat) : Nat := key % 2 ^ 52

/-- The die that homes a key (R281): a host byte is homed at its module's host port. -/
def homeDie (key : Nat) : Nat :=
  match regionOf (keyPa key) with
  | .scm => dieAt (keyDie key) ((keyPa key - 2 ^ 41) / 2 ^ 39)
  | _ => keyDie key

/-- The quadrant, numbered across the domain, whose slice homes a key (R281). -/
def homeQuad (key : Nat) : Nat :=
  let pa := keyPa key
  let q := match regionOf pa with
    | .near => pa / 2 ^ 36 % 4
    | .far => pa / 2 ^ 37 % 4
    | .scm => (pa - 2 ^ 41) / 2 ^ 37 % 4
    | _ => 0
  homeDie key * 4 + q

/-- Whether a key names memory that exists (R281). -/
def populated (key : Nat) : Bool := regionOf (keyPa key) != .none

/-- Memory without the bytes of a range. -/
def memClear (m : List Host.Cell) (key n : Nat) : List Host.Cell := m.filter fun p => !(key ≤ p.1 && p.1 < key + n)

/-- An access by any agent to `n` bytes marks the pins whose window it meets (R286). -/
def State.touchRange (s : State) (key n : Nat) : State :=
  s.updQuad (homeQuad key) fun q =>
    { q with pins := q.pins.map fun e =>
        (e.1, if e.2.valid && e.2.base < key + n && key < e.2.base + e.2.size then { e.2 with touched := true } else e.2) }

/-- The outcome of a step whose hardware accesses are done. -/
def State.out (s : State) : Host.Outcome State Fault Refusal :=
  match s.bad with
  | none => .next s
  | some k => .fault (.unpopulated k)

/-- The state after an outcome, the state before it where the step stops. -/
def State.after (s : State) : Host.Outcome State Fault Refusal → State
  | .next s' => s'
  | _ => s

/-- The columns of a tile image read from memory. -/
def tileOf (f : Nat → List Byte) : Nat → Map W32
  | 0 => []
  | n + 1 => mset 0 n (BitVec.ofNat 32 (natOfBytes (f (4 * n)))) (tileOf f n)

/-- The key of a save area (R102). -/
def areaKey (v : Word) : Nat := keyOf (v.extractLsb' 52 12).toNat ((v.extractLsb' 20 32).toNat * 2 ^ 20)

/-- The bank of a program counter. -/
def pcBank (p : Nat) : Nat := p / 2 ^ 15

/-- The unit index of a program counter. -/
def pcIdx (p : Nat) : Nat := p % 2 ^ 15

def mkPc (bank idx : Nat) : Nat := bank * 2 ^ 15 + idx

/-- The 15-bit program counter of R14. Past the last unit of a bank it names unit 0 of the same bank, since control does not
pass to the other (R17; assumption log 80). -/
def archPc (p : Nat) : Nat := pcBank p % 2 * 2 ^ 14 + pcIdx p % 2 ^ 14

/-- A program counter from its 15 bits. -/
def pcOfArch (v : Nat) : Nat := mkPc (v / 2 ^ 14 % 2) (v % 2 ^ 14)

/-- The registers that `n` and `q` name at the context's level (R73). -/
def Ctx.regs (c : Ctx) : RegSet := if c.sys then c.shad else c.prog

/-- A set of registers of a level replaced. -/
def Ctx.setSet (c : Ctx) (sys : Bool) (r : RegSet) : Ctx := if sys then { c with shad := r } else { c with prog := r }

/-- The registers of the context's level replaced. -/
def Ctx.setRegs (c : Ctx) (r : RegSet) : Ctx := c.setSet c.sys r

/-- The registers of a level. -/
def Ctx.set (c : Ctx) (sys : Bool) : RegSet := if sys then c.shad else c.prog

/-- The value of a named register. -/
def RegSet.get (r : RegSet) (i : Nat) : Word := mget 0 i r.n

/-- A named register written: its value, its presence bit set, its poison bit cleared (R69, R100). -/
def RegSet.put (r : RegSet) (i : Nat) (v : Word) : RegSet :=
  { r with n := mset 0 i v r.n, pres := r.pres ||| ((1 : BitVec 32) <<< i), pois := r.pois &&& ~~~((1 : BitVec 32) <<< i) }

/-- A push onto the result queue (R94): every entry one place older, the oldest discarded. -/
def RegSet.push (r : RegSet) (v : Word) : RegSet := { r with q := (v :: r.q).take 16 }

/-- A queue of a context's streaming slot. -/
def Ctx.queue (c : Ctx) (slot : Nat) : List Entry := mget [] slot c.queues
def Ctx.setQueue (c : Ctx) (slot : Nat) (q : List Entry) : Ctx := { c with queues := mset [] slot q c.queues }

/-- Every entry of a context's streaming queues, in slot order. -/
def Ctx.entries (c : Ctx) : List Entry := c.queue 3 ++ c.queue 4 ++ c.queue 5 ++ c.queue 6 ++ c.queue 7

/-- The fields of `TRAPCAUSE` (R90). -/
def trapcauseOf (cause : Nat) (pl stream drop exited mid : Bool) (rcleft rpc : Nat) : Word :=
  BitVec.ofNat 64 (cause % 256 + pl.toNat * 2 ^ 8 + rcleft % 128 * 2 ^ 9 + stream.toNat * 2 ^ 16 + drop.toNat * 2 ^ 17 +
    exited.toNat * 2 ^ 19 + mid.toNat * 2 ^ 20 + rpc % 2 ^ 15 * 2 ^ 21)

/-- The fields of `TRAPINFO0` (R91). -/
def info0Of (slot rep detail : Nat) : Word :=
  BitVec.ofNat 64 (slot % 8 + rep % 128 * 2 ^ 3 + detail % 2 ^ 48 * 2 ^ 16)

/-- What trap entry does to a context that may trap (R75): cause, resume point, frame, stickiness cleared, system level,
the handler's address. `tpc` names the bundle that raised the trap. -/
def Ctx.enterTrap (c : Ctx) (t : Trap) (tpc rep rpc rcleft : Nat) (mid stream drop : Bool) : Ctx :=
  { c with
    trapcause := trapcauseOf t.cause c.sys stream drop (c.phase == .retiring) mid rcleft (archPc rpc)
    trappc := BitVec.ofNat 64 (archPc tpc)
    info0 := info0Of t.slot rep t.detail
    info1 := t.info1
    frame := { sticky := c.sticky, cursors := c.cursors, loops := c.loops }
    sticky := []
    loops := []
    phase := .running
    sys := true
    mid := false
    rcLeft := 0
    decoded := none
    skipS0 := false
    pc := pcOfArch (c.trapvec.extractLsb' 0 15).toNat }

/-- Whether a trap of the context is a double trap (R76). -/
def Ctx.doubleTraps (c : Ctx) : Bool := c.sys || !c.trapvec.getLsbD 15

/-- A context stopped at once, its queues discarded (R76, R384). -/
def Ctx.stopNow (c : Ctx) : Ctx :=
  { c with phase := .free, queues := [], outs := [], held := [], sfault := [], sticky := [], guard := none }

/-- Whether an entry is a `LEASE`. -/
def Entry.isLease (e : Entry) : Bool :=
  match e.instr with
  | some (.lease ..) => true
  | _ => false

/-- Whether an engine is held by a lease or granted to a request (R258, R263). -/
def Engine.taken (x : Engine) : Bool := x.st == .leased || x.st == .reserved || x.st == .aborting

/-- What the contexts that `mine` names, by identity and place in a save area, have of the engines ends as they stop (R265, R384): their
leases are revoked, which leaves the engines warm, pending requests withdrawn, warm requests removed. The arbiter acts on it, and the
commands of those leases are aborted, as their launch completes (assumption log 116). -/
def State.dropEngines (s : State) (mine : Nat → Option (Nat × Nat) → Bool) : State :=
  let reqs := (s.cmds.filter fun c => c.2.entry.isLease && mine c.2.cx c.2.area).map Prod.fst
  { s with
    cmds := s.cmds.filter fun c => !reqs.contains c.1
    dies := mmap (fun (d : Die) =>
      { d with
        engines := mmap (fun (x : Engine) => if x.taken && mine x.cx x.area then { st := .warm, since := s.now } else x) d.engines
        benches := mmap (fun l => l.filter fun id => !reqs.contains id) d.benches
        warmReqs := mmap (fun l => l.filter fun cx => !mine cx none) d.warmReqs }) s.dies }

/-- A context stopped at once, with its divide in progress and what it has of the engines (R265, R384). -/
def State.stopCtx (s : State) (cx : Nat) : State :=
  ((s.updCtx cx Ctx.stopNow).updCore (coreOf cx) fun k =>
    { k with divider := match k.divider with
        | some d => if d.cx = cx then none else some d
        | none => none }).dropEngines fun c a => c = cx && a.isNone

/-- Whether the state of a hardware context is on its way to or from the save area (R59). -/
def Ctx.moving (c : Ctx) : Bool :=
  match c.phase with
  | .saving _ => true
  | _ => false

/-- The hardware contexts bound to a launch that have not ended. -/
def State.boundTo (s : State) (l : Nat) : List Nat :=
  (s.ctxs.filter fun p => p.2.launch == some l && p.2.phase != .free).map Prod.fst

/-- A launch stopped to complete with a status, unless it is stopping already: its contexts stop at once, and what its saved ones have of
the engines ends (R265, R384, R385). What it has started ends in `LAUNCH_COMPLETION`. -/
def State.failLaunch (s : State) (l : Option Nat) (status : Nat) : State :=
  match l with
  | none => s
  | some k =>
    let x := mget {} k s.launches
    let s := { s with launches := mput k { x with stop := x.stop.or (some status) } s.launches }
    ((s.boundTo k).foldl State.stopCtx s).dropEngines fun _ a => a.any fun p => p.1 = k

/-- The launch status FAULT of a double trap (R76, R385). -/
def statusFault : Nat := 2

/-- The opcode of an entry's parcel. -/
def Entry.op (e : Entry) : Nat := (parcelOp e.par.w0).toNat

/-- Whether an entry at the head of its queue waits in the way that trap entry, pre-emption and a debug halt end, holding
the entry (R209, R361, R363): a parked op, a `WAITA`, an `LDNB`. A `LAUNCH` that retries the read of its record (R430) does not. -/
def Entry.withdrawn (e : Entry) : Bool :=
  match e.phase with
  | .parked _ => e.slot != 7
  | .watching => true
  | .sent _ => e.slot = 3 && (e.op = 0x10 || e.op = 0x0E)
  | .resting => true
  | .queued => false
  | .fetched _ => false

/-- Whether an entry at the head of its queue waits so that it is held: withdrawn, or a kind-1 read whose scratch words are not all
FULL, which is to park (R209). -/
def State.headWaits (s : State) (cx : Nat) (e : Entry) : Bool :=
  e.withdrawn || (e.kind1 && e.phase == .queued &&
    !(e.kind1Words (s.core (coreOf cx)).arr.afmt).all fun w => mget false w (s.cluster (clusterOf cx)).full)

/-- Whether an entry has started, so that it runs to completion (R74). -/
def Entry.started (e : Entry) : Bool :=
  match e.phase with
  | .sent _ => !e.withdrawn && !e.fault
  | .fetched _ => e.slot = 7
  | .parked _ => e.slot = 7
  | _ => false

/-- Whether an entry issued before another, slots of one repetition in their order (R74). -/
def Entry.before (a b : Nat × Nat) : Bool := a.1 < b.1 || (a.1 = b.1 && a.2 < b.2)

/-- Whether a request is a not-before load that is to be answered (R361). -/
def Packet.pendingLdnb (p : Packet) : Bool :=
  p.kind == .transit && p.bytes.isEmpty && p.stage != .performed && p.stage != .done

/-- A request forgotten: kept only until its flow has acknowledged it (R313). -/
def forget (id : Nat) (p : Packet) (net : Map Packet) : Map Packet :=
  if p.acked then merase id net else mput id { p with stage := .done } net

/-- The not-before loads of a context withdrawn from their homes (R361), with the entries that have left their queue. -/
def State.withdrawLdnb (s : State) (cx : Nat) : State × List Entry :=
  let ps := s.net.filter fun p => p.2.cx = cx && p.2.pendingLdnb
  let ids := ps.map Prod.fst
  ({ s with
      net := ps.foldl (fun n p => forget p.1 p.2 n) s.net
      quads := if ps.isEmpty then s.quads
        else s.quads.map fun q => (q.1, { q.2 with transit := q.2.transit.filter fun t => !ids.contains t.pkt }) },
    (ps.map fun p => p.2.entry).filter fun e => !((s.ctx cx).queue 3).any fun x => x.ord = e.ord)

/-- The request that a `WAITA` awaits is forgotten when the op is withdrawn (R363). -/
def State.forgetWaits (s : State) (cx : Nat) (es : List Entry) : State :=
  { s with net := (s.net.filter fun p => p.2.cx = cx && es.any fun e => e.phase == .sent p.1).foldl (fun n p => forget p.1 p.2 n) s.net }

/-- What waits in the S3 and S5 queues of a context whose core is halted is withdrawn from where it waits, and rests at the head of its
queue until the core resumes (R209, R361, R363, R416). -/
def State.haltWaits (s : State) (cx : Nat) : State :=
  let (s, late) := s.withdrawLdnb cx
  let s := s.forgetWaits cx (((s.ctx cx).queue 3).filter Entry.withdrawn)
  let rest := fun (e : Entry) => { e with phase := .resting }
  s.updCtx cx fun c =>
    let c := if (late ++ c.queue 3).isEmpty then c
      else c.setQueue 3 (late.map rest ++ (c.queue 3).map fun e => if e.withdrawn then rest e else e)
    if (c.queue 5).any Entry.withdrawn then c.setQueue 5 ((c.queue 5).map fun e => if e.withdrawn then rest e else e) else c

/-- A plain halt of a core (R416): issue stops, what waits is withdrawn; a divide in progress completes first (R97). -/
def State.plainHalt (s : State) (core : Nat) : State :=
  if (s.core core).divider.isSome then s.updCore core fun k => { k with halt := .pending }
  else ((List.range 4).foldl (fun (s : State) h => s.haltWaits (4 * core + h)) s).updCore core fun k => { k with halt := .plain }

/-- Entries in program order. -/
def insertEntry (e : Entry) : List Entry → List Entry
  | [] => [e]
  | x :: xs => if Entry.before (e.ord, e.slot) (x.ord, x.slot) then e :: x :: xs else x :: insertEntry e xs

/-- The entries, in program order, that stay where they are (`keep`) or are held: from a fault on every one that has not
started, what waits, and what one that is held keeps from starting (R74). -/
def heldEntries (fault : Option (Nat × Nat)) (waits : List Entry) (l : List Entry) : List Entry :=
  l.foldl (fun (held : List Entry) e =>
    if e.started then held
    else if (fault.any fun m => !Entry.before (e.ord, e.slot) m) || waits.contains e || held.any (fun y => y.blocks e) then held ++ [e]
    else held) []

/-- The fault reported first: the one whose op issued first (R74). -/
def firstFault : List SFault → Option SFault
  | [] => none
  | x :: xs =>
    match firstFault xs with
    | none => some x
    | some y => if Entry.before (y.ord, y.slot) (x.ord, x.slot) then some y else some x

/-- Entries held (R74): the faulting entry, marked so where the trap reports it (`mark`), and every later one that has not started, what
waits, and the not-before loads `late`. Their writes that have no value are listed again at replay. -/
def Ctx.holdFrom (c : Ctx) (fault : Option (Nat × Nat)) (mark : Bool) (waits late : List Entry) : Ctx :=
  let held := heldEntries fault (late ++ waits) ((late ++ c.entries).foldl (fun l e => insertEntry e l) [])
  { c with
    queues := (c.queues.map fun q => (q.1, q.2.filter fun e => !held.contains e)).filter fun q => !q.2.isEmpty
    sfault := []
    held := c.held ++ held.map fun e => { e with phase := .queued, fault := mark && fault == some (e.ord, e.slot) }
    outs := c.outs.filter fun o => o.val.isSome || !held.any fun e => e.ord = o.ord && e.slot = o.slot }

/-- The entries that a trap holds (R74, R209, R361, R363): what waits, the first entry with a streaming fault, and every later entry not
started. -/
def State.holdEntries (s : State) (cx : Nat) (mark : Bool) : State :=
  let fault := (firstFault (s.ctx cx).sfault).map fun f => (f.ord, f.slot)
  let (s, late) := s.withdrawLdnb cx
  let c := s.ctx cx
  let waits := ([3, 5].filterMap fun k => (c.queue k).head?).filter (s.headWaits cx)
  (s.forgetWaits cx waits).updCtx cx fun c => c.holdFrom fault mark waits late

/-- A trap taken by a context (R75), or the double trap that stops its launch (R76). `STREAM` says that held entries exist
(R90), whatever raised the trap; a streaming fault that it does not report shows up again on replay (R74, assumption log 117). -/
def State.takeTrap (s : State) (cx : Nat) (t : Trap) (tpc rep rpc rcleft : Nat) (mid stream drop : Bool) : State :=
  let c := s.ctx cx
  if c.doubleTraps then (s.stopCtx cx).failLaunch c.launch statusFault
  else
    let s := s.holdEntries cx stream
    s.updCtx cx fun c => c.enterTrap t tpc rep rpc rcleft mid (stream || !c.held.isEmpty) drop

/-- A precise trap at the repetition being carried out: the bundle resumes at that repetition (R75). -/
def State.takePrecise (s : State) (t : Trap) : State :=
  s.takeTrap s.cur.cx t s.cur.pc s.cur.rep s.cur.pc s.cur.left true false false

end Sys2Proof.Machine
end

