-- ==== Sys2Proof/Machine/Crypto.lean ====
section
/-!
DEFINITION. The functions on bytes that the spec names by their standard: CRC32C (09 R271, 15 R412), SHA3-256 of FIPS 202
(R271) and KMAC256 (15 R424), all over the permutation Keccak-f[1600].
-/

namespace Sys2Proof.Machine

/-- Eight steps of the reflected CRC32C (R271). -/
def crcStep : Nat → BitVec 32 → BitVec 32
  | 0, c => c
  | n + 1, c => crcStep n (if c.getLsbD 0 then (c >>> 1) ^^^ 0x82F63B78 else c >>> 1)

/-- The CRC state after a list of bytes. -/
def crcRun (c : BitVec 32) (bs : List Byte) : BitVec 32 := bs.foldl (fun c b => crcStep 8 (c ^^^ b.setWidth 32)) c

/-- CRC32C from a seed (R271). -/
def crc32c (seed : BitVec 32) (bs : List Byte) : BitVec 32 := crcRun (seed ^^^ 0xFFFFFFFF) bs ^^^ 0xFFFFFFFF

/-- The rotation amounts of Keccak's ρ, lane x + 5y. -/
def keccakRot : List Nat :=
  [0, 1, 62, 28, 27, 36, 44, 6, 55, 20, 3, 10, 43, 25, 39, 41, 45, 15, 21, 8, 18, 2, 61, 56, 14]

/-- The round constants of Keccak's ι. -/
def keccakRc : List (BitVec 64) :=
  [0x0000000000000001, 0x0000000000008082, 0x800000000000808A, 0x8000000080008000, 0x000000000000808B, 0x0000000080000001,
   0x8000000080008081, 0x8000000000008009, 0x000000000000008A, 0x0000000000000088, 0x0000000080008009, 0x000000008000000A] ++
  [0x000000008000808B, 0x800000000000008B, 0x8000000000008089, 0x8000000000008003, 0x8000000000008002, 0x8000000000000080,
   0x000000000000800A, 0x800000008000000A, 0x8000000080008081, 0x8000000000008080, 0x0000000080000001, 0x8000000080008008]

/-- One round of Keccak-f[1600] on 25 lanes. -/
def keccakRound (a : List (BitVec 64)) (rc : BitVec 64) : List (BitVec 64) :=
  let l := fun (a : List (BitVec 64)) x y => a.getD (x % 5 + 5 * (y % 5)) 0
  let c := (List.range 5).map fun x => l a x 0 ^^^ l a x 1 ^^^ l a x 2 ^^^ l a x 3 ^^^ l a x 4
  let d := (List.range 5).map fun x => c.getD ((x + 4) % 5) 0 ^^^ (c.getD ((x + 1) % 5) 0).rotateLeft 1
  let t := (List.range 25).map fun i => a.getD i 0 ^^^ d.getD (i % 5) 0
  let b := (List.range 25).map fun i =>
    let x := i % 5
    let y := i / 5
    let sx := (x + 3 * y) % 5
    (l t sx x).rotateLeft (keccakRot.getD (sx + 5 * x) 0)
  let e := (List.range 25).map fun i => l b (i % 5) (i / 5) ^^^ (~~~(l b (i % 5 + 1) (i / 5)) &&& l b (i % 5 + 2) (i / 5))
  match e with
  | h :: r => (h ^^^ rc) :: r
  | [] => []

/-- Keccak-f[1600]. -/
def keccakF (a : List (BitVec 64)) : List (BitVec 64) := keccakRc.foldl keccakRound a

/-- The lanes of a block of bytes, padded with zeros to 25. -/
def lanesOfBytes (bs : List Byte) : List (BitVec 64) := (List.range 25).map fun i => wordOfBytes ((bs.drop (8 * i)).take 8)

/-- The sponge of rate 136 bytes, absorbing blocks. -/
def absorb : Nat → List (BitVec 64) → List Byte → List (BitVec 64)
  | 0, a, _ => a
  | n + 1, a, bs =>
    absorb n (keccakF ((a.zip (lanesOfBytes (bs.take 136))).map fun p => p.1 ^^^ p.2)) (bs.drop 136)

/-- A message padded to whole blocks of 136 bytes with the domain byte `dom`. -/
def spongePad (dom : Byte) (bs : List Byte) : List Byte :=
  let gap := 136 - bs.length % 136
  if gap = 1 then bs ++ [dom ||| 0x80] else bs ++ dom :: List.replicate (gap - 2) 0 ++ [0x80]

/-- The first `n` bytes, at most 136, that the sponge of rate 136 gives for a message. -/
def sponge (dom : Byte) (n : Nat) (bs : List Byte) : List Byte :=
  let m := spongePad dom bs
  ((absorb (m.length / 136) (List.replicate 25 0) m).flatMap (bytesOfWord 8)).take n

/-- SHA3-256 of FIPS 202 (R271). -/
def sha3 (bs : List Byte) : List Byte := sponge 0x06 32 bs

/-- A number's bytes, highest first, at least one. -/
def bytesBig : Nat → Nat → List Byte
  | 0, _ => []
  | f + 1, x => if x < 256 then [BitVec.ofNat 8 x] else bytesBig f (x / 256) ++ [BitVec.ofNat 8 x]

/-- left_encode and right_encode of SP 800-185. -/
def leftEncode (x : Nat) : List Byte := let b := bytesBig 8 x; BitVec.ofNat 8 b.length :: b
def rightEncode (x : Nat) : List Byte := let b := bytesBig 8 x; b ++ [BitVec.ofNat 8 b.length]
def encodeString (bs : List Byte) : List Byte := leftEncode (8 * bs.length) ++ bs

/-- bytepad of SP 800-185 to blocks of 136. -/
def bytepad (bs : List Byte) : List Byte :=
  let z := leftEncode 136 ++ bs
  z ++ List.replicate ((136 - z.length % 136) % 136) 0

/-- KMAC256 of SP 800-185 with 64 bytes of output (R424). -/
def kmac256 (key custom bs : List Byte) : List Byte :=
  let name : List Byte := [0x4B, 0x4D, 0x41, 0x43]
  sponge 0x04 64 (bytepad (encodeString name ++ encodeString custom) ++ bytepad (encodeString key) ++ bs ++ rightEncode 512)

end Sys2Proof.Machine
end

