-- ==== Sys2Proof/Machine/Operands.lean ====
section
/-!
DEFINITION. Every operand form: the value, presence and poison of an operand specifier (01 R26, 03 R99, R100), the
write of a destination specifier (01 R27), and the registers that a streaming op is to write (02 R69).
-/

namespace Sys2Proof.Machine

/-- The value of an operand specifier for a context (R26). -/
def specVal (s : State) (cx : Nat) (sp : Spec) : Word :=
  let c := s.ctx cx
  let k := sp.toNat
  if k < 16 then c.regs.q.getD k 0
  else if k < 48 then c.regs.get (k - 16)
  else
    match k with
    | 48 => 0
    | 49 => 1
    | 50 => 2
    | 51 => 3
    | 52 => 4
    | 53 => 8
    | 54 => 16
    | 55 => BitVec.allOnes 64
    | 56 => BitVec.ofNat 64 cx
    | 57 => BitVec.ofNat 64 (cx / 4 % 8)
    | 58 => BitVec.ofNat 64 (cx / 32 % 8)
    | 59 => BitVec.ofNat 64 (dieOf cx)
    | 60 => BitVec.ofNat 64 (s.mt (dieOf cx))
    | 61 => c.cycBase + BitVec.ofNat 64 (s.cycleOf (clusterOf cx))
    | 62 => c.args
    | _ => c.res

/-- Whether a specifier names a named register whose presence bit is clear (R69). -/
def specAbsent (c : Ctx) (sp : Spec) : Bool := isNamed sp && !c.regs.pres.getLsbD (namedIdx sp)

/-- Whether a specifier names a poisoned named register (R100). -/
def specPoisoned (c : Ctx) (sp : Spec) : Bool := isNamed sp && c.regs.pois.getLsbD (namedIdx sp)

/-- The first poisoned operand of a list: in the order of the op's fields, where several are poisoned (assumption log 83). -/
def firstPoisoned (c : Ctx) : List Spec → Option Spec
  | [] => none
  | sp :: sps => if specPoisoned c sp then some sp else firstPoisoned c sps

/-- The trap of reading a poisoned named register (R100). -/
def poisonTrap (slot : Nat) (sp : Spec) : Trap := { cause := 0x0B, slot := slot, detail := sp.toNat }

/-- The trap of a precise operand out of its range (R98). -/
def rangeTrap (slot : Nat) (v : Word) : Trap := { cause := 0x04, slot := slot, info1 := v }

/-- A destination specifier written at the level of a context: nothing more than the push for 0, the named register
for 16–47 (R27). -/
def Ctx.writeDest (c : Ctx) (d : Spec) (v : Word) : Ctx :=
  if d == 0 then c else c.setRegs (c.regs.put (namedIdx d) v)

/-- A push at the level of a context (R94). -/
def Ctx.push (c : Ctx) (v : Word) : Ctx := c.setRegs (c.regs.push v)

/-- A presence bit cleared (R69, R140). -/
def Ctx.clearPresence (c : Ctx) : Dst → Ctx
  | .n sys i => c.setSet sys { c.set sys with pres := (c.set sys).pres &&& ~~~((1 : BitVec 32) <<< i) }
  | .v i => { c with vpres := c.vpres &&& ~~~((1 : Word) <<< i) }

/-- The outstanding writes of an op listed and their presence bits cleared, at issue or at replay. -/
def Ctx.listOuts (c : Ctx) (e : Entry) (i : Instr) : Ctx :=
  (dstsOf i e.sys).foldl (fun c d =>
    { c.clearPresence d with outs := c.outs ++ [{ ord := e.ord, slot := e.slot, dst := d, val := none }] }) c

end Sys2Proof.Machine
end

