-- ==== Sys2Proof/Machine/Flags.lean ====
section
/-!
DEFINITION. Flags, tokens, `ENGFAIL` and `FPSTATUS`: every way the spec lets them change (02 R70, R71, R80, R92, R93;
04 R130, R131).
-/

namespace Sys2Proof.Machine

/-- Flags of a mask set (R80). -/
def Ctx.setFlags (c : Ctx) (mask : BitVec 16) : Ctx := { c with flags := c.flags ||| mask }

/-- Flags of a mask cleared (R80). -/
def Ctx.clrFlags (c : Ctx) (mask : BitVec 16) : Ctx := { c with flags := c.flags &&& ~~~mask }

/-- Whether all flags of a mask are set (R80). -/
def Ctx.hasFlags (c : Ctx) (mask : BitVec 16) : Bool := c.flags &&& mask == mask

/-- The failure bits `ENGFAIL.FFAIL` (R92). -/
def Ctx.ffail (c : Ctx) : BitVec 16 := c.engfail.extractLsb' 0 16

/-- Status bits set, never cleared (R131). -/
def Ctx.orStatus (c : Ctx) (st : Status) : Ctx := { c with fpstatus := c.fpstatus ||| st }

/-- The state of a token; `k0` names none and holds nothing up (R71). -/
def Ctx.tok (c : Ctx) (k : BitVec 6) : Tok := if k == 0 then .complete else mget .complete k.toNat c.tokens

/-- A token made pending for the command issued at `ord`; an earlier producer is no longer tracked (R71). -/
def Ctx.makeToken (c : Ctx) (k : BitVec 6) (ord : Nat) : Ctx :=
  if k == 0 then c
  else { c with tokens := mset .complete k.toNat .pending c.tokens, tokOf := mput k.toNat ord c.tokOf, tokScm := merase k.toNat c.tokScm }

/-- A token completed by a guarded-off command at once, whoever produced it before (R24). -/
def Ctx.completeToken (c : Ctx) (k : BitVec 6) : Ctx :=
  if k == 0 then c
  else { c with tokens := mset .complete k.toNat .complete c.tokens, tokOf := merase k.toNat c.tokOf, tokScm := merase k.toNat c.tokScm }

/-- The token of a command ended: complete or failed, if the command is still the one tracked through it (R71). -/
def Ctx.endToken (c : Ctx) (k : BitVec 6) (ord : Nat) (failed : Bool) : Ctx :=
  if k != 0 && mget 0 k.toNat c.tokOf == ord && c.tok k == .pending then
    { c with tokens := mset .complete k.toNat (if failed then .failed else .complete) c.tokens }
  else c

/-- A failure recorded in `ENGFAIL` (R92): `FTOK`, `FKIND` and `FWHY` describe the first one since `FFAIL` last became
zero, and the command's done flag joins `FFAIL`. -/
def failRecord (t : Tail) (kind why : Nat) (old : Word) (rec : Bool) : Word :=
  let first := if rec then old
    else (old.extractLsb' 0 16).setWidth 64 ||| (t.prod.setWidth 64 <<< 16) ||| BitVec.ofNat 64 (kind % 8 * 2 ^ 22 + why % 4 * 2 ^ 25)
  if t.fen then first ||| ((1 : Word) <<< t.fnum.toNat) else first

/-- The snapshot of a guarded context changed: what an engine completion does stands after a rollback (R414). -/
def Ctx.onSnap (c : Ctx) (f : Snapshot → Snapshot) : Ctx :=
  { c with guard := c.guard.map fun g => { g with snap := f g.snap } }

def Ctx.recordFailure (c : Ctx) (t : Tail) (kind why : Nat) : Ctx :=
  { c with engfail := failRecord t kind why c.engfail c.engrec, engrec := true }.onSnap fun x =>
    { x with engfail := failRecord t kind why x.engfail x.engrec, engrec := true }

/-- The done flag of a command set (R70), in a guarded context for its snapshot too (R414). -/
def Ctx.setDone (c : Ctx) (t : Tail) : Ctx :=
  if t.fen then (c.setFlags (1 <<< t.fnum.toNat)).onSnap fun x => { x with flags := x.flags ||| (1 <<< t.fnum.toNat) } else c

/-- The commands of a context that consume what the command issued at `ord` produces learn of its end (R71). -/
def Ctx.tellEnd (c : Ctx) (ord : Nat) (failed : Bool) : Ctx :=
  let tell := fun (e : Entry) =>
    if e.waits.contains ord then { e with waits := e.waits.filter (· != ord), dead := e.dead || failed } else e
  { c.setQueue 7 ((c.queue 7).map tell) with held := c.held.map tell }

/-- The SCM lines written by the command issued at `ord`, for the `PERSIST` of a context that waits on its flag or its token: noted
with both, and with the commands that consume the token (R310). -/
def Ctx.noteScm (c : Ctx) (t : Tail) (ord : Nat) (lines : List Nat) : Ctx :=
  let add := fun (e : Entry) => if e.waits.contains ord then { e with scm := e.scm ++ lines } else e
  let f := t.fnum.toNat
  { c.setQueue 7 ((c.queue 7).map add) with
    held := c.held.map add
    flagScm := if t.fen then mset [] f (mget [] f c.flagScm ++ lines) c.flagScm else c.flagScm
    tokScm := if t.prod != 0 && mget 0 t.prod.toNat c.tokOf == ord then mset [] t.prod.toNat lines c.tokScm else c.tokScm }

/-- The SCM lines of commands whose flags a context has waited on become covered by its `PERSIST` (R310). -/
def Ctx.coverFlags (c : Ctx) (mask : BitVec 16) : Ctx :=
  { c with
    unpersisted := c.unpersisted ++ (c.flagScm.filter fun p => mask.getLsbD p.1).flatMap Prod.snd
    flagScm := c.flagScm.filter fun p => !mask.getLsbD p.1 }

/-- A command of a context completed (R70, R71): its token complete, its done flag set. -/
def Ctx.commandDone (c : Ctx) (t : Tail) (ord : Nat) : Ctx :=
  ((c.endToken t.prod ord false).tellEnd ord false).setDone t

/-- A command of a context failed (R71): its token failed, its done flag set, the failure recorded. -/
def Ctx.commandFailed (c : Ctx) (t : Tail) (ord kind why : Nat) : Ctx :=
  (((c.endToken t.prod ord true).tellEnd ord true).recordFailure t kind why).setDone t

/-- What the end of a command does to its context (R71, R310): the SCM lines that it and what it waited on wrote are noted, its token
and its flag follow; `fail` gives the kind and the reason of a failure. -/
def Ctx.commandEnds (c : Ctx) (t : Tail) (ord : Nat) (scm : List Nat) (fail : Option (Nat × Nat)) : Ctx :=
  match fail with
  | none => (c.noteScm t ord scm).commandDone t ord
  | some (kind, why) => (c.noteScm t ord scm).commandFailed t ord kind why

/-- A write to `ENGFAIL` (R92): the `FFAIL` bits written as 1 are cleared. -/
def Ctx.writeEngfail (c : Ctx) (v : Word) : Ctx :=
  let left := c.ffail &&& ~~~(v.extractLsb' 0 16)
  { c with
    engfail := c.engfail &&& ~~~((v.extractLsb' 0 16).setWidth 64)
    engrec := if left == 0 && c.ffail != 0 then false else c.engrec }

/-- A vector register written whole: valid, dirty, its poison that of the result (R141, R144). -/
def Ctx.putVec (c : Ctx) (i : Nat) (v : Map W32) (poison : Bool) : Ctx :=
  let b : Word := 1 <<< i
  { c with
    v := mset [] i v c.v
    vpois := if poison then c.vpois ||| b else c.vpois &&& ~~~b
    vvalid := c.vvalid ||| b, vdirty := c.vdirty ||| b }

/-- Whether a listed write may take effect (R69, R140): earlier writes of its register have, and so have the reads. -/
def Ctx.outReady (c : Ctx) (o : Out) : Bool :=
  !(c.outs.any fun x => x.dst == o.dst && (x.ord < o.ord || (x.ord = o.ord && x.slot < o.slot))) &&
    (match o.dst with
     | .n _ _ => true
     | .v i => !((c.queue 3 ++ c.queue 4 ++ c.queue 5 ++ c.queue 6).any fun e =>
         e.ord ≤ o.ord &&
           (match e.instr with
            | some j => (vReads j).any fun v => v.toNat == i
            | none => false)))

/-- A register set with a streaming write of it in effect (R69, R100); `last` when none to it is left. -/
def RegSet.applyOut (r : RegSet) (i : Nat) (v : OutVal) (last : Bool) : RegSet :=
  let bit : BitVec 32 := 1 <<< i
  let r' := if v.keep then { r with pres := r.pres ||| bit } else r.put i v.word
  { r' with
    pres := if last then r'.pres else r'.pres &&& ~~~bit
    pois := if v.poison && !v.keep then r'.pois ||| bit else r'.pois }

/-- A write taking effect (R69, R100, R131, R140, R147, R186); what a command returns stands after a rollback (R408, R414). -/
def Ctx.applyOut (c : Ctx) (o : Out) (v : OutVal) : Ctx :=
  let rest := c.outs.filter fun x => x != o
  let last := !(rest.any fun x => x.dst == o.dst)
  let c := { c with
    outs := rest, fpstatus := c.fpstatus ||| v.status, vdec := v.vdec.getD c.vdec, awc := if v.awc then c.awc - 1 else c.awc }
  match o.dst with
  | .n sys i =>
    let c := c.setSet sys ((c.set sys).applyOut i v last)
    if o.slot = 7 then
      c.onSnap fun x => if sys then { x with shad := x.shad.applyOut i v last } else { x with prog := x.prog.applyOut i v last }
    else c
  | .v i =>
    let c := if v.keep then c else c.putVec i v.vec v.poison
    { c with vpres := if last then c.vpres ||| ((1 : Word) <<< i) else c.vpres }

/-- The writes of a context that have their values and may take effect do so, in order; `n` bounds their number. -/
def Ctx.applyOuts : Nat → Ctx → Ctx
  | 0, c => c
  | n + 1, c =>
    match c.outs.find? fun o => o.val.isSome && c.outReady o with
    | none => c
    | some o => Ctx.applyOuts n (c.applyOut o (o.val.getD {}))

end Sys2Proof.Machine
end

