-- ==== Sys2Proof/Machine/Matrix.lean ====
section
/-!
DEFINITION. The matrix array, the weight buffer and the accumulator store (06 R170–R197): formats, one beat, the two
operations on the array that are no beats, the accumulator moves of S6, and the array image.
-/

namespace Sys2Proof.Machine

/-- The element format of a matrix format code; none for the integer codes (R31, R174). -/
def matFmt (f : BitVec 4) : Option Fmt :=
  match f.toNat with
  | 0 | 3 => some e4m3
  | 1 | 4 => some e5m2
  | 5 => some e3m2
  | 6 => some e2m3
  | 7 => some e2m1
  | 8 => some bf16
  | 9 => some fp16
  | _ => none

/-- The width of an element (R174). -/
def matWidth (f : BitVec 4) : Nat :=
  match f.toNat with
  | 5 | 6 => 6
  | 7 => 4
  | 8 | 9 => 16
  | _ => 8

/-- The elements of one beat (R174). -/
def matK (f : BitVec 4) : Nat :=
  match f.toNat with
  | 7 => 256
  | 8 | 9 => 64
  | _ => 128

/-- Whether a format is of the integer group (R174). -/
def matInt (f : BitVec 4) : Bool := f == 2 || f == 10

/-- Element `i` of a little-endian bit stream (R125). -/
def streamElem (stream w i : Nat) : Nat := stream / 2 ^ (w * i) % 2 ^ w

/-- A value times its block scale (R125, R136): a scale of 0xFF makes a NaN. -/
def scaled (v : Fv) (scale : Nat) : Fv :=
  if scale = 0xFF then .nan false
  else
    match v with
    | .fin n m e => .fin n m (e + scale - 127)
    | x => x

/-- The values of an A vector or a plane row: its elements and, in MX formats, the scale byte of each block (R175, R176,
R179). -/
def matValues (f : BitVec 4) (elems scales : List Byte) : List Fv :=
  let stream := natOfBytes elems
  match matFmt f with
  | none => []
  | some g =>
    (List.range (matK f)).map fun k =>
      let v := g.decode (streamElem stream (matWidth f) k)
      if matMx f then scaled v (scales.getD (k / 32) 0).toNat else v

/-- The integers of an A vector or a plane row of the integer group (R179). -/
def matInts (f : BitVec 4) (elems : List Byte) : List Int := elems.map fun b => readInt (f == 2) 8 b.toNat

/-- The bytes of an A vector split into its elements and its scale bytes (R175). -/
def splitVector (f : BitVec 4) (bytes : List Byte) : List Byte × List Byte :=
  let n := matK f * matWidth f / 8
  (bytes.take n, (bytes.drop n).take (matK f / 32))

/-- What a sum of products has met: a NaN product, infinities of each sign, and the exact finite sum (R136). -/
structure ColSum where
  nan : Bool := false
  pinf : Bool := false
  ninf : Bool := false
  sum : Dy := ⟨0, 0⟩
  deriving DecidableEq, Repr

def ColSum.step (c : ColSum) (p : Fv × Fv) : ColSum :=
  match p.1.mul p.2 with
  | none => { c with nan := true }
  | some (.nan _) => { c with nan := true }
  | some (.inf false) => { c with pinf := true }
  | some (.inf true) => { c with ninf := true }
  | some (.fin n m e) => { c with sum := c.sum.add (dyOf n m e) }

/-- The FP32 value of a column (R136): NaN, then infinity, then the exact sum rounded once; an exact zero is +0 (R129). -/
def ColSum.result (c : ColSum) : W32 :=
  BitVec.ofNat 32
    (if c.nan || (c.pinf && c.ninf) then fp32.nan
     else if c.pinf then fp32.inf false
     else if c.ninf then fp32.inf true
     else (fp32.roundDy .rne false c.sum).1)

/-- A column sum of a float group. -/
def columnFloat (as ws : List Fv) : W32 := ((as.zip ws).foldl ColSum.step {}).result

/-- A column sum of the integer group (R179): the exact sum modulo 2^32. -/
def columnInt (as ws : List Int) : W32 := BitVec.ofInt 32 (((as.zip ws).map fun p => p.1 * p.2).foldl (· + ·) 0)

/-- A row of a plane. -/
def Plane.row (p : Plane) (n : Nat) : PlaneRow := mget {} n p

/-- The 128 column sums of an A vector in format `fa` with a plane in format `fw` (R179). -/
def columnSums (fa fw : BitVec 4) (vec : List Byte) (plane : Plane) : AccRow :=
  let (el, sc) := splitVector fa vec
  if matInt fa then
    let as := matInts fa el
    (List.range 128).map fun n => columnInt as (matInts fw (plane.row n).w)
  else
    let as := matValues fa el sc
    (List.range 128).map fun n => columnFloat as (matValues fw (plane.row n).w (plane.row n).sc)

/-- `acc_add` (R179): an FP32 add in RNE without status, or a wrapping add in the integer group. -/
def accAdd (ints : Bool) (a b : W32) : W32 :=
  if ints then a + b else BitVec.ofNat 32 (fp32.add .rne a.toNat b.toNat).1

def accAddRow (ints : Bool) (a b : AccRow) : AccRow := (a.zip b).map fun p => accAdd ints p.1 p.2

/-- The down-converter (R181): K FP32 values to the bytes of an A vector in format `f`. -/
def downConvert (f : BitVec 4) (vals : List Nat) : List Byte :=
  match matFmt f with
  | none => []
  | some g =>
    let w := matWidth f
    if matMx f then
      let blocks := (List.range (matK f / 32)).map fun b => mxBlock g (((vals.drop (32 * b)).take 32).map fp32.decode)
      let elems := blocks.flatMap Prod.snd
      bytesOfNat (matK f * w / 8) (elems.foldr (fun e n => e + 2 ^ w * n) 0) ++ blocks.map fun b => BitVec.ofNat 8 b.1
    else
      bytesOfNat (matK f * w / 8) ((vals.map fun x => (convert fp32 g .rne x).1).foldr (fun e n => e + 2 ^ w * n) 0)

/-- What a row that nothing has written holds: zero at reset, a free value in a bank allotted at a binding since, which the
spec gives no contents (R170, R374; assumption log 19). -/
def Core.accBlank (k : Core) (bank row : Nat) : AccRow :=
  match mget 0 bank k.accSeed with
  | 0 => accZero
  | n + 1 => (List.range 128).map fun c =>
      BitVec.ofNat 32 (natOfBytes ((List.range 4).map fun b => Config.freeByte n (((128 * bank + row % 128) * 128 + c) * 4 + b)))

/-- Row `i` of an accumulator bank (R184). -/
def Core.accRow (k : Core) (bank row : Nat) : AccRow := mget (k.accBlank bank row) (128 * bank + row % 128) k.acc

/-- Whether a row is poisoned (R192). -/
def Core.accPoisoned (k : Core) (bank row : Nat) : Bool := mget false (128 * bank + row % 128) k.accPois

/-- A row of an accumulator bank written, with its poison. -/
def Core.putAcc (k : Core) (bank row : Nat) (vals : AccRow) (poison : Bool) : Core :=
  { k with
    acc := mput (128 * bank + row % 128) vals k.acc
    accPois := mset false (128 * bank + row % 128) poison k.accPois }

/-- The selected half of the weight buffer, whether it is FULL, and its poisoned rows (R177). -/
def MatArray.half (a : MatArray) : Plane := if a.sel then a.wb1 else a.wb0
def MatArray.halfFull (a : MatArray) : Bool := if a.sel then a.full1 else a.full0
def MatArray.halfPois (a : MatArray) : List Nat := if a.sel then a.poisRows1 else a.poisRows0

/-- wload (R177, R187): a plane row of the selected half into the shadow plane, with what it does to the shadow plane's
poison and the clean-refill flag. -/
def MatArray.wload (a : MatArray) : MatArray :=
  let p := a.p.toNat
  let bad := a.halfPois.contains p
  let clean := !bad && (p == 0 || a.clean)
  let done := p == 127 && clean
  { a with
    shadow := mset {} p (a.half.row p) a.shadow
    p := a.p + 1
    shadowPois := (a.shadowPois || bad) && !done
    clean := clean && !done }

/-- wswap (R177, R187): the planes and their poison change roles; the clean-refill flag is cleared. -/
def MatArray.wswap (a : MatArray) : MatArray :=
  { a with
    active := a.shadow, shadow := a.active, activePois := a.shadowPois, shadowPois := a.activePois, clean := false }

/-- `MWSEL` (R188). -/
def MatArray.mwsel (a : MatArray) (h : Bool) : MatArray :=
  let a := { a with sel := h, p := 0, clean := false }
  if h then { a with full0 := false } else { a with full1 := false }

/-- Whether every pipeline entry is a bubble. -/
def MatArray.emptyPipe (a : MatArray) : Bool := a.pipe.all Option.isNone

/-- One beat after its A vector is fetched (R178): wload, wswap, push, and the emerging row's out-action on the bank. -/
def Core.beat (k : Core) (vec : Option (List Byte)) (fa : BitVec 4) (out : BitVec 2) (bank row : Nat)
    (wload wswap : Bool) : Core :=
  let a := if wload then k.arr.wload else k.arr
  let a := if wswap then a.wswap else a
  let emerging := (a.pipe.head?).join
  let entry := vec.map fun v => { vals := columnSums fa a.wfmt v a.active, poison := false : PipeRow }
  let ints := matInt a.afmt
  let writes := out == 1 || (out == 2 && emerging.isSome)
  let k := { k with
    arr := { a with pipe := a.pipe.drop 1 ++ [entry] }
    beatRow := if writes then some (128 * bank + row % 128) else none }
  match out.toNat, emerging with
  | 1, none => k.putAcc bank row accZero false
  | 1, some r => k.putAcc bank row r.vals r.poison
  | 2, some r => k.putAcc bank row (accAddRow ints (k.accRow bank row) r.vals) (k.accPoisoned bank row || r.poison)
  | _, _ => k

/-- Values of a bank's row-major image from byte `start` on, modulo the bank (R180, R184). -/
def Core.accValues (k : Core) (bank start n : Nat) : List Nat :=
  (List.range n).map fun i =>
    let e := (start / 4 + i) % 16384
    ((k.accRow bank (e / 128)).getD (e % 128) 0).toNat

/-- Whether a row that such a read touches is poisoned (R192). -/
def Core.accValuesPoisoned (k : Core) (bank start n : Nat) : Bool :=
  (List.range n).any fun i => k.accPoisoned bank ((start / 4 + i) % 16384 / 128)

/-- The rows that an S6 op moves (R190). -/
def accRowCount (cvt : BitVec 4) : Nat := if 3 ≤ cvt.toNat then 16 else 8

/-- `AGET` (R191): the columns of the destination and the status of the conversions. -/
def Core.agetRes (k : Core) (bank base : Nat) (cvt : BitVec 4) (rm : BitVec 2) : Map W32 × Status :=
  if cvt.toNat < 3 then
    ((List.range 1024).filterMap fun e =>
      let x := (k.accRow bank (base + e / 128)).getD (e % 128) 0
      if x = 0 then none else some (e, x), stNone)
  else
    let conv : Nat → Nat × Status := fun x =>
      match cvt.toNat with
      | 3 => convert fp32 bf16 (rmOf rm) x
      | 4 => convert fp32 fp16 (rmOf rm) x
      | n =>
        let signed := n == 5
        let v := readInt signed 32 x
        let sat := rm.getLsbD 0
        if sat && v < intMin signed 16 then (wrapInt 16 (intMin signed 16), stSAT)
        else if sat && intMax signed 16 < v then (wrapInt 16 (intMax signed 16), stSAT)
        else (wrapInt 16 v, stNone)
    let lane : Nat → Nat × Status := fun l => conv ((k.accRow bank (base + l / 128)).getD (l % 128) 0).toNat
    let cols := (List.range 1024).map fun e =>
      let a := lane (2 * e)
      let b := lane (2 * e + 1)
      (e, BitVec.ofNat 32 (a.1 + 2 ^ 16 * b.1), a.2 ||| b.2)
    (cols.filterMap fun p => if p.2.1 = 0 then none else some (p.1, p.2.1), cols.foldl (fun st p => st ||| p.2.2) stNone)

/-- Whether a row that an `AGET` reads is poisoned (R192). -/
def Core.agetPoisoned (k : Core) (bank base : Nat) (cvt : BitVec 4) : Bool :=
  (List.range (accRowCount cvt)).any fun i => k.accPoisoned bank (base + i)

/-- Row `i` of the eight that a vector register holds for `APUT` (R191). -/
def accRowOf (v : Map W32) (i : Nat) : AccRow := (List.range 128).map fun c => mget 0 (128 * i + c) v

/-- `APUT` and `APUTA` (R191, R192): eight rows written, or added to. -/
def Core.aputRows (k : Core) (bank base : Nat) (add : Bool) (ints : Bool) (v : Map W32) (poison : Bool) : Nat → Core
  | 0 => k
  | n + 1 =>
    let k := k.aputRows bank base add ints v poison n
    if add then
      k.putAcc bank (base + n) (accAddRow ints (k.accRow bank (base + n)) (accRowOf v n)) (k.accPoisoned bank (base + n) || poison)
    else k.putAcc bank (base + n) (accRowOf v n) poison

/-- `ACLR` (R191, R192). -/
def Core.aclrRows (k : Core) (bank base : Nat) : Nat → Core
  | 0 => k
  | n + 1 => (k.aclrRows bank base n).putAcc bank (base + n) accZero false

/-- The bytes of a plane or half in the layout of R176. -/
def Plane.image (p : Plane) : List Byte :=
  ((List.range 128).flatMap fun n => (p.row n).w) ++ ((List.range 128).flatMap fun n => (p.row n).sc)

/-- A plane or half from its image. -/
def planeOf (bs : List Byte) : Plane :=
  (List.range 128).foldl (fun p n =>
    mset {} n { w := (bs.drop (128 * n)).take 128, sc := (bs.drop (16384 + 8 * n)).take 8 } p) []

/-- The bits of a list, first bit lowest. -/
def natOfBits (bs : List Bool) : Nat := bs.foldr (fun b n => b.toNat + 2 * n) 0

/-- The state block of an array image (R194). -/
def MatArray.stateBlock (a : MatArray) : List Byte :=
  let w0 := a.afmt.toNat + a.wfmt.toNat * 2 ^ 4 + a.dfmt.toNat * 2 ^ 8 + a.full0.toNat * 2 ^ 12 + a.full1.toNat * 2 ^ 13 +
    a.sel.toNat * 2 ^ 14 + a.p.toNat * 2 ^ 15 + a.activePois.toNat * 2 ^ 22 + a.shadowPois.toNat * 2 ^ 23 + a.clean.toNat * 2 ^ 24
  bytesOfNat 8 w0 ++ bytesOfNat 24 (natOfBits (a.pipe.map Option.isSome)) ++
    bytesOfNat 24 (natOfBits (a.pipe.map fun e => (e.map PipeRow.poison).getD false)) ++ bytesOfNat 8 0

/-- The save image of the array (R193), up to the end of the state block. -/
def MatArray.image (a : MatArray) : List Byte :=
  a.wb0.image ++ a.wb1.image ++ a.active.image ++ a.shadow.image ++
    (a.pipe.flatMap fun e => ((e.map PipeRow.vals).getD accZero).flatMap fun x => bytesOfNat 4 x.toNat) ++ a.stateBlock

/-- The array restored from its image (R193–R195). -/
def matArrayOf (bs : List Byte) : MatArray :=
  let part := fun off n => (bs.drop off).take n
  let w0 := natOfBytes (part 0x21400 8)
  let rows := natOfBytes (part 0x21408 24)
  let pois := natOfBytes (part 0x21420 24)
  { pipe := (List.range 130).map fun e =>
      if rows.testBit e then
        some { vals := (List.range 128).map fun c => BitVec.ofNat 32 (natOfBytes (part (0x11000 + 512 * e + 4 * c) 4))
               poison := pois.testBit e }
      else none
    active := planeOf (part 0x8800 17408)
    shadow := planeOf (part 0xCC00 17408)
    activePois := w0.testBit 22
    shadowPois := w0.testBit 23
    wb0 := planeOf (part 0 17408)
    wb1 := planeOf (part 0x4400 17408)
    full0 := w0.testBit 12
    full1 := w0.testBit 13
    sel := w0.testBit 14
    p := BitVec.ofNat 7 (w0 / 2 ^ 15)
    afmt := BitVec.ofNat 4 w0
    wfmt := BitVec.ofNat 4 (w0 / 2 ^ 4)
    dfmt := BitVec.ofNat 4 (w0 / 2 ^ 8)
    clean := w0.testBit 24 }

end Sys2Proof.Machine
end

