-- ==== Sys2Proof/Machine/Memory.lean ====
section
/-!
DEFINITION. The places an access can go to: home slices with their write queues and pins (10 R282–R292, R308), the tier
remap table (R290), the cluster cache (07 R211, R212), cached-remote copies (11 R318), migration counters (R319), scratch
banks with tags and poison (07 R200, R208, R210), FIFOs (R213), instruction banks (01 R15), ring state (08 R238) and the
held stores of a guarded region (15 R409).
-/

namespace Sys2Proof.Machine

def State.mod (s : State) (m : Nat) : Module := mget {} m s.mods
def State.setMod (s : State) (m : Nat) (x : Module) : State := { s with mods := mput m x s.mods }
def State.updMod (s : State) (m : Nat) (f : Module → Module) : State := s.setMod m (f (s.mod m))

/-- The module of a die, by its corner die (R3). -/
def modOf (die : Nat) : Nat := cornerOf die

/-- The 48 bytes of data of a log record (R437): numbers of eight bytes each, zeros after them (assumption log 119). -/
def logData (l : List Nat) : List Byte := (l.flatMap (bytesOfNat 8) ++ List.replicate 48 0).take 48

/-- A record added to the event log of a die's module (R437). -/
def State.post (s : State) (die : Nat) (code : LogCode) (data : List Nat) : State :=
  s.updMod (modOf die) fun m =>
    { m with
      log := ({ mt := BitVec.ofNat 64 (s.mt die), code := code, die := BitVec.ofNat 16 die, seq := m.logSeq, data := logData data } :: m.log).take 1048576
      logSeq := m.logSeq + 1 }

/-- A 64-bit counter that saturates (R438). -/
def satAdd (w : Word) (n : Nat) : Word := BitVec.ofNat 64 (min (w.toNat + n) (2 ^ 64 - 1))

/-- A count of the lifetime record, and one raised (R438). -/
def Lifetime.get (l : Lifetime) (k : LifeKey) : Word := ((l.counts.find? fun e => e.1 == k).map Prod.snd).getD 0
def Lifetime.add (l : Lifetime) (k : LifeKey) (n : Nat) : Lifetime :=
  { l with counts := (k, satAdd (l.get k) n) :: l.counts.filter fun e => e.1 != k }

/-- A write of a line of SCM media counted as wear of its GiB (R438). -/
def State.noteWear (s : State) (key : Nat) : State :=
  if regionOf (keyPa key) == .scm then
    s.updMod (modOf (keyDie key)) fun m => { m with life := m.life.add (.wear ((keyPa key - 2 ^ 41) / 2 ^ 30)) 1 }
  else s

/-- The physical granule of a near or far key, as an index of the tier remap table (R290). -/
def granuleOf (key : Nat) : Option Nat :=
  match regionOf (keyPa key) with
  | .near => some (keyPa key / 65536)
  | .far => some (4194304 + (keyPa key - 2 ^ 40) / 65536)
  | _ => none

/-- The media granule that a granule maps to at reset (R290). -/
def remapReset (g : Nat) : Remap :=
  { mg := BitVec.ofNat 24 (if g < 4194304 then g else 2 ^ 23 + (g - 4194304)), count := 0 }

def Die.remapOf (d : Die) (g : Nat) : Remap := mget (remapReset g) g d.remap

/-- The bytes of a tier remap entry (R290). -/
def Remap.bytes (r : Remap) : List Byte := bytesOfNat 8 (r.mg.toNat + r.count.toNat * 2 ^ 32)

/-- The offset of a key in its die's tier remap table, if it lies there. -/
def State.remapOff (s : State) (key : Nat) : Option Nat :=
  match (s.die (keyDie key)).remapBase with
  | none => none
  | some b => if b ≤ keyPa key && keyPa key < b + 12582912 * 8 then some (keyPa key - b) else none

/-- A byte as its home holds it: of memory, or of the tier remap table as the controller last wrote it (R290). -/
def State.homeByte (s : State) (key : Nat) : Byte :=
  match s.remapOff key with
  | none => s.byte key
  | some o => ((s.die (keyDie key)).remapOf (o / 8)).bytes.getD (o % 8) 0

def State.homeBytes (s : State) (key : Nat) : Nat → List Byte
  | 0 => []
  | n + 1 => s.homeByte key :: s.homeBytes (key + 1) n

/-- An access by any agent marks the pins whose window holds its line (R286). -/
def State.touch (s : State) (key : Nat) : State := s.touchRange key 1

/-- One media access: one in 64 is sampled, of whatever tier, and counts where a granule has an entry (R291); the remap cache
holds the entries used last (R283). -/
def State.mediaAccess (s : State) (key : Nat) : State :=
  s.updQuad (homeQuad key) fun q =>
    let n := q.media + 1
    match granuleOf key with
    | none => { q with media := n % 64 }
    | some g =>
      { q with
        media := n % 64
        samples := if n % 64 = 0 then mput g (mget 0 g q.samples + 1) q.samples else q.samples
        remapCache := (g :: q.remapCache.filter (· != g)).take 8192 }

/-- Whether a key is of host memory (R281). -/
def isHost (key : Nat) : Bool := regionOf (keyPa key) == .host

/-- Whether a line is present in its slice (R282). -/
def State.present (s : State) (key : Nat) : Bool := (s.quad (homeQuad key)).present.any fun e => e.1 == lineOf key

/-- The set of a slice that a line belongs to (R282): its line number modulo the 262,144 sets (assumption log 85). -/
def sliceSet (key : Nat) : Nat := keyPa key / 128 % 262144

/-- The lines that a slice holds in the set of a key, its own and cached-remote copies (R282). -/
def Quad.inSet (q : Quad) (key : Nat) : List Nat :=
  (q.present.map Prod.fst ++ q.copies.map Prod.fst).filter fun k => sliceSet k == sliceSet key

/-- Whether a line lies in a pinned window (R285). -/
def Quad.pinned (q : Quad) (line : Nat) : Bool := q.pins.any fun e => e.2.valid && e.2.base ≤ line && line < e.2.base + e.2.size

/-- Room for a line in its set of a slice's 16 ways (R282): where none is free, a line that is not pinned leaves, one that no
rule names, and is written back to its media if it is dirty. The answer says whether there is room. -/
def State.sliceRoom (s : State) (quad key : Nat) : State × Bool :=
  let q := s.quad quad
  if (q.inSet key).length < 16 then (s, true)
  else
    let l := (q.inSet key).filter fun k => !q.pinned k
    match l[Config.freeNat s.tick % l.length]? with
    | none => (s, false)
    | some k =>
      ((if mget false k q.present then (s.mediaAccess k).noteWear k else s).updQuad quad fun q =>
        { q with present := merase k q.present, copies := merase k q.copies }, true)

/-- A line brought into its slice from its media, queued byte-masked writes merged, which makes it dirty (R284); a line for which
there is no room goes back to its media. -/
def State.fillSlice (s : State) (key : Nat) : State :=
  if isHost key || s.present key then s
  else
    let q := homeQuad key
    let dirty := !(mget [] (lineOf key) (s.quad q).wq).isEmpty
    let (s, room) := (s.mediaAccess key).sliceRoom q key
    (if !room && dirty then (s.mediaAccess key).noteWear key else s).updQuad q fun q =>
      { q with
        present := if room then mput (lineOf key) dirty q.present else q.present
        wq := merase (lineOf key) q.wq }

/-- The bytes of a part of a line as a mask (R284). -/
def lineMask (key n : Nat) : BitVec 128 := BitVec.ofNat 128 ((2 ^ n - 1) * 2 ^ (key % 128))

/-- A read served at a home: it marks pins (R286), and what it may have come before (R359). -/
def State.servesRead (s : State) (key : Nat) : State :=
  (s.touch key).updQuad (homeQuad key) fun q => { q with readAt := some (s.mt (homeDie key)) }

/-- A read of part of a line at its home (R282, R284, R308): the bytes and whether they carry poison. Of a line that the slice does
not hold, the latest queued write that reaches the bytes serves the read if it covers them all, with no poison but its own; the read
waits (none) where it covers only some. -/
def State.homeRead (s : State) (key n : Nat) : Option (State × List Byte × Bool) :=
  if isHost key then some (s, s.bytes key n, s.linePois key)
  else
    let s := s.servesRead key
    let mask := lineMask key n
    let ws := if s.present key then [] else mget [] (lineOf key) (s.quad (homeQuad key)).wq
    match (ws.filter fun w => w.1 &&& mask != 0).getLast? with
    | none =>
      let s := s.fillSlice key
      some (s, s.homeBytes key n, s.linePois key)
    | some w => if w.1 &&& mask == mask then some (s, s.homeBytes key n, w.2) else none

/-- A write of part of a line at its home (R282, R284, R308). Stores to the tier remap table are discarded (R290). -/
def State.homeWrite (s : State) (key : Nat) (bs : List Byte) (poison : Bool) : State :=
  if isHost key then
    let s := s.putBytes key bs
    if poison then s.setLinePois key true else if bs.length = 128 then s.setLinePois key false else s
  else
    let s := s.touch key
    if (s.remapOff key).isSome then s
    else
      let s := s.putBytes key bs
      let s := if poison then s.setLinePois key true else if bs.length = 128 then s.setLinePois key false else s
      let held := s.present key
      s.updQuad (homeQuad key) fun q =>
        if held then { q with present := mput (lineOf key) true q.present }
        else { q with wq := mput (lineOf key) (mget [] (lineOf key) q.wq ++ [(lineMask key bs.length, poison)]) q.wq }

/-- The lines that a range of memory meets. -/
def linesOf (key n : Nat) : List Nat := (List.range ((key + n + 127) / 128 - key / 128)).map fun i => lineOf key + 128 * i

/-- Whether every byte of a host access is granted, for a write by windows with `WR` (R433), and the link is up (R434). -/
def Module.grants (m : Module) (write : Bool) (off n : Nat) : Bool :=
  m.cxlUp && (List.range n).all fun i =>
    m.dma.any fun w => w.2.en && (!write || w.2.wr) && w.2.base ≤ off + i && off + i < w.2.base + w.2.size

/-- Whether the hardware itself may access physical memory: host memory only as its module grants it (R434, R439). -/
def State.granted (s : State) (write : Bool) (key n : Nat) : Bool :=
  !isHost key || (s.mod (modOf (keyDie key))).grants write (keyPa key - 2 ^ 48) n

/-- A read of the hardware itself of physical memory, each line at its home; what a refused read gives is free (assumption log 122). -/
def State.hwGet (s : State) (key n : Nat) : State × List Byte :=
  if !s.granted false key n then (s, (List.range n).map fun i => Config.freeByte s.tick (key + i)) else
  let s := (linesOf key n).foldl (fun (s : State) l => (s.servesRead l).fillSlice l) s
  (s, s.homeBytes key n)

/-- Bytes written line by line at their homes; `n` bounds the lines. -/
def State.putLines : Nat → State → Nat → List Byte → State
  | 0, s, _, _ => s
  | n + 1, s, key, bs =>
    let k := 128 - key % 128
    if bs.isEmpty then s else State.putLines n (s.homeWrite key (bs.take k) false) (key + k) (bs.drop k)

/-- A write of the hardware itself to physical memory, each line at its home; a refused one is never performed (R434), and an
unpopulated address is noted and stops the step. -/
def State.hwPut (s : State) (key : Nat) (bs : List Byte) : State :=
  if !populated key then { s with bad := s.bad.or (some key) }
  else if s.granted true key bs.length then State.putLines (bs.length / 128 + 2) s key bs
  else s

/-- The tile image of a vector register (R103, R139), and a write of it to memory. -/
def bytesOfTile (v : Map W32) : List Byte := (List.range 1024).flatMap fun k => bytesOfNat 4 (mget 0 k v).toNat
def State.putTile (s : State) (key : Nat) (cols : Map W32) : State := s.hwPut key (bytesOfTile cols)

/-- The mode of a data bank (R199). -/
def Cluster.mode (k : Cluster) (bank : Nat) : Nat := (mget 0 bank k.modes).toNat

/-- The mode of a data bank towards a launch: OFF where the launch does not own it (R198). -/
def Cluster.modeFor (k : Cluster) (l : Option Nat) (bank : Nat) : Nat :=
  match l with
  | none => 0
  | some x => if mget 0 bank (k.owners.map fun p => (p.1, p.2 + 1)) = x + 1 then k.mode bank else 0

/-- The banks in CACHE that a launch owns, each a way of the cluster cache towards it (R198, R211). -/
def Cluster.ways (k : Cluster) (l : Option Nat) : List Nat := (List.range 32).filter fun b => k.modeFor l b == 2

/-- The set of a line (R211). -/
def cacheSet (key : Nat) : Nat := key / 128 % 2048

def Cluster.findLine (k : Cluster) (key : Nat) : Option CacheLine := k.cache.find? fun l => l.key == lineOf key

/-- A cached line written back to its home (R211). -/
def State.writeBackCached (s : State) (l : CacheLine) : State :=
  if l.dirty then s.homeWrite l.key l.bytes l.poison else s

/-- The line removed from a cluster's cache, written back first if dirty (R211, R212, R224). -/
def State.flushCached (s : State) (cl key : Nat) : State :=
  match (s.cluster cl).findLine key with
  | none => s
  | some l =>
    (s.writeBackCached l).updCluster cl fun k => { k with cache := k.cache.filter fun x => x.key != lineOf key }

/-- Every dirty line of a cluster's cache written back; the lines stay, clean (R347, R348). -/
def State.writeBackAll (s : State) (cl : Nat) : State :=
  (((s.cluster cl).cache).foldl State.writeBackCached s).updCluster cl fun k =>
    { k with cache := k.cache.map fun l => { l with dirty := false } }

/-- Every clean line of a cluster's cache invalidated (R349). -/
def State.dropClean (s : State) (cl : Nat) : State :=
  s.updCluster cl fun k => { k with cache := k.cache.filter CacheLine.dirty }

/-- A cluster's cache written back and invalidated (R354). -/
def State.flushAll (s : State) (cl : Nat) : State :=
  (s.writeBackAll cl).updCluster cl fun k => { k with cache := [] }

/-- The way of a launch for a new line of a set: the lowest free bank, or else that of the line used least recently (R211). -/
def Cluster.victim (k : Cluster) (l : Option Nat) (key : Nat) : Nat × Option CacheLine :=
  let inSet := k.cache.filter fun x => cacheSet x.key == cacheSet key && (k.ways l).contains x.way
  match (k.ways l).filter fun w => !(inSet.any fun x => x.way == w) with
  | w :: _ => (w, none)
  | [] =>
    match inSet.getLast? with
    | some l => (l.way, some l)
    | none => (0, none)

/-- A line in a way of a launch (R198). -/
def Cluster.ownLine (k : Cluster) (l : Option Nat) (key : Nat) : Option CacheLine :=
  (k.findLine key).filter fun x => (k.ways l).contains x.way

/-- A line brought into the ways of a launch, most recently used (R211); none while its read at home waits. A line that stands in
a way of another launch leaves it first, so that the cluster holds one copy (assumption log 34). -/
def State.cacheFill (s : State) (cl : Nat) (l : Option Nat) (key : Nat) : Option State :=
  match (s.cluster cl).ownLine l key with
  | some x =>
    some (s.updCluster cl fun k => { k with cache := x :: k.cache.filter fun x => x.key != lineOf key })
  | none =>
    match (s.flushCached cl key).homeRead (lineOf key) 128 with
    | none => none
    | some (s, bs, p) =>
      let (w, old) := (s.cluster cl).victim l key
      let s := match old with
        | none => s
        | some x => s.flushCached cl x.key
      some (s.updCluster cl fun k =>
        { k with cache := { way := w, key := lineOf key, bytes := bs, dirty := false, poison := p } :: k.cache })

/-- Bytes of a list replaced from a position on. -/
def spliceBytes (old : List Byte) (at_ : Nat) (bs : List Byte) : List Byte :=
  old.take at_ ++ bs ++ old.drop (at_ + bs.length)

def State.cacheRead (s : State) (cl : Nat) (l : Option Nat) (key n : Nat) : Option (State × List Byte × Bool) :=
  match s.cacheFill cl l key with
  | none => none
  | some s =>
    match (s.cluster cl).findLine key with
    | none => none
    | some l => some (s, (l.bytes.drop (key % 128)).take n, l.poison)

def State.cacheWrite (s : State) (cl : Nat) (l : Option Nat) (key : Nat) (bs : List Byte) (poison : Bool) : Option State :=
  match s.cacheFill cl l key with
  | none => none
  | some s =>
    some (s.updCluster cl fun k =>
      { k with cache := k.cache.map fun l =>
          if l.key == lineOf key then
            { l with
              bytes := spliceBytes l.bytes (key % 128) bs, dirty := true
              poison := poison || (l.poison && bs.length != 128) }
          else l })

/-- The cached-remote copy of a line in a quadrant, if its epoch is the die's (R318). -/
def State.copyOf (s : State) (q key : Nat) : Option CopyLine :=
  match (s.quad q).copies.find? fun e => e.1 == lineOf key with
  | none => none
  | some (_, l) => if l.epoch = (s.die (q / 4)).epoch then some l else none

/-- A cached-remote copy dropped (R318, R353, R357). -/
def State.dropCopy (s : State) (q key : Nat) : State :=
  s.updQuad q fun x => { x with copies := merase (lineOf key) x.copies }

/-- The copies of a line dropped in every quadrant of a die (R353). -/
def State.dropCopies (s : State) (die key : Nat) : State :=
  [0, 1, 2, 3].foldl (fun s i => s.dropCopy (die * 4 + i) key) s

/-- A read through MODE 10 (R317, R318): the copy, or the line fetched from home into a copy. -/
def State.copyRead (s : State) (q key n : Nat) : Option (State × List Byte × Bool) :=
  match s.copyOf q key with
  | some l => some (s, (l.bytes.drop (key % 128)).take n, l.poison)
  | none =>
    match s.homeRead (lineOf key) 128 with
    | none => none
    | some (s, bs, p) =>
      let (s, room) := s.sliceRoom q key
      let line : CopyLine := { epoch := (s.die (q / 4)).epoch, bytes := bs, poison := p }
      some (if room then s.updQuad q fun x => { x with copies := mput (lineOf key) line x.copies } else s,
        (bs.drop (key % 128)).take n, p)

/-- A write through MODE 10: to the home, and into the local copy (R317). -/
def State.copyWrite (s : State) (q key : Nat) (bs : List Byte) (poison : Bool) : State :=
  let s := s.homeWrite key bs poison
  match s.copyOf q key with
  | none => s
  | some l =>
    s.updQuad q fun x =>
      { x with
        copies := mput (lineOf key)
          { l with bytes := spliceBytes l.bytes (key % 128) bs, poison := (poison || (l.poison && bs.length != 128)) } x.copies }

/-- The counter of a granule and die incremented and moved to the front; a new one takes a free place or the place of the
one incremented least recently (R319). -/
def migBump (g die : Nat) (l : List MigCount) : List MigCount :=
  let old := (l.find? fun c => c.granule == g && c.die == die).getD { granule := g, die := die, count := 0, posted := false }
  ({ old with count := old.count + 1 } :: l.filter fun c => !(c.granule == g && c.die == die)).take 256

/-- An access through a MODE 11 leaf counted at its home by 64 KiB of physical address; at the threshold one event is posted
(R319). -/
def State.countMigration (s : State) (key die : Nat) : State :=
  let g := keyPa key / 65536
  let s := s.updQuad (homeQuad key) fun q => { q with migs := migBump g die q.migs }
  match (s.quad (homeQuad key)).migs with
  | c :: cs =>
    if s.threshold ≤ c.count && !c.posted then
      (s.post (homeDie key) .migration [g, die, c.count]).updQuad (homeQuad key) fun q =>
        { q with migs := { c with posted := true } :: cs }
    else s
  | [] => s

/-- The bank that serves a scratch offset (R200). -/
def bankOfOff (o : Nat) : Nat := o / 64 % 32

/-- Whether every byte of a range of scratch lies in a bank in SCRATCH of the launch (R202). -/
def Cluster.scratchOk (k : Cluster) (l : Option Nat) (off n : Nat) : Bool :=
  off + n ≤ 2 ^ 23 && (List.range ((off + n + 63) / 64 - off / 64)).all fun i => k.modeFor l ((off / 64 + i) % 32) == 1

/-- The first byte of a range that lies outside usable scratch (R202). -/
def Cluster.scratchFault (k : Cluster) (l : Option Nat) (off n : Nat) : Nat :=
  match (List.range ((off + n + 63) / 64 - off / 64)).find? fun i =>
      2 ^ 23 ≤ (off / 64 + i) * 64 || k.modeFor l ((off / 64 + i) % 32) != 1 with
  | some i => if i = 0 then off else (off / 64 + i) * 64
  | none => off

/-- Whether a bank of a range is switching (R216). -/
def Cluster.switchingIn (k : Cluster) (off n : Nat) : Bool :=
  (List.range ((off + n + 63) / 64 - off / 64)).any fun i => k.switching.getLsbD ((off / 64 + i) % 32)

def Cluster.scratchBytes (k : Cluster) (off n : Nat) : List Byte := (List.range n).map fun i => mget 0 (off + i) k.scratch

/-- Whether a word of a range of scratch is poisoned (R210). -/
def Cluster.scratchPois (k : Cluster) (off n : Nat) : Bool :=
  (List.range ((off + n + 7) / 8 - off / 8)).any fun i => mget false (off / 8 + i) k.wpois

/-- Whether a word of a range of scratch has an uncorrectable error (R210). -/
def Cluster.scratchErr (k : Cluster) (off n : Nat) : Bool :=
  (List.range ((off + n + 7) / 8 - off / 8)).any fun i => mget false (off / 8 + i) k.werr

/-- The place of a scratch offset in its parity bank, the four banks one after another (R200, R205). -/
def parityOff (o : Nat) : Nat := o / 512 % 4 * 2 ^ 18 + o / 2048 * 64 + o % 64

/-- The parity banks after a scratch byte takes another value (R205). -/
def Cluster.putParity (k : Cluster) (o : Nat) (old new : Byte) : Map Byte :=
  let p := mget 0 (parityOff o) k.parity
  mset 0 (parityOff o) (p ^^^ old ^^^ new) k.parity

/-- A scratch byte written, with its parity (R205). -/
def Cluster.putScratch (k : Cluster) (o : Nat) (b : Byte) : Cluster :=
  { k with parity := k.putParity o (mget 0 o k.scratch) b, scratch := mset 0 o b k.scratch }

/-- The contents of banks XORed out of the parity banks, and every byte of them zero (R205, R214). -/
def Cluster.clearBanks (k : Cluster) (bs : List Nat) : Cluster :=
  let out := k.scratch.filter fun p => bs.contains (bankOfOff p.1)
  { k with
    parity := (out.foldl (fun (k : Cluster) p => { k with parity := k.putParity p.1 p.2 0 }) k).parity
    scratch := k.scratch.filter fun p => !bs.contains (bankOfOff p.1) }

/-- A write to scratch (R208, R210): words written whole take the poison of the data, others keep theirs and gain it. -/
def Cluster.scratchWrite (k : Cluster) (off : Nat) (bs : List Byte) (poison : Bool) : Cluster :=
  let n := bs.length
  let ws := (List.range ((off + n + 7) / 8 - off / 8)).map fun i => off / 8 + i
  { ((List.range n).zip bs).foldl (fun (k : Cluster) p => k.putScratch (off + p.1) p.2) k with
    wpois := ws.foldl (fun m w =>
      if off ≤ 8 * w && 8 * w + 8 ≤ off + n then mset false w poison m
      else if poison then mset false w true m else m) k.wpois
    werr := ws.foldl (fun m w => if off ≤ 8 * w && 8 * w + 8 ≤ off + n then mset false w false m else m) k.werr }

/-- The full/empty state of words (R208). -/
def Cluster.wordFull (k : Cluster) (w : Nat) : Bool := mget false w k.full
def Cluster.setFull (k : Cluster) (w n : Nat) (b : Bool) : Cluster :=
  { k with full := (List.range n).foldl (fun m i => mset false (w + i) b m) k.full }
def Cluster.allFull (k : Cluster) (w n : Nat) : Bool := (List.range n).all fun i => k.wordFull (w + i)

/-- The entries of a FIFO, oldest first, each with its poison (R213). -/
def Cluster.fifo (k : Cluster) (b : Nat) : List (Word × Bool) := mget [] b k.fifos
def Cluster.setFifo (k : Cluster) (b : Nat) (l : List (Word × Bool)) : Cluster := { k with fifos := mset [] b l k.fifos }

/-- The most entries a FIFO holds (R199). -/
def fifoMax : Nat := 32768

/-- Bytes of the instruction banks, at offsets from window offset 0xC0_0000 (R15). -/
def Core.ibankByte (k : Core) (o : Nat) : Byte :=
  let u : HUnit := mget 0 (o / 2) k.ibank
  if o % 2 = 0 then u.extractLsb' 0 8 else u.extractLsb' 8 8
def Core.ibankBytes (k : Core) (o n : Nat) : List Byte := (List.range n).map fun i => k.ibankByte (o + i)
def Core.putIbankByte (k : Core) (o : Nat) (b : Byte) : Core :=
  let u : HUnit := mget 0 (o / 2) k.ibank
  let u' : HUnit := if o % 2 = 0 then u.extractLsb' 8 8 ++ b else b ++ u.extractLsb' 0 8
  { k with ibank := mset 0 (o / 2) u' k.ibank }
def Core.putIbank (k : Core) (o : Nat) (bs : List Byte) : Core :=
  ((List.range bs.length).zip bs).foldl (fun k p => k.putIbankByte (o + p.1) p.2) k

/-- The words of a ring's state (R238). -/
def Ring.words (r : Ring) : List Word :=
  [ BitVec.ofNat 64 (r.nslot.toNat + r.cons.toNat * 2 ^ 7 + r.valid.toNat * 2 ^ 13), r.base.setWidth 64,
    r.slotsz.setWidth 64 ||| (r.target.setWidth 64 <<< 32),
    BitVec.ofNat 64 (r.wp.toNat + r.rp.toNat * 2 ^ 8 + r.gen.toNat * 2 ^ 16 + r.filled.toNat * 2 ^ 32 + r.relcnt.toNat * 2 ^ 40),
    r.arrive.setWidth 64 ||| (r.booked.setWidth 64 <<< 32), r.fail ]

/-- Whether the fields whose ranges R238 checks are in range. -/
def Ring.inRange (r : Ring) : Bool :=
  1 ≤ r.nslot.toNat && r.nslot.toNat ≤ 64 && 1 ≤ r.cons.toNat && r.cons.toNat ≤ 32 && r.wp.toNat < r.nslot.toNat &&
    r.rp.toNat < r.nslot.toNat && r.filled.toNat ≤ r.nslot.toNat && r.relcnt.toNat ≤ 31

/-- A ring from the words of its state; one out of range is not valid (R238). -/
def ringOfWords (ws : List Word) : Ring :=
  let w := fun i => ws.getD i 0
  let r : Ring :=
    { nslot := (w 0).extractLsb' 0 7, cons := (w 0).extractLsb' 7 6, valid := (w 0).getLsbD 13
      base := (w 1).extractLsb' 0 23, slotsz := (w 2).extractLsb' 0 32, target := (w 2).extractLsb' 32 32
      wp := (w 3).extractLsb' 0 6, rp := (w 3).extractLsb' 8 6, gen := (w 3).extractLsb' 16 16
      filled := (w 3).extractLsb' 32 7, relcnt := (w 3).extractLsb' 40 6
      arrive := (w 4).extractLsb' 0 32, booked := (w 4).extractLsb' 32 32, fail := w 5 }
  { r with valid := r.valid && r.inRange }

def Ring.bytes (r : Ring) : List Byte := r.words.flatMap (bytesOfWord 8) ++ List.replicate 80 0

def Cluster.ring (k : Cluster) (h : Nat) : Ring := mget {} h k.rings

/-- The number of ring `h` of a launch among the rings of a cluster (R236, R377): each launch has rings `h0`–`h31` of its own there,
which it keeps while it is pre-empted (R382; assumption log 97). -/
def ringAt (l : Option Nat) (h : Nat) : Nat := 32 * (l.map (· + 1)).getD 0 + h

def Cluster.setRing (k : Cluster) (h : Nat) (r : Ring) : Cluster := { k with rings := mput h r k.rings }

/-- Bytes of the ring state, at offsets from window offset 0xD0_0000 (R238). -/
def Cluster.ringBytes (k : Cluster) (o n : Nat) : List Byte := ((k.ring (o / 128)).bytes.drop (o % 128)).take n

/-- A store to the ring state (R238). -/
def Cluster.ringStore (k : Cluster) (o : Nat) (bs : List Byte) : Cluster :=
  let all := spliceBytes (k.ring (o / 128)).bytes (o % 128) bs
  k.setRing (o / 128) (ringOfWords ((List.range 6).map fun i => wordOfBytes ((all.drop (8 * i)).take 8)))

/-- Whether a held store covers byte `i` of a piece, and with which byte (R409). -/
def HeldStore.covers (h : HeldStore) (p : Piece) (i : Nat) : Option Byte :=
  let go := fun (a b : Nat) => if a ≤ b + i && b + i < a + h.bytes.length then h.bytes[b + i - a]? else none
  match h.piece.place, p.place with
  | .scratch a, .scratch b => go a b
  | .ibank a, .ibank b => go a b
  | .ring a, .ring b => go a b
  | .mem a _, .mem b _ => go a b
  | _, _ => none

/-- The bytes of a read with the context's held stores laid over them in program order (R409). -/
def overlayHeld (held : List HeldStore) (p : Piece) (bs : List Byte) : List Byte :=
  ((List.range bs.length).zip bs).map fun e =>
    held.foldl (fun b h => (h.covers p e.1).getD b) e.2

/-- Whether a held store of poisoned data covers a byte of a piece. -/
def heldPois (held : List HeldStore) (p : Piece) : Bool :=
  held.any fun h => h.poison && (List.range p.len).any fun i => (h.covers p i).isSome

/-- The held stores of a context (R409). -/
def Ctx.held409 (c : Ctx) : List HeldStore := (c.guard.map Guard.hold).getD []

/-- Whether an access of a context through a leaf MODE uses the cluster cache, for an op that may (R198, R212). -/
def State.cacheable (s : State) (cx : Nat) (mode : BitVec 2) : Bool :=
  (mode == 0 || mode == 3) && !((s.cluster (clusterOf cx)).ways (s.ctx cx).launch).isEmpty

/-- A read of one piece for a context (R317): the bytes and their poison; none while it waits. `cached` says whether the
op may use the cluster cache (R212). -/
def State.readPiece (s : State) (cx : Nat) (cached : Bool) (p : Piece) : Option (State × List Byte × Bool) :=
  let cl := clusterOf cx
  let held := (s.ctx cx).held409
  let lay := fun (r : State × List Byte × Bool) => (r.1, overlayHeld held p r.2.1, r.2.2 || heldPois held p)
  match p.place with
  | .scratch o => some (lay (s, (s.cluster cl).scratchBytes o p.len, (s.cluster cl).scratchPois o p.len))
  | .ibank o => some (lay (s, (s.core (coreOf cx)).ibankBytes o p.len, false))
  | .ring o => some (lay (s, (s.cluster cl).ringBytes o p.len, false))
  | .fifo b _ => some (s, bytesOfNat p.len ((s.cluster cl).fifo b).length, false)
  | .mem key mode =>
    let s := if mode == 3 then s.countMigration key (dieOf cx) else s
    (if mode == 2 then s.copyRead (quadOf cx) key p.len
     else if cached && s.cacheable cx mode then s.cacheRead cl (s.ctx cx).launch key p.len
     else s.homeRead key p.len).map lay

/-- A write of one piece for a context (R317); none while it waits. -/
def State.writePiece (s : State) (cx : Nat) (cached : Bool) (p : Piece) (bs : List Byte) (poison : Bool) : Option State :=
  let cl := clusterOf cx
  match p.place with
  | .scratch o => some (s.updCluster cl fun k => k.scratchWrite o bs poison)
  | .ibank o => some (s.updCore (coreOf cx) fun k => k.putIbank o bs)
  | .ring o => some (s.updCluster cl fun k => k.ringStore o bs)
  | .fifo _ _ => some s
  | .mem key mode =>
    let s := if mode == 3 then s.countMigration key (dieOf cx) else s
    if mode == 2 then some (s.copyWrite (quadOf cx) key bs poison)
    else if cached && s.cacheable cx mode then s.cacheWrite cl (s.ctx cx).launch key bs poison
    else some (s.homeWrite key bs poison)

/-- Reads of pieces in order: all their bytes, and whether any is poisoned. -/
def State.readPieces (s : State) (cx : Nat) (cached : Bool) : List Piece → Option (State × List Byte × Bool)
  | [] => some (s, [], false)
  | p :: ps =>
    match s.readPiece cx cached p with
    | none => none
    | some (s, bs, x) =>
      match s.readPieces cx cached ps with
      | none => none
      | some (s, cs, y) => some (s, bs ++ cs, x || y)

/-- The poison of a line cleared where the last part of a store that writes all of it has been written: in the cluster cache,
or at home with the quadrant's copy (R308). -/
def State.cleanLine (s : State) (cx : Nat) (cached : Bool) (p : Piece) : State :=
  match p.place with
  | .mem key mode =>
    if cached && s.cacheable cx mode then
      s.updCluster (clusterOf cx) fun k =>
        { k with cache := k.cache.map fun l => if l.key == lineOf key then { l with poison := false } else l }
    else
      (s.setLinePois key false).updQuad (quadOf cx) fun x =>
        { x with copies := x.copies.map fun e => (e.1, if mode == 2 && e.1 == lineOf key then { e.2 with poison := false } else e.2) }
  | _ => s

/-- The lines of memory of which the parts of one access hold every byte (R308). -/
def wholeLines (ps : List Piece) : List Nat :=
  let spans := ps.filterMap fun p => match p.place with
    | .mem key _ => some (key, p.len)
    | _ => none
  let full := fun (l : Nat) => (List.range 128).all fun i => spans.any fun x => x.1 ≤ l + i && l + i < x.1 + x.2
  ((spans.map fun x => lineOf x.1).eraseDups).filter full

/-- Whether a part, followed by others of its access, is the last in one of the lines that the access writes whole. -/
def lastOfWhole (whole : List Nat) (p : Piece) (rest : List Piece) : Bool :=
  match p.place with
  | .mem key _ =>
    whole.contains (lineOf key) &&
      !rest.any fun q => match q.place with
        | .mem k _ => lineOf k == lineOf key
        | _ => false
  | _ => false

/-- Writes of pieces in order, from the bytes of the whole access; `whole` lists the lines that the access writes whole. -/
def State.writeParts (s : State) (cx : Nat) (cached poison : Bool) (whole : List Nat) : List Piece → List Byte → Option State
  | [], _ => some s
  | p :: ps, bs =>
    match s.writePiece cx cached p (bs.take p.len) poison with
    | none => none
    | some s =>
      (if !poison && lastOfWhole whole p ps then s.cleanLine cx cached p else s).writeParts cx cached poison whole ps (bs.drop p.len)

/-- A store of a whole access performed, part by part. -/
def State.writePieces (s : State) (cx : Nat) (cached poison : Bool) (ps : List Piece) (bs : List Byte) : Option State :=
  s.writeParts cx cached poison (wholeLines ps) ps bs

/-- A line written back and invalidated in the context's cluster before an access at a cacheable address that bypasses the cache
(R212); an atomic and a timed op also drop its cached-remote copy (R318, R357). -/
def State.bypass (s : State) (cx : Nat) (drop : Bool) (p : Piece) : State :=
  match p.place with
  | .mem key mode =>
    let s := if mode == 0 || mode == 3 then s.flushCached (clusterOf cx) key else s
    if drop then s.dropCopy (quadOf cx) key else s
  | _ => s

end Sys2Proof.Machine
end

