-- ==== Sys2Proof/Machine/Xlate.lean ====
section
/-!
DEFINITION. Translation of virtual addresses (10 R294–R307, 17 R445): the walk of the five-level table with its faults,
the accessed and dirty bits, contiguous runs, the TLBs and the walk caches.
-/

namespace Sys2Proof.Machine

/-- Who translates (R295, R304): the core whose L1 TLB serves it, if one does, its cluster, `PAGEROOT`, `ASID`, whether the access is made
at program level (R299), and whether it is the dispatcher, whose walks no TLB and no walk cache serves or takes up (R445, R447;
assumption log 120). -/
structure Space where
  core : Option Nat
  cl : Nat
  root : Word
  asid : BitVec 16
  prog : Bool
  disp : Bool := false
  deriving DecidableEq, Repr

/-- The space of a queue entry (R295): the root and address space as it issued. -/
def Entry.space (e : Entry) (cx : Nat) : Space :=
  { core := some (coreOf cx), cl := clusterOf cx, root := e.root, asid := e.asid.setWidth 16, prog := !e.sys }

/-- The space of a context at a level. -/
def Ctx.space (c : Ctx) (cx : Nat) (sys : Bool) : Space :=
  { core := some (coreOf cx), cl := clusterOf cx, root := c.pageroot, asid := c.asid.setWidth 16, prog := !sys }

/-- The walking die (R296). -/
def Space.die (sp : Space) : Nat := sp.cl / 8

/-- The kinds of access (R299, R301). -/
inductive AccKind where
  | read | write | both
  deriving DecidableEq, Repr

def AccKind.code : AccKind → Nat
  | .read => 0
  | .write => 1
  | .both => 2

/-- What a translation gives: the key of the byte, the leaf's MODE and PEER. -/
structure Xlated where
  key : Nat
  mode : BitVec 2
  deriving DecidableEq, Repr

def trapNotPresent : Nat := 0x07
def trapPerm : Nat := 0x08
def trapReserved : Nat := 0x09

/-- `TRAPINFO0.DETAIL` of a translation fault (R301). -/
def xlateDetail (sp : Space) (kind : AccKind) (lvl : Nat) : Nat := lvl + kind.code * 8 + sp.prog.toNat * 32

/-- A translation fault of slot S3 (R301); the slot of another requester is set by it. -/
def xlateTrap (sp : Space) (kind : AccKind) (cause lvl va : Nat) : Trap :=
  { cause := cause, slot := 3, detail := xlateDetail sp kind lvl, info1 := BitVec.ofNat 64 va }

/-- The poisoned table entry of R298. -/
def walkPoisonTrap (sp : Space) (kind : AccKind) (lvl va : Nat) : Trap :=
  { cause := 0x0B, slot := 3, detail := xlateDetail sp kind lvl + 64, info1 := BitVec.ofNat 64 va }

/-- Whether an address lies in the near or far region (R298). -/
def nearFar (pa : Nat) : Bool := regionOf pa == .near || regionOf pa == .far

/-- The index bits of a level (R294). -/
def vaIndex (va lvl : Nat) : Nat := va / 2 ^ (12 + 9 * lvl) % 512

/-- The virtual-address bits that index a level and every level above it (R445). -/
def vaPath (va lvl : Nat) : Nat := va % 2 ^ 57 / 2 ^ (12 + 9 * lvl)

/-- The fields of a leaf (R297). -/
def leafTier (e : Word) : Nat := (e.extractLsb' 10 2).toNat
def leafMode (e : Word) : BitVec 2 := e.extractLsb' 8 2
def leafPeer (e : Word) : Nat := (e.extractLsb' 52 12).toNat
def leafFrame (e : Word) : Nat := (e.extractLsb' 12 40).toNat * 4096

/-- The region that a TIER code and a frame name together; none where the page lies outside it (R297, R298). -/
def leafRegion (e : Word) (size : Nat) : Option Region :=
  let f := leafFrame e
  let inside := fun lo hi => decide (lo ≤ f) && decide (f + size ≤ hi)
  match leafTier e with
  | 0 => if inside 0 (2 ^ 38) then some .near else if inside (2 ^ 48) (2 ^ 49) then some .host else none
  | 1 => if inside (2 ^ 40) (2 ^ 40 + 2 ^ 39) then some .far else none
  | 2 => if inside (2 ^ 41) (2 ^ 41 + 2 ^ 42) then some .scm else none
  | _ => none

/-- The PEER and MODE rules of R297 for an issuing die. -/
def peerOk (die : Nat) (e : Word) (r : Region) : Bool :=
  let m := leafMode e
  let p := leafPeer e
  match r with
  | .near => m != 0 || p == die
  | .far => m != 0 || p == die
  | .scm => if m == 0 then p == cornerOf die else cornerOf p == p
  | .host => m == 1 && p == cornerOf die
  | .none => false

/-- Whether an entry is a legal leaf at a level (R297, R298). -/
def leafOk (die : Nat) (e : Word) (lvl : Nat) : Bool :=
  lvl < 3 && leafTier e != 3 && !(e.getLsbD 3 && !e.getLsbD 2) && leafFrame e % 2 ^ (12 + 9 * lvl) == 0 &&
    (match leafRegion e (2 ^ (12 + 9 * lvl)) with
     | some r => peerOk die e r
     | none => false)

/-- Whether a page of a module's SCM reaches into its hibernation area, which is withdrawn from the region (R417). -/
def State.inHibernation (s : State) (e : Word) (lvl : Nat) : Bool :=
  let x := s.mod (cornerOf (leafPeer e))
  leafTier e == 2 && x.hibSize != 0 && decide (leafFrame e < x.hibBase + x.hibSize) && decide (x.hibBase < leafFrame e + 2 ^ (12 + 9 * lvl))

/-- Whether a table entry is legal at a level (R298). -/
def tableOk (e : Word) (lvl : Nat) : Bool :=
  lvl != 0 && e.extractLsb' 2 10 == 0 && e.extractLsb' 52 12 == 0 && nearFar (leafFrame e)

/-- What a walk returns: the leaf, its level, the key of its entry, and the table entries read (level and path first). -/
structure WalkRes where
  leaf : Word
  lvl : Nat
  key : Nat
  tables : List WalkEntry
  deriving DecidableEq, Repr

/-- The table entry that a walk cache holds for a level (R304). -/
def Quad.walkHit (q : Quad) (asid : BitVec 16) (lvl va : Nat) : Option Word :=
  (q.walk.find? fun w => w.asid == asid && w.lvl == lvl && w.idx == vaPath va lvl).map WalkEntry.word

/-- A table entry read by a walker at its home: an access of its line, which comes into the slice (R282, R286, R296). -/
def State.walkRead (s : State) (key : Nat) : State × Word :=
  let s := (s.servesRead key).fillSlice key
  (s, wordOfBytes (s.homeBytes key 8))

/-- The walk from a level down (R298, R305), with the state that its reads leave: `n` is one more than the level, `t` the table's
address, `up` whether every level above was read from the walk cache. -/
def State.walkFrom (s : State) (sp : Space) (kind : AccKind) (va : Nat) : Nat → Nat → Bool → List WalkEntry →
    State × Except Trap WalkRes
  | 0, _, _, _ => (s, .error (xlateTrap sp kind trapReserved 0 va))
  | lvl + 1, t, up, seen =>
    let cachedWord := if up && !sp.disp then (s.quad (sp.cl / 2)).walkHit sp.asid lvl va else none
    let key := keyOf sp.die (t + 8 * vaIndex va lvl)
    let (s, e) := match cachedWord with
      | some w => (s, w)
      | none => s.walkRead key
    if cachedWord.isNone && s.linePois key then (s, .error (walkPoisonTrap sp kind lvl va))
    else if !e.getLsbD 0 then (s, .error (xlateTrap sp kind trapNotPresent lvl va))
    else if !e.getLsbD 1 then
      if tableOk e lvl then
        s.walkFrom sp kind va lvl (leafFrame e) (up && cachedWord.isSome)
          (seen ++ [{ asid := sp.asid, lvl := lvl, idx := vaPath va lvl, word := e }])
      else (s, .error (xlateTrap sp kind trapReserved lvl va))
    else if leafOk sp.die e lvl && !s.inHibernation e lvl then (s, .ok { leaf := e, lvl := lvl, key := key, tables := seen })
    else (s, .error (xlateTrap sp kind trapReserved lvl va))

/-- The walk of R298. -/
def State.walk (s : State) (sp : Space) (kind : AccKind) (va : Nat) : State × Except Trap WalkRes :=
  let root := (sp.root.extractLsb' 12 40).toNat * 4096
  if 2 ^ 57 ≤ va then (s, .error (xlateTrap sp kind trapReserved 7 va))
  else if !sp.root.getLsbD 0 then (s, .error (xlateTrap sp kind trapNotPresent 4 va))
  else if !nearFar root then (s, .error (xlateTrap sp kind trapReserved 4 va))
  else s.walkFrom sp kind va 5 root true []

/-- Whether a leaf grants an access (R299). -/
def leafGrants (sp : Space) (kind : AccKind) (e : Word) : Bool :=
  (!sp.prog || e.getLsbD 4) &&
    (match kind with
     | .read => e.getLsbD 2
     | .write => e.getLsbD 3
     | .both => e.getLsbD 2 && e.getLsbD 3)

/-- The bits that an access needs set in its leaf (R300). -/
def needBits (kind : AccKind) : Word := if kind == .read then 0x20 else 0x60

/-- The bits of address below the page or merged run of a leaf (R303). -/
def leafBits (e : Word) (lvl : Nat) : Nat :=
  12 + 9 * lvl + (if e.getLsbD 7 then (if lvl = 2 then 5 else 4) else 0)

/-- The TLB entry of a walked leaf (R303). -/
def tlbOf (sp : Space) (va : Nat) (e : Word) (lvl : Nat) : TlbEntry :=
  let b := leafBits e lvl
  { asid := sp.asid, lo := va / 2 ^ b * 2 ^ b, bits := b, leaf := e }

/-- The level of the leaf a TLB entry holds. -/
def TlbEntry.lvl (t : TlbEntry) : Nat := if t.bits < 21 then 0 else if t.bits < 30 then 1 else 2

/-- The address that a TLB entry produces (R303). -/
def TlbEntry.phys (t : TlbEntry) (va : Nat) : Xlated :=
  let pa := leafFrame t.leaf / 2 ^ t.bits * 2 ^ t.bits + va % 2 ^ t.bits
  { key := keyOf (leafPeer t.leaf) pa, mode := leafMode t.leaf }

def TlbEntry.holds (t : TlbEntry) (asid : BitVec 16) (va : Nat) : Bool :=
  t.asid == asid && t.lo ≤ va && va < t.lo + 2 ^ t.bits

/-- A TLB with an entry added, the newest first; an older entry for the same range makes room (R304). -/
def tlbAdd (n : Nat) (t : TlbEntry) (l : List TlbEntry) : List TlbEntry :=
  (t :: l.filter fun x => !(x.asid == t.asid && x.lo == t.lo && x.bits == t.bits)).take n

/-- The entry of the core's L1 TLB that serves an access (R304). -/
def State.l1Hit (s : State) (sp : Space) (va : Nat) : Option TlbEntry :=
  match sp.core with
  | some k => (s.core k).tlb.find? fun (t : TlbEntry) => t.holds sp.asid va
  | none => none

/-- The TLB entry that serves an access: the core's, or the cluster's (R304). -/
def State.tlbHit (s : State) (sp : Space) (va : Nat) : Option TlbEntry :=
  if sp.disp then none else (s.l1Hit sp va).or ((s.cluster sp.cl).tlb.find? fun (t : TlbEntry) => t.holds sp.asid va)

/-- A translation entered into the L1 TLB of the core that asks. -/
def State.l1Fill (s : State) (sp : Space) (t : TlbEntry) : State :=
  match sp.core with
  | some k => s.updCore k fun c => { c with tlb := tlbAdd 64 t c.tlb }
  | none => s

/-- What a hit of an access fills: the core's L1 TLB, where the cluster's served it (R445). -/
def State.hitFill (s : State) (sp : Space) (va : Nat) (t : TlbEntry) : State := if (s.l1Hit sp va).isSome then s else s.l1Fill sp t

/-- A translation entered into the core's and the cluster's TLBs (R445). -/
def State.tlbFill (s : State) (sp : Space) (t : TlbEntry) : State :=
  (s.l1Fill sp t).updCluster sp.cl fun c => { c with tlb := tlbAdd 4096 t c.tlb }

/-- Table entries entered into a walk cache, at most 32 a level (R304, R445). -/
def walkAdd (l : List WalkEntry) (e : WalkEntry) : List WalkEntry :=
  if l.contains e then l
  else
    let same := (l.filter fun w => w.lvl == e.lvl && !(w.asid == e.asid && w.idx == e.idx)).take 31
    e :: same ++ l.filter fun w => w.lvl != e.lvl

/-- The table entries of a walk that returned a leaf entered into the walk cache of its walker (R445). -/
def State.walkFill (s : State) (sp : Space) (w : WalkRes) : State :=
  if sp.disp then s else s.updQuad (sp.cl / 2) fun q => { q with walk := w.tables.foldl walkAdd q.walk }

/-- A walk that returned a leaf: the walk cache filled, the accessed and dirty bits set by one OR at the entry's home, the
TLBs filled (R300, R445). -/
def State.walkDone (s : State) (sp : Space) (kind : AccKind) (va : Nat) (w : WalkRes) : State × TlbEntry :=
  let leaf := w.leaf ||| needBits kind
  let s := (s.walkFill sp w).touch w.key
  let s := if leaf = w.leaf then s else s.homeWrite w.key (bytesOfWord 8 leaf) false
  let t := tlbOf sp va leaf w.lvl
  (if sp.disp then s else s.tlbFill sp t, t)

/-- Translation of one address for an access (R294–R303), or its trap with the state that the walk left. A TLB entry with D clear
never serves a write (R300). -/
def State.xlate (s : State) (sp : Space) (kind : AccKind) (va : Nat) : Except (State × Trap) (State × Xlated) :=
  let hit := match s.tlbHit sp va with
    | some t => if kind == AccKind.read || t.leaf.getLsbD 6 then some t else none
    | none => none
  match hit with
  | some t =>
    if 2 ^ 57 ≤ va then .error (s, xlateTrap sp kind trapReserved 7 va)
    else if !sp.root.getLsbD 0 then .error (s, xlateTrap sp kind trapNotPresent 4 va)
    else if leafGrants sp kind t.leaf then .ok (s.hitFill sp va t, t.phys va)
    else .error (s, xlateTrap sp kind trapPerm t.lvl va)
  | none =>
    match s.walk sp kind va with
    | (s, .error t) => .error (s, t)
    | (s, .ok w) =>
      if leafGrants sp kind w.leaf then
        let (s, t) := s.walkDone sp kind va w
        .ok (s, t.phys va)
      else .error (s, xlateTrap sp kind trapPerm w.lvl va)

/-- The translation of a `PREF` (R300, R309), none where it is not granted: no bit is set, and a leaf with A clear enters no
TLB. -/
def State.xlatePref (s : State) (sp : Space) (va : Nat) : State × Option Xlated :=
  match s.tlbHit sp va with
  | some t => if leafGrants sp .read t.leaf && sp.root.getLsbD 0 && va < 2 ^ 57 then (s.hitFill sp va t, some (t.phys va)) else (s, none)
  | none =>
    match s.walk sp .read va with
    | (s, .error _) => (s, none)
    | (s, .ok w) =>
      if !leafGrants sp .read w.leaf then (s, none)
      else
        let t := tlbOf sp va w.leaf w.lvl
        let s := s.walkFill sp w
        (if w.leaf.getLsbD 5 then s.tlbFill sp t else s, some (t.phys va))

/-- The kind of access that a code of `TRAPINFO0.DETAIL[4:3]` names (R301). -/
def accKindOf (k : BitVec 2) : AccKind :=
  match k.toNat with
  | 0 => .read
  | 1 => .write
  | _ => .both

/-- PAGE_WALK (R298): a walk for an access of a context at its level. A leaf is returned into the TLBs, with its accessed
and dirty bits set where the access is permitted; a walk that faults enters nothing, and the access reports the fault. -/
def execPageWalk (cx : Nat) (va : Word) (kind : BitVec 2) (s : State) : Host.Outcome State Fault Refusal :=
  let c := s.ctx cx
  let sp := c.space cx c.sys
  let k := accKindOf kind
  match s.walk sp k va.toNat with
  | (s, .error _) => .next s
  | (s, .ok w) => .next (if leafGrants sp k w.leaf then (s.walkDone sp k va.toNat w).1 else s)

/-- Whether a TLB entry is one that a `TLBINV` removes (R307). -/
def tlbMatch (mode : BitVec 2) (va : Nat) (asid : BitVec 16) (t : TlbEntry) : Bool :=
  match mode.toNat with
  | 0 => t.holds asid va
  | 1 => t.asid == asid
  | _ => true

/-- Whether a walk-cache entry is one that a `TLBINV` removes (R307). -/
def walkMatch (mode : BitVec 2) (va : Nat) (asid : BitVec 16) (w : WalkEntry) : Bool :=
  match mode.toNat with
  | 0 => w.asid == asid && w.idx == vaPath va w.lvl
  | 1 => w.asid == asid
  | _ => true

/-- The entries of a module that a `TLBINV` removes, removed from every TLB and walk cache (R307). -/
def State.tlbInvalidate (s : State) (m : Nat) (mode : BitVec 2) (va : Nat) (asid : BitVec 16) : State :=
  { s with
    cores := s.cores.map fun e =>
      (e.1, if cornerOf (e.1 / 64) = m then { e.2 with tlb := e.2.tlb.filter fun t => !tlbMatch mode va asid t } else e.2)
    clusters := s.clusters.map fun e =>
      (e.1, if cornerOf (e.1 / 8) = m then { e.2 with tlb := e.2.tlb.filter fun t => !tlbMatch mode va asid t } else e.2)
    quads := s.quads.map fun e =>
      (e.1, if cornerOf (e.1 / 4) = m then { e.2 with walk := e.2.walk.filter fun w => !walkMatch mode va asid w } else e.2) }

end Sys2Proof.Machine
end

