-- ==== Sys2Proof/Machine/Access.lean ====
section
/-!
DEFINITION. What the accesses of slot S3 have in common: outstanding writes and streaming faults (02 R69, R74), where an
access goes and what traps (07 R202, R217, R218; 12 R346), held stores and the region signature (15 R408, R409, R412),
requests sent to other homes (11 R312–R314).
-/

namespace Sys2Proof.Machine

/-- What starting an entry gives: it waits; it waits in a new phase; it leaves its queue; or it faults, with the state
its partial effects leave, the trap, and `DROP`. -/
inductive Started where
  | wait
  | phase (s : State) (p : EntryPhase)
  | done (s : State)
  | trap (s : State) (t : Trap) (drop : Bool)
  deriving DecidableEq, Repr

/-- The result of an op noted with its outstanding write. -/
def Ctx.setOut (c : Ctx) (ord slot : Nat) (v : OutVal) : Ctx :=
  { c with outs := c.outs.map fun o => if o.ord = ord && o.slot = slot then { o with val := some v } else o }

def State.setOut (s : State) (cx : Nat) (e : Entry) (v : OutVal) : State := s.updCtx cx fun c => c.setOut e.ord e.slot v

/-- A streaming fault noted (R74): its entry, put back at the head of its queue if it had left it, waits to be held. -/
def State.streamFault (s : State) (cx : Nat) (e : Entry) (t : Trap) (drop : Bool) : State :=
  s.updCtx cx fun c =>
    let rest := (c.queue e.slot).filter fun x => x.ord != e.ord
    { c.setQueue e.slot ({ e with fault := true } :: rest) with
      sfault := c.sfault ++ [{ slot := e.slot, ord := e.ord, trap := { t with slot := e.slot }, drop := drop }] }

/-- The sources of the region signature (R412). -/
inductive SigSrc where
  | scalar | s3 | s4 | s5 | s6
  deriving DecidableEq, Repr

def RegionSig.add (g : RegionSig) (src : SigSrc) (bs : List Byte) : RegionSig :=
  match src with
  | .scalar => { g with sc := crcRun g.sc bs }
  | .s3 => { g with s3 := crcRun g.s3 bs }
  | .s4 => { g with s4 := crcRun g.s4 bs }
  | .s5 => { g with s5 := crcRun g.s5 bs }
  | .s6 => { g with s6 := crcRun g.s6 bs }

/-- Bytes added to the signature of a guarded context's region (R412). -/
def Ctx.sign (c : Ctx) (src : SigSrc) (bs : List Byte) : Ctx :=
  match c.guard with
  | none => c
  | some g => { c with guard := some { g with sig := g.sig.add src bs } }

def trapAlign (slot : Nat) (a : Nat) : Trap := { cause := 0x06, slot := slot, info1 := BitVec.ofNat 64 a }
def trapBankMode (a : Nat) : Trap := { cause := 0x17, slot := 3, info1 := BitVec.ofNat 64 a }
def trapRange3 (v : Word) : Trap := { cause := 0x04, slot := 3, info1 := v }

/-- The places that an op is admitted to (R218). -/
inductive Admit where
  | plain | tile | scratchOnly | memOnly
  deriving DecidableEq, Repr

/-- What stands at a window offset for an access of `n` bytes of a launch's context (R201, R202, R213, R218): the place,
or `BANK_MODE` at the lowest faulting byte. -/
def windowPlace (k : Cluster) (l : Option Nat) (ad : Admit) (load : Bool) (o n : Nat) : Except Trap Place :=
  let bad := fun x => Except.error (trapBankMode (windowBase + x))
  if ad = .memOnly then bad o
  else if o < 0x800000 then
    if k.scratchOk l o n then .ok (.scratch o) else bad (k.scratchFault l o n)
  else if ad != .plain then bad o
  else if o < 0x800800 then
    let b := (o - 0x800000) / 64
    let x := o % 64
    if n = 8 && (x = 0 || (x = 8 && load)) && k.modeFor l b == 3 then .ok (.fifo b x) else bad o
  else if 0xC00000 ≤ o && o < 0xC10000 then .ok (.ibank (o - 0xC00000))
  else if 0xD00000 ≤ o && o < 0xD01000 then .ok (.ring (128 * ringAt l 0 + (o - 0xD00000)))
  else bad o

/-- Whether an access of `n` bytes reaches a bank that is switching, so that it waits and is checked against the new mode (R216). -/
def State.bankWait (s : State) (cx va n : Nat) : Bool :=
  let k := s.cluster (clusterOf cx)
  match windowOff va with
  | none => false
  | some o => if o < 0x800000 then k.switchingIn o n else o < 0x800800 && k.switching.getLsbD ((o - 0x800000) / 64)

/-- Where a scalar access of an entry goes, translated if need be (R294, R299), or its trap with the state that the walk left. -/
def State.planScalar (s : State) (cx : Nat) (e : Entry) (ad : Admit) (kind : AccKind) (va n : Nat) :
    Except (State × Trap) (State × Piece) :=
  match windowOff va with
  | some o =>
    match windowPlace (s.cluster (clusterOf cx)) (s.ctx cx).launch ad (kind == AccKind.read) o n with
    | .ok p => .ok (s, { place := p, len := n })
    | .error t => .error (s, t)
  | none =>
    if ad = .scratchOnly then .error (s, trapBankMode va)
    else
      match s.xlate (e.space cx) kind va with
      | .ok (s, x) => .ok (s, { place := .mem x.key x.mode, len := n })
      | .error x => .error x

/-- The lengths of the parts of a row of 256 bytes that each lie in one line. -/
def rowParts (va : Nat) : List (Nat × Nat) :=
  let a := 128 - va % 128
  if a = 128 then [(0, 128), (128, 128)] else [(0, a), (a, 128), (a + 128, 128 - a)]

/-- The parts of a tile, each with its address and length (R222): a row that starts in the window is one part, another one is cut
at the lines. -/
def tileParts (rows : List Nat) : List (Nat × Nat) :=
  rows.flatMap fun va =>
    if (windowOff va).isSome then [(va, 256)] else (rowParts va).map fun p => ((va + p.1) % 2 ^ 64, p.2)

/-- The byte of a part at which it traps `BANK_MODE` (R202, R218, R222), if it does. `win` says that row 0 lies in the window; a
byte of the window is never translated (R201). -/
def tileFault (k : Cluster) (l : Option Nat) (win : Bool) (ad : Admit) (load : Bool) (p : Nat × Nat) : Option Nat :=
  match windowOff p.1 with
  | some o =>
    match windowPlace k l ad load o p.2 with
    | .ok _ => none
    | .error t => some t.info1.toNat
  | none => if ad = .scratchOnly || win then some p.1 else none

/-- The lowest of a list of numbers. -/
def lowest : List Nat → Option Nat
  | [] => none
  | x :: xs => some (xs.foldl min x)

/-- Where the parts of a tile go, in order: all translated before any is performed (R222, R301). -/
def State.planParts (s : State) (cx : Nat) (e : Entry) (ad : Admit) (kind : AccKind) :
    List (Nat × Nat) → Except (State × Trap) (State × List Piece)
  | [] => .ok (s, [])
  | (va, n) :: ps =>
    match s.planScalar cx e ad kind va n with
    | .error x => .error x
    | .ok (s, p) =>
      match s.planParts cx e ad kind ps with
      | .error x => .error x
      | .ok (s, l) => .ok (s, p :: l)

/-- Where a tile goes (R217, R222): the lowest faulting byte of all its rows traps `BANK_MODE` (R202). -/
def State.planTile (s : State) (cx : Nat) (e : Entry) (ad : Admit) (kind : AccKind) (base stride : Word) :
    Except (State × Trap) (State × List Piece) :=
  let a := wrap64 (base.toNat + e.cur)
  let parts := tileParts (rowAddrs base e.cur stride)
  if a % 64 != 0 || stride.toNat % 64 != 0 then .error (s, trapAlign 3 a)
  else
    match lowest (parts.filterMap (tileFault (s.cluster (clusterOf cx)) (s.ctx cx).launch (windowOff a).isSome ad (kind == AccKind.read))) with
    | some b => .error (s, trapBankMode b)
    | none => s.planParts cx e ad kind parts

/-- Whether a row of a tile reaches a bank that is switching (R216). -/
def State.tileWait (s : State) (cx : Nat) (e : Entry) (base stride : Word) : Bool :=
  (tileParts (rowAddrs base e.cur stride)).any fun p => s.bankWait cx p.1 p.2

/-- Whether a piece is performed at another die's home (R317): not host memory, no valid local copy of a load through
MODE 10, no line in the cluster cache through MODE 11. -/
def State.remotePiece (s : State) (cx : Nat) (cached load : Bool) (p : Piece) : Bool :=
  match p.place with
  | .mem key mode =>
    !isHost key && homeDie key != dieOf cx &&
      !(mode == 2 && load && (s.copyOf (quadOf cx) key).isSome) &&
      !(mode == 3 && cached && ((s.cluster (clusterOf cx)).ownLine (s.ctx cx).launch key).isSome)
  | _ => false

/-- The bytes of a piece as keys, for overlap (R345). -/
def piecesOverlap (p q : Piece) : Bool :=
  match p.place, q.place with
  | .mem a _, .mem b _ => a < b + q.len && b < a + p.len
  | _, _ => false

/-- Whether an earlier request of the context that is not yet performed overlaps a piece (R345, R358). -/
def State.overlapsPending (s : State) (cx : Nat) (ps : List Piece) : Bool :=
  s.net.any fun e =>
    e.2.cx = cx &&
      (match e.2.stage with
       | .going => true
       | .merged => true
       | .parked _ => true
       | _ => false) && ps.any fun p => e.2.pieces.any fun q => piecesOverlap p q

/-- The refusal of an access to host memory (R434). -/
def State.refused (s : State) (cx : Nat) (write : Bool) (p : Piece) : Bool :=
  match p.place with
  | .mem key _ => isHost key && !(s.mod (modOf (dieOf cx))).grants write (keyPa key - 2 ^ 48) p.len
  | _ => false

def trapPeer (a : Nat) : Trap := { cause := 0x0A, slot := 3, info1 := BitVec.ofNat 64 a }

/-- The traffic class of a request: the model has one for each kind (R313, assumption log 88). -/
def PktKind.cls : PktKind → Nat
  | .load => 0
  | .store => 1
  | .atomic => 2
  | .transit => 3

/-- The number of a flow among those of its source die, by target die and traffic class (R313). -/
def flowId (dst : Nat) (kind : PktKind) : Nat := 4 * dst + kind.cls

/-- A request sent (R312, R313): numbered in its flow; none while 512 of the flow are unacknowledged. -/
def State.send (s : State) (p : Packet) : Option (State × Nat) :=
  let n := flowId p.home p.kind
  let f := mget {} n (s.die p.die).flows
  if 512 ≤ f.unacked.length then none
  else
    let id := s.nextPkt
    let s := s.updDie p.die fun d =>
      { d with flows := mput n { next := f.next + 1, unacked := f.unacked ++ [(f.next.toNat, id)] } d.flows }
    some ({ s with net := mput id { p with seq := f.next, sentAt := s.now } s.net, nextPkt := id + 1 }, id)

/-- The die that homes a piece (R281). -/
def Piece.home (p : Piece) : Nat :=
  match p.place with
  | .mem key _ => homeDie key
  | _ => 0

/-! Conditioned ops (R209, R213) -/

/-- The words that a conditioned op tests: scratch word indices, or a FIFO's number above them (R209, R213). -/
def parkedWords (k : Core) (e : Entry) : List Nat :=
  let words := fun (a : Nat) => (List.range 32).map fun i => (a % 2 ^ 24) / 8 + i
  match e.instr with
  | some (.fpush _ _ b) => [2 ^ 20 + b.toNat]
  | some (.fpop _ _ b) => [2 ^ 20 + b.toNat]
  | some (.vldw ..) => (rowAddrs (e.val 0) e.cur (e.val 1)).flatMap words
  | some (.mbeat ..) => e.kind1Words k.arr.afmt
  | some i =>
    let a := entryAddr e i % 2 ^ 24
    if 0x800000 ≤ a then [2 ^ 20 + (a - 0x800000) / 64] else [a / 8]
  | none => []

/-- Whether a FIFO takes a push or gives a pop (R213). -/
def Cluster.fifoTakes (k : Cluster) (b : Nat) (push : Bool) : Bool :=
  if push then decide ((k.fifo b).length < fifoMax) else !(k.fifo b).isEmpty

/-- Whether the condition of a conditioned op holds (R209, R213). -/
def State.condHolds (s : State) (cx : Nat) (e : Entry) : Bool :=
  let k := s.cluster (clusterOf cx)
  let ws := parkedWords (s.core (coreOf cx)) e
  let fifo := fun push => ws.all fun w => w < 2 ^ 20 || k.fifoTakes (w - 2 ^ 20) push
  match e.instr with
  | some (.stef ..) => ws.all fun w => !k.wordFull w
  | some (.fpush ..) => fifo true
  | some (.st ..) => fifo true
  | some (.fpop ..) => fifo false
  | some (.ld ..) => fifo false
  | _ => ws.all k.wordFull

/-- What waits in a cluster's waiter table: since when, the words it tests, and whether its condition holds. -/
structure Waiter where
  since : Nat
  words : List Nat
  holds : Bool
  deriving DecidableEq, Repr

/-- The waiter table of a cluster (R209, R213): the parked ops of contexts that are not stopped or halted, and the copies that wait
at a FIFO. -/
def State.waiters (s : State) (cl : Nat) : List Waiter :=
  let live := s.ctxs.filter fun p => clusterOf p.1 = cl && !p.2.frozen && (s.core (coreOf p.1)).halt == .none
  (live.flatMap fun p => ([3, 5].filterMap fun k => (p.2.queue k).head?).filterMap fun e =>
    match e.phase with
    | .parked t => some { since := t, words := parkedWords (s.core (coreOf p.1)) e, holds := s.condHolds p.1 e }
    | _ => none) ++
  s.cmds.filterMap fun p =>
    match p.2.fifo with
    | some (t, b, push) =>
      if p.2.cl = cl then some { since := t, words := [2 ^ 20 + b], holds := (s.cluster cl).fifoTakes b push } else none
    | none => none

/-- Whether something that waits since before a tick, and whose condition holds, is chosen first at one of some words (R209). -/
def State.chosenFirst (s : State) (cl since : Nat) (words : List Nat) : Bool :=
  (s.waiters cl).any fun w => w.holds && w.since < since && w.words.any words.contains

/-- Whether a conditioned op parks, or stays parked: its condition does not hold, or one parked earlier is chosen (R209). -/
def State.parks (s : State) (cx : Nat) (e : Entry) : Bool :=
  let since := match e.phase with
    | .parked t => t
    | _ => s.tick + 1
  !s.condHolds cx e || s.chosenFirst (clusterOf cx) since (parkedWords (s.core (coreOf cx)) e)

/-- A little-endian value extended to 64 bits (R219). -/
def loadValue (bs : List Byte) (sx : Bool) : Word :=
  let n := bs.length
  BitVec.ofInt 64 (readInt sx (8 * n) (natOfBytes bs))

/-- The columns of a tile from its 4,096 bytes. -/
def tileOfBytes (bs : List Byte) : Map W32 :=
  ((List.range 1024).foldl (fun (p : List Byte × Map W32) k =>
    let x : W32 := BitVec.ofNat 32 (natOfBytes (p.1.take 4))
    (p.1.drop 4, if x = 0 then p.2 else (k, x) :: p.2)) (bs, [])).2.reverse

/-- The region count of stores and the signature of a store (R407, R412). -/
def Ctx.signStore (c : Ctx) (a : Nat) (bs : List Byte) : Ctx := c.sign .s3 (bytesOfNat 8 a ++ bs)

/-- The parts of a store as held stores; the last part in a line that the access writes whole says so (R308, R409). -/
def heldParts (e : Entry) (poison : Bool) (tick : Nat) (whole : List Nat) : List Piece → List Byte → List HeldStore
  | [], _ => []
  | p :: ps, bs =>
    { entry := e, piece := p, bytes := bs.take p.len, poison := poison, tick := tick
      whole := !poison && lastOfWhole whole p ps } :: heldParts e poison tick whole ps (bs.drop p.len)

/-- The stores of an access held until the checkpoint (R409). -/
def Ctx.holdStores (c : Ctx) (e : Entry) (ps : List Piece) (bs : List Byte) (poison : Bool) (tick : Nat) : Ctx :=
  match c.guard with
  | none => c
  | some g =>
    { c with guard := some { g with hold := g.hold ++ heldParts e poison tick (wholeLines ps) ps bs } }

/-- Whether a held store would leave the die (R408): MODE 01 or 10, host memory, or MODE 11 with another die's PEER. -/
def leavesDie (die : Nat) (p : Piece) : Bool :=
  match p.place with
  | .mem key mode => mode == 1 || mode == 2 || isHost key || (mode == 3 && keyDie key != die)
  | _ => false

/-- The SCM lines that a store leaves to persist (R310). -/
def scmLines (ps : List Piece) : List Nat :=
  ps.filterMap fun p =>
    match p.place with
    | .mem key _ => if regionOf (keyPa key) == .scm then some (lineOf key) else none
    | _ => none

/-- The parts of a store performed here or sent, each that leaves the die in a packet of its own (R312, R317); none while one has
to wait. -/
def State.storeParts (s : State) (cx : Nat) (e : Entry) (cached poison : Bool) (whole : List Nat) :
    List Piece → List Byte → Option State
  | [], _ => some s
  | p :: ps, bs =>
    let last := !poison && lastOfWhole whole p ps
    let done := if s.remotePiece cx cached false p then
        (s.send { cx := cx, die := dieOf cx, home := p.home, kind := .store, entry := e, pieces := [p], bytes := bs.take p.len
                  poison := poison, whole := last }).map Prod.fst
      else (s.writePiece cx cached p (bs.take p.len) poison).map fun s => if last then s.cleanLine cx cached p else s
    done.bind fun s => s.storeParts cx e cached poison whole ps (bs.drop p.len)

/-- A store of a context performed, sent or held (R317, R408, R409). `a` is the trap address. -/
def State.storePieces (s : State) (cx : Nat) (e : Entry) (cached : Bool) (a : Nat) (ps : List Piece) (bs : List Byte)
    (poison : Bool) : Started :=
  let c := s.ctx cx
  if c.guard.isSome && !e.ckpt then
    if ps.any (leavesDie (dieOf cx)) then .trap s { cause := 0x11, slot := 3, info1 := 4 } false
    else .done (s.updCtx cx fun c => (c.signStore a bs).holdStores e ps bs poison s.tick)
  else if ps.any (s.refused cx true) then .trap s (trapPeer a) false
  else if s.overlapsPending cx ps then .wait
  else
    let note := fun (s : State) => s.updCtx cx fun c => { c.signStore a bs with unpersisted := c.unpersisted ++ scmLines ps }
    match s.storeParts cx e cached poison (wholeLines ps) ps bs with
    | none => .wait
    | some s => .done (note s)

/-- A scalar load's result. -/
def scalarOut (bs : List Byte) (sx poison : Bool) : OutVal := { word := loadValue bs sx, poison := poison }

/-- Whether a guarded context reads a scratch word with an uncorrectable error: a detected error (R210, R413). -/
def State.scratchError (s : State) (cx : Nat) (ps : List Piece) : Bool :=
  (s.ctx cx).guard.isSome && ps.any fun p =>
    match p.place with
    | .scratch o => (s.cluster (clusterOf cx)).scratchErr o p.len
    | _ => false

/-- Whether a context of a bound launch has a detected error that is not yet contained: noted, being rerun, or committed with its
checkpoint bundle to come (R414). -/
def State.contained (s : State) (cx : Nat) : Bool :=
  let c := s.ctx cx
  (c.guard.any fun g => g.err.isSome || c.rrun != 0 || g.committing) && (c.phase == .running || c.phase == .retiring) &&
    (match c.launch with
     | none => true
     | some l =>
       let x := mget ({} : Launch) l s.launches
       x.st == .bound && x.stop.isNone)

/-- Whether the errors of another context of the core are being contained, so that this one is held (R414). -/
def State.containing (s : State) (cx : Nat) : Bool :=
  ((s.core (coreOf cx)).contain.find? s.contained).any fun h => h != cx

/-- A context put last among those of its core whose errors are to be contained (R414). -/
def State.addContained (s : State) (cx : Nat) : State :=
  if s.contained cx then s
  else s.updCore (coreOf cx) fun k => { k with contain := k.contain.filter s.contained ++ [cx] }

/-- A detected error noted, of a scratch word or of another source; the region is undone at the context's next turn (R414). -/
def State.noted (s : State) (cx : Nat) (scratch : Bool) : State :=
  (s.addContained cx).updCtx cx fun c => { c with guard := c.guard.map fun g => { g with err := g.err.or (some scratch) } }

/-- A detected error of a scratch word noted (R413). -/
def State.noteError (s : State) (cx : Nat) : State := s.noted cx true

/-- The parts of a load read here or asked for, each that leaves the die in a packet of its own (R312, R317); `g` numbers the load,
`o` is the place of the parts in it. None while one has to wait. -/
def State.loadParts (s : State) (cx : Nat) (e : Entry) (cached : Bool) (g : Nat) : Nat → List Piece → Gather → Option (State × Gather)
  | _, [], y => some (s, y)
  | o, p :: ps, y =>
    let done := if s.remotePiece cx cached true p then
        (s.send { cx := cx, die := dieOf cx, home := p.home, kind := .load, entry := e, pieces := [p], gather := some (g, o) }).map fun r =>
          (r.1, { y with left := y.left + 1 })
      else (s.readPiece cx cached p).map fun r => (r.1, { y with parts := mput o r.2.1 y.parts, poison := y.poison || r.2.2 })
    done.bind fun r => r.1.loadParts cx e cached g (o + p.len) ps r.2

/-- A load of a context performed or sent (R317). `fin` is what it does with the bytes; `hold` keeps its entry at the head
of the queue until the answer, as an acquire, a wait and a guarded region need. -/
def State.loadPieces (s : State) (cx : Nat) (e : Entry) (cached hold : Bool) (a : Nat) (ps : List Piece)
    (fin : State → List Byte → Bool → Started) : Started :=
  if ps.any (s.refused cx false) then .trap s (trapPeer a) false
  else if s.overlapsPending cx ps then .wait
  else if s.scratchError cx ps then .phase (s.noteError cx) .queued
  else
    let sent := fun (s : State) id => if hold || (s.ctx cx).guard.isSome then Started.phase s (.sent id) else .done s
    match ps.filter (s.remotePiece cx cached true), ps with
    | [], _ =>
      match s.readPieces cx cached ps with
      | none => .wait
      | some (s, bs, p) => fin s bs p
    | _, [p] =>
      match s.send { cx := cx, die := dieOf cx, home := p.home, kind := .load, entry := e, pieces := [p] } with
      | none => .wait
      | some (s, id) => sent s id
    | _, _ =>
      let g := s.nextPkt
      match State.loadParts { s with nextPkt := g + 1 } cx e cached g 0 ps { cx := cx, entry := e, left := 0, parts := [], poison := false } with
      | none => .wait
      | some (s, y) => sent { s with gathers := mput g y s.gathers } g

end Sys2Proof.Machine
end

