-- ==== Sys2Proof/Machine/Area.lean ====
section
/-!
DEFINITION. The save area of a context (03 R102–R107, 15 R405): its scalar block as bytes, written at a save and read at a
rebinding, and what a completion writes into it while the context is saved (13 R382).
-/

namespace Sys2Proof.Machine

/-- A token's code (R104). -/
def Tok.code : Tok → Nat
  | .complete => 0
  | .pending => 1
  | .failed => 2

/-- The token states as a number of 128 bits (R104). -/
def tokensNat (m : Map Tok) : Nat := m.foldl (fun n p => n + p.2.code * 4 ^ p.1) 0

/-- The sticky bits as they stand in bits 36:32 of `CTLST` (R105). -/
def stickyBits (m : Map Parcel) : Nat := m.foldl (fun n p => n + 2 ^ (32 + (p.1 - 3))) 0

/-- `CTLST` (R105). -/
def ctlst (c : Ctx) : Word :=
  BitVec.ofNat 64 (archPc c.pc + c.mid.toNat * 2 ^ 15 + c.rcLeft % 128 * 2 ^ 16 + c.sys.toNat * 2 ^ 23 + c.awc % 16 * 2 ^ 24 +
    stickyBits c.sticky)

/-- A loop stack of two entries (R104). -/
def loopWords (l : List LoopEntry) : List Word :=
  (List.range 2).flatMap fun k =>
    match l[k]? with
    | none => [0, 0]
    | some e => [BitVec.ofNat 64 (archPc e.start + (e.stop - e.start) % 4096 * 2 ^ 16 + 2 ^ 63), BitVec.ofNat 64 e.count]

/-- The cursors (R104). -/
def cursorWords (c : Cursors) : List Word := [c.s3, c.s5s, c.s5d, c.s6].map (BitVec.ofInt 64)

/-- The remembered ops (R104). -/
def parcelWords (m : Map Parcel) : List Word :=
  let p := fun k => mget (⟨0, 0⟩ : Parcel) k m
  [(p 4).w0 ++ (p 3).w0, (p 6).w0 ++ (p 5).w0, (p 7).w1 ++ (p 7).w0]

/-- The word of a lease slot (R261); kind and priority stand in it whatever the state, and a pending slot has no handle yet
(assumption log 111). -/
def LeaseSlot.word (l : LeaseSlot) : Word :=
  l.handle.setWidth 64 ||| BitVec.ofNat 64 ((match l.st with
    | .free => 0
    | .pending => 1
    | .held => 2
    | .lost => 3) * 2 ^ 32 + l.why.toNat * 2 ^ 34 + l.kind.toNat * 2 ^ 36 + l.prio.toNat * 2 ^ 39)

/-- The energy window's weights and stall bits (R391). -/
def EnergyWin.weightsNat (w : EnergyWin) : Nat := w.weights.foldr (fun x n => x % 16 + 16 * n) 0
def EnergyWin.stallsNat (w : EnergyWin) : Nat := w.stalls.foldr (fun x n => x.toNat + 2 * n) 0

/-- The words of the scalar block from 0x000 to 0x4FF (R104). -/
def scalarWords (c : Ctx) : List Word :=
  let regs := fun (r : RegSet) => (List.range 32).map r.get ++ (List.range 16).map fun i => r.q.getD i 0
  let tok := tokensNat c.tokens
  let en := c.energy.weightsNat
  regs c.prog ++ regs c.shad ++
    [c.shad.pres ++ c.prog.pres, c.shad.pois ++ c.prog.pois, c.vpres, ctlst c, c.flags.setWidth 64, c.engfail,
     BitVec.ofNat 64 tok, BitVec.ofNat 64 (tok / 2 ^ 64)] ++
    loopWords c.loops ++ cursorWords c.cursors ++ parcelWords c.sticky ++
    [c.trapvec.setWidth 64, c.trapcause, c.trappc, c.info0, c.info1] ++
    (BitVec.ofNat 64 (stickyBits c.frame.sticky) :: parcelWords c.frame.sticky) ++ cursorWords c.frame.cursors ++
    loopWords c.frame.loops ++ [c.fpstatus.setWidth 64, c.vpois] ++
    ((List.range 16).map fun i => mget 0 (2 * i + 1) c.marks ++ mget 0 (2 * i) c.marks) ++
    ((List.range 8).map fun i => (mget {} i c.leases).word) ++ [BitVec.ofNat 64 en, BitVec.ofNat 64 (en / 2 ^ 64)]

/-- The held entries of a slot, oldest first. -/
def heldOf (l : List Entry) (slot : Nat) : List Entry := (l.filter fun e => e.slot == slot).take 8

/-- A held entry in 48 bytes (R405). An S5 op uses a source and a destination cursor; the one field holds the source's, and the other
stays with the saved context (assumption log 107). -/
def entryBytes (e : Entry) : List Byte :=
  bytesOfNat 4 e.par.w0.toNat ++ bytesOfNat 4 e.par.w1.toNat ++
    bytesOfWord 8 (if e.slot = 7 then 0 else BitVec.ofInt 64 e.cur) ++
    ((List.range 3).flatMap fun i => bytesOfWord 8 (e.vals.getD i 0)) ++ bytesOfNat 8 (e.rep % 128 + e.fault.toNat * 128)

/-- The 2 KiB of the held streaming entries (R405), reserved bytes zero. -/
def heldBytes (l : List Entry) : List Byte :=
  let count := (List.range 5).map fun i => BitVec.ofNat 8 (heldOf l (i + 3)).length
  let at_ := match l.find? Entry.fault with
    | none => [0, 0]
    | some e => [BitVec.ofNat 8 e.slot, BitVec.ofNat 8 ((heldOf l e.slot).takeWhile fun x => !x.fault).length]
  count ++ at_ ++ List.replicate 57 0 ++
    ((List.range 5).flatMap fun i =>
      let es := heldOf l (i + 3)
      es.flatMap entryBytes ++ List.replicate (48 * (8 - es.length)) 0) ++ List.replicate 64 0

/-- The key of a context's scalar block. -/
def blockKey (savebase : Word) : Nat := areaKey savebase + 0x40000

/-- The scalar block written whole, 4,096 bytes, its reserved part zero (R104, R106; assumption log 87). -/
def State.saveBlock (s : State) (c : Ctx) (held : List Entry) : State :=
  let k := blockKey c.savebase
  ((s.hwPut k ((scalarWords c).flatMap (bytesOfWord 8) ++ bytesOfNat 4 c.energy.stallsNat ++ List.replicate 764 0)).hwPut (k + 0x800)
    (heldBytes held))

/-- A field of a word. -/
def fld (w : Word) (lo n : Nat) : Nat := w.toNat / 2 ^ lo % 2 ^ n

/-- A loop stack read back; none where a reserved bit is set. -/
def loopsOf (w : Nat → Word) : Option (List LoopEntry) :=
  let one := fun k =>
    let a := w (2 * k)
    let st := pcOfArch (fld a 0 15)
    if a.getLsbD 63 then [{ start := st, stop := st + fld a 16 12, bank := pcBank st, count := fld (w (2 * k + 1)) 0 32 }] else ([] : List LoopEntry)
  if ((List.range 2).all fun k => !(w (2 * k)).getLsbD 15 && fld (w (2 * k)) 28 35 = 0 && fld (w (2 * k + 1)) 32 32 = 0) then
    some (one 0 ++ one 1)
  else none

/-- Cursors read back. -/
def cursorsOf (w : Nat → Word) : Cursors :=
  { s3 := (w 0).toInt, s5s := (w 1).toInt, s5d := (w 2).toInt, s6 := (w 3).toInt }

/-- The sticky slots and their ops read back (R104, R105). -/
def stickyOf (bits : Nat) (w : Nat → Word) : Map Parcel :=
  let p : Nat → Parcel := fun k =>
    match k with
    | 3 => ⟨(w 0).extractLsb' 0 32, 0⟩
    | 4 => ⟨(w 0).extractLsb' 32 32, 0⟩
    | 5 => ⟨(w 1).extractLsb' 0 32, 0⟩
    | 6 => ⟨(w 1).extractLsb' 32 32, 0⟩
    | _ => ⟨(w 2).extractLsb' 0 32, (w 2).extractLsb' 32 32⟩
  ((List.range 5).filter fun i => bits.testBit i).map fun i => (i + 3, p (i + 3))

/-- Token states read back; none on code 3 or where the bits of `k0` are set (R104). -/
def tokensOf (n : Nat) : Option (Map Tok) :=
  if n % 4 != 0 || (List.range 64).any fun k => n / 4 ^ k % 4 = 3 then none
  else
    some ((List.range 64).filterMap fun k =>
      match n / 4 ^ k % 4 with
      | 1 => some (k, Tok.pending)
      | 2 => some (k, Tok.failed)
      | _ => none)

/-- A lease slot read back (R261); its serial is that of its handle or the one it had. -/
def leaseOf (old : LeaseSlot) (w : Word) : LeaseSlot :=
  { handle := w.extractLsb' 0 32
    st := match fld w 32 2 with
      | 0 => .free
      | 1 => .pending
      | 2 => .held
      | _ => .lost
    why := w.extractLsb' 34 2, kind := w.extractLsb' 36 3, prio := w.extractLsb' 39 2, serial := old.serial }

/-- A register set read back. -/
def regsOf (w : Nat → Word) (pres pois : BitVec 32) : RegSet :=
  { n := (List.range 32).foldl (fun m i => mset 0 i (w i) m) [], pres := pres, pois := pois, q := (List.range 16).map fun i => w (32 + i) }

/-- Whether the reserved fields of the scalar block are clear (R88, R104, R105, R107). -/
def blockClean (w : Nat → Word) : Bool :=
  fld (w 117) 15 49 = 0 && fld (w 160) 32 32 = 0 && ((List.range 95).all fun i => w (161 + i) = 0) && fld (w 99) 28 4 = 0 && fld (w 99) 37 27 = 0 && fld (w 100) 16 48 = 0 && fld (w 101) 27 37 = 0 && fld (w 115) 16 48 = 0 &&
    fld (w 116) 36 28 = 0 && fld (w 118) 10 6 = 0 && fld (w 120) 0 32 = 0 && fld (w 120) 37 27 = 0 && fld (w 132) 6 58 = 0 &&
    ((List.range 16).all fun i => fld (w (134 + i)) 24 7 = 0 && fld (w (134 + i)) 56 7 = 0) &&
    ((List.range 8).all fun i => fld (w (150 + i)) 41 23 = 0)

/-- An entry that system software has added to a slot of a saved context (R405), younger than every entry of it. What the area has no
place for is that of the context (assumption log 118). -/
def Ctx.freshEntry (c : Ctx) (slot n : Nat) : Entry :=
  { slot := slot, par := ⟨0, 0⟩, vals := [], cur := 0, cur2 := c.cursors.s5d, rep := 0, pc := c.pc, ord := c.ord + n, sys := c.sys, ckpt := false
    fault := false, phase := .queued, root := c.pageroot, asid := c.asid }

/-- A held entry read back over the one that was saved, with as many captured values as its parcel now reads operands (R405). -/
def entryOf (old : Entry) (b : Nat → Byte) : Entry :=
  let n := fun o k => natOfBytes ((List.range k).map fun i => b (o + i))
  let par : Parcel := ⟨BitVec.ofNat 32 (n 0 4), if old.slot = 7 then BitVec.ofNat 32 (n 4 4) else 0⟩
  let count := (({ old with par := par }).instr.map fun i => (srcSpecs i).length).getD 3
  { old with
    par := par
    cur := if old.slot = 7 then old.cur else (BitVec.ofNat 64 (n 8 8)).toInt
    vals := ((List.range 3).map fun i => BitVec.ofNat 64 (n (16 + 8 * i) 8)).take count
    rep := n 40 1 % 128, fault := (n 40 1).testBit 7, phase := .queued }

/-- The held entries read back (R405), as many as the header says, the faulting one where header and entry name the same; none where a
reserved bit is set, a field of the header is out of its range, or a parcel does not decode (assumption log 118). -/
def heldBack (keep : Ctx) (old : List Entry) (b : Nat → Byte) : Option (List Entry) :=
  let count := fun (slot : Nat) => (b (slot - 3)).toNat
  let place := fun (slot j : Nat) => 0x40 + 48 * (8 * (slot - 3) + j)
  let es := [3, 4, 5, 6, 7].flatMap fun slot => (List.range (count slot)).map fun j =>
    let e := entryOf ((heldOf old slot).getD j (keep.freshEntry slot j)) fun i => b (place slot j + i)
    ({ e with fault := e.fault && (b 5).toNat = slot && (b 6).toNat = j }, place slot j)
  if ([3, 4, 5, 6, 7].any fun slot => 8 < count slot) || !([0, 3, 4, 5, 6, 7].contains (b 5).toNat) || 8 ≤ (b 6).toNat ||
    (es.any fun p => p.1.instr.isNone || (List.range 7).any fun i => b (p.2 + 41 + i) != 0) ||
    ((List.range 57).any fun i => b (7 + i) != 0) || (List.range 64).any fun i => b (0x7C0 + i) != 0 then none
  else some (es.map Prod.fst)

/-- The scalar block as words. -/
def State.blockWord (s : State) (key i : Nat) : Word := wordOfBytes (s.bytes (key + 8 * i) 8)

/-- The scalar block of a saved context, but for its held entries, read back from its save area (R106) over what the hardware kept; none
where a reserved field or token code 3 makes the rebinding fail (R107). -/
def State.loadScalars (s : State) (keep : Ctx) : Option Ctx :=
  let k := blockKey keep.savebase
  let w := s.blockWord k
  match blockClean w, tokensOf ((w 102).toNat + (w 103).toNat * 2 ^ 64), loopsOf (fun i => w (104 + i)),
      loopsOf (fun i => w (128 + i)) with
  | true, some tok, some lp, some flp =>
    let ct := w 99
    some { keep with
      prog := regsOf w ((w 96).extractLsb' 0 32) ((w 97).extractLsb' 0 32)
      shad := regsOf (fun i => w (48 + i)) ((w 96).extractLsb' 32 32) ((w 97).extractLsb' 32 32)
      vpres := w 98, pc := pcOfArch (fld ct 0 15), mid := ct.getLsbD 15, decoded := none
      rcLeft := if ct.getLsbD 15 then fld ct 16 7 else 0
      sys := ct.getLsbD 23, awc := fld ct 24 4
      flags := (w 100).extractLsb' 0 16, engfail := w 101, tokens := tok, loops := lp
      cursors := cursorsOf fun i => w (108 + i), sticky := stickyOf (fld ct 32 5) fun i => w (112 + i)
      trapvec := (w 115).extractLsb' 0 16, trapcause := w 116, trappc := w 117, info0 := w 118, info1 := w 119
      frame := { sticky := stickyOf (fld (w 120) 32 5) fun i => w (121 + i), cursors := cursorsOf fun i => w (124 + i), loops := flp }
      fpstatus := (w 132).extractLsb' 0 6, vpois := w 133
      marks := (List.range 32).foldl (fun m h => mset 0 h ((w (134 + h / 2)).extractLsb' (h % 2 * 32) 32) m) []
      leases := (List.range 8).foldl (fun m i => mput i (leaseOf (mget {} i keep.leases) (w (150 + i))) m) keep.leases
      energy :=
        { weights := (List.range 32).map fun i => fld (w (158 + i / 16)) (i % 16 * 4) 4
          stalls := (List.range 32).map fun i => (s.byte (k + 0x500 + i / 8)).getLsbD (i % 8) } }
  | _, _, _, _ => none

/-- A context read back from its save area (R106) with its held entries (R405); none where the rebinding fails (R107). `held` lists the
entries saved with it. -/
def State.loadBlock (s : State) (keep : Ctx) (held : List Entry) : Option (Ctx × List Entry) :=
  match s.loadScalars keep, heldBack keep held fun i => s.byte (blockKey keep.savebase + 0x800 + i) with
  | some c, some hs => some ({ c with ord := c.ord + 8 }, hs)
  | _, _ => none

/-- The part of a saved context that completions change, read from its area, changed, and written back (R382): tokens,
flags, `ENGFAIL`, lease slots, named registers. -/
def State.editArea (s : State) (keep : Ctx) (f : Ctx → Ctx) : State × Ctx :=
  match s.loadScalars keep with
  | none => (s, f keep)
  | some c =>
    let c' := f c
    let c' := Ctx.applyOuts c'.outs.length c'
    let k := blockKey keep.savebase
    ((s.hwPut k ((scalarWords c').flatMap (bytesOfWord 8))),
      { keep with
        leases := c'.leases, tokOf := c'.tokOf, engrec := c'.engrec, outs := c'.outs, queues := c'.queues, held := c'.held
        flagScm := c'.flagScm, tokScm := c'.tokScm })

end Sys2Proof.Machine
end

