-- ==== Sys2Proof/Machine/EngMem.lean ====
section
/-!
DEFINITION. Commands in progress (02 R71, 13 R382) and their accesses: what a copy, a playbook entry or a leased engine
reads and writes, where, and when it fails (07 R201, R202; 08 R233, R234; 12 R353; 15 R430; 16 R434).
-/

namespace Sys2Proof.Machine

def State.cmd (s : State) (id : Nat) : Option Command := (s.cmds.find? fun e => e.1 == id).map Prod.snd
def State.setCmd (s : State) (id : Nat) (c : Command) : State := { s with cmds := mput id c s.cmds }
def State.updCmd (s : State) (id : Nat) (f : Command → Command) : State :=
  match s.cmd id with
  | some c => s.setCmd id (f c)
  | none => s

def State.launch (s : State) (l : Nat) : Launch := mget {} l s.launches
def State.updLaunch (s : State) (l : Nat) (f : Launch → Launch) : State :=
  { s with launches := mput l (f (s.launch l)) s.launches }

/-- Why a command's access does not go through: a bank switches or a queued write is in the way; a FIFO bank cannot take its push
or give it an entry (R213); its home is shed (R430); or it fails, with the state that the accesses before it and its walk left (R286,
R291). -/
inductive EngErr where
  | wait | fifo (bank : Nat) (push : Bool) | parked | fault (left : Option State)
  deriving DecidableEq, Repr

/-- Which parts of the window a command reaches besides scratch (R15, R201): none; ring state; ring state and the
instruction banks of a core, or the code save area that holds them while the context is saved (R377, R382). -/
inductive EngWin where
  | scratch | rings | banks (core : Nat) | saved (key : Nat)
  deriving DecidableEq, Repr

/-- Who accesses: the cluster, the launch, the address space, the reach into the window, and the command. -/
structure Agent where
  cl : Nat
  l : Option Nat
  sp : Space
  win : EngWin
  id : Option Nat := none
  deriving DecidableEq, Repr

/-- Where a part of an access that lies in one line goes. -/
def State.agentPlan (s : State) (a : Agent) (kind : AccKind) (va n : Nat) : Except EngErr (State × Piece) :=
  let k := s.cluster a.cl
  match windowOff va with
  | some o =>
    if o < 0x800000 then
      if k.switchingIn o n then .error .wait
      else if !k.scratchOk a.l o n then .error (.fault none)
      else .ok (s, { place := .scratch o, len := n })
    else
      let ring := 0xD00000 ≤ o && o + n ≤ 0xD01000
      let bank := 0xC00000 ≤ o && o + n ≤ 0xC10000
      match a.win with
      | .scratch => .error (.fault none)
      | .rings => if ring then .ok (s, { place := .ring (128 * ringAt a.l 0 + (o - 0xD00000)), len := n }) else .error (.fault none)
      | _ =>
        if ring then .ok (s, { place := .ring (128 * ringAt a.l 0 + (o - 0xD00000)), len := n })
        else if bank then .ok (s, { place := .ibank (o - 0xC00000), len := n })
        else .error (.fault none)
  | none =>
    match s.xlate a.sp kind va with
    | .error (s, _) => .error (.fault (some s))
    | .ok (s, x) =>
      if isHost x.key && !(s.mod (modOf (a.cl / 8))).grants (kind == AccKind.write) (keyPa x.key - 2 ^ 48) n then .error (.fault (some s))
      else if !isHost x.key && (s.die (homeDie x.key)).shed && homeDie x.key != a.cl / 8 then .error .parked
      else .ok (s, { place := .mem x.key x.mode, len := n })

/-- A range cut at the lines; `f` bounds the number of parts. -/
def lineParts : Nat → Nat → Nat → List (Nat × Nat)
  | 0, _, _ => []
  | f + 1, va, n =>
    if n = 0 then []
    else
      let k := min n (128 - va % 128)
      (va, k) :: lineParts f ((va + k) % 2 ^ 64) (n - k)

/-- The parts of an access, all checked before any is performed (R202). -/
def State.agentPlans (a : Agent) (kind : AccKind) : List (Nat × Nat) → State → Except EngErr (State × List Piece)
  | [], s => .ok (s, [])
  | (va, n) :: ps, s => do
    let (s, p) ← s.agentPlan a kind va n
    let (s, qs) ← State.agentPlans a kind ps s
    return (s, p :: qs)

/-- A piece read by a command (R353): a dirty line of the cluster's cache supplies it; a MODE 10 leaf reads through the
copy of the quadrant. -/
def State.agentReadPiece (s : State) (a : Agent) (p : Piece) : Except EngErr (State × List Byte × Bool) :=
  let k := s.cluster a.cl
  match p.place with
  | .scratch o => .ok (s, k.scratchBytes o p.len, k.scratchPois o p.len)
  | .ring o => .ok (s, k.ringBytes o p.len, false)
  | .ibank o =>
    match a.win with
    | .banks c => .ok (s, (s.core c).ibankBytes o p.len, false)
    | .saved k => .ok (s, s.bytes (k + o) p.len, false)
    | _ => .error (.fault none)
  | .fifo _ _ => .error (.fault none)
  | .mem key mode =>
    let s := if mode == 3 then s.countMigration key (a.cl / 8) else s
    match k.findLine key with
    | some l =>
      if l.dirty then .ok (s, (l.bytes.drop (key % 128)).take p.len, l.poison)
      else
        match s.homeRead key p.len with
        | none => .error .wait
        | some r => .ok r
    | none =>
      match if mode == 2 then s.copyRead (a.cl / 2) key p.len else s.homeRead key p.len with
      | none => .error .wait
      | some r => .ok r

/-- A line of SCM that a command has written, for a later `PERSIST` (R310). -/
def State.noteScm (s : State) (id : Option Nat) (key : Nat) : State :=
  match id.bind s.cmd with
  | some c =>
    if regionOf (keyPa key) == .scm && !c.scm.contains (lineOf key) then s.setCmd (id.getD 0) { c with scm := c.scm ++ [lineOf key] } else s
  | none => s

/-- A piece written by a command (R353): copies of the line are dropped, and the home is written. -/
def State.agentWritePiece (s : State) (a : Agent) (p : Piece) (bs : List Byte) (poison : Bool) : State :=
  match p.place with
  | .scratch o => s.updCluster a.cl fun k => k.scratchWrite o bs poison
  | .ring o => s.updCluster a.cl fun k => k.ringStore o bs
  | .ibank o =>
    match a.win with
    | .banks c => s.updCore c fun k => k.putIbank o bs
    | .saved k => s.hwPut (k + o) bs
    | _ => s
  | .fifo _ _ => s
  | .mem key mode =>
    let s := if mode == 3 then s.countMigration key (a.cl / 8) else s
    (((s.flushCached a.cl key).dropCopies (a.cl / 8) key).homeWrite key bs poison).noteScm a.id key

def State.agentReadPieces (a : Agent) : List Piece → State → Except EngErr (State × List Byte × Bool)
  | [], s => .ok (s, [], false)
  | p :: ps, s => do
    let (s, bs, x) ← s.agentReadPiece a p
    let (s, cs, y) ← State.agentReadPieces a ps s
    return (s, bs ++ cs, x || y)

def State.agentWritePieces (a : Agent) (poison : Bool) : List Piece → List Byte → State → State
  | [], _, s => s
  | p :: ps, bs, s => State.agentWritePieces a poison ps (bs.drop p.len) (s.agentWritePiece a p (bs.take p.len) poison)

/-- A read of `n` bytes by a command: the bytes and their poison. -/
def State.agentRead (s : State) (a : Agent) (va n : Nat) : Except EngErr (State × List Byte × Bool) := do
  let (s, ps) ← State.agentPlans a .read (lineParts (n + 1) va n) s
  State.agentReadPieces a ps s

/-- A write by a command; `full` sets the scratch words it touches FULL, and then every byte must be scratch (R229, R234). -/
def State.agentWrite (s : State) (a : Agent) (va : Nat) (bs : List Byte) (poison full : Bool) : Except EngErr State := do
  let n := bs.length
  if full && (match windowOff va with | some o => decide (0x800000 < o + n) | none => true) then throw (.fault none)
  let (s, ps) ← State.agentPlans a .write (lineParts (n + 1) va n) s
  let s := State.agentWritePieces a poison ps bs s
  match full, windowOff va with
  | true, some o => return s.updCluster a.cl fun k => k.setFull (o / 8) ((o + n + 7) / 8 - o / 8) true
  | _, _ => return s

/-- The context of a command, bound or saved. -/
def State.cmdCtx (s : State) (c : Command) : Ctx :=
  match c.area with
  | none => s.ctx c.cx
  | some (l, r) => mget {} r (s.launch l).saved

/-- A change that an engine makes to the context of a command; in its save area while the context is saved (R382). -/
def State.onCmdCtx (s : State) (c : Command) (f : Ctx → Ctx) : State :=
  match c.area with
  | none => s.updCtx c.cx f
  | some (l, r) =>
    let (s, keep) := s.editArea (mget {} r (s.launch l).saved) f
    s.updLaunch l fun x => { x with saved := mput r keep x.saved }

/-- Fields of a launch record (R367). -/
def Launch.num (l : Launch) (off n : Nat) : Nat := natOfBytes ((l.image.drop off).take n)
def Launch.flag (l : Launch) (k : Nat) : Bool := (l.num 0x1F 1).testBit k
def Launch.isSys (l : Launch) : Bool := l.flag 4

/-- The number of a command in progress. -/
def State.cmdId (s : State) (c : Command) : Option Nat :=
  (s.cmds.find? fun e => e.2.cx = c.cx && e.2.entry.ord = c.entry.ord && e.2.play == c.play && e.2.area == c.area).map Prod.fst

/-- The agent of a command: of its context, or of its launch for a playbook entry, which is checked at program level (R15, R234,
R299, R456). -/
def State.cmdAgent (s : State) (c : Command) (win : EngWin) : Agent :=
  match c.play with
  | some (l, _) =>
    let x := s.launch l
    { cl := c.cl, l := some l, sp := { core := none, cl := c.cl, root := x.root, asid := x.asid, prog := true }, win := win
      id := s.cmdId c }
  | none =>
    let x := s.cmdCtx c
    { cl := c.cl, l := x.launch, sp := { c.entry.space c.cx with core := none, cl := c.cl }, win := win, id := s.cmdId c }

/-- Fields of a launch's shape (R367): contexts per core, cores per cluster, clusters per quadrant, quadrants per die, dies. -/
def Launch.perCore (l : Launch) : Nat := l.num 0x1A 1 % 4 + 1
def Launch.perCluster (l : Launch) : Nat := 2 ^ (l.num 0x1A 1 / 4 % 4)
def Launch.perQuad (l : Launch) : Nat := l.num 0x1A 1 / 16 % 2 + 1
def Launch.perDie (l : Launch) : Nat := 2 ^ (l.num 0x1A 1 / 32 % 4)
def Launch.dies (l : Launch) : Nat := l.num 0x1B 1 % 16

/-- Whether a launch has a code save area (R367). -/
def Launch.hasCsave (l : Launch) : Bool := l.flag 0 || l.flag 1

/-- The key of a physical address with its die in bits 63:52 (R367). -/
def physKey (v : Nat) : Nat := keyOf (v / 2 ^ 52 % 4096) (v % 2 ^ 52)

/-- The key of the code save area of a core rank (R369). -/
def Launch.csaveKey (l : Launch) (m : Nat) : Nat := physKey (l.num 0x50 8) + 65536 * m

/-- The reach of a copy into the window (R15). -/
def State.copyWin (s : State) (c : Command) : EngWin :=
  if c.play.isSome then .rings
  else
    match c.area with
    | none => .banks (coreOf c.cx)
    | some (l, r) => if (s.launch l).hasCsave then .saved ((s.launch l).csaveKey (r / (s.launch l).perCore)) else .rings

/-- A command that starts: listed under a new number. -/
def State.newCmd (s : State) (c : Command) : State × Nat :=
  ({ s with cmds := mput s.nextCmd { c with since := s.now } s.cmds, nextCmd := s.nextCmd + 1 }, s.nextCmd)

/-- The failure kind of a command that is no engine's (R92). -/
def kindOther : Nat := 7

/-- A command's end (R71): none for its completion, or the kind and reason of its failure. A playbook entry's failure is
noted with its launch (R243). -/
def State.endCmd (s : State) (id : Nat) (fail : Option (Nat × Nat)) : State :=
  match s.cmd id with
  | none => s
  | some c =>
    let s := { s with cmds := merase id s.cmds }
    match c.play with
    | some (l, _) => if fail.isSome then s.updLaunch l fun x => { x with pbfail := true } else s
    | none =>
      match c.entry.instr.bind tailFields with
      | none => s
      | some t =>
        s.onCmdCtx c fun x => x.commandEnds t c.entry.ord (c.scm ++ c.entry.scm) fail

/-- The time after which an access to a shed home fails its command (R430). -/
def parkedNs : Nat := 50000000

/-- A command whose access waits on a shed home: noted, or at last failed by `fail` (R430). -/
def State.parkCmd (s : State) (id : Nat) (fail : State) : State :=
  match s.cmd id with
  | none => s
  | some c =>
    match c.parked with
    | none => s.setCmd id { c with parked := some s.now }
    | some t => if s.now < t + parkedNs then s else fail

/-- A range read line by line: each byte with the poison of its part. -/
def State.agentReadTags (a : Agent) : List (Nat × Nat) → State → Except EngErr (State × List (Byte × Bool))
  | [], s => .ok (s, [])
  | (va, n) :: ps, s => do
    let (s, bs, p) ← s.agentRead a va n
    let (s, rest) ← State.agentReadTags a ps s
    return (s, bs.map (fun b => (b, p)) ++ rest)

end Sys2Proof.Machine
end

