-- ==== Sys2Proof/Machine/Copy.lean ====
section
/-!
DEFINITION. The copy engine, rings, playbooks and template loads (08 R225–R245, R249–R256): what an S7 op of the chapter
does at start, and the steps of a command on its channel.
-/

namespace Sys2Proof.Machine

/-- A field of a descriptor. -/
def bytesNum (bs : List Byte) (off n : Nat) : Nat := natOfBytes ((bs.drop off).take n)

/-- A signed field of a descriptor. -/
def bytesInt (bs : List Byte) (off n : Nat) : Int := readInt true (8 * n) (bytesNum bs off n)

/-- A dimension of a copy (R228). -/
structure CopyDim where
  count : Nat
  scs : Int
  ss : Int
  ds : Int
  deriving DecidableEq, Repr

/-- A copy descriptor (R228, R229). -/
structure CopyDesc where
  src : Nat
  dst : Nat
  esize : Nat
  conv : Nat
  setfull : Bool
  ring : Option Nat
  scaledst : Nat
  arrive : Nat
  dims : List CopyDim
  deriving DecidableEq, Repr

/-- The element format of an MX conversion (R231). -/
def convFmt (conv : Nat) : Option Fmt :=
  match conv with
  | 2 | 7 => some e4m3
  | 3 | 8 => some e5m2
  | 4 | 9 => some e3m2
  | 5 | 10 => some e2m3
  | 6 | 11 => some e2m1
  | _ => none

/-- The source element size that a conversion asks for; none asks for no size (R231). -/
def convSize (conv : Nat) : Option Nat := if conv = 0 then none else if conv ≤ 6 then some 4 else some 2

/-- The descriptor of a copy if it is well formed by R228–R232; none where R234 makes it fail. -/
def parseCopy (bs : List Byte) : Option CopyDesc :=
  let ctrl := bytesNum bs 0x10 8
  let rank := ctrl / 2 ^ 2 % 16
  let conv := ctrl / 2 ^ 6 % 16
  let ringen := ctrl.testBit 11
  let ring := ctrl / 2 ^ 12 % 32
  let mx := (convFmt conv).isSome
  let dims := (List.range rank).map fun k =>
    ({ count := bytesNum bs (0x40 + 24 * k) 4, scs := bytesInt bs (0x44 + 24 * k) 4
       ss := bytesInt bs (0x48 + 24 * k) 8, ds := bytesInt bs (0x50 + 24 * k) 8 } : CopyDim)
  let d : CopyDesc :=
    { src := bytesNum bs 0 8, dst := bytesNum bs 8 8, esize := 2 ^ (ctrl % 4), conv := conv, setfull := ctrl.testBit 10
      ring := if ringen then some ring else none, scaledst := bytesNum bs 0x18 8, arrive := bytesNum bs 0x20 8, dims := dims }
  if ctrl / 2 ^ 17 != 0 || rank = 0 || 8 < rank || 12 ≤ conv || (!ringen && (ring != 0 || d.arrive != 0)) then none
  else if 2 ^ 32 ≤ d.arrive || (!mx && d.scaledst != 0) || !((bs.drop 0x28).take 24).all (· == 0) then none
  else if !(bs.drop (0x40 + 24 * rank)).all (· == 0) then none
  else if (convSize conv).any (· != d.esize) then none
  else if mx && (dims.head?.any fun x => x.ds != 0) then none
  else if !mx && dims.any fun x => x.scs != 0 then none
  else some d

/-- The bytes of a block of an MX format (R125). -/
def blockBytes (conv : Nat) : Nat :=
  match convFmt conv with
  | none => 0
  | some g => 4 * g.width

/-- The size of a destination element without an MX conversion (R230). -/
def CopyDesc.dsize (d : CopyDesc) : Nat := if d.conv = 1 then 2 else d.esize

/-- The number of index values of a list of dimensions. -/
def dimsCount (l : List CopyDim) : Nat := l.foldl (fun n x => n * x.count) 1

/-- The blocks of one outer index of an MX conversion (R232). -/
def CopyDesc.blocks (d : CopyDesc) : Nat := ((d.dims.head?.map CopyDim.count).getD 0 + 31) / 32

/-- The destination bytes that a copy writes (R239). -/
def CopyDesc.bytes (d : CopyDesc) : Nat :=
  if (convFmt d.conv).isSome then d.blocks * dimsCount (d.dims.drop 1) * (blockBytes d.conv + 1)
  else dimsCount d.dims * d.dsize

/-- The credit of a copy (R239). -/
def CopyDesc.credit (d : CopyDesc) : Nat := if d.arrive != 0 then d.arrive else d.bytes

/-- The offsets in source, destination and scales of index `n` of a list of dimensions, innermost first. -/
def dimOffsets : List CopyDim → Nat → Int × Int × Int
  | [], _ => (0, 0, 0)
  | x :: xs, n =>
    let i : Int := (n % x.count : Nat)
    let r := dimOffsets xs (n / x.count)
    (i * x.ss + r.1, i * x.ds + r.2.1, i * x.scs + r.2.2)

/-- Where a copy writes: at an address, or in the slot of a ring, whose bytes lie in scratch (R230, R239). -/
def destAddr (slot : Option (Nat × Nat)) (off : Int) (n : Nat) : Except EngErr Nat :=
  match slot with
  | none => .ok (wrap64 off)
  | some (base, size) => if 0 ≤ off && off + n ≤ size then .ok (windowBase + base + off.toNat) else .error (.fault none)

/-- The bytes of scratch word `w` that a range holds. -/
def wordBytes (w off n : Nat) : BitVec 8 :=
  BitVec.ofNat 8 (((List.range 8).filter fun i => off ≤ 8 * w + i && 8 * w + i < off + n).foldl (fun m i => m + 2 ^ i) 0)

/-- A scratch word of which a copy has written a part: once clean data of the copy cover it, its poison is cleared (R210). -/
def State.coverWord (id cl off n : Nat) (poison : Bool) (s : State) (w : Nat) : State :=
  match s.cmd id with
  | none => s
  | some c =>
    let m := if poison then 0 else mget 0 w c.cover ||| wordBytes w off n
    if m = BitVec.allOnes 8 then
      (s.setCmd id { c with cover := merase w c.cover }).updCluster cl fun k =>
        { k with wpois := mset false w false k.wpois, werr := mset false w false k.werr }
    else s.setCmd id { c with cover := mset 0 w m c.cover }

/-- The scratch words that a write of a copy covers in part (R210). -/
def State.coverWords (s : State) (a : Agent) (va n : Nat) (poison : Bool) : State :=
  match a.id, windowOff va with
  | some id, some o =>
    if 0x800000 < o + n then s
    else
      (((List.range ((o + n + 7) / 8 - o / 8)).map fun i => o / 8 + i).filter fun w => !(o ≤ 8 * w && 8 * w + 8 ≤ o + n)).foldl
        (State.coverWord id a.cl o n poison) s
  | _, _ => s

/-- A write of a copy, with `SETFULL`. -/
def CopyDesc.put (d : CopyDesc) (a : Agent) (slot : Option (Nat × Nat)) (off : Int) (bs : List Byte) (poison : Bool) (s : State) :
    Except EngErr State := do
  let va ← destAddr slot off bs.length
  let s ← s.agentWrite a va bs poison d.setfull
  return s.coverWords a va bs.length poison

/-- The FIFO port that an address lies in: its bank and the offset in the port (R201, R213). -/
def portOf (va : Nat) : Option (Nat × Nat) :=
  match windowOff va with
  | some o => if 0x800000 ≤ o && o < 0x800800 then some ((o - 0x800000) / 64, o % 64) else none
  | none => none

/-- The command of an agent. -/
def State.agentCmd (s : State) (a : Agent) : Option Command := a.id.bind s.cmd

/-- The FIFO of a port that a copy uses (R202, R213): it fails on a port it may not use, waits while the bank switches, while the
FIFO cannot take its push or give it an entry, and while something that has waited there longer is chosen (R209). -/
def State.copyFifo (s : State) (a : Agent) (b off esize : Nat) (strides : List Int) (push : Bool) :
    Except EngErr (List (Word × Bool)) :=
  let k := s.cluster a.cl
  let since := match (s.agentCmd a).bind Command.fifo with
    | some (t, b', push') => if b' = b && push' = push then t else s.tick + 1
    | none => s.tick + 1
  if off != 0 || esize != 8 || strides.any (· != 0) then .error (.fault none)
  else if k.switching.getLsbD b then .error .wait
  else if k.modeFor a.l b != 3 then .error (.fault none)
  else if !k.fifoTakes b push || s.chosenFirst a.cl since [2 ^ 20 + b] then .error (.fifo b push)
  else .ok (k.fifo b)

/-- A FIFO after a copy's push or pop; the copy waits there no longer. -/
def State.putCopyFifo (s : State) (a : Agent) (b : Nat) (l : List (Word × Bool)) : State :=
  let s := s.updCluster a.cl fun k => k.setFifo b l
  match a.id, s.agentCmd a with
  | some id, some c => s.setCmd id { c with fifo := none }
  | _, _ => s

/-- A source element (R230, R234), popped from a port (R213). -/
def CopyDesc.take (d : CopyDesc) (a : Agent) (src : Nat) (s : State) : Except EngErr (State × List Byte × Bool) :=
  match portOf src with
  | none => s.agentRead a src d.esize
  | some (b, off) =>
    match s.copyFifo a b off d.esize (d.dims.map CopyDim.ss) false with
    | .error e => .error e
    | .ok [] => .error (.fifo b false)
    | .ok ((v, p) :: t) => .ok (s.putCopyFifo a b t, bytesOfWord 8 v, p)

/-- A destination element (R230), pushed to a port (R213). -/
def CopyDesc.give (d : CopyDesc) (a : Agent) (slot : Option (Nat × Nat)) (off : Int) (bs : List Byte) (poison : Bool) (s : State) :
    Except EngErr State :=
  match if slot.isNone then portOf (wrap64 off) else none with
  | none => d.put a slot off bs poison s
  | some (b, o) =>
    match s.copyFifo a b o (if d.setfull then 0 else d.dsize) (d.dims.map CopyDim.ds) true with
    | .error e => .error e
    | .ok l => .ok (s.putCopyFifo a b (l ++ [(wordOfBytes bs, poison)]))

/-- One element moved (R230, R231, R233, R234): its addresses are tested for alignment, in a ring slot that of the slot's place
in scratch and the offset. -/
def CopyDesc.element (d : CopyDesc) (a : Agent) (slot : Option (Nat × Nat)) (n : Nat) (s : State) : Except EngErr State := do
  let (so, dof, _) := dimOffsets d.dims n
  let src := wrap64 (d.src + so)
  let base : Int := match slot with
    | some (b, _) => (b : Int)
    | none => 0
  if src % d.esize != 0 || wrap64 (base + d.dst + dof) % d.dsize != 0 then throw (.fault none)
  let (s, bs, p) ← d.take a src s
  let out := if d.conv = 1 then bytesOfNat 2 (convert fp32 bf16 .rne (natOfBytes bs)).1 else bs
  d.give a slot (d.dst + dof) out p s

/-- The elements of a block read, padded with zeros (R232, R233). -/
def CopyDesc.blockElems (d : CopyDesc) (a : Agent) (src : Int) (ss : Int) : Nat → Nat → State → Except EngErr (State × List Fv × Bool)
  | _, 0, s => .ok (s, [], false)
  | i, n + 1, s => do
    let va := wrap64 (src + (i : Int) * ss)
    if va % d.esize != 0 then throw (.fault none)
    let (s, bs, p) ← s.agentRead a va d.esize
    let (s, vs, q) ← d.blockElems a src ss (i + 1) n s
    return (s, (if d.esize = 4 then fp32 else bf16).decode (natOfBytes bs) :: vs, p || q)

/-- One block of an MX conversion (R232, R233): `n` counts the blocks of an outer index, and then the outer indices. -/
def CopyDesc.block (d : CopyDesc) (a : Agent) (slot : Option (Nat × Nat)) (n : Nat) (s : State) : Except EngErr State := do
  match convFmt d.conv, d.dims with
  | some g, d0 :: outer =>
    let b := n % d.blocks
    let (so, dof, sc) := dimOffsets outer (n / d.blocks)
    let (s, vs, p) ← d.blockElems a (d.src + so) d0.ss (32 * b) (min 32 (d0.count - 32 * b)) s
    let (scale, codes) := mxBlock g (vs ++ List.replicate (32 - vs.length) (Fv.fin false 0 0))
    let codes := codes.take vs.length ++ List.replicate (32 - vs.length) 0
    let bs := bytesOfNat (blockBytes d.conv) (codes.foldr (fun e m => e + 2 ^ g.width * m) 0)
    let s ← d.put a slot (d.dst + dof + (b * blockBytes d.conv : Nat)) bs p s
    d.put a slot (d.scaledst + (b : Int) * d0.scs + sc) [BitVec.ofNat 8 scale] p s
  | _, _ => return s

/-- The units of a copy carried out from unit `i` on, up to the first that fails or waits: the writes before it stand, and the
unit it stopped at is returned (R234). What a failing unit has read and written before its fault stands too. -/
def CopyDesc.run (d : CopyDesc) (a : Agent) (slot : Option (Nat × Nat)) : Nat → Nat → State → State × Nat × Option EngErr
  | 0, i, s => (s, i, none)
  | n + 1, i, s =>
    match (if (convFmt d.conv).isSome then d.block a slot i s else d.element a slot i s) with
    | .error (.fault w) => (w.getD s, i, some (.fault none))
    | .error e => (s, i, some e)
    | .ok s => d.run a slot n (i + 1) s

/-- The units of a copy: elements, or blocks of an MX conversion. -/
def CopyDesc.units (d : CopyDesc) : Nat :=
  if (convFmt d.conv).isSome then d.blocks * dimsCount (d.dims.drop 1) else dimsCount d.dims

/-- The commands of a channel, oldest first (R225). -/
def Cluster.chan (k : Cluster) (ch : Nat) : List Nat := mget [] ch k.chans
def Cluster.setChan (k : Cluster) (ch : Nat) (l : List Nat) : Cluster := { k with chans := mset [] ch l k.chans }

/-- The head of a channel. -/
def State.chanHead (s : State) (cl ch : Nat) : Option (Nat × Command) :=
  match (s.cluster cl).chan ch with
  | [] => none
  | id :: _ => (s.cmd id).map fun c => (id, c)

/-- A channel's command ends (R71, R225, R234). -/
def State.endCopy (s : State) (cl ch id : Nat) (failed : Bool) : State :=
  (s.updCluster cl fun k => k.setChan ch ((k.chan ch).drop 1)).endCmd id (if failed then some (kindOther, 2) else none)


/-- The rank of a cluster in its launch: its clusters in ascending order (R242). -/
def Launch.clusterList (l : Launch) : List Nat :=
  l.cores.foldl (fun r k => if r.contains (k / 8) then r else r ++ [k / 8]) []
def Launch.clusterRank (l : Launch) (cl : Nat) : Nat := ((l.clusterList.filter (· < cl)).length)

/-- The rings of a launch (R236). -/
def Launch.rings (l : Launch) : Nat := l.num 0x1D 1 % 64

/-- The control word of a playbook entry (R242). -/
def entryCtl (words : List Byte) : Nat := bytesNum words 12 4

/-- A descriptor as a playbook entry changes it (R242); none for a malformed entry. -/
def applyEntry (l : Launch) (cl : Nat) (words bs : List Byte) : Option (List Byte) :=
  let ctl := entryCtl words
  let rv := ctl.testBit 4
  let ring := ctl / 2 ^ 5 % 32
  let pb := mget [] (cl / 8) l.pb
  let r : Int := (l.clusterRank cl : Nat)
  let ctrl := bytesNum bs 0x10 8
  let ctrl' := if rv then ctrl - ctrl / 2 ^ 11 % 64 * 2 ^ 11 + 2 ^ 11 + ring * 2 ^ 12 else ctrl
  let drel := ctl.testBit 11
  let mx := 2 ≤ ctrl / 2 ^ 6 % 16 && ctrl / 2 ^ 6 % 16 ≤ 11
  if ctl / 2 ^ 12 != 0 || (!rv && ring != 0) || (drel && ctrl'.testBit 11) || bytesNum words 0 8 % 256 != 0 then none
  else
    let add := fun (off : Nat) (on : Bool) (step : Int) =>
      bytesOfNat 8 (wrap64 (bytesNum bs off 8 + (if on then r * step else 0)))
    some (add 0 (ctl.testBit 10) (bytesInt pb 8 8) ++ add 8 drel (bytesInt pb 16 8) ++ bytesOfNat 8 ctrl' ++
      add 0x18 (drel && mx) (bytesInt pb 16 8) ++ bs.drop 0x20)

/-- The address of a copy command's descriptor. -/
def Command.descAddr (c : Command) : Nat :=
  match c.play with
  | some _ => bytesNum c.desc 0 8
  | none => (c.entry.val 0).toNat

/-- COPY_BEGIN (R225, R234): the head of a channel reads its descriptor; a malformed one fails. The words of a playbook
entry stand in its command until then. The poison of the lines read is ignored (assumption log 109). -/
def execCopyBegin (cl ch : Nat) (s : State) : Host.Outcome State Fault Refusal :=
  match s.chanHead cl ch with
  | none => .next s
  | some (id, c) =>
    if c.begun then .next s
    else
      let a := s.cmdAgent c (s.copyWin c)
      match s.agentRead a c.descAddr 256 with
      | .error .parked => .next (s.parkCmd id (s.endCopy cl ch id true))
      | .error (.fault w) => .next ((w.getD s).endCopy cl ch id true)
      | .error _ => .next s
      | .ok (s', bs, _) =>
        let desc := match c.play with
          | some (l, _) => applyEntry (s.launch l) cl c.desc bs
          | none => some bs
        match desc.bind fun b => (parseCopy b).map fun d => (b, d) with
        | none => .next (s'.endCopy cl ch id true)
        | some (b, d) =>
          let rings := match a.l with
            | none => 0
            | some l => (s.launch l).rings
          if d.ring.any fun h => rings ≤ h then .next (s'.endCopy cl ch id true)
          else .next (s'.setCmd id { c with begun := true, desc := b, parked := none })

/-- RING_SLOT_BIND (R239): the head of a channel binds to the slot at `WP`, waits, or fails. -/
def execRingSlotBind (cl ch : Nat) (s : State) : Host.Outcome State Fault Refusal :=
  match s.chanHead cl ch with
  | none => .next s
  | some (id, c) =>
    let l := (s.cmdAgent c .rings).l
    match if c.begun && c.bound.isNone then (parseCopy c.desc).bind fun d => d.ring.map fun h => (d, ringAt l h) else none with
    | none => .next s
    | some (d, h) =>
      let r := (s.cluster cl).ring h
      if !r.valid then .next s
      else if r.target.toNat < d.credit then .next (s.endCopy cl ch id true)
      else if r.filled.toNat < r.nslot.toNat && r.booked.toNat + d.credit ≤ r.target.toNat then
        .next ((s.updCluster cl fun k => k.setRing h { r with booked := r.booked + BitVec.ofNat 32 d.credit }).setCmd id
          { c with bound := some (h, d.credit, r.wp.toNat) })
      else .next s

/-- The credit of a copy that was bound to a slot, when it ends (R239). -/
def Ring.credit (r : Ring) (c : Nat) (failed : Bool) : Ring :=
  let arrive := r.arrive + BitVec.ofNat 32 c
  let r := { r with arrive := arrive, fail := if failed then r.fail ||| ((1 : Word) <<< r.wp.toNat) else r.fail }
  if arrive == r.target then
    { r with filled := r.filled + 1, wp := BitVec.ofNat 6 ((r.wp.toNat + 1) % r.nslot.toNat), arrive := 0, booked := 0 }
  else r

/-- COPY_COMPLETE (R230–R234, R239): the copy at the head of a channel, begun and bound if it fills a ring, moves its
elements in index order and ends; what it has moved stands while one waits for a FIFO, a bank or a shed home (R213, R215, R430). A
copy that waits at a FIFO stands in the waiter table since it began to wait there with that element (R209). -/
def execCopyComplete (cl ch : Nat) (s : State) : Host.Outcome State Fault Refusal :=
  match s.chanHead cl ch with
  | none => .next s
  | some (id, c) =>
    match if c.begun then parseCopy c.desc else none with
    | none => .next s
    | some d =>
      if d.ring.isSome && c.bound.isNone then .next s
      else
        let slot := c.bound.map fun b =>
          let r := (s.cluster cl).ring b.1
          (r.base.toNat + b.2.2 * r.slotsz.toNat, r.slotsz.toNat)
        let (s', i, e) := d.run (s.cmdAgent c (s.copyWin c)) slot (d.units - c.moved) c.moved s
        let finish := fun (failed : Bool) =>
          let s'' := match c.bound with
            | none => s'
            | some (h, cr, _) => s'.updCluster cl fun k => k.setRing h ((k.ring h).credit cr failed)
          s''.endCopy cl ch id failed
        match e with
        | none => .next (finish false)
        | some (.fault _) => .next (finish true)
        | some .wait => .next (s'.updCmd id fun c => { c with moved := i, parked := none })
        | some (.fifo b push) => .next (s'.updCmd id fun x =>
            { x with moved := i, parked := none, fifo := if i = c.moved && c.fifo.any (fun f => f.2 == (b, push)) then c.fifo else some (s.tick, b, push) })
        | some .parked => .next ((s'.updCmd id fun x => { x with moved := i, parked := if i = c.moved then x.parked else none }).parkCmd id (finish true))

/-- The entries of a launch's playbook, by the header that a cluster's die read (R242, R456). -/
def Launch.pbCount (l : Launch) (cl : Nat) : Nat := bytesNum (mget [] (cl / 8) l.pb) 0 4

/-- Whether a core of a cluster that holds contexts of a launch is halted with quiescence, so that no playbook entry of it starts there
(R416). -/
def State.quiescing (s : State) (cl l : Nat) : Bool :=
  (List.range 8).any fun k => (s.core (8 * cl + k)).halt == .quiesced &&
    (List.range 4).any fun h => (s.ctx (4 * (8 * cl + k) + h)).launch == some l

/-- PLAYBOOK_ENTRY_START (R243, R244): the next entry, or one withdrawn by a pre-emption, reaches its channel. An entry whose words
cannot be read counts as started and failed at once, whatever its `STAGE` (assumption log 90); the poison of the lines read is ignored
(assumption log 109). Withdrawn entries go first, in the order of their index, whatever the stage counter (assumption log 110). -/
def execPlaybookEntryStart (cl l : Nat) (s : State) : Host.Outcome State Fault Refusal :=
  let k := s.cluster cl
  let x := s.launch l
  let p := mget {} l k.plays
  let i := p.again.headD p.next
  if x.st != .bound || !(x.clusterList.contains cl) || x.pbCount cl ≤ i || s.quiescing cl l then .next s
  else
    let a : Agent :=
      { cl := cl, l := some l, sp := { core := none, cl := cl, root := x.root, asid := x.asid, prog := true }, win := .scratch }
    match s.agentRead a (x.num 0x38 8 + 0x20 + 16 * i) 16 with
    | .error (.fault w) =>
      .next (((w.getD s).updCluster cl fun k => { k with plays := mput l { p with again := p.again.drop 1, next := if p.again.isEmpty then i + 1 else p.next } k.plays }).updLaunch l
        fun x => { x with pbfail := true })
    | .error _ => .next s
    | .ok (s', words, _) =>
      let ch := entryCtl words % 16
      if p.again.isEmpty && p.stage < bytesNum words 8 4 then .next s
      else if 16 ≤ (k.chan ch).length then .next s
      else
        let e : Entry := { slot := 7, par := ⟨0, 0⟩, vals := [], cur := 0, cur2 := 0, rep := 0, pc := 0, ord := 0, sys := false
                           ckpt := false, fault := false, phase := .queued }
        let (s', id) := s'.newCmd { cx := 32 * cl, cl := cl, entry := e, play := some (l, i), desc := words }
        .next (s'.updCluster cl fun k =>
          { k.setChan ch (k.chan ch ++ [id]) with
            plays := mput l { p with again := p.again.drop 1, next := if p.again.isEmpty then i + 1 else p.next } k.plays })

/-- The streaming fault of an S7 check (R249, R274, R287). -/
def trap7 (cause : Nat) (v : Word) : Trap := { cause := cause, slot := 7, info1 := v }

/-- A command that starts and runs on: it leaves its queue. -/
def State.launchCmd (s : State) (cx : Nat) (e : Entry) (f : Command → Command) : State × Nat :=
  s.newCmd (f { cx := cx, cl := clusterOf cx, entry := e })

/-- CPY at the head of its queue (R225, R251). -/
def State.startCpy (s : State) (cx : Nat) (e : Entry) (ch : BitVec 4) : Started :=
  let v := e.val 0
  let k := s.cluster (clusterOf cx)
  if v.toNat % 256 != 0 then .trap s (trap7 0x06 v) false
  else if 16 ≤ (k.chan ch.toNat).length then .wait
  else
    let (s, id) := s.launchCmd cx e id
    .done (s.updCluster (clusterOf cx) fun k => k.setChan ch.toNat (k.chan ch.toNat ++ [id]))

/-- STAGE (R252): the counter takes its new value at start. -/
def State.startStage (s : State) (cx : Nat) (e : Entry) : Started :=
  let v := e.val 0
  let l := ((s.ctx cx).launch).getD 0
  let p := mget {} l (s.cluster (clusterOf cx)).plays
  if 0xFFFF < v.toNat || 2 ^ 32 ≤ p.stage + v.toNat then .trap s (trap7 0x04 v) false
  else
    let s := s.updCluster (clusterOf cx) fun k => { k with plays := mput l { p with stage := p.stage + v.toNat } k.plays }
    .done (s.launchCmd cx e id).1

/-- RINIT (R253): the checks at start. -/
def State.startRinit (s : State) (cx : Nat) (e : Entry) : Started :=
  let v := e.val 0
  if v.toNat % 32 != 0 then .trap s (trap7 0x06 v) false
  else if (e.val 1).toNat < 1 || 32 < (e.val 1).toNat then .trap s (trap7 0x04 (e.val 1)) false
  else .done (s.launchCmd cx e id).1

/-- A copy bound to a ring of a cluster. -/
def State.ringBound (s : State) (cl h : Nat) : Bool :=
  s.cmds.any fun e => e.2.cl = cl && e.2.bound.any (fun b => b.1 = h) &&
    (match e.2.entry.instr with
     | some (.cpy ..) => true
     | none => true
     | _ => e.2.play.isSome)

/-- The completion of a RINIT (R237, R253): none while a copy is bound to the ring or its descriptor cannot be read yet. The poison of the descriptor's lines is ignored (assumption log 109). -/
def State.finishRinit (s : State) (id : Nat) (c : Command) (h : Nat) : Option State :=
  let h := ringAt (s.cmdAgent c .rings).l h
  let bad := fun (s : State) =>
    (s.updCluster c.cl fun k => k.setRing h { k.ring h with valid := false }).endCmd id (some (kindOther, 2))
  if s.ringBound c.cl h then none
  else
    match s.agentRead (s.cmdAgent c .rings) (c.entry.val 0).toNat 32 with
    | .error .parked => some (s.parkCmd id (bad s))
    | .error (.fault w) => some (bad (w.getD s))
    | .error _ => none
    | .ok (s, bs, _) =>
      let base := bytesNum bs 0 8
      let size := bytesNum bs 8 4
      let target := bytesNum bs 12 4
      let n := bytesNum bs 16 1
      if base % 64 != 0 || size % 64 != 0 || size < 64 || 2 ^ 23 < size || target = 0 || n < 1 || 64 < n ||
          !(bs.drop 17).all (· == 0) || 2 ^ 23 < base + n * size then some (bad s)
      else
        some ((s.updCluster c.cl fun k =>
          k.setRing h
            { nslot := BitVec.ofNat 7 n, cons := (c.entry.val 1).setWidth 6, valid := true, base := BitVec.ofNat 23 base
              slotsz := BitVec.ofNat 32 size, target := BitVec.ofNat 32 target, gen := (k.ring h).gen + 1 }).endCmd id none)

/-- The slot word of the slot at `RP` (R240). -/
def Ring.word (r : Ring) : BitVec 24 := r.gen ++ r.rp.setWidth 8

/-- Whether a mark names a slot word (R240). -/
def marked (m : BitVec 32) (w : BitVec 24) : Bool := m.getLsbD 31 && m.extractLsb' 0 24 == w

/-- Ring `h` of the launch of a context. -/
def State.ringOf (s : State) (cx h : Nat) : Ring := (s.cluster (clusterOf cx)).ring (ringAt (s.ctx cx).launch h)

/-- Whether a RAWAIT's condition holds (R240). -/
def State.rawaitReady (s : State) (cx h : Nat) : Bool :=
  let r := s.ringOf cx h
  r.valid && r.filled != 0 && !marked (mget 0 h (s.ctx cx).marks) r.word

/-- A RAWAIT returns (R240, R254): the slot word with its failure bit; its token and flag. -/
def State.rawaitDone (s : State) (cx : Nat) (e : Entry) (t : Tail) (h : Nat) : State :=
  let r := s.ringOf cx h
  let v := r.word.setWidth 64 ||| BitVec.ofNat 64 ((r.fail.getLsbD r.rp.toNat).toNat * 2 ^ 24)
  (s.setOut cx e { word := v }).updCtx cx fun c => c.commandEnds t e.ord e.scm none

/-- RAWAIT at the head of its queue (R249, R254). -/
def State.startRawait (s : State) (cx : Nat) (e : Entry) (t : Tail) (h : Nat) : Started :=
  if !(s.ringOf cx h).valid then .trap s (trap7 0x04 (BitVec.ofNat 64 h)) false
  else if s.rawaitReady cx h then .done (s.rawaitDone cx e t h)
  else .phase s .watching

/-- RREL (R240, R254): as the listing has it, `FILLED` is not looked at; at 0 its seven bits wrap to 127 (assumption log 91). -/
def State.startRrel (s : State) (cx : Nat) (e : Entry) (h : Nat) : Started :=
  let v := e.val 0
  let cl := clusterOf cx
  let r := s.ringOf cx h
  if !r.valid || v.toNat / 2 ^ 25 != 0 || v.extractLsb' 0 24 != r.word || marked (mget 0 h (s.ctx cx).marks) r.word then
    .trap s (trap7 0x04 v) false
  else
    let s := s.updCtx cx fun c => { c with marks := mset 0 h ((1 : BitVec 32) <<< 31 ||| r.word.setWidth 32) c.marks }
    let n := r.relcnt.toNat + 1
    let r' := if n = r.cons.toNat then
        let rp := (r.rp.toNat + 1) % r.nslot.toNat
        { r with
          fail := r.fail &&& ~~~((1 : Word) <<< r.rp.toNat), relcnt := 0, filled := r.filled - 1
          rp := BitVec.ofNat 6 rp, gen := if rp = 0 then r.gen + 1 else r.gen }
      else { r with relcnt := r.relcnt + 1 }
    .done ((s.updCluster cl fun k => k.setRing (ringAt (s.ctx cx).launch h) r').launchCmd cx e id).1

/-- The entries of a context's template window (R47). -/
def Ctx.tmplEntries (c : Ctx) : Nat := 64 * 2 ^ c.tsize.toNat

/-- TLOAD (R249, R256): the checks at start. -/
def State.startTload (s : State) (cx : Nat) (e : Entry) (count : Nat) : Started :=
  let v := e.val 0
  if v.toNat % 32 != 0 then .trap s (trap7 0x06 v) false
  else if (s.ctx cx).tmplEntries < (e.val 1).toNat + count then .trap s (trap7 0x04 (e.val 1)) false
  else .done (s.launchCmd cx e id).1

/-- Template entries written from their bytes, each whole (R51, R256). -/
def Core.putTmpl (k : Core) (first : Nat) (bs : List Byte) : Nat → Core
  | 0 => k
  | n + 1 =>
    { k with tmpl := mset 0 first (BitVec.ofNat 256 (natOfBytes (bs.take 32))) k.tmpl }.putTmpl (first + 1) (bs.drop 32) n

/-- The saved context whose save area holds the template window of a saved context: of a shared window the lowest-numbered sharer
on its core (R48). -/
def Launch.windowHolder (l : Launch) (r : Nat) (x : Ctx) : Ctx :=
  if x.tshared then ((l.saved.find? fun p => p.1 / l.perCore = r / l.perCore).map Prod.snd).getD x else x

/-- The completion of a TLOAD (R51, R256): into the window, or into the save area that holds it while the context is saved.
The poison of the lines read is dropped (assumption log 109). -/
def State.finishTload (s : State) (id : Nat) (c : Command) (count : Nat) : Option State :=
  let failed := fun (s : State) => s.endCmd id (some (kindOther, 2))
  match s.agentRead (s.cmdAgent c .scratch) (c.entry.val 0).toNat (32 * count) with
  | .error .parked => some (s.parkCmd id (failed s))
  | .error (.fault w) => some (failed (w.getD s))
  | .error _ => none
  | .ok (s, bs, _) =>
    let x := s.cmdCtx c
    let first := (c.entry.val 1).toNat
    some ((match c.area with
      | none => s.updCore (coreOf c.cx) fun k => k.putTmpl (x.tbase + first) bs count
      | some (l, r) => s.hwPut (areaKey ((s.launch l).windowHolder r x).savebase + 0x42000 + 32 * first) bs).endCmd id none)

/-- RAWAIT_RETURN (R254): the waiting RAWAIT at the head of a context's S7 queue. -/
def execRawaitReturn (cx : Nat) (s : State) : Host.Outcome State Fault Refusal :=
  match if (s.ctx cx).frozen then [] else (s.ctx cx).queue 7 with
  | e :: rest =>
    match e.phase, e.instr with
    | .watching, some (.rawait _ t _ ring) =>
      if s.rawaitReady cx ring.toNat then
        .next ((s.rawaitDone cx e t ring.toNat).updCtx cx fun c => c.setQueue 7 rest)
      else .next s
    | _, _ => .next s
  | [] => .next s

end Sys2Proof.Machine
end

