-- ==== Sys2Proof/Machine/Engines.lean ====
section
/-!
DEFINITION. Leases of engines (09 R257–R279): the benches and the arbiter, grants, substitution and revocation, and what
the lease ops do at start. Engine `16 k + n` of a die is number n of kind k.
-/

namespace Sys2Proof.Machine

def Die.engine (d : Die) (e : Nat) : Engine := mget {} e d.engines
def State.engine (s : State) (die e : Nat) : Engine := (s.die die).engine e
def State.setEngine (s : State) (die e : Nat) (x : Engine) : State :=
  s.updDie die fun d => { d with engines := mput e x d.engines }

/-- The kind of an engine (R257). -/
def engKind (e : Nat) : Nat := e / 16

/-- The engines that are awake (R258). -/
def Die.awake (d : Die) : Nat := (d.engines.filter fun e => e.2.st != .asleep).length

/-- The engines of a kind, by number. -/
def kindEngines (k : Nat) : List Nat := (List.range 16).map fun n => 16 * k + n

/-- The first engine of a kind in a state. -/
def Die.firstOf (d : Die) (k : Nat) (st : EngState) : Option Nat := (kindEngines k).find? fun e => (d.engine e).st == st

/-- Whether a kind is held warm (R278). -/
def Die.heldWarm (d : Die) (k : Nat) : Bool := !(mget [] k d.warmReqs).isEmpty

/-- The handle of a lease (R260). -/
def handleOf (e slot : Nat) (ser : BitVec 16) : BitVec 32 :=
  BitVec.ofNat 32 (e % 16 + e / 16 * 2 ^ 4 + slot * 2 ^ 8 + ser.toNat * 2 ^ 16)

/-- The slot that a value names, held or lost (R260, R276). -/
def Ctx.namedSlot (c : Ctx) (v : Word) : Option (Nat × LeaseSlot) :=
  let k := v.toNat / 2 ^ 8 % 8
  let l := mget {} k c.leases
  if (l.st == .held || l.st == .lost) && l.handle.setWidth 64 == v then some (k, l) else none

/-- A change to the holder of an engine's lease, bound or saved. -/
def State.onHolder (s : State) (x : Engine) (f : Ctx → Ctx) : State :=
  match x.area with
  | none => s.updCtx x.cx f
  | some (l, r) =>
    let (s, keep) := s.editArea (mget {} r (s.launch l).saved) f
    s.updLaunch l fun y => { y with saved := mput r keep y.saved }

/-- A lease slot changed. -/
def Ctx.setLease (c : Ctx) (k : Nat) (f : LeaseSlot → LeaseSlot) : Ctx :=
  { c with leases := mput k (f (mget {} k c.leases)) c.leases }

/-- The engine of a command's handle. -/
def Command.engine (c : Command) : Nat := ((c.entry.val 0).toNat / 16 % 8) * 16 + (c.entry.val 0).toNat % 16

/-- The address of the descriptor of an engine's command. -/
def Command.descAddr1 (c : Command) : Nat := (c.entry.val 1).toNat

/-- Whether a command is a reduction (R272). -/
def Command.isRed (c : Command) : Bool :=
  match c.entry.instr with
  | some (.lcmd ..) => engKind c.engine = 5
  | _ => false

/-- The tag of a reduction's descriptor, and the dies of its members in rank order (R272). -/
def redTag (bs : List Byte) : Nat := natOfBytes ((bs.drop 0x30).take 4)
def redDies (bs : List Byte) : List Nat :=
  (List.range ((bs.length - 0x80) / 2)).map fun r => natOfBytes ((bs.drop (0x80 + 2 * r)).take 2)

/-- The descriptor of a reduction with its member list: as the command read it, or as it stands in memory (assumption log 94), without a
list that cannot be read, and empty where it cannot be read itself. -/
def State.redDesc (s : State) (c : Command) : List Byte :=
  if c.begun then c.desc
  else
    let a := s.cmdAgent c .scratch
    match s.agentRead a c.descAddr1 128 with
    | .ok (s, bs, _) =>
      let g := natOfBytes ((bs.drop 0x34).take 2)
      (match if g ≤ 4096 then s.agentRead a (natOfBytes ((bs.drop 0x28).take 8)) (2 * g) else .error (.fault none) with
       | .ok (_, ms, _) => bs ++ ms
       | .error _ => bs)
    | .error _ => []

/-- Whether a command has joined a reduction that is not done (R272). -/
def Command.joined (c : Command) : Bool := c.isRed && c.begun && c.result.isNone && c.fail.isNone

/-- The other commands that have joined the reduction of a descriptor on a die (R272): of its tag, with that die among their members or
their own die among its members. -/
def State.redPeers (s : State) (id die : Nat) (bs : List Byte) : List (Nat × Command) :=
  s.cmds.filter fun e => e.1 != id && e.2.joined && !bs.isEmpty && redTag e.2.desc = redTag bs &&
    ((redDies bs).contains (dieOf e.2.cx) || (redDies e.2.desc).contains die)

/-- The reduction of a descriptor fails for its members but the command `id` on a die (R272): those that have joined it, and those still
to join. -/
def State.failMembers (s : State) (id die : Nat) (bs : List Byte) : State :=
  let peers := s.redPeers id die bs
  let members := if (redDies bs).isEmpty then (peers.head?.map fun e => redDies e.2.desc).getD [] else redDies bs
  let left := (die :: peers.map fun e => dieOf e.2.cx).foldl List.erase members
  let s := peers.foldl (fun s e => s.updCmd e.1 fun c => { c with fail := some 2 }) s
  if left.isEmpty then s else { s with redFails := s.redFails ++ [(redTag bs, left)] }

/-- A member that joins a reduction of which another has failed, or is aborted before it joins: the failure that it takes up, gone from the
list, so that the tag may be used again (R272). -/
def State.takeFailed (s : State) (tag die : Nat) : Option State :=
  match s.redFails.find? fun r => r.1 = tag && r.2.contains die with
  | none => none
  | some r =>
    let left := r.2.erase die
    some { s with redFails := (s.redFails.erase r) ++ (if left.isEmpty then [] else [(tag, left)]) }

/-- Every other member of a reduction fails with a member that fails or is aborted, unless it is one that has failed already (R272). -/
def State.failPeers (s : State) (id : Nat) : State :=
  match s.cmd id with
  | none => s
  | some c =>
    if !c.isRed || c.result.isSome || c.fail.isSome then s
    else
      let bs := s.redDesc c
      match if c.begun then none else s.takeFailed (redTag bs) (dieOf c.cx) with
      | some s => s
      | none => s.failMembers id (dieOf c.cx) bs

/-- The commands of a lease aborted (R264, R265). -/
def State.abortCmds (s : State) (kind why : Nat) : List Nat → State
  | [] => s
  | id :: ids => ((s.failPeers id).endCmd id (some (kind, why))).abortCmds kind why ids

/-- A lease ended against its holder's will (R264, R265): its commands fail, its slot is lost, its engine is warm. -/
def State.endLease (s : State) (die e why : Nat) : State :=
  let x := s.engine die e
  let s := s.abortCmds (engKind e) why x.queue
  let s := s.onHolder x fun c => c.setLease x.slot fun l => { l with st := .lost, why := BitVec.ofNat 2 why }
  s.setEngine die e { st := .warm, since := s.now }

/-- A grant whose engine is still waking, revoked (R265): the handle is written all the same, and the `LEASE` fails. -/
def State.endGrant (s : State) (die e : Nat) : State :=
  let x := s.engine die e
  match s.cmd x.req with
  | none => s.setEngine die e { st := .warm, since := s.now }
  | some c =>
    let s := s.onCmdCtx c fun y =>
      let h := handleOf e x.slot (mget {} x.slot y.leases).serial
      (y.setLease x.slot fun l => { l with st := .lost, why := 3, handle := h }).setOut c.entry.ord 7 { word := h.setWidth 64 }
    (s.endCmd x.req (some (engKind e, 3))).setEngine die e { st := .warm, since := s.now }

/-- The kind and priority that a `LEASE` asks for. -/
def leaseAsk (e : Entry) : Nat × Nat :=
  match e.instr with
  | some (.lease _ _ _ kind prio) => (kind.toNat, prio.toNat)
  | _ => (0, 0)

/-- Whether one request goes before another (R262, R263): priority, then arrival, then context. -/
def reqBefore (a b : Command) : Bool :=
  let p := (leaseAsk a.entry).2
  let q := (leaseAsk b.entry).2
  q < p || (p = q && (a.since < b.since || (a.since = b.since && a.cx < b.cx)))

/-- A request put into its place. -/
def insertReq (x : Nat × Command) : List (Nat × Command) → List (Nat × Command)
  | [] => [x]
  | y :: ys => if reqBefore x.2 y.2 then x :: y :: ys else y :: insertReq x ys

/-- The requests of a bench, first to be served first. -/
def State.benchOrder (s : State) (die k : Nat) : List (Nat × Command) :=
  ((mget [] k (s.die die).benches).filterMap fun id => (s.cmd id).map fun c => (id, c)).foldl (fun l x => insertReq x l) []

/-- The heads of the benches in the arbiter's merged order (R263). -/
def State.benchHeads (s : State) (die : Nat) : List (Nat × Command) :=
  ((List.range 6).filterMap fun k => (s.benchOrder die k).head?).foldl (fun l x => insertReq x l) []

/-- A grant (R263): the engine is reserved at once, and ready after `t` ns. -/
def State.grant (s : State) (die id : Nat) (c : Command) (e t : Nat) : State :=
  let slot := match c.bound with
    | some b => b.1
    | none => 0
  let s := s.updDie die fun d =>
    { d with benches := d.benches.map fun b => (b.1, b.2.filter (· != id)) }
  s.setEngine die e
    { st := .reserved, since := s.now, ready := s.now + t, req := id, cx := c.cx, area := c.area, slot := slot, prio := (leaseAsk c.entry).2 }

/-- The time in ns that an abort takes (R263). -/
def abortNs : Nat := 32

/-- An engine whose abort is over waits for its grant as a reserved one (R263, R264). -/
def Engine.abortEnds (now : Nat) (x : Engine) : Engine :=
  if x.st == .aborting && x.since + abortNs ≤ now then { x with st := .reserved } else x

/-- Whether an engine is granted and not yet held. -/
def Engine.granted (x : Engine) : Bool := x.st == .reserved || x.st == .aborting

/-- The warm engine that is put to sleep first (R263, R265): one of a kind not held warm before one of a held kind. -/
def Die.warmVictim (d : Die) (but : Nat → Bool) : Option Nat :=
  let warm := (List.range 96).filter fun e => (d.engine e).st == .warm && !but (engKind e)
  (warm.find? fun e => !d.heldWarm (engKind e)).or warm.head?

/-- Whether one lease is given up before another: lower priority, then by `older` the longer or the shorter held. -/
def leaseBefore (older : Bool) (a b : Engine) : Bool :=
  a.prio < b.prio || (a.prio = b.prio && (if older then a.since < b.since else b.since < a.since))

/-- The lease given up first among engines. -/
def Die.leaseVictim (d : Die) (older : Bool) : List Nat → Option Nat
  | [] => none
  | e :: es =>
    match d.leaseVictim older es with
    | none => some e
    | some f => if leaseBefore older (d.engine f) (d.engine e) then some f else some e

/-- The hold after which a lease may be substituted, in ns (R263). -/
def holdNs : Nat := 8192

/-- One request served, if it can be (R263). A substituted engine of another kind is asleep at once, since the engine granted in its
place counts as awake (R258; assumption log 51). -/
def State.serve (s : State) (die id : Nat) (c : Command) : Option State :=
  let d := s.die die
  let (k, p) := leaseAsk c.entry
  let asleep := d.firstOf k .asleep
  match d.firstOf k .warm with
  | some e => some (s.grant die id c e 64)
  | none =>
    match (if d.awake < d.budget then asleep else none) with
    | some e => some (s.grant die id c e 2048)
    | none =>
      match asleep, d.warmVictim (· == k) with
      | some e, some x => some ((s.setEngine die x {}).grant die id c e 2048)
      | _, _ =>
        let v := (List.range 96).filter fun e =>
          let x := d.engine e
          x.st == .leased && x.prio < p && x.since + holdNs ≤ s.now && (engKind e = k || asleep.isSome)
        match d.leaseVictim true v with
        | none => none
        | some e =>
          let s := s.endLease die e 0
          if engKind e = k then
            let s := s.grant die id c e (abortNs + 64)
            some (s.setEngine die e { s.engine die e with st := .aborting })
          else
            match asleep with
            | none => none
            | some f => some ((s.setEngine die e {}).grant die id c f (abortNs + 2048))

/-- The first head of a bench that can be served. -/
def State.serveFirst (s : State) (die : Nat) : List (Nat × Command) → Option State
  | [] => none
  | (id, c) :: rest => (s.serve die id c).or (s.serveFirst die rest)

/-- An engine woken for a warm request, if none of its kind is awake and the budget allows (R278). -/
def State.wakeWarm (s : State) (die k : Nat) : State :=
  let d := s.die die
  if d.heldWarm k && d.awake < d.budget && (kindEngines k).all (fun e => (d.engine e).st == .asleep) then
    s.setEngine die (16 * k) { st := .waking, since := s.now, ready := s.now + 2048 }
  else s

/-- The arbiter (R263) serves while it can; `n` bounds the grants. -/
def State.arbitrate (die : Nat) : Nat → State → State
  | 0, s => s
  | n + 1, s =>
    match s.serveFirst die (s.benchHeads die) with
    | some s => State.arbitrate die n s
    | none => (List.range 6).foldl (fun s k => s.wakeWarm die k) s

/-- The arbiter acts. -/
def State.arbiter (s : State) (die : Nat) : State := State.arbitrate die 400 s

/-- Engines put to sleep and leases revoked until no more than the budget are awake (R265); `n` bounds their number. An engine that wakes
for a warm request sleeps right after the warm ones, and a grant that still wakes is held since it was granted (assumption log 113). -/
def State.shrink (die : Nat) : Nat → State → State
  | 0, s => s
  | n + 1, s =>
    let d := s.die die
    if d.awake ≤ d.budget then s
    else
      match (d.warmVictim fun _ => false).or ((List.range 96).find? fun e => (d.engine e).st == .waking) with
      | some e => State.shrink die n (s.setEngine die e {})
      | none =>
        match d.leaseVictim false ((List.range 96).filter fun e => (d.engine e).st == .leased || (d.engine e).granted) with
        | none => s
        | some e =>
          let s := if (d.engine e).st == .leased then s.endLease die e 3 else s.endGrant die e
          State.shrink die n (s.setEngine die e {})

/-- The awake budget set (R258, R265, R401). -/
def State.setBudget (s : State) (die w : Nat) : State :=
  (State.shrink die 96 (s.updDie die fun d => { d with budget := w })).arbiter die

/-- The time in ns from a `LEASE`'s start to its arrival at its bench (R262). -/
def benchNs : Nat := 16

/-- Whether a command is a `LEASE`. -/
def Command.isLease (c : Command) : Bool := c.entry.isLease

/-- The request of a `LEASE` reaches its bench if that has room; the op leaves its queue (R262, R275). One that a full bench held back is
ordered by the time at which it would have reached it (assumption log 112). -/
def State.arrive (s : State) (die id : Nat) (c : Command) : State :=
  let (k, _) := leaseAsk c.entry
  let bench := mget [] k (s.die die).benches
  if 64 ≤ bench.length then s
  else
    let s := s.setCmd id { c with begun := true, since := c.since + benchNs }
    let s := s.onCmdCtx c fun x => x.setQueue 7 ((x.queue 7).filter fun e => e.ord != c.entry.ord)
    s.updDie die fun d => { d with benches := mput k (bench ++ [id]) d.benches }

/-- Requests, in the order of their arrival, reach their benches; the arbiter acts when every one that arrives in the same nanosecond
has (R262, R263). -/
def State.arriveAll (die : Nat) : List (Nat × Command) → State → State
  | [], s => s
  | (id, c) :: rest, s =>
    let s := s.arrive die id c
    State.arriveAll die rest (if rest.head?.any (fun r => r.2.since = c.since) then s else s.arbiter die)

/-- A request put behind those that start before it. -/
def insertSince (x : Nat × Command) : List (Nat × Command) → List (Nat × Command)
  | [] => [x]
  | y :: ys => if x.2.since < y.2.since || (x.2.since = y.2.since && x.2.cx < y.2.cx) then x :: y :: ys else y :: insertSince x ys

/-- BENCH_ARRIVAL (R262, R263, R275): the request of a `LEASE` reaches its bench 16 ns after its start or once the bench has room, and
with it those of the die that arrive before it or in the same nanosecond. -/
def execBenchArrival (die id : Nat) (s : State) : Host.Outcome State Fault Refusal :=
  match s.cmd id with
  | none => .next s
  | some c =>
    if !c.isLease || c.begun || dieOf c.cx != die || s.now < c.since + benchNs then .next s
    else
      let due := s.cmds.filter fun e => e.2.isLease && !e.2.begun && dieOf e.2.cx = die && e.2.since ≤ c.since
      .next (State.arriveAll die (due.foldl (fun l x => insertSince x l) []) s)

/-- HOLD_THRESHOLD_PASSED (R263). -/
def execHoldThresholdPassed (die eng : Nat) (s : State) : Host.Outcome State Fault Refusal :=
  let x := s.engine die eng
  if x.st == .leased && x.since + holdNs ≤ s.now then .next (s.arbiter die) else .next s

/-- LEASE_GRANT (R263): the slot is held, the handle written, the token and flag complete. -/
def execLeaseGrant (die eng : Nat) (s : State) : Host.Outcome State Fault Refusal :=
  let x := s.engine die eng
  if x.st != .reserved || s.now < x.ready then .next s
  else
    match s.cmd x.req with
    | none => .next ((s.setEngine die eng { st := .warm, since := s.now }).arbiter die)
    | some c =>
      let s := s.onCmdCtx c fun y =>
        let h := handleOf eng x.slot (mget {} x.slot y.leases).serial
        (y.setLease x.slot fun l => { l with st := .held, handle := h }).setOut c.entry.ord 7 { word := h.setWidth 64 }
      .next ((s.endCmd x.req none).setEngine die eng { x with st := .leased, since := s.now })

/-- ENGINE_WAKE_END (R259, R278). -/
def execEngineWakeEnd (die eng : Nat) (s : State) : Host.Outcome State Fault Refusal :=
  let x := s.engine die eng
  if x.st == .waking && x.ready ≤ s.now then .next ((s.setEngine die eng { st := .warm, since := s.now }).arbiter die)
  else .next s

/-- WARM_ENGINE_SLEEP (R259, R278). -/
def execWarmEngineSleep (die eng : Nat) (s : State) : Host.Outcome State Fault Refusal :=
  let x := s.engine die eng
  if x.st == .warm && x.since + 50000 ≤ s.now && !(s.die die).heldWarm (engKind eng) then
    .next ((s.setEngine die eng {}).arbiter die)
  else .next s

/-- LEASE at the head of its queue (R275); in retirement its request is withdrawn as it is made (R83). -/
def State.startLease (s : State) (cx : Nat) (e : Entry) (kind : BitVec 3) (prio : BitVec 2) : Started :=
  let c := s.ctx cx
  match (List.range 8).find? fun k => (mget {} k c.leases).st == .free with
  | none => .trap s { cause := 0x04, slot := 7, info1 := kind.setWidth 64 } false
  | some k =>
    let s := s.updCtx cx fun c => c.setLease k fun l => { st := .pending, kind := kind, prio := prio, serial := l.serial + 1 }
    let (s, id) := s.newCmd { cx := cx, cl := clusterOf cx, entry := e, bound := some (k, 0, 0) }
    if c.phase == .retiring then
      .done (((s.updCtx cx fun c => c.setLease k fun l => { serial := l.serial }).setOut cx e { keep := true }).endCmd id (some (kind.toNat, 3)))
    else .phase s (.sent id)

/-- The most commands a lease holds (R276). -/
def leaseQueue : Nat := 4

/-- LCMD at the head of its queue (R276). -/
def State.startLcmd (s : State) (cx : Nat) (e : Entry) : Started :=
  let h := e.val 0
  match (s.ctx cx).namedSlot h with
  | none => .trap s { cause := 0x04, slot := 7, info1 := h } false
  | some (_, l) =>
    if l.st == .lost then .trap s { cause := 0x0F, slot := 7, detail := l.why.toNat, info1 := h } false
    else if (e.val 1).toNat % 128 != 0 then .trap s { cause := 0x06, slot := 7, info1 := e.val 1 } false
    else
      let die := dieOf cx
      let k := (h.toNat / 16 % 8) * 16 + h.toNat % 16
      let x := s.engine die k
      if leaseQueue ≤ x.queue.length then .wait
      else
        let (s, id) := s.newCmd { cx := cx, cl := clusterOf cx, entry := e }
        .done (s.setEngine die k { x with queue := x.queue ++ [id] })

/-- WSTR at the head of its queue (R249, R255): it fails at once where its handle or its context does not serve; where the lease was
lost before, with the reason of the loss (assumption log 93). -/
def State.startWstr (s : State) (cx : Nat) (e : Entry) : Started :=
  let h := e.val 0
  if (e.val 1).toNat % 64 != 0 then .trap s { cause := 0x06, slot := 7, info1 := e.val 1 } false
  else
    let fail := fun (why : Nat) =>
      let (s, id) := s.newCmd { cx := cx, cl := clusterOf cx, entry := e }
      Started.done (s.endCmd id (some (0, why)))
    match (s.ctx cx).namedSlot h with
    | none => fail 2
    | some (_, l) =>
      if !(s.ctx cx).accbanks.getLsbD 8 || h.toNat / 16 % 8 != 0 then fail 2
      else if l.st == .lost then fail l.why.toNat
      else
        let die := dieOf cx
        let k := h.toNat % 16
        let x := s.engine die k
        if leaseQueue ≤ x.queue.length then .wait
        else
          let (s, id) := s.newCmd { cx := cx, cl := clusterOf cx, entry := e }
          .done (s.setEngine die k { x with queue := x.queue ++ [id] })

/-- UNLEASE at the head of its queue (R274, R277): it waits there until every command queued to the lease has ended, and then ends the
lease (assumption log 121); it frees a lost slot at once. -/
def State.startUnlease (s : State) (cx : Nat) (e : Entry) : Started :=
  let h := e.val 0
  match (s.ctx cx).namedSlot h with
  | none => .trap s { cause := 0x04, slot := 7, info1 := h } false
  | some (k, l) =>
    let die := dieOf cx
    let n := h.toNat / 16 % 8 * 16 + h.toNat % 16
    let freed := (s.updCtx cx fun c => c.setLease k fun l => { serial := l.serial }).newCmd { cx := cx, cl := clusterOf cx, entry := e }
    if l.st == .lost then .done freed.1
    else if !(s.engine die n).queue.isEmpty then .wait
    else .done ((freed.1.setEngine die n { st := .warm, since := s.now }).arbiter die)

/-- LWARM at the head of its queue (R278). -/
def State.startLwarm (s : State) (cx : Nat) (e : Entry) (kind : BitVec 3) (keep : Bool) : Started :=
  let die := dieOf cx
  let s := s.updDie die fun d =>
    let l := (mget [] kind.toNat d.warmReqs).filter (· != cx)
    { d with warmReqs := mset [] kind.toNat (if keep then l ++ [cx] else l) d.warmReqs }
  .done ((s.newCmd { cx := cx, cl := clusterOf cx, entry := e }).1.arbiter die)

/-- A context's warm requests withdrawn (R278). -/
def State.dropWarm (s : State) (cx : Nat) : State :=
  s.updDie (dieOf cx) fun d => { d with warmReqs := d.warmReqs.map fun p => (p.1, p.2.filter (· != cx)) }

/-- A context's pending lease requests withdrawn (R83, R265): their slots become free and, where `fail` is set, their
`LEASE`s fail. -/
def State.withdrawRequests (s : State) (cx : Nat) (fail : Bool) : State :=
  let die := dieOf cx
  let mine := s.cmds.filter fun e =>
    e.2.cx = cx && e.2.area.isNone && e.2.isLease &&
      !((List.range 96).any fun k => (s.engine die k).granted && (s.engine die k).req = e.1)
  mine.foldl (fun s e =>
    let s := s.updDie die fun d => { d with benches := d.benches.map fun b => (b.1, b.2.filter (· != e.1)) }
    let s := s.updCtx cx fun c => c.setLease ((e.2.bound.map fun b => b.1).getD 0) fun l => { serial := l.serial }
    if fail then
      ((s.updCtx cx fun c => (c.setQueue 7 ((c.queue 7).filter fun x => x.ord != e.2.entry.ord)).setOut e.2.entry.ord 7 { keep := true }).endCmd e.1
        (some ((leaseAsk e.2.entry).1, 3)))
    else { s with cmds := merase e.1 s.cmds }) s

/-- The leases of a context that ends are released as by `UNLEASE` (R265). -/
def State.releaseLeases (s : State) (cx : Nat) : State :=
  let die := dieOf cx
  let s := (List.range 96).foldl (fun s k =>
    let x := s.engine die k
    if (x.st == .leased || x.granted) && x.cx = cx && x.area.isNone then s.setEngine die k { st := .warm, since := s.now } else s) s
  s.arbiter die

end Sys2Proof.Machine
end

