-- ==== Sys2Proof/Machine/Vector.lean ====
section
/-!
DEFINITION. What the instructions of slot S4 compute (05 R139–R169): a result from the vector registers, `VDEC` and the
captured operands, with the status it sets; or the fault it raises at its start. When it starts and when its result
takes effect is in `Stream`.
-/

namespace Sys2Proof.Machine

/-- The lane width of a type (R139). -/
def tyWidth (t : BitVec 4) : Nat :=
  match t.toNat with
  | 0 | 1 | 2 => 32
  | 3 | 4 | 5 | 6 => 16
  | _ => 8

/-- The float or fp8 format of a type (R139). -/
def tyFmt (t : BitVec 4) : Option Fmt :=
  match t.toNat with
  | 0 => some fp32
  | 3 => some bf16
  | 4 => some fp16
  | 9 => some e4m3
  | 10 => some e5m2
  | _ => none

/-- Whether an integer type is signed (R139). -/
def tySigned (t : BitVec 4) : Bool := t == 1 || t == 5 || t == 7

/-- The lanes of a type in a column (R139). -/
def lanesPerCol (t : BitVec 4) : Nat := 32 / tyWidth t

/-- The lanes of a type in a register (R139). -/
def laneCount (t : BitVec 4) : Nat := 1024 * lanesPerCol t

/-- Lane `k` of a column, the lanes packed low first (R139). -/
def colLane (w : Nat) (x : W32) (k : Nat) : Nat := x.toNat / 2 ^ (w * k) % 2 ^ w

/-- A column of lanes, low first. -/
def packCol (w : Nat) (ls : List Nat) : W32 := BitVec.ofNat 32 (ls.foldr (fun l n => l % 2 ^ w + 2 ^ w * n) 0)

/-- A column with one lane replaced. -/
def setColLane (w : Nat) (x : W32) (k v : Nat) : W32 :=
  packCol w ((List.range (32 / w)).map fun i => if i = k then v else colLane w x i)

/-- The columns of a vector register. -/
abbrev VReg := Map W32

def Ctx.vreg (c : Ctx) (v : Spec) : VReg := mget [] v.toNat c.v

/-- Column (row, j) of a register. -/
def VReg.col (r : VReg) (row j : Nat) : W32 := mget 0 (64 * row + j) r

/-- The lane of an index (R139). -/
def VReg.lane (r : VReg) (t : BitVec 4) (l : Nat) : Nat :=
  colLane (tyWidth t) (mget 0 (l / lanesPerCol t) r) (l % lanesPerCol t)

/-- What an S4 op computes: a named register's value, or a vector register; the status; and `VDEC` where it writes it. -/
structure VRes where
  word : Word := 0
  vec : VReg := []
  status : Status := stNone
  vdec : Option (BitVec 2048) := none
  deriving DecidableEq, Repr

/-- A register from a value and a status for each of its 1,024 columns. -/
def buildCols (f : Nat → W32 × Status) : VRes :=
  let rs := (List.range 1024).map fun k => (k, f k)
  { vec := rs.filterMap fun p => if p.2.1 = 0 then none else some (p.1, p.2.1)
    status := rs.foldl (fun st p => st ||| p.2.2) stNone }

/-- A register from its columns, without status. -/
def buildPure (f : Nat → W32) : VRes := buildCols fun k => (f k, stNone)

/-- A column from its lanes with their status. -/
def packSt (w : Nat) (ls : List (Nat × Status)) : W32 × Status :=
  (packCol w (ls.map Prod.fst), ls.foldl (fun st p => st ||| p.2) stNone)

/-- An op lane by lane on two registers. -/
def lanes2 (t : BitVec 4) (a b : VReg) (f : Nat → Nat → Nat × Status) : VRes :=
  let w := tyWidth t
  buildCols fun k =>
    packSt w ((List.range (32 / w)).map fun i => f (colLane w (mget 0 k a) i) (colLane w (mget 0 k b) i))

/-- An op lane by lane on three registers. -/
def lanes3 (t : BitVec 4) (a b d : VReg) (f : Nat → Nat → Nat → Nat × Status) : VRes :=
  let w := tyWidth t
  buildCols fun k =>
    packSt w ((List.range (32 / w)).map fun i =>
      f (colLane w (mget 0 k a) i) (colLane w (mget 0 k b) i) (colLane w (mget 0 k d) i))

/-- An op lane by lane on one register. -/
def lanes1 (t : BitVec 4) (a : VReg) (f : Nat → Nat × Status) : VRes := lanes2 t a a fun x _ => f x

/-- An exact integer delivered in a type: wrapped, or saturated with `SAT` (R126, R150). -/
def deliverInt (t : BitVec 4) (sat : Bool) (x : Int) : Nat × Status :=
  let w := tyWidth t
  let s := tySigned t
  if sat && x < intMin s w then (wrapInt w (intMin s w), stSAT)
  else if sat && intMax s w < x then (wrapInt w (intMax s w), stSAT)
  else (wrapInt w x, stNone)

/-- A lane read as its integer type. -/
def laneInt (t : BitVec 4) (x : Nat) : Int := readInt (tySigned t) (tyWidth t) x

/-- Whether rm asks for saturation in an integer op (R30). -/
def satOf (rm : BitVec 2) : Bool := rm.getLsbD 0

/-- A lane op of two operands: by format for float types, exact and delivered for integer types (R150). -/
def arith2 (t : BitVec 4) (sat : Bool) (ff : Fmt → Nat → Nat → Nat × Status) (fi : Int → Int → Int) (a b : Nat) :
    Nat × Status :=
  match tyFmt t with
  | some f => ff f a b
  | none => deliverInt t sat (fi (laneInt t a) (laneInt t b))

/-- The order of two integer lanes. -/
def laneLe (t : BitVec 4) (a b : Nat) : Bool := laneInt t a ≤ laneInt t b

/-- `VMIN` and `VMAX` on a lane (R150). -/
def laneMin (t : BitVec 4) (a b : Nat) : Nat × Status :=
  match tyFmt t with
  | some f => f.min a b
  | none => (if laneLe t a b then a else b, stNone)
def laneMax (t : BitVec 4) (a b : Nat) : Nat × Status :=
  match tyFmt t with
  | some f => f.max a b
  | none => (if laneLe t a b then b else a, stNone)

/-- `VCMP` on a lane (R152). -/
def laneCmp (t : BitVec 4) (cond : BitVec 2) (a b : Nat) : Nat × Status :=
  let (r, st) := match tyFmt t with
    | some f => f.cmp (cond.setWidth 3) a b
    | none =>
      (match cond.toNat with
       | 0 => laneInt t a == laneInt t b
       | 1 => laneInt t a != laneInt t b
       | 2 => !laneLe t b a
       | _ => laneLe t a b, stNone)
  (if r then 2 ^ tyWidth t - 1 else 0, st)

/-- The shifts of a lane by an unsigned amount (R151). -/
def laneShl (w a n : Nat) : Nat := if w ≤ n then 0 else a * 2 ^ n % 2 ^ w
def laneShr (w a n : Nat) : Nat := if w ≤ n then 0 else a / 2 ^ n
def laneSar (w a n : Nat) : Nat := wrapInt w (readInt true w a / (2 : Int) ^ (if w ≤ n then w else n))

/-- One level of a reduction: neighbouring values combined (R135). -/
def pairUp (f : Nat → Nat → Nat × Status) : List (Nat × Status) → List (Nat × Status)
  | a :: b :: t => ((f a.1 b.1).1, (f a.1 b.1).2 ||| a.2 ||| b.2) :: pairUp f t
  | l => l

/-- The tree of R135 with `n` levels. -/
def reduceTree (f : Nat → Nat → Nat × Status) : Nat → List (Nat × Status) → Nat × Status
  | 0, l => l.headD (0, stNone)
  | n + 1, l => reduceTree f n (pairUp f l)

/-- The combining operation of a reduction (R161). -/
def reduceOp (t : BitVec 4) (sat : Bool) (kind : BitVec 2) : Nat → Nat → Nat × Status :=
  match kind.toNat with
  | 0 => arith2 t sat (fun f => f.add .rne) (· + ·)
  | 1 => laneMax t
  | _ => laneMin t

/-- A register whose every lane position of a row takes the row's reduction (R161). -/
def reduceRows (t : BitVec 4) (f : Nat → Nat → Nat × Status) (a : VReg) : VRes :=
  let w := tyWidth t
  let rows := (List.range 16).map fun i =>
    packSt w ((List.range (32 / w)).map fun k =>
      reduceTree f 6 ((List.range 64).map fun j => (colLane w (a.col i j) k, stNone)))
  buildCols fun k => rows.getD (k / 64) (0, stNone)

/-- A register whose every lane position of a column takes the column's reduction (R161). -/
def reduceCols (t : BitVec 4) (f : Nat → Nat → Nat × Status) (a : VReg) : VRes :=
  let w := tyWidth t
  let cols := (List.range 64).map fun j =>
    packSt w ((List.range (32 / w)).map fun k =>
      reduceTree f 4 ((List.range 16).map fun i => (colLane w (a.col i j) k, stNone)))
  buildCols fun k => cols.getD (k % 64) (0, stNone)

/-- The conversion of one lane (R163). -/
def laneCvt (src dst : BitVec 4) (rm : BitVec 2) (x : Nat) : Nat × Status :=
  match tyFmt src, tyFmt dst with
  | some f, some g => convert f g (rmOf rm) x
  | none, some g => g.ofInt (rmOf rm) (laneInt src x)
  | some f, none =>
    let (y, st) := (f.decode x).toInt (rmOf rm) (tySigned dst) (tyWidth dst)
    (wrapInt (tyWidth dst) y, st)
  | none, none => deliverInt dst (satOf rm) (laneInt src x)

/-- `VEXP2`: T[j] = RNE(2^(j/64)) (R166). -/
def tabExp2 : List Nat :=
  [0x3f800000, 0x3f8164d2, 0x3f82cd87, 0x3f843a29, 0x3f85aac3, 0x3f871f62, 0x3f88980f, 0x3f8a14d5, 0x3f8b95c2, 0x3f8d1adf, 0x3f8ea43a, 0x3f9031dc, 0x3f91c3d3, 0x3f935a2b, 0x3f94f4f0, 0x3f96942d] ++
  [0x3f9837f0, 0x3f99e046, 0x3f9b8d3a, 0x3f9d3eda, 0x3f9ef532, 0x3fa0b051, 0x3fa27043, 0x3fa43516, 0x3fa5fed7, 0x3fa7cd94, 0x3fa9a15b, 0x3fab7a3a, 0x3fad583f, 0x3faf3b79, 0x3fb123f6, 0x3fb311c4] ++
  [0x3fb504f3, 0x3fb6fd92, 0x3fb8fbaf, 0x3fbaff5b, 0x3fbd08a4, 0x3fbf179a, 0x3fc12c4d, 0x3fc346cd, 0x3fc5672a, 0x3fc78d75, 0x3fc9b9be, 0x3fcbec15, 0x3fce248c, 0x3fd06334, 0x3fd2a81e, 0x3fd4f35b] ++
  [0x3fd744fd, 0x3fd99d16, 0x3fdbfbb8, 0x3fde60f5, 0x3fe0ccdf, 0x3fe33f89, 0x3fe5b907, 0x3fe8396a, 0x3feac0c7, 0x3fed4f30, 0x3fefe4ba, 0x3ff28177, 0x3ff5257d, 0x3ff7d0df, 0x3ffa83b3, 0x3ffd3e0c]

/-- `VLOG2`: Rt[j] = RNE(1 / (1 + j/64)) (R167). -/
def tabLogR : List Nat :=
  [0x3f800000, 0x3f7c0fc1, 0x3f783e10, 0x3f74898d, 0x3f70f0f1, 0x3f6d7304, 0x3f6a0ea1, 0x3f66c2b4, 0x3f638e39, 0x3f607038, 0x3f5d67c9, 0x3f5a740e, 0x3f579436, 0x3f54c77b, 0x3f520d21, 0x3f4f6475] ++
  [0x3f4ccccd, 0x3f4a4588, 0x3f47ce0c, 0x3f4565c8, 0x3f430c31, 0x3f40c0c1, 0x3f3e82fa, 0x3f3c5264, 0x3f3a2e8c, 0x3f381703, 0x3f360b61, 0x3f340b41, 0x3f321643, 0x3f302c0b, 0x3f2e4c41, 0x3f2c7692] ++
  [0x3f2aaaab, 0x3f28e83f, 0x3f272f05, 0x3f257eb5, 0x3f23d70a, 0x3f2237c3, 0x3f20a0a1, 0x3f1f1166, 0x3f1d89d9, 0x3f1c09c1, 0x3f1a90e8, 0x3f191f1a, 0x3f17b426, 0x3f164fda, 0x3f14f209, 0x3f139a86] ++
  [0x3f124925, 0x3f10fdbc, 0x3f0fb824, 0x3f0e7835, 0x3f0d3dcb, 0x3f0c08c1, 0x3f0ad8f3, 0x3f09ae41, 0x3f088889, 0x3f0767ab, 0x3f064b8a, 0x3f053408, 0x3f042108, 0x3f03126f, 0x3f020821, 0x3f010204]

/-- `VLOG2`: Lt[j] = RNE(−log2(Rt[j])) (R167). -/
def tabLogL : List Nat :=
  [0x0, 0x3cb73cb3, 0x3d35d690, 0x3d8759c9, 0x3db31fb7, 0x3dde420e, 0x3e0462c4, 0x3e195751, 0x3e2e00d1, 0x3e42615f, 0x3e567aef, 0x3e6a4f70, 0x3e7de0b5, 0x3e88983f, 0x3e92203d, 0x3e9b8925] ++
  [0x3ea4d3c2, 0x3eae00d1, 0x3eb71110, 0x3ec0052d, 0x3ec8ddd3, 0x3ed19baf, 0x3eda3f60, 0x3ee2c97e, 0x3eeb3a9e, 0x3ef39355, 0x3efbd42a, 0x3f01fed4, 0x3f060828, 0x3f0a0650, 0x3f0df98a, 0x3f11e20e] ++
  [0x3f15c01a, 0x3f1993e4, 0x3f1d5da0, 0x3f211d84, 0x3f24d3c3, 0x3f28808d, 0x3f2c2410, 0x3f2fbe7f, 0x3f335004, 0x3f36d8ca, 0x3f3a58fe, 0x3f3dd0c9, 0x3f41404e, 0x3f44a7bb, 0x3f480731, 0x3f4b5ed6] ++
  [0x3f4eaecf, 0x3f51f740, 0x3f553847, 0x3f58720a, 0x3f5ba4a5, 0x3f5ed038, 0x3f61f4e5, 0x3f6512c6, 0x3f6829fa, 0x3f6b3aa0, 0x3f6e44cf, 0x3f7148a2, 0x3f744636, 0x3f773da2, 0x3f7a2f03, 0x3f7d1a71]

/-- `VRCP`: Rt[j] = RNE(1 / (1 + (2j + 1)/128)) (R168). -/
def tabRcp : List Nat :=
  [0x3f7e03f8, 0x3f7a232d, 0x3f76603e, 0x3f72b9d6, 0x3f6f2eb7, 0x3f6bbdb3, 0x3f6865ac, 0x3f652598, 0x3f61fc78, 0x3f5ee95c, 0x3f5beb62, 0x3f5901b2, 0x3f562b81, 0x3f53680d, 0x3f50b6a0, 0x3f4e168a] ++
  [0x3f4b8728, 0x3f4907da, 0x3f46980c, 0x3f443730, 0x3f41e4bc, 0x3f3fa030, 0x3f3d6910, 0x3f3b3ee7, 0x3f392144, 0x3f370fbb, 0x3f3509e7, 0x3f330f63, 0x3f311fd4, 0x3f2f3ade, 0x3f2d602b, 0x3f2b8f6a] ++
  [0x3f29c84a, 0x3f280a81, 0x3f2655c4, 0x3f24a9cf, 0x3f23065e, 0x3f216b31, 0x3f1fd80a, 0x3f1e4cad, 0x3f1cc8e1, 0x3f1b4c70, 0x3f19d723, 0x3f1868c8, 0x3f17012e, 0x3f15a025, 0x3f144581, 0x3f12f114] ++
  [0x3f11a2b4, 0x3f105a38, 0x3f0f177a, 0x3f0dda52, 0x3f0ca29c, 0x3f0b7034, 0x3f0a42f8, 0x3f091ac7, 0x3f07f781, 0x3f06d905, 0x3f05bf37, 0x3f04a9fa, 0x3f039930, 0x3f028cc0, 0x3f01848e, 0x3f008081]

/-- `VRSQ`: Rt[j] = RNE(1 / sqrt(cj)) (R169). -/
def tabRsq : List Nat :=
  [0x3f7e05ec, 0x3f7a33f9, 0x3f768cdc, 0x3f730d8a, 0x3f6fb345, 0x3f6c7b90, 0x3f69642a, 0x3f666b02, 0x3f638e39, 0x3f60cc16, 0x3f5e2305, 0x3f5b9193, 0x3f59166b, 0x3f56b051, 0x3f545e22, 0x3f521ed0] ++
  [0x3f4ff162, 0x3f4dd4ed, 0x3f4bc89b, 0x3f49cba2, 0x3f47dd45, 0x3f45fcd6, 0x3f4429af, 0x3f426337, 0x3f40a8de, 0x3f3efa1c, 0x3f3d5671, 0x3f3bbd67, 0x3f3a2e8c, 0x3f38a975, 0x3f372dbf, 0x3f35bb09] ++
  [0x3f339f19, 0x3f30eb96, 0x3f2e565c, 0x3f2bdd46, 0x3f297e62, 0x3f2737f0, 0x3f250855, 0x3f22ee1d, 0x3f20e7f5, 0x3f1ef4a4, 0x3f1d130e, 0x3f1b422c, 0x3f19810c, 0x3f17ced0, 0x3f162aa9, 0x3f1493d9] ++
  [0x3f1309af, 0x3f118b87, 0x3f1018c6, 0x3f0eb0e0, 0x3f0d534f, 0x3f0bff97, 0x3f0ab544, 0x3f0973e8, 0x3f083b1e, 0x3f070a87, 0x3f05e1c7, 0x3f04c08b, 0x3f03a682, 0x3f029362, 0x3f0186e2, 0x3f0080c1]

/-- The value of an FP32 encoding that is finite. -/
def f32 (x : Nat) : Dy := match fp32.decode x with | .fin n m e => dyOf n m e | _ => ⟨0, 0⟩

/-- fma of R164: one rounding to nearest even. -/
def fma32 (a b c : Dy) : Dy := rne32 ((a.mul b).add c)

/-- A product of R164. -/
def mul32 (a b : Dy) : Dy := rne32 (a.mul b)

/-- final(v) of R164: the exact value rounded once. -/
def final32 (v : Dy) : Nat × Status := fp32.roundDy .rne false v

/-- v · 2^k. -/
def Dy.scale (v : Dy) (k : Int) : Dy := ⟨v.m, v.e + k⟩

/-- The nearest integer to a dyadic, ties to even. -/
def nearestInt (d : Dy) : Int :=
  let r : Int := (roundAt .rne (d.m < 0) d.m.natAbs d.e 0).1
  if d.m < 0 then -r else r

/-- The algorithm of R166. -/
def exp2Alg (x : Dy) : Nat × Status :=
  let k := nearestInt (x.scale 6)
  let m := k / 64
  let j := (k - 64 * m).toNat
  let r := x.add ⟨-k, -6⟩
  let p := fma32 (f32 0x3d635847) r (f32 0x3e75fdf0)
  let p := fma32 p r (f32 0x3f317218)
  let p := mul32 p r
  let t := f32 (tabExp2.getD j 0)
  final32 ((t.add (t.mul p)).scale m)

/-- The exponent and the 24-bit significand of a positive finite value, subnormals normalised (R165). -/
def normalise (m : Nat) (e : Int) : Int × Nat := ((Nat.log2 m : Int) + e, m * 2 ^ (23 - Nat.log2 m))

/-- The algorithm of R167, for 2^e · m with significand `sig`. -/
def log2Alg (e : Int) (sig : Nat) : Nat × Status :=
  let j0 := (sig - 2 ^ 23 + 2 ^ 16) / 2 ^ 17
  let top := j0 == 64
  let e := if top then e + 1 else e
  let m : Dy := ⟨sig, if top then -24 else -23⟩
  let j := if top then 0 else j0
  let t := fma32 m (f32 (tabLogR.getD j 0)) ⟨-1, 0⟩
  let p := fma32 (f32 0x3ef6384f) t (f32 0xbf38aa3b)
  let p := fma32 p t (f32 0x3fb8aa3b)
  let p := mul32 p t
  final32 ((Dy.add ⟨e, 0⟩ (f32 (tabLogL.getD j 0))).add p)

/-- The algorithm of R168. -/
def rcpAlg (e : Int) (sig : Nat) : Nat × Status :=
  let f := sig - 2 ^ 23
  if f = 0 then final32 ⟨1, -e⟩
  else
    let rt := f32 (tabRcp.getD (f / 2 ^ 17) 0)
    let t := fma32 ⟨-(sig : Int), -23⟩ rt ⟨1, 0⟩
    let q := rne32 (Dy.add ⟨1, 0⟩ t)
    let q := fma32 q t ⟨1, 0⟩
    let q := mul32 q t
    final32 ((rt.add (rt.mul q)).scale (-e))

/-- The algorithm of R169. -/
def rsqAlg (e : Int) (sig : Nat) : Nat × Status :=
  let f := sig - 2 ^ 23
  let odd := e % 2 == 1
  if f = 0 && !odd then final32 ⟨1, -(e / 2)⟩
  else
    let j := if odd then 32 + f / 2 ^ 18 else f / 2 ^ 18
    let m : Dy := ⟨sig, if odd then -22 else -23⟩
    let e := if odd then e - 1 else e
    let rt := f32 (tabRsq.getD j 0)
    let u := mul32 m rt
    let t := fma32 u rt ⟨-1, 0⟩
    let q := fma32 ⟨-5, -4⟩ t ⟨3, -3⟩
    let q := fma32 q t ⟨-1, -1⟩
    let q := mul32 q t
    final32 ((rt.add (rt.mul q)).scale (-(e / 2)))

/-- `VEXP2` of a lane (R165, R166). -/
def laneExp2 (x : Nat) : Nat × Status :=
  match fp32.decode x with
  | .nan s => fp32.nanRes s
  | .inf n => (if n then 0 else fp32.inf false, stNone)
  | .fin n m e =>
    let d := dyOf n m e
    if m = 0 then (0x3F800000, stNone)
    else if Dy.le ⟨128, 0⟩ d then (fp32.inf false, stOF ||| stIX)
    else if d.lt ⟨-160, 0⟩ then (0, stUF ||| stIX)
    else exp2Alg d

/-- `VLOG2` of a lane (R165, R167). -/
def laneLog2 (x : Nat) : Nat × Status :=
  match fp32.decode x with
  | .nan s => fp32.nanRes s
  | .inf n => if n then fp32.nanRes true else (fp32.inf false, stNone)
  | .fin n m e =>
    if m = 0 then (fp32.inf true, stDZ)
    else if n then fp32.nanRes true
    else log2Alg (normalise m e).1 (normalise m e).2

/-- `VRCP` of a lane (R165, R168). -/
def laneRcp (x : Nat) : Nat × Status :=
  match fp32.decode x with
  | .nan s => fp32.nanRes s
  | .inf n => (fp32.signed n 0, stNone)
  | .fin n m e =>
    if m = 0 then (fp32.inf n, stDZ)
    else
      let (r, st) := rcpAlg (normalise m e).1 (normalise m e).2
      (fp32.signed n r, st)

/-- `VRSQ` of a lane (R165, R169). -/
def laneRsq (x : Nat) : Nat × Status :=
  match fp32.decode x with
  | .nan s => fp32.nanRes s
  | .inf n => if n then fp32.nanRes true else (0, stNone)
  | .fin n m e =>
    if m = 0 then (fp32.inf n, stDZ)
    else if n then fp32.nanRes true
    else rsqAlg (normalise m e).1 (normalise m e).2

/-- The streaming fault of an operand out of range (R155, R160). -/
def vecRange (v : Word) : Trap := { cause := 0x04, slot := 4, info1 := v }

/-- Captured operand `k` of an entry. -/
def cap (vals : List Word) (k : Nat) : Word := vals.getD k 0


/-- VADD (R150): Elementwise add. -/
def vaddRes (_vd va vb : Spec) (ty : BitVec 4) (rm : BitVec 2) (c : Ctx) (_vals : List Word) : Except Trap VRes :=
  .ok (lanes2 ty (c.vreg va) (c.vreg vb) (arith2 ty (satOf rm) (fun f => f.add (rmOf rm)) (fun x y => x + y)))

/-- VSUB (R150): Elementwise subtract. -/
def vsubRes (_vd va vb : Spec) (ty : BitVec 4) (rm : BitVec 2) (c : Ctx) (_vals : List Word) : Except Trap VRes :=
  .ok (lanes2 ty (c.vreg va) (c.vreg vb) (arith2 ty (satOf rm) (fun f => f.sub (rmOf rm)) (fun x y => x - y)))

/-- VMUL (R150): Elementwise multiply. -/
def vmulRes (_vd va vb : Spec) (ty : BitVec 4) (rm : BitVec 2) (c : Ctx) (_vals : List Word) : Except Trap VRes :=
  .ok (lanes2 ty (c.vreg va) (c.vreg vb) (arith2 ty (satOf rm) (fun f => f.mul (rmOf rm)) (fun x y => x * y)))

/-- VFMA (R150): Elementwise fused multiply-add into vd. -/
def vfmaRes (vd va vb : Spec) (ty : BitVec 4) (rm : BitVec 2) (c : Ctx) (_vals : List Word) : Except Trap VRes :=
  .ok (lanes3 ty (c.vreg va) (c.vreg vb) (c.vreg vd) fun x y z =>
    match tyFmt ty with
    | some f => f.fma (rmOf rm) x y z
    | none => deliverInt ty (satOf rm) (laneInt ty x * laneInt ty y + laneInt ty z))

/-- VMIN (R150): Elementwise minimum. -/
def vminRes (_vd va vb : Spec) (ty : BitVec 4) (c : Ctx) (_vals : List Word) : Except Trap VRes :=
  .ok (lanes2 ty (c.vreg va) (c.vreg vb) (laneMin ty))

/-- VMAX (R150): Elementwise maximum. -/
def vmaxRes (_vd va vb : Spec) (ty : BitVec 4) (c : Ctx) (_vals : List Word) : Except Trap VRes :=
  .ok (lanes2 ty (c.vreg va) (c.vreg vb) (laneMax ty))

/-- VABS (R150): Elementwise absolute value. -/
def vabsRes (_vd va : Spec) (ty : BitVec 4) (rm : BitVec 2) (c : Ctx) (_vals : List Word) : Except Trap VRes :=
  .ok (lanes1 ty (c.vreg va) fun x =>
    match tyFmt ty with
    | some f => (f.abs x, stNone)
    | none => deliverInt ty (satOf rm) (laneInt ty x).natAbs)

/-- VNEG (R150): Elementwise negation. -/
def vnegRes (_vd va : Spec) (ty : BitVec 4) (rm : BitVec 2) (c : Ctx) (_vals : List Word) : Except Trap VRes :=
  .ok (lanes1 ty (c.vreg va) fun x =>
    match tyFmt ty with
    | some f => (f.negate x, stNone)
    | none => deliverInt ty (satOf rm) (-(laneInt ty x)))

/-- VADDS (R150): Elementwise halved sum. -/
def vaddsRes (_vd va vb : Spec) (ty : BitVec 4) (rm : BitVec 2) (c : Ctx) (_vals : List Word) : Except Trap VRes :=
  .ok (lanes2 ty (c.vreg va) (c.vreg vb) (arith2 ty (false) (fun f => f.addHalf (rmOf rm)) (fun x y => (x + y) / 2)))

/-- VSUBS (R150): Elementwise halved difference. -/
def vsubsRes (_vd va vb : Spec) (ty : BitVec 4) (rm : BitVec 2) (c : Ctx) (_vals : List Word) : Except Trap VRes :=
  .ok (lanes2 ty (c.vreg va) (c.vreg vb) (arith2 ty (false) (fun f => f.subHalf (rmOf rm)) (fun x y => (x - y) / 2)))

/-- VMULH (R150): Elementwise high half of an integer product. -/
def vmulhRes (_vd va vb : Spec) (ty : BitVec 4) (c : Ctx) (_vals : List Word) : Except Trap VRes :=
  .ok (lanes2 ty (c.vreg va) (c.vreg vb) fun x y => (wrapInt (tyWidth ty) (laneInt ty x * laneInt ty y / (2 : Int) ^ tyWidth ty), stNone))

/-- VAND (R151): Bitwise AND of registers. -/
def vandRes (_vd va vb : Spec) (_ty : BitVec 4) (c : Ctx) (_vals : List Word) : Except Trap VRes :=
  .ok (buildPure fun k => mget 0 k (c.vreg va) &&& mget 0 k (c.vreg vb))

/-- VOR (R151): Bitwise OR of registers. -/
def vorRes (_vd va vb : Spec) (_ty : BitVec 4) (c : Ctx) (_vals : List Word) : Except Trap VRes :=
  .ok (buildPure fun k => mget 0 k (c.vreg va) ||| mget 0 k (c.vreg vb))

/-- VXOR (R151): Bitwise XOR of registers. -/
def vxorRes (_vd va vb : Spec) (_ty : BitVec 4) (c : Ctx) (_vals : List Word) : Except Trap VRes :=
  .ok (buildPure fun k => mget 0 k (c.vreg va) ^^^ mget 0 k (c.vreg vb))

/-- VSHL (R151): Per-lane shift left. -/
def vshlRes (_vd va vb : Spec) (ty : BitVec 4) (c : Ctx) (_vals : List Word) : Except Trap VRes :=
  .ok (lanes2 ty (c.vreg va) (c.vreg vb) fun x n => (laneShl (tyWidth ty) x n, stNone))

/-- VSHR (R151): Per-lane logical shift right. -/
def vshrRes (_vd va vb : Spec) (ty : BitVec 4) (c : Ctx) (_vals : List Word) : Except Trap VRes :=
  .ok (lanes2 ty (c.vreg va) (c.vreg vb) fun x n => (laneShr (tyWidth ty) x n, stNone))

/-- VSAR (R151): Per-lane arithmetic shift right. -/
def vsarRes (_vd va vb : Spec) (ty : BitVec 4) (c : Ctx) (_vals : List Word) : Except Trap VRes :=
  .ok (lanes2 ty (c.vreg va) (c.vreg vb) fun x n => (laneSar (tyWidth ty) x n, stNone))

/-- VCMP (R152): Per-lane compare writing all ones or zeros. -/
def vcmpRes (_vd va vb : Spec) (ty : BitVec 4) (cond : BitVec 2) (c : Ctx) (_vals : List Word) : Except Trap VRes :=
  .ok (lanes2 ty (c.vreg va) (c.vreg vb) (laneCmp ty cond))

/-- VSEL (R153): Per-lane select by the sign bit of the old vd. -/
def vselRes (vd va vb : Spec) (ty : BitVec 4) (c : Ctx) (_vals : List Word) : Except Trap VRes :=
  .ok (lanes3 ty (c.vreg va) (c.vreg vb) (c.vreg vd) fun x y z => (if z / 2 ^ (tyWidth ty - 1) = 1 then x else y, stNone))

/-- VACS (R154): Add-compare-select on i16x2 lanes, writing VDEC. -/
def vacsRes (_vd va vb : Spec) (c : Ctx) (_vals : List Word) : Except Trap VRes :=
  let less := fun l => readInt true 16 ((c.vreg vb).lane 5 l) < readInt true 16 ((c.vreg va).lane 5 l)
  let r := lanes2 5 (c.vreg va) (c.vreg vb) fun x y => (if readInt true 16 y < readInt true 16 x then y else x, stNone)
  .ok { r with vdec := some (BitVec.ofNat 2048 ((List.range 2048).foldr (fun l n => (if less l then 1 else 0) + 2 * n) 0)) }

/-- VROTR (R156): Rotate columns within each row. -/
def vrotrRes (_vd va n : Spec) (c : Ctx) (vals : List Word) : Except Trap VRes :=
  let n := (cap vals 0).toNat % 64
  .ok (buildPure fun k => (c.vreg va).col (k / 64) ((k % 64 + 64 - n) % 64))

/-- VROTC (R156): Rotate rows within each column. -/
def vrotcRes (_vd va n : Spec) (c : Ctx) (vals : List Word) : Except Trap VRes :=
  let n := (cap vals 0).toNat % 16
  .ok (buildPure fun k => (c.vreg va).col ((k / 64 + 16 - n) % 16) (k % 64))

/-- VBCR (R156): Broadcast one row to all rows. -/
def vbcrRes (_vd va _n : Spec) (c : Ctx) (vals : List Word) : Except Trap VRes :=
  .ok (buildPure fun k => (c.vreg va).col ((cap vals 0).toNat % 16) (k % 64))

/-- VBCC (R156): Broadcast one column to all columns. -/
def vbccRes (_vd va _n : Spec) (c : Ctx) (vals : List Word) : Except Trap VRes :=
  .ok (buildPure fun k => (c.vreg va).col (k / 64) ((cap vals 0).toNat % 64))

/-- VREDR (R161): Reduce each row by a fixed tree. -/
def vredrRes (_vd va : Spec) (sat : Bool) (ty : BitVec 4) (kind : BitVec 2) (c : Ctx) (_vals : List Word) : Except Trap VRes :=
  .ok (reduceRows ty (reduceOp ty sat kind) (c.vreg va))

/-- VREDC (R161): Reduce each column by a fixed tree. -/
def vredcRes (_vd va : Spec) (sat : Bool) (ty : BitVec 4) (kind : BitVec 2) (c : Ctx) (_vals : List Word) : Except Trap VRes :=
  .ok (reduceCols ty (reduceOp ty sat kind) (c.vreg va))

/-- VSHUF (R157): Permute lanes within each row by index. -/
def vshufRes (_vd va vb : Spec) (ty : BitVec 4) (c : Ctx) (_vals : List Word) : Except Trap VRes :=
  let w := tyWidth ty
  let n := lanesPerCol ty
  .ok (buildPure fun k => packCol w ((List.range n).map fun i =>
    let p := (c.vreg vb).lane ty (k * n + i) % (64 * n)
    (c.vreg va).lane ty (k / 64 * (64 * n) + p)))

/-- VTRN (R158): Transpose the four 16 × 16 blocks. -/
def vtrnRes (_vd va : Spec) (c : Ctx) (_vals : List Word) : Except Trap VRes :=
  .ok (buildPure fun k => (c.vreg va).col (k % 16) (k % 64 / 16 * 16 + k / 64))

/-- VMOV (R159): Copy a vector register. -/
def vmovRes (_vd va : Spec) (c : Ctx) (_vals : List Word) : Except Trap VRes :=
  .ok (buildPure fun k => mget 0 k (c.vreg va))

/-- VSPLAT (R159): Copy a scalar bit pattern into every lane. -/
def vsplatRes (_vd _src : Spec) (ty : BitVec 4) (_c : Ctx) (vals : List Word) : Except Trap VRes :=
  .ok (buildPure fun _ => packCol (tyWidth ty) (List.replicate (lanesPerCol ty) (cap vals 0).toNat))

/-- VINS (R160): Write one lane of vd from a scalar. -/
def vinsRes (vd idx _src : Spec) (ty : BitVec 4) (c : Ctx) (vals : List Word) : Except Trap VRes :=
  let idx := cap vals 0
  if laneCount ty ≤ idx.toNat then .error (vecRange idx)
  else
    let l := idx.toNat
    .ok (buildPure fun k =>
      let x := mget 0 k (c.vreg vd)
      if k = l / lanesPerCol ty then setColLane (tyWidth ty) x (l % lanesPerCol ty) (cap vals 1).toNat else x)

/-- VEXT (R160): Extract one lane into a named register. -/
def vextRes (_d va idx : Spec) (ty : BitVec 4) (c : Ctx) (vals : List Word) : Except Trap VRes :=
  let idx := cap vals 0
  if laneCount ty ≤ idx.toNat then .error (vecRange idx)
  else .ok { word := BitVec.ofInt 64 (laneInt ty ((c.vreg va).lane ty idx.toNat)) }

/-- VIOTA (R159): Set each lane to its lane index. -/
def viotaRes (_vd : Spec) (ty : BitVec 4) (_c : Ctx) (_vals : List Word) : Except Trap VRes :=
  .ok (buildPure fun k => packCol (tyWidth ty) ((List.range (lanesPerCol ty)).map fun i =>
    let l := k * lanesPerCol ty + i
    match tyFmt ty with
    | some f => (f.ofInt .rne l).1
    | none => l))

/-- VCVT (R162): Convert lanes between types. -/
def vcvtRes (_vd va : Spec) (dst ty : BitVec 4) (rm : BitVec 2) (c : Ctx) (_vals : List Word) : Except Trap VRes :=
  .ok (buildCols fun k => packSt (tyWidth dst) ((List.range (lanesPerCol dst)).map fun i =>
    let l := k * lanesPerCol dst + i
    if l < laneCount ty then laneCvt ty dst rm ((c.vreg va).lane ty l) else (0, stNone)))

/-- VDECMV (R155): Move 64 decision bits of VDEC into a named register. -/
def vdecmvRes (_d row : Spec) (half : Bool) (c : Ctx) (vals : List Word) : Except Trap VRes :=
  let row := cap vals 0
  if 16 ≤ row.toNat then .error (vecRange row)
  else .ok { word := c.vdec.extractLsb' (128 * row.toNat + 64 * half.toNat) 64 }

/-- VEXP2 (R166): Per-lane base-2 exponential by the reference algorithm. -/
def vexp2Res (_vd va : Spec) (c : Ctx) (_vals : List Word) : Except Trap VRes :=
  .ok (lanes1 0 (c.vreg va) laneExp2)

/-- VLOG2 (R167): Per-lane base-2 logarithm by the reference algorithm. -/
def vlog2Res (_vd va : Spec) (c : Ctx) (_vals : List Word) : Except Trap VRes :=
  .ok (lanes1 0 (c.vreg va) laneLog2)

/-- VRCP (R168): Per-lane reciprocal by the reference algorithm. -/
def vrcpRes (_vd va : Spec) (c : Ctx) (_vals : List Word) : Except Trap VRes :=
  .ok (lanes1 0 (c.vreg va) laneRcp)

/-- VRSQ (R169): Per-lane reciprocal square root by the reference algorithm. -/
def vrsqRes (_vd va : Spec) (c : Ctx) (_vals : List Word) : Except Trap VRes :=
  .ok (lanes1 0 (c.vreg va) laneRsq)

/-- What an S4 instruction computes for a context and its captured operands. -/
def vecResult (i : Instr) (c : Ctx) (vals : List Word) : Except Trap VRes :=
  match i with
  | .vadd _ vd va vb ty rm => vaddRes vd va vb ty rm c vals
  | .vsub _ vd va vb ty rm => vsubRes vd va vb ty rm c vals
  | .vmul _ vd va vb ty rm => vmulRes vd va vb ty rm c vals
  | .vfma _ vd va vb ty rm => vfmaRes vd va vb ty rm c vals
  | .vmin _ vd va vb ty => vminRes vd va vb ty c vals
  | .vmax _ vd va vb ty => vmaxRes vd va vb ty c vals
  | .vabs _ vd va ty rm => vabsRes vd va ty rm c vals
  | .vneg _ vd va ty rm => vnegRes vd va ty rm c vals
  | .vadds _ vd va vb ty rm => vaddsRes vd va vb ty rm c vals
  | .vsubs _ vd va vb ty rm => vsubsRes vd va vb ty rm c vals
  | .vmulh _ vd va vb ty => vmulhRes vd va vb ty c vals
  | .vand _ vd va vb ty => vandRes vd va vb ty c vals
  | .vor _ vd va vb ty => vorRes vd va vb ty c vals
  | .vxor _ vd va vb ty => vxorRes vd va vb ty c vals
  | .vshl _ vd va vb ty => vshlRes vd va vb ty c vals
  | .vshr _ vd va vb ty => vshrRes vd va vb ty c vals
  | .vsar _ vd va vb ty => vsarRes vd va vb ty c vals
  | .vcmp _ vd va vb ty cond => vcmpRes vd va vb ty cond c vals
  | .vsel _ vd va vb ty => vselRes vd va vb ty c vals
  | .vacs _ vd va vb => vacsRes vd va vb c vals
  | .vrotr _ vd va n => vrotrRes vd va n c vals
  | .vrotc _ vd va n => vrotcRes vd va n c vals
  | .vbcr _ vd va n => vbcrRes vd va n c vals
  | .vbcc _ vd va n => vbccRes vd va n c vals
  | .vredr _ vd va sat ty kind => vredrRes vd va sat ty kind c vals
  | .vredc _ vd va sat ty kind => vredcRes vd va sat ty kind c vals
  | .vshuf _ vd va vb ty => vshufRes vd va vb ty c vals
  | .vtrn _ vd va => vtrnRes vd va c vals
  | .vmov _ vd va => vmovRes vd va c vals
  | .vsplat _ vd src ty => vsplatRes vd src ty c vals
  | .vins _ vd idx src ty => vinsRes vd idx src ty c vals
  | .vext _ d va idx ty => vextRes d va idx ty c vals
  | .viota _ vd ty => viotaRes vd ty c vals
  | .vcvt _ vd va dst ty rm => vcvtRes vd va dst ty rm c vals
  | .vdecmv _ d row half => vdecmvRes d row half c vals
  | .vexp2 _ vd va => vexp2Res vd va c vals
  | .vlog2 _ vd va => vlog2Res vd va c vals
  | .vrcp _ vd va => vrcpRes vd va c vals
  | .vrsq _ vd va => vrsqRes vd va c vals
  | _ => .ok {}

end Sys2Proof.Machine
end

