-- ==== Sys2Proof/Machine/EngFun.lean ====
section
/-!
DEFINITION. What the leased engines do with their commands (09 R266–R273, 08 R246–R248, R255, 15 R427): decompression, sort,
gather and scatter, softmax, hashing, reduction.
-/

namespace Sys2Proof.Machine

/-- Whether bytes of a descriptor from `a` up to `b` are zero. -/
def bytesZero (bs : List Byte) (a b : Nat) : Bool := ((bs.drop a).take (b - a)).all (· == 0)

/-- The command at the head of an engine's queue. -/
def State.engHead (s : State) (die eng : Nat) : Option (Nat × Command) :=
  let x := s.engine die eng
  if x.st != .leased then none
  else
    match x.queue with
    | [] => none
    | id :: _ => (s.cmd id).map fun c => (id, c)

/-- The command at the head of an engine's queue ends. -/
def State.endEng (s : State) (die eng id : Nat) (why : Option Nat) : State :=
  let x := s.engine die eng
  ((if why.isSome then s.failPeers id else s).setEngine die eng { x with queue := x.queue.drop 1 }).endCmd id
    (why.map fun w => (engKind eng, w))

/-- Whether a command is a `WSTR`. -/
def Command.isWstr (c : Command) : Bool := match c.entry.instr with | some (.wstr ..) => true | _ => false

/-- What a function of an engine gives: the state with its writes, its `RESULT` with the poison of the elements it counts (R266), and
an access that did not go through. -/
structure EngRes where
  s : State
  result : Word := 0
  poison : Bool := false
  err : Option EngErr := none

/-- Steps carried out from index `i` on while they succeed. -/
def engSteps (step : Nat → State → Except EngErr State) : Nat → Nat → State → EngRes
  | 0, _, s => { s := s }
  | n + 1, i, s =>
    match step i s with
    | .error (.fault w) => { s := w.getD s, err := some (.fault none) }
    | .error e => { s := s, err := some e }
    | .ok s => engSteps step n (i + 1) s

/-- A command run by its engine (R266): its descriptor read and checked, its function carried out. Where it fails, which
part of its output stands is free (assumption log 56). -/
def State.runEng (s : State) (die eng kind func : Nat) (body : Agent → List Byte → State → Option EngRes) :
    Host.Outcome State Fault Refusal :=
  match s.engHead die eng with
  | none => .next s
  | some (id, c) =>
    if c.isWstr || engKind eng != kind || c.begun || c.fail.isSome then .next s
    else
      let a := s.cmdAgent c .scratch
      let failed := fun (s : State) => s.endEng die eng id (some 2)
      match s.agentRead a c.descAddr1 128 with
      | .error .parked => .next (s.parkCmd id (failed s))
      | .error (.fault w) => .next (failed (w.getD s))
      | .error _ => .next s
      | .ok (s', bs, _) =>
        if bytesNum bs 0 1 != kind || bytesNum bs 1 1 != func then .next s
        else
          match (if bytesZero bs 2 8 && bytesNum bs 8 8 % 8 = 0 then body a bs s' else none) with
          | none => .next (failed s')
          | some r =>
            match r.err with
            | none => .next (r.s.updCmd id fun c => { c with begun := true, desc := bs, parked := none, result := some (r.result, r.poison) })
            | some .parked => .next (s.parkCmd id (failed s))
            | some (.fault w) =>
              let t := w.getD r.s
              .next (failed (if Config.freeNat s.tick % 2 = 0 then t
                else { t with mem := s'.mem, mpoison := s'.mpoison, clusters := s'.clusters }))
            | some _ => .next s

/-- Element `i` of an array of `n`-byte elements. -/
def arrayAddr (base i n : Nat) : Nat := (base + i * n) % 2 ^ 64

/-- Reads of `count` elements of `n` bytes from index `i` on. -/
def State.agentArray (a : Agent) (base n : Nat) : Nat → Nat → State → Except EngErr (State × List (Nat × Bool))
  | _, 0, s => .ok (s, [])
  | i, k + 1, s => do
    let (s, bs, p) ← s.agentRead a (arrayAddr base i n) n
    let (s, rest) ← State.agentArray a base n (i + 1) k s
    return (s, (natOfBytes bs, p) :: rest)

/-- The bits of bytes, lowest first. -/
def bitsOfBytes (bs : List Byte) : List Bool := bs.flatMap fun b => (List.range 8).map b.getLsbD

/-- The nibbles of bytes, lowest first. -/
def nibblesOf (bs : List Byte) : List Nat := bs.flatMap fun b => [b.toNat % 16, b.toNat / 16]

/-- Values laid out where their mask bits are set, zeros elsewhere (R247). -/
def expandMask : List Bool → List Nat → List Nat
  | [], _ => []
  | true :: ms, v :: vs => v :: expandMask ms vs
  | true :: ms, [] => 0 :: expandMask ms []
  | false :: ms, vs => 0 :: expandMask ms vs

/-- Pairs of nibbles as bytes. -/
def pairNibbles : List Nat → List Byte
  | a :: b :: l => BitVec.ofNat 8 (a + 16 * b) :: pairNibbles l
  | [a] => [BitVec.ofNat 8 a]
  | [] => []

/-- A row with its poison, and what is left of the stream. -/
abbrev RowOf := (List Byte × Bool) × List (Byte × Bool)

/-- Bytes taken off a stream; none where it ends. -/
def takeTags (n : Nat) (l : List (Byte × Bool)) : Option RowOf :=
  if l.length < n then none else some ((((l.take n).map Prod.fst), (l.take n).any Prod.snd), l.drop n)

/-- One block of a stream (R247): pass-through, byte sparse, nibble sparse. -/
def streamBlock (mode : Nat) (l : List (Byte × Bool)) : Option RowOf :=
  if mode = 0 then takeTags 128 l
  else
    match takeTags (16 * mode) l with
    | none => none
    | some ((m, p), l) =>
      let bits := bitsOfBytes m
      let k := (bits.filter id).length
      match takeTags (if mode = 1 then k else (k + 1) / 2) l with
      | none => none
      | some ((v, q), l) =>
        let row := if mode = 1 then (expandMask bits (v.map BitVec.toNat)).map (BitVec.ofNat 8) else pairNibbles (expandMask bits (nibblesOf v))
        some ((row, p || q), l)

/-- `n` blocks of a stream. -/
def streamBlocks (f : List (Byte × Bool) → Option RowOf) : Nat → List (Byte × Bool) → Option (List (List Byte × Bool) × List (Byte × Bool))
  | 0, l => some ([], l)
  | n + 1, l =>
    match f l with
    | none => none
    | some (r, l) =>
      match streamBlocks f n l with
      | none => none
      | some (rs, l) => some (r :: rs, l)

/-- The scale bytes of a row as they stand in a sparse stream (R247). -/
def streamScale (mode : Nat) (l : List (Byte × Bool)) : Option RowOf :=
  match takeTags (if mode = 1 then 4 else 8) l with
  | none => none
  | some ((bs, p), l) => some ((bs ++ List.replicate (8 - bs.length) 0, p), l)

/-- The groups of a stream: rows, scales, and what is left (R247). -/
def streamGroups (mode size : Nat) (mx : Bool) : Nat → List (Byte × Bool) →
    Option (List (List Byte × Bool) × List (List Byte × Bool) × List (Byte × Bool))
  | 0, l => some ([], [], l)
  | n + 1, l =>
    match streamBlocks (streamBlock mode) size l with
    | none => none
    | some (rs, l) =>
      match (if mx then streamBlocks (streamScale mode) size l else some (List.replicate size (List.replicate 8 0, false), l)) with
      | none => none
      | some (ss, l) =>
        match streamGroups mode size mx n l with
        | none => none
        | some (rs', ss', l) => some (rs ++ rs', ss ++ ss', l)

/-- A stream decoded into 128 rows and their scales (R247): none unless it is consumed exactly. -/
def decodeStream (mode : Nat) (mx : Bool) (l : List (Byte × Bool)) : Option (List ((List Byte × Bool) × (List Byte × Bool))) :=
  match streamGroups mode (if mode = 0 then 128 else 32) mx (if mode = 0 then 1 else 4) l with
  | some (rs, ss, []) => some (rs.zip ss)
  | _ => none

/-- The most bytes a stream can have. -/
def streamMax : Nat := 32768

/-- A weight stream read and decoded (R246, R247): its rows, or none where it fails; and whether it failed before any
row could be written. The poison of the descriptor is ignored (assumption log 109). -/
def State.readStream (s : State) (a : Agent) (sdesc : Nat) :
    Except EngErr (State × Option (List ((List Byte × Bool) × (List Byte × Bool))) × Nat × Bool) := do
  let (s, bs, _) ← s.agentRead a sdesc 64
  let ctl := bytesNum bs 16 4
  let len := bytesNum bs 8 8
  if 8 ≤ ctl || ctl % 4 = 3 || !bytesZero bs 20 64 then return (s, none, len, true)
  if streamMax < len then return (s, none, len, false)
  let (s, tags) ← State.agentReadTags a (lineParts (len + 1) (bytesNum bs 0 8) len) s
  return (s, decodeStream (ctl % 4) (ctl.testBit 2) tags, len, false)

/-- An earlier `WSTR` into the same half of the same core that has not ended (R248). -/
def State.earlierWstr (s : State) (id : Nat) (c : Command) : Bool :=
  s.cmds.any fun e =>
    e.1 < id && coreOf e.2.cx = coreOf c.cx && e.2.area.isNone &&
      (match e.2.entry.instr, c.entry.instr with
       | some (.wstr _ _ _ _ h), some (.wstr _ _ _ _ h') => h == h'
       | _, _ => false)

/-- A half of the weight buffer written whole (R176, R187, R248). -/
def MatArray.putHalf (a : MatArray) (h : Bool) (p : Plane) (pois : List Nat) (full : Bool) : MatArray :=
  if h then { a with wb1 := p, poisRows1 := pois, full1 := full } else { a with wb0 := p, poisRows0 := pois, full0 := full }

/-- Undefined contents of a half (R247). -/
def freePlane (t : Nat) : Plane :=
  (List.range 128).foldl (fun p n =>
    mset {} n
      { w := (List.range 128).map fun i => Config.freeByte t (136 * n + i)
        sc := (List.range 8).map fun i => Config.freeByte t (136 * n + 128 + i) } p) []

/-- WEIGHT_STREAM_WRITE (R248, R255, R299): the stream of the `WSTR` at the head of a DCX's queue, read at program level, into its
half once that is EMPTY. The half is written whole in this step, so that a `WSTR` that has not ended has written nothing: one that
fails on a read or loses its lease leaves the half as it was (assumption log 92), and one whose holder is saved begins again. A
stream that fails to decode may have begun writing an EMPTY half, which is then undefined (assumption log 56). -/
def execWeightStreamWrite (die eng : Nat) (s : State) : Host.Outcome State Fault Refusal :=
  match s.engHead die eng with
  | none => .next s
  | some (id, c) =>
    match c.entry.instr with
    | some (.wstr _ _ _ _ h) =>
      let k := coreOf c.cx
      let x := (s.core k).arr
      let empty := !(if h then x.full1 else x.full0)
      if c.area.isSome || s.earlierWstr id c then .next s
      else
        let failed := fun (s : State) => s.endEng die eng id (some 2)
        let a := s.cmdAgent c .scratch
        match s.readStream { a with sp := { a.sp with prog := true } } c.descAddr1 with
        | .error .parked => .next (s.parkCmd id (failed s))
        | .error (.fault w) => .next (failed (w.getD s))
        | .error _ => .next s
        | .ok (s', none, _, early) =>
          .next (failed (if early || !empty || Config.freeNat s.tick % 2 = 0 then s'
            else s'.updCore k fun y => { y with arr := y.arr.putHalf h (freePlane s.tick) [] false }))
        | .ok (s', some rows, _, _) =>
          if !empty then .next s
          else
            let p : Plane := (rows.zip (List.range 128)).foldl (fun p r => mset {} r.2 { w := r.1.1.1, sc := r.1.2.1 } p) []
            let pois := ((rows.zip (List.range 128)).filter fun r => r.1.1.2 || r.1.2.2).map Prod.snd
            let s' := if c.entry.ckpt then
                s'.updCtx c.cx fun y => { y with guard := y.guard.map fun g => { g with wstr := g.wstr ++ [(die, eng, c)] } }
              else s'
            .next ((s'.updCore k fun y => { y with arr := y.arr.putHalf h p pois true }).endEng die eng id none)
    | _ => .next s

/-- DCX_DECODE (R267): a stream decoded to memory in the layout of R176. -/
def dcxBody (a : Agent) (bs : List Byte) (s : State) : Option EngRes :=
  let dst := bytesNum bs 0x18 8
  if bytesNum bs 0x10 8 % 64 != 0 || dst % 64 != 0 || !bytesZero bs 0x20 0x80 then none
  else
    match s.readStream a (bytesNum bs 0x10 8) with
    | .error e => some { s := s, err := some e }
    | .ok (s', none, _, _) => some { s := s', err := some (.fault none) }
    | .ok (s', some rows, len, _) =>
      let step := fun (i : Nat) (s : State) =>
        if i < 128 then
          let r := (rows.getD i (([], false), ([], false))).1
          s.agentWrite a (arrayAddr dst i 128) r.1 r.2 false
        else
          let r := (rows.getD (i - 128) (([], false), ([], false))).2
          s.agentWrite a (arrayAddr (dst + 16384) (i - 128) 8) r.1 r.2 false
      let r := engSteps step 256 0 s'
      some { r with result := BitVec.ofNat 64 len }

def execDcxDecode (die eng : Nat) (s : State) : Host.Outcome State Fault Refusal := s.runEng die eng 0 0 dcxBody

/-- The size, format and sign of a sort key (R267). -/
def keySize (t : Nat) : Nat := if t ≤ 2 then 4 else if t ≤ 6 then 2 else 8
def keyFmt (t : Nat) : Option Fmt := if t = 0 then some fp32 else if t = 3 then some bf16 else if t = 4 then some fp16 else none

/-- A key's place in the total order (R268), and whether it is a NaN. -/
def keyRank (t x : Nat) : Int × Bool :=
  match keyFmt t with
  | some f =>
    if (f.decode x).isNan then ((2 : Int) ^ 64, true)
    else
      let h := 2 ^ (f.width - 1)
      if x < h then ((x : Int), false) else (-((x - h : Nat) : Int) - 1, false)
  | none => (readInt (t = 1 || t = 5 || t = 7) (8 * keySize t) x, false)

/-- A key put into a sorted list behind its equals. -/
def insertKey (desc : Bool) (x : Int × Nat × Nat) : List (Int × Nat × Nat) → List (Int × Nat × Nat)
  | [] => [x]
  | y :: ys => if (if desc then y.1 < x.1 else x.1 < y.1) then x :: y :: ys else y :: insertKey desc x ys

/-- SRT_SORT (R268). A poisoned key decides every place, so it poisons every output. -/
def srtBody (a : Agent) (bs : List Byte) (s : State) : Option EngRes :=
  let src := bytesNum bs 0x10 8
  let dst := bytesNum bs 0x18 8
  let idx := bytesNum bs 0x20 8
  let n := bytesNum bs 0x28 4
  let k := bytesNum bs 0x2C 4
  let t := bytesNum bs 0x30 1
  let z := keySize t
  if n < 1 || 2 ^ 24 < n || n < k || 8 < t || 1 < bytesNum bs 0x31 1 || !bytesZero bs 0x32 0x80 || src % z != 0 || dst % z != 0 ||
      idx % 4 != 0 then none
  else
    match State.agentArray a src z 0 n s with
    | .error e => some { s := s, err := some e }
    | .ok (s, keys) =>
      let ranked := (keys.zip (List.range n)).map fun p => ((keyRank t p.1.1).1, p.1.1, p.2)
      let sorted := ranked.foldl (fun l x => insertKey (bytesNum bs 0x31 1 = 1) x l) []
      let pois := keys.any Prod.snd
      let nans := (keys.filter fun p => (keyRank t p.1).2).length
      let step := fun (i : Nat) (s : State) => do
        let x := sorted.getD i (0, 0, 0)
        let s ← s.agentWrite a (arrayAddr dst i z) (bytesOfNat z x.2.1) pois false
        if idx = 0 then pure s else s.agentWrite a (arrayAddr idx i 4) (bytesOfNat 4 x.2.2) pois false
      some { engSteps step (if k = 0 then n else k) 0 s with result := BitVec.ofNat 64 nans, poison := pois }

def execSrtSort (die eng : Nat) (s : State) : Host.Outcome State Fault Refusal := s.runEng die eng 1 0 srtBody

/-- GSX (R269): gather, or scatter in ascending order. -/
def gsxBody (scatter : Bool) (a : Agent) (bs : List Byte) (s : State) : Option EngRes :=
  let src := bytesNum bs 0x10 8
  let dst := bytesNum bs 0x18 8
  let idx := bytesNum bs 0x20 8
  let n := bytesNum bs 0x28 4
  let z := bytesNum bs 0x2C 4
  let iz := bytesNum bs 0x30 1
  let limit := bytesNum bs 0x38 8
  let al := if z < 8 then z else 8
  let zok := z == 1 || z == 2 || z == 4 || (z % 8 == 0 && 8 ≤ z && z ≤ 4096)
  if n < 1 || 2 ^ 24 < n || !zok || (iz != 4 && iz != 8) || !bytesZero bs 0x31 0x38 || !bytesZero bs 0x40 0x80 || src % al != 0 ||
      dst % al != 0 || idx % iz != 0 then none
  else
    match State.agentArray a idx iz 0 n s with
    | .error e => some { s := s, err := some e }
    | .ok (s, ix) =>
      let step := fun (i : Nat) (s : State) => do
        let (j, p) := ix.getD i (0, false)
        if limit ≤ j then
          if scatter then pure s else s.agentWrite a (arrayAddr dst i z) (List.replicate z 0) p false
        else
          let (s, x, q) ← s.agentRead a (arrayAddr src (if scatter then i else j) z) z
          s.agentWrite a (arrayAddr dst (if scatter then j else i) z) x (p || q) false
      some { engSteps step n 0 s with result := BitVec.ofNat 64 (ix.filter fun p => limit ≤ p.1).length, poison := ix.any Prod.snd }

def execGsxGather (die eng : Nat) (s : State) : Host.Outcome State Fault Refusal := s.runEng die eng 2 0 (gsxBody false)
def execGsxScatter (die eng : Nat) (s : State) : Host.Outcome State Fault Refusal := s.runEng die eng 2 1 (gsxBody true)

/-- A quotient of finite values rounded once into a format (R270): 160 further bits and a sticky bit decide the rounding. -/
def divRound (f : Fmt) (x y : Dy) : Nat :=
  let n := x.m.natAbs * 2 ^ 160
  let d := y.m.natAbs
  (f.round .rne (decide (x.m < 0)) (2 * (n / d) + (if n % d = 0 then 0 else 1)) (x.e - y.e - 161)).1

/-- The pairwise tree of R135 on a power of two of leaves; `l` bounds its levels. -/
def sumTree : Nat → List Nat → Nat
  | 0, l => l.headD 0
  | n + 1, l =>
    match l with
    | [] => 0
    | [x] => x
    | l => sumTree n ((List.range (l.length / 2)).map fun j => (fp32.add .rne (l.getD (2 * j) 0) (l.getD (2 * j + 1) 0)).1)

/-- A row of a softmax (R270): its outputs in the output format, the pair of its statistics, and whether it is NaN. -/
def softmaxRow (scale : Nat) (o : Fmt) (xs : List Nat) : List Nat × (Nat × Nat) × Bool :=
  let bad := xs.any (fun x => (fp32.decode x).isNan || x == fp32.inf false) || xs.all (· == fp32.inf true)
  if bad then (xs.map fun _ => o.nan, (fp32.nan, fp32.nan), true)
  else
    let m := (xs.drop 1).foldl (fun m x => (fp32.max m x).1) (xs.headD 0)
    let ys := xs.map fun x => (laneExp2 (fp32.mul .rne (fp32.sub .rne x m).1 scale).1).1
    let lv := if xs.length ≤ 1 then 0 else Nat.log2 (xs.length - 1) + 1
    let sum := sumTree (lv + 1) (ys ++ List.replicate (2 ^ lv - ys.length) 0)
    (ys.map fun y => if y % 2 ^ 31 = 0 then 0 else divRound o (f32 y) (f32 sum), (m, sum), false)

/-- SMX_SOFTMAX (R270): row by row; a poisoned element poisons its row and its statistics. -/
def smxBody (a : Agent) (bs : List Byte) (s : State) : Option EngRes :=
  let src := bytesNum bs 0x10 8
  let dst := bytesNum bs 0x18 8
  let stats := bytesNum bs 0x20 8
  let rows := bytesNum bs 0x28 4
  let cols := bytesNum bs 0x2C 4
  let ss := bytesInt bs 0x30 8
  let ds := bytesInt bs 0x38 8
  let scale := bytesNum bs 0x40 4
  let it := bytesNum bs 0x44 1
  let ot := bytesNum bs 0x45 1
  let zi := if it = 0 then 4 else 2
  let zo := if ot = 0 then 4 else 2
  let f := if ot = 0 then fp32 else bf16
  if rows < 1 || 2 ^ 20 < rows || cols < 1 || 65536 < cols || (it != 0 && it != 3) || (ot != 0 && ot != 3) || scale < 0x00800000 ||
      0x7F800000 ≤ scale || stats % 8 != 0 || !bytesZero bs 0x46 0x80 || src % zi != 0 || ss % zi != 0 || dst % zo != 0 || ds % zo != 0 then
    none
  else
    let step := fun (r : Nat) (p : State × Nat × Bool) => do
      let (s, xs) ← State.agentArray a (wrap64 (src + r * ss)) zi 0 cols p.1
      let wide := xs.map fun (x : Nat × Bool) => if it = 0 then x.1 else x.1 * 65536
      let pois := xs.any Prod.snd
      let (out, (m, sum), nan) := softmaxRow scale f wide
      let w := engSteps (fun j s => s.agentWrite a (arrayAddr (wrap64 (dst + r * ds)) j zo) (bytesOfNat zo (out.getD j 0)) pois false) cols 0 s
      match w.err with
      | some e => throw e
      | none =>
        let s ← if stats = 0 then pure w.s
          else w.s.agentWrite a (arrayAddr stats r 8) (bytesOfNat 4 m ++ bytesOfNat 4 sum) pois false
        return (s, p.2.1 + nan.toNat, p.2.2 || pois)
    let done := (List.range rows).foldl (fun (acc : (State × Nat × Bool) × Option EngErr) r =>
      match acc.2 with
      | some _ => acc
      | none =>
        match step r acc.1 with
        | .ok p => (p, none)
        | .error e => (acc.1, some e)) ((s, 0, false), none)
    some { s := done.1.1, result := BitVec.ofNat 64 done.1.2.1, poison := done.1.2.2, err := done.2 }

def execSmxSoftmax (die eng : Nat) (s : State) : Host.Outcome State Fault Refusal := s.runEng die eng 3 0 smxBody

/-- HSH (R271). -/
def hshBody (sha : Bool) (a : Agent) (bs : List Byte) (s : State) : Option EngRes :=
  let src := bytesNum bs 0x10 8
  let len := bytesNum bs 0x18 8
  let dst := bytesNum bs 0x20 8
  if 2 ^ 40 < len || dst % (if sha then 32 else 4) != 0 || (sha && bytesNum bs 0x28 4 != 0) || !bytesZero bs 0x2C 0x80 then none
  else
    match s.agentRead a src len with
    | .error e => some { s := s, err := some e }
    | .ok (s', data, p) =>
      let out := if sha then sha3 data else bytesOfNat 4 (crc32c (BitVec.ofNat 32 (bytesNum bs 0x28 4)) data).toNat
      match s'.agentWrite a dst out p false with
      | .error e => some { s := s', err := some e }
      | .ok s' => some { s := s', result := BitVec.ofNat 64 len }

def execHshCrc32c (die eng : Nat) (s : State) : Host.Outcome State Fault Refusal := s.runEng die eng 4 0 (hshBody false)
def execHshSha3256 (die eng : Nat) (s : State) : Host.Outcome State Fault Refusal := s.runEng die eng 4 1 (hshBody true)

/-- The size and format of a reduction's elements (R267). -/
def redSize (t : Nat) : Nat := if t = 0 || t = 3 then 4 else if t = 4 then 8 else 2
def redFmt (t : Nat) : Option Fmt := if t = 0 then some fp32 else if t = 1 then some bf16 else if t = 2 then some fp16 else none

/-- A format's exact sum (R137, R272): rounded once into the format. -/
def exactSum (f : Fmt) (xs : List Nat) : Nat :=
  let vs := xs.map f.decode
  let pinf := vs.any fun v => match v with | .inf false => true | _ => false
  let ninf := vs.any fun v => match v with | .inf true => true | _ => false
  if vs.any Fv.isNan || (pinf && ninf) then f.nan
  else if pinf then f.inf false
  else if ninf then f.inf true
  else
    let v : Int := vs.foldl (fun n v => match v with | .fin g m e => n + (dyOf g m e).at (-149) | _ => n) 0
    (f.roundDy .rne false ⟨v, -149⟩).1

/-- One step of a reduction (R272). -/
def redStep (t op : Nat) (x y : Nat) : Nat :=
  match redFmt t with
  | some f => if op = 0 then (f.add .rne x y).1 else if op = 1 then (f.max x y).1 else (f.min x y).1
  | none =>
    let w := 8 * redSize t
    if op = 0 then (x + y) % 2 ^ w
    else if (readInt true w x ≤ readInt true w y) = (op = 1) then y else x

/-- An element reduced over the members in ascending rank (R272). -/
def redElem (t op : Nat) (exact : Bool) (xs : List Nat) : Nat :=
  match exact, redFmt t with
  | true, some f => exactSum f xs
  | _, _ => (xs.drop 1).foldl (redStep t op) (xs.headD 0)

/-- Whether a RED descriptor keeps its limits (R266, R267). -/
def redOk (bs : List Byte) : Bool :=
  let n := bytesNum bs 0x20 4
  let t := bytesNum bs 0x24 1
  let z := redSize t
  let g := bytesNum bs 0x34 2
  1 ≤ n && n ≤ 2 ^ 24 && t ≤ 4 && bytesNum bs 0x25 1 ≤ 2 && bytesNum bs 0x26 1 ≤ 1 &&
    (bytesNum bs 0x26 1 == 0 || (bytesNum bs 0x25 1 == 0 && t ≤ 2)) && bytesZero bs 0x27 0x28 && 2 ≤ g && g ≤ 4096 &&
    bytesNum bs 0x36 2 < g && bytesNum bs 0x28 8 % 2 == 0 && bytesZero bs 0x38 0x80 && bytesNum bs 0x10 8 % z == 0 &&
    bytesNum bs 0x18 8 % z == 0

/-- What the members of a reduction must agree on: N, type, op, exactness, group size and members (R272). -/
def redKey (bs : List Byte) : List Byte :=
  (bs.drop 0x20).take 7 ++ (bs.drop 0x34).take 2 ++ (bs.drop 0x80).take (2 * bytesNum bs 0x34 2)

/-- The commands that have joined a reduction on the dies of its members (R272), each with its engine. -/
def State.redJoined (s : State) (bs : List Byte) : List (Nat × Nat × Nat × Command) :=
  let dies := (List.range (bytesNum bs 0x34 2)).map fun r => bytesNum bs (0x80 + 2 * r) 2
  (dies.foldl (fun l d => if l.contains d then l else l ++ [d]) []).flatMap fun d =>
    (kindEngines 5).filterMap fun e =>
      match s.engHead d e with
      | some (id, c) =>
        if c.joined && redTag c.desc = redTag bs then some (d, e, id, c) else none
      | none => none

/-- The count of a tag on a die raised (R427): used most recently, at most 256 tags. -/
def Die.countStep (d : Die) (tag : Nat) : Die :=
  let n := ((d.steps.find? fun p => p.1 == tag).map Prod.snd).getD 0
  { d with steps := ((tag, n + 1) :: d.steps.filter fun p => p.1 != tag).take 256 }

/-- A reduction whose members have all joined (R266, R272): every member's operands read, the results and then `RESULT` written at
each member's destination; none where an access waits, a failure where one fails. -/
def State.reduceAll (s : State) (ms : List (Nat × Nat × Nat × Command)) (bs : List Byte) : Except EngErr State := do
  let n := bytesNum bs 0x20 4
  let t := bytesNum bs 0x24 1
  let z := redSize t
  let (s, cols) ← ms.foldlM (fun (p : State × List (List (Nat × Bool))) m => do
    let (s, xs) ← State.agentArray (p.1.cmdAgent m.2.2.2 .scratch) (bytesNum m.2.2.2.desc 0x10 8) z 0 n p.1
    return (s, p.2 ++ [xs])) (s, [])
  let out := (List.range n).map fun i =>
    let xs := cols.map fun c => c.getD i (0, false)
    (redElem t (bytesNum bs 0x25 1) (bytesNum bs 0x26 1 = 1) (xs.map Prod.fst), xs.any Prod.snd)
  ms.foldlM (fun (s : State) m =>
    let r := engSteps (fun i s =>
      let x := out.getD i (0, false)
      s.agentWrite (s.cmdAgent m.2.2.2 .scratch) (arrayAddr (bytesNum m.2.2.2.desc 0x18 8) i z) (bytesOfNat z x.1) x.2 false) n 0 s
    match r.err with
    | some e => throw e
    | none =>
      let a := s.cmdAgent m.2.2.2 .scratch
      let at_ := bytesNum m.2.2.2.desc 8 8
      if at_ = 0 then pure r.s else r.s.agentWrite a at_ (bytesOfNat 8 (bytesNum bs 0x34 2)) false false) s

/-- RED_REDUCE (R272): the command joins, or fails where a member has failed already; the last member to join carries the reduction
out, which counts once on each of its dies (R427). Where the members disagree or an access of one fails, every member's command fails. -/
def execRedReduce (die eng : Nat) (s : State) : Host.Outcome State Fault Refusal :=
  match s.engHead die eng with
  | none => .next s
  | some (id, c) =>
    if c.isWstr || engKind eng != 5 || c.result.isSome || c.fail.isSome then .next s
    else
      let failed := fun (s : State) => s.endEng die eng id (some 2)
      let read := if c.begun then Except.ok (s, c.desc) else do
        let a := s.cmdAgent c .scratch
        let (s, bs, _) ← s.agentRead a c.descAddr1 128
        if bytesNum bs 0 2 != 5 || !bytesZero bs 2 8 || bytesNum bs 8 8 % 8 != 0 || !redOk bs then throw (EngErr.fault (some s))
        let (s, ms, _) ← s.agentRead a (bytesNum bs 0x28 8) (2 * bytesNum bs 0x34 2)
        return (s, bs ++ ms)
      match read with
      | .error .parked => .next (s.parkCmd id (failed s))
      | .error (.fault w) => .next (failed (w.getD s))
      | .error _ => .next s
      | .ok (s', bs) =>
        let s' := s'.setCmd id { c with begun := true, desc := bs, parked := if c.begun then c.parked else none }
        let ms := s'.redJoined bs
        let failAll := fun (s : State) => (s.failMembers id die bs).updCmd id fun c => { c with fail := some 2 }
        match if c.begun then none else s'.takeFailed (redTag bs) die with
        | some s' => .next (s'.updCmd id fun c => { c with fail := some 2 })
        | none =>
        if ms.any fun m => redKey m.2.2.2.desc != redKey bs then .next (failAll s')
        else
          let byRank := (List.range (bytesNum bs 0x34 2)).filterMap fun r =>
            ms.find? fun m => bytesNum m.2.2.2.desc 0x36 2 == r && m.1 == bytesNum bs (0x80 + 2 * r) 2
          if byRank.length < bytesNum bs 0x34 2 then .next s'
          else
            match s'.reduceAll byRank bs with
            | .error (.fault w) => .next (failAll (w.getD s'))
            | .error .parked => .next (s'.parkCmd id (failAll s'))
            | .error _ => .next s'
            | .ok s' =>
              let s' := byRank.foldl (fun (s : State) m =>
                s.updCmd m.2.2.1 fun c => { c with result := some (BitVec.ofNat 64 (bytesNum bs 0x34 2), false) }) s'
              .next ((byRank.map Prod.fst).eraseDups.foldl (fun (s : State) d => s.updDie d fun y => y.countStep (bytesNum bs 0x30 4)) s')

/-- Whether a header names a function of a kind (R267). -/
def funcOk (kind func : Nat) : Bool := func == 0 || (func == 1 && (kind == 2 || kind == 4))

/-- ENGINE_COMMAND_COMPLETE (R264, R266, R272, R273): the command at the head of an engine's queue has run, and its `RESULT`
is written, with its poison, unless a reduction has written it already; or it fails for its header or with its peers. -/
def execEngineCommandComplete (die eng : Nat) (s : State) : Host.Outcome State Fault Refusal :=
  match s.engHead die eng with
  | none => .next s
  | some (id, c) =>
    let failed := fun (s : State) => s.endEng die eng id (some 2)
    if c.isWstr then .next s
    else if c.fail.isSome then .next (failed s)
    else
      let a := s.cmdAgent c .scratch
      match c.result with
      | some r =>
        let at_ := bytesNum c.desc 8 8
        if at_ = 0 || engKind eng = 5 then .next (s.endEng die eng id none)
        else
          match s.agentWrite a at_ (bytesOfWord 8 r.1) r.2 false with
          | .error .parked => .next (s.parkCmd id (failed s))
          | .error (.fault w) => .next (failed (w.getD s))
          | .error _ => .next s
          | .ok s' => .next (s'.endEng die eng id none)
      | none =>
        if c.begun then .next s
        else
          match s.agentRead a c.descAddr1 128 with
          | .error .parked => .next (s.parkCmd id (failed s))
          | .error (.fault w) => .next (failed (w.getD s))
          | .error _ => .next s
          | .ok (s', bs, _) =>
            if bytesNum bs 0 1 != engKind eng || !funcOk (engKind eng) (bytesNum bs 1 1) then .next (failed s') else .next s

end Sys2Proof.Machine
end

