-- ==== Sys2Proof/Machine/Atomic.lean ====
section
/-!
DEFINITION. Atomics and exact-sum cells at their home (04 R137; 11 R320–R322, R329–R332): the new value of each atomic, the
reduction windows that govern them, the cell's layout, the exact add and the rounded read.
-/

namespace Sys2Proof.Machine

/-- The access size of an atomic (R329). -/
def atomicSize : Instr → Nat
  | .afaddf .. => 64
  | .afadd _ _ _ _ d => if d then 8 else 4
  | .afmin _ _ _ _ d => if d then 8 else 4
  | .afmax _ _ _ _ d => if d then 8 else 4
  | .afand _ _ _ _ d => if d then 8 else 4
  | .afor _ _ _ _ d => if d then 8 else 4
  | .afxor _ _ _ _ d => if d then 8 else 4
  | .axchg _ _ _ _ d => if d then 8 else 4
  | .acas _ _ _ _ d => if d then 8 else 4
  | _ => 8

/-- Whether an instruction is an atomic (R329). -/
def isAtomic : Instr → Bool
  | .afaddf .. => true
  | .afadd .. => true
  | .afmin .. => true
  | .afmax .. => true
  | .afand .. => true
  | .afor .. => true
  | .afxor .. => true
  | .axchg .. => true
  | .acas .. => true
  | _ => false

/-- The value an atomic leaves (R330): none where it does not write. `w` is the width; `opd` and `c` are the operand and
the compare value. -/
def atomicNew (i : Instr) (w old opd c : Nat) : Option Nat :=
  let o := opd % 2 ^ w
  match i with
  | .afadd .. => some ((old + o) % 2 ^ w)
  | .afmin .. => if readInt true w o < readInt true w old then some o else none
  | .afmax .. => if readInt true w old < readInt true w o then some o else none
  | .afand .. => some (old &&& o)
  | .afor .. => some (old ||| o)
  | .afxor .. => some (old ^^^ o)
  | .axchg .. => some o
  | .acas .. => if old = c % 2 ^ w then some o else none
  | _ => none

/-- An exact-sum cell (R322): V in units of 2^-149, the status word, the count, and the last eight bytes. -/
structure Cell where
  v : Int
  st : Word
  n : Word
  rest : Word
  deriving DecidableEq, Repr

def cellOfBytes (bs : List Byte) : Cell :=
  { v := readInt true 320 (natOfBytes (bs.take 40)), st := wordOfBytes ((bs.drop 40).take 8)
    n := wordOfBytes ((bs.drop 48).take 8), rest := wordOfBytes ((bs.drop 56).take 8) }

def Cell.bytes (c : Cell) : List Byte :=
  bytesOfNat 40 (wrapInt 320 c.v) ++ bytesOfWord 8 c.st ++ bytesOfWord 8 c.n ++ bytesOfWord 8 c.rest

/-- The format of an `AFADDF` operand (R331). -/
def afaddfFmt (size : BitVec 2) : Fmt := if size == 2 then fp32 else if size == 1 then fp16 else bf16

/-- An operand of `AFADDF` as a partial cell (R137, R331). -/
def partialOf (size : BitVec 2) (x : Nat) : Partial :=
  let f := afaddfFmt size
  match f.decode (x % 2 ^ f.width) with
  | .nan _ => ⟨0, 1, 1⟩
  | .inf false => ⟨0, 2, 1⟩
  | .inf true => ⟨0, 4, 1⟩
  | .fin n m e => ⟨(dyOf n m e).at (-149), 0, 1⟩

/-- Two partial cells as one (R331). -/
def Partial.add (a b : Partial) : Partial := ⟨a.v + b.v, a.st ||| b.st, a.n + b.n⟩

/-- A partial cell added into a cell (R137, R331): the overflow bit is set once the count passes 2^42. -/
def Cell.add (c : Cell) (p : Partial) : Cell :=
  let n := c.n + BitVec.ofNat 64 p.n
  let st := c.st ||| p.st.setWidth 64
  { c with v := readInt true 320 (wrapInt 320 (c.v + p.v)), n := n, st := if 2 ^ 42 < c.n.toNat + p.n then st ||| 8 else st }

/-- `LDXS` of a cell (R137). -/
def Cell.read (c : Cell) : Nat :=
  if c.st.getLsbD 0 || (c.st.getLsbD 1 && c.st.getLsbD 2) then 0x7FC00000
  else if c.st.getLsbD 1 then fp32.inf false
  else if c.st.getLsbD 2 then fp32.inf true
  else if c.st.getLsbD 3 then fp32.inf (c.v < 0)
  else (fp32.roundDy .rne false ⟨c.v, -149⟩).1

/-- The window that holds a key, as a die's router knows it (R320, R321). -/
def Die.windowOf (d : Die) (key : Nat) : Option RWindow :=
  (d.windows.find? fun w => w.2.base ≤ key && key < w.2.base + w.2.size).map Prod.snd

/-- Whether a window keeps an atomic or an `LDXS` out (R321). -/
def windowRefuses (i : Instr) (w : Option RWindow) : Bool :=
  let exact := (w.map RWindow.exact).getD false
  match i with
  | .afaddf .. => !exact
  | .ldxs .. => !exact
  | _ => exact

/-- Whether a request is windowed (R321). -/
def isWindowed (i : Instr) (w : Option RWindow) : Bool :=
  match i with
  | .afadd .. => w.isSome
  | .afaddf .. => w.isSome
  | _ => false

/-- An atomic performed at its home (R308, R329–R331): the old value, and whether poison kept it from writing; none while
it waits. `sum` and `cell` are the operand that the request carries, merged or its own. -/
def State.performAtomic (s : State) (key : Nat) (i : Instr) (sum : Int) (cell : Partial) (opd c : Word) :
    Option (State × Word × Bool) :=
  match s.homeRead key (atomicSize i) with
  | none => none
  | some (s, bs, poison) =>
    match i with
    | .afaddf .. =>
      let x := cellOfBytes bs
      if poison then some (s, x.n, true) else some (s.homeWrite key (x.add cell).bytes false, x.n, false)
    | _ =>
      let n := bs.length
      let old := natOfBytes bs
      let o := match i with
        | .afadd .. => (sum % (2 : Int) ^ (8 * n)).toNat
        | _ => opd.toNat
      let r := BitVec.ofNat 64 old
      if poison then some (s, r, true)
      else
        match atomicNew i (8 * n) old o c.toNat with
        | none => some (s, r, false)
        | some v => some (s.homeWrite key (bytesOfNat n v) false, r, false)

def trapPoisonAtomic (a : Nat) : Trap := { cause := 0x0C, slot := 3, info1 := BitVec.ofNat 64 a }
def trapPoisonUse3 (a : Nat) : Trap := { cause := 0x0B, slot := 3, info1 := BitVec.ofNat 64 a }

/-- The operand, compare value and address of an atomic's entry: an `ACAS` captures its compare value first (R329). -/
def atomicVals (i : Instr) (e : Entry) : Word × Word × Word :=
  match i with
  | .acas .. => (e.val 1, e.val 2, e.val 0)
  | _ => (e.val 0, e.val 1, 0)

/-- The state of an issuer after its atomic's reply (R308, R330). -/
def State.atomicReplied (s : State) (cx : Nat) (e : Entry) (old : Word) (poison : Bool) : State :=
  if poison then
    let i := (e.instr).getD (.nopMem false)
    (s.setOut cx e { keep := true }).streamFault cx e (trapPoisonAtomic (atomicVals i e).1.toNat) false
  else s.setOut cx e { word := old }

/-- An atomic at the head of its queue (R329): checks in order, then performed at home, or sent. -/
def State.startAtomic (s : State) (cx : Nat) (e : Entry) (i : Instr) : Started :=
  let (a, opd, c) := atomicVals i e
  let va := a.toNat
  let n := atomicSize i
  if va % n != 0 then .trap s (trapAlign 3 va) false
  else
    match s.planScalar cx e .memOnly .both va n with
    | .error (s, t) => .trap s t false
    | .ok (s, p) =>
      match p.place with
      | .mem key mode =>
        let w := (s.die (dieOf cx)).windowOf key
        if isHost key then .trap s (trapRange3 a) false
        else if windowRefuses i w then .trap s (trapRange3 a) false
        else if s.overlapsPending cx [p] then .wait
        else
          let s := s.bypass cx true p
          let cell := match i with
            | .afaddf _ _ _ _ size => partialOf size opd.toNat
            | _ => ⟨0, 0, 0⟩
          if isWindowed i w || homeDie key != dieOf cx then
            match s.send { cx := cx, die := dieOf cx, home := homeDie key, kind := .atomic, entry := e, pieces := [p],
                           windowed := isWindowed i w, place := dieOf cx, port := 6 + quadOf cx % 4, sum := opd.toNat, cell := cell } with
            | none => .wait
            | some (s, _) => .done s
          else
            let s := if mode == 3 then s.countMigration key (dieOf cx) else s
            match s.performAtomic key i opd.toNat cell opd c with
            | none => .wait
            | some (s, old, poison) =>
              if poison then .trap (s.setOut cx e { keep := true }) (trapPoisonAtomic va) false
              else .done (s.setOut cx e { word := old })
      | _ => .trap s (trapBankMode va) false

end Sys2Proof.Machine
end

