-- ==== Sys2Proof/Machine/MemOps.lean ====
section
/-!
DEFINITION. What each instruction of slot S3 does at the head of its queue (07 R217–R224, 10 R308–R310, 11 R329–R332,
12 R346–R363): plain and full/empty accesses, tiles, FIFO ops, flushes and prefetches, fences and drains, acquires and
releases, timed accesses and waits.
-/

namespace Sys2Proof.Machine

/-- A parked op keeps the time since which it waits (R209). -/
def Entry.park (e : Entry) (s : State) : Started :=
  match e.phase with
  | .parked _ => .wait
  | _ => .phase s (.parked s.tick)

/-- Whether the scope of an ordering op is quadrant or wider, and domain or wider (R347–R349). -/
def scopeWide (scope : BitVec 3) : Bool := 3 ≤ scope.toNat
def scopeDomain (scope : BitVec 3) : Bool := 6 ≤ scope.toNat

/-- The condition of a `WAITA` (R362) on observed and expected values of `w` bits. -/
def waitaHolds (cond : BitVec 4) (w o e : Nat) : Bool :=
  let d := readInt true w ((o + 2 ^ w - e) % 2 ^ w)
  match cond.toNat with
  | 0 => o == e
  | 1 => o != e
  | 2 => o < e
  | 3 => e ≤ o
  | 4 => readInt true w o < readInt true w e
  | 5 => readInt true w e ≤ readInt true w o
  | 6 => 0 ≤ d
  | 7 => d < 0
  | 8 => o &&& e != 0
  | _ => o &&& e == 0

/-- What a load does once its bytes are read (R219, R222, R332, R349, R363, R308). -/
def State.finishLoad (s : State) (cx : Nat) (e : Entry) (i : Instr) (bs : List Byte) (poison : Bool) : Started :=
  let a := entryAddr e i
  let scalar := fun (s : State) (sx : Bool) =>
    (s.setOut cx e (scalarOut bs sx poison)).updCtx cx fun c => c.sign .s3 (bytesOfWord 8 (loadValue bs sx))
  match i with
  | .ld _ _ _ _ sx _ => .done (scalar s sx)
  | .lda _ _ _ _ sx scope =>
    let s := scalar s sx
    let s := if scopeWide scope then s.dropClean (clusterOf cx) else s
    let s := if scopeDomain scope then s.updDie (dieOf cx) fun d => { d with epoch := d.epoch + 1 } else s
    if poison then .trap s (trapPoisonUse3 a) false else .done s
  | .waita _ d _ _ dbl cond =>
    let w := if dbl then 64 else 32
    if waitaHolds cond w (natOfBytes bs) ((e.val 1).toNat % 2 ^ w) then
      let s := if d == 0 then s else scalar s false
      if poison then .trap s (trapPoisonUse3 a) false else .done s
    else .phase s .watching
  | .ldxs .. =>
    let v := BitVec.ofNat 64 (cellOfBytes bs).read
    .done ((s.setOut cx e { word := v, poison := poison }).updCtx cx fun c => c.sign .s3 (bytesOfWord 8 v))
  | _ =>
    .done ((s.setOut cx e { vec := tileOfBytes bs, poison := poison }).updCtx cx fun c => c.sign .s3 bs)

/-- A pop from a FIFO (R213, R223). -/
def State.startPop (s : State) (cx : Nat) (e : Entry) (b : Nat) : Started :=
  match if s.parks cx e then [] else (s.cluster (clusterOf cx)).fifo b with
  | [] => e.park s
  | (v, p) :: t =>
    .done (((s.updCluster (clusterOf cx) fun k => k.setFifo b t).setOut cx e { word := v, poison := p }).updCtx cx fun c =>
      c.sign .s3 (bytesOfWord 8 v))

/-- A push into a FIFO (R213, R223). -/
def State.startPush (s : State) (cx : Nat) (e : Entry) (b : Nat) (v : Word) : Started :=
  if s.parks cx e then e.park s
  else .done (s.updCluster (clusterOf cx) fun k => k.setFifo b (k.fifo b ++ [(v, false)]))

/-- `LD` and `ST` (R219). -/
def State.startLd (s : State) (cx : Nat) (e : Entry) (i : Instr) (n : Nat) : Started :=
  let a := entryAddr e i
  if a % n != 0 then .trap s (trapAlign 3 a) false
  else if s.bankWait cx a n then .wait
  else
    match s.planScalar cx e .plain .read a n with
    | .error (s, t) => .trap s t false
    | .ok (s, p) =>
      match p.place with
      | .fifo b 0 => s.startPop cx e b
      | _ => s.loadPieces cx e true false a [p] fun s bs x => s.finishLoad cx e i bs x

def State.startSt (s : State) (cx : Nat) (e : Entry) (i : Instr) (n : Nat) : Started :=
  let a := entryAddr e i
  if a % n != 0 then .trap s (trapAlign 3 a) false
  else if s.bankWait cx a n then .wait
  else
    match s.planScalar cx e .plain .write a n with
    | .error (s, t) => .trap s t false
    | .ok (s, p) =>
      match p.place with
      | .fifo b _ => s.startPush cx e b (e.val 0)
      | _ => s.storePieces cx e true a [p] (bytesOfWord n (e.val 0)) false

/-- The full/empty scalar ops (R220): their place, or their trap. -/
def State.planTagged (s : State) (cx : Nat) (e : Entry) (kind : AccKind) (a n : Nat) : Except (State × Trap) (State × Nat) :=
  if a % n != 0 then .error (s, trapAlign 3 a)
  else
    match s.planScalar cx e .scratchOnly kind a n with
    | .error x => .error x
    | .ok (s, p) =>
      match p.place with
      | .scratch o => .ok (s, o)
      | _ => .error (s, trapBankMode a)

/-- `LDFE` and `LDFF` (R220). -/
def State.startTagLoad (s : State) (cx : Nat) (e : Entry) (i : Instr) (n : Nat) (sx empty : Bool) : Started :=
  if entryAddr e i % n == 0 && s.bankWait cx (entryAddr e i) n then .wait
  else
  match s.planTagged cx e .read (entryAddr e i) n with
  | .error (s, t) => .trap s t false
  | .ok (s, o) =>
    if s.parks cx e then e.park s
    else if s.scratchError cx [{ place := .scratch o, len := n }] then .phase (s.noteError cx) .queued
    else
      match s.readPiece cx false { place := .scratch o, len := n } with
      | none => .wait
      | some (s, bs, p) =>
        let s := if empty then s.updCluster (clusterOf cx) fun k => k.setFull (o / 8) 1 false else s
        .done ((s.setOut cx e (scalarOut bs sx p)).updCtx cx fun c => c.sign .s3 (bytesOfWord 8 (loadValue bs sx)))

/-- Whether an earlier request of the context homed on its own die has not been performed (R347, R352): a transit entry until its
instant has come, which only `DRAIN` counts once accepted (R348). -/
def State.localPending (s : State) (cx ord : Nat) : Bool :=
  s.net.any fun e =>
    e.2.cx = cx && e.2.home = dieOf cx && e.2.entry.ord < ord &&
      (match e.2.stage with
       | .going => true
       | .merged => true
       | .parked _ => true
       | .accepted => true
       | _ => false)

/-- `STEF` and `STFF` (R220), releases at cluster scope (R352). -/
def State.startTagStore (s : State) (cx : Nat) (e : Entry) (i : Instr) (n : Nat) (cond : Bool) : Started :=
  let a := entryAddr e i
  if a % n == 0 && s.bankWait cx a n then .wait
  else
  match s.planTagged cx e .write a n with
  | .error (s, t) => .trap s t false
  | .ok (s, o) =>
    if s.localPending cx e.ord then .wait
    else if cond && s.parks cx e then e.park s
    else
      let bs := bytesOfWord n (e.val 0)
      .done ((s.updCluster (clusterOf cx) fun k => (k.scratchWrite o bs false).setFull (o / 8) 1 true).updCtx cx fun c =>
        c.signStore a bs)

/-- `FEINIT` (R221): a count of 0 does nothing; a range outside usable scratch traps `BANK_MODE` ahead of a count out of range where
its first word lies outside scratch (assumption log 89). -/
def State.startFeinit (s : State) (cx : Nat) (e : Entry) (st : Bool) : Started :=
  let a := wrap64 ((e.val 1).toNat + e.cur)
  let n := (e.val 0).toNat
  if n = 0 then .done s
  else if a % 8 != 0 then .trap s (trapAlign 3 a) false
  else
    match windowOff a with
    | none => .trap s (trapBankMode a) false
    | some o =>
      let k := s.cluster (clusterOf cx)
      if 0x800000 ≤ o then .trap s (trapBankMode a) false
      else if n = 2 ^ 64 - 1 || 0x800000 < o + 8 * n then .trap s (trapRange3 (e.val 0)) false
      else if k.switchingIn o (8 * n) then .wait
      else if !k.scratchOk (s.ctx cx).launch o (8 * n) then
        .trap s (trapBankMode (windowBase + k.scratchFault (s.ctx cx).launch o (8 * n))) false
      else .done (s.updCluster (clusterOf cx) fun k => k.setFull (o / 8) n st)

/-- `VLD` (R222). -/
def State.startVld (s : State) (cx : Nat) (e : Entry) (i : Instr) : Started :=
  if s.tileWait cx e (e.val 0) (e.val 1) then .wait
  else
    match s.planTile cx e .tile .read (e.val 0) (e.val 1) with
    | .error (s, t) => .trap s t false
    | .ok (s, ps) => s.loadPieces cx e true false (entryAddr e i) ps fun s bs x => s.finishLoad cx e i bs x

/-- `VST` (R222): the register's bytes, and its poison (R141). -/
def State.startVst (s : State) (cx : Nat) (e : Entry) (i : Instr) (v : Spec) : Started :=
  if s.tileWait cx e (e.val 0) (e.val 1) then .wait
  else
    match s.planTile cx e .tile .write (e.val 0) (e.val 1) with
    | .error (s, t) => .trap s t false
    | .ok (s, ps) =>
      let c := s.ctx cx
      s.storePieces cx e true (entryAddr e i) ps (bytesOfTile (mget [] v.toNat c.v)) (c.vpois.getLsbD v.toNat)

/-- The scratch offsets of the pieces of a tile. -/
def scratchOffs (ps : List Piece) : List Nat :=
  ps.filterMap fun p => match p.place with | .scratch o => some o | _ => none

/-- `VLDW` (R222): in one cycle, once all its words are FULL. -/
def State.startVldw (s : State) (cx : Nat) (e : Entry) (i : Instr) : Started :=
  if s.tileWait cx e (e.val 0) (e.val 1) then .wait
  else
  match s.planTile cx e .scratchOnly .read (e.val 0) (e.val 1) with
  | .error (s, t) => .trap s t false
  | .ok (s, ps) =>
    if s.parks cx e then e.park s
    else if s.scratchError cx ps then .phase (s.noteError cx) .queued
    else
      match s.readPieces cx false ps with
      | none => .wait
      | some (s, bs, x) => s.finishLoad cx e i bs x

/-- `VSTF` (R222). -/
def State.startVstf (s : State) (cx : Nat) (e : Entry) (i : Instr) (v : Spec) : Started :=
  if s.tileWait cx e (e.val 0) (e.val 1) then .wait
  else
  match s.planTile cx e .scratchOnly .write (e.val 0) (e.val 1) with
  | .error (s, t) => .trap s t false
  | .ok (s, ps) =>
    let c := s.ctx cx
    if s.localPending cx e.ord then .wait
    else
      let bs := bytesOfTile (mget [] v.toNat c.v)
      match s.writePieces cx false (c.vpois.getLsbD v.toNat) ps bs with
      | none => .wait
      | some s =>
        .done ((s.updCluster (clusterOf cx) fun k => (scratchOffs ps).foldl (fun k o => k.setFull (o / 8) 32 true) k).updCtx cx
          fun c => c.signStore (entryAddr e i) bs)

/-- A plain access at home that bypasses the cluster cache (R212): `LDA`, `LDXS`, `WAITA`. -/
def State.startHomeLoad (s : State) (cx : Nat) (e : Entry) (i : Instr) (n : Nat) (hold : Bool) : Started :=
  let a := entryAddr e i
  if a % n != 0 then .trap s (trapAlign 3 a) false
  else
    match s.planScalar cx e .memOnly .read a n with
    | .error (s, t) => .trap s t false
    | .ok (s, p) =>
      match p.place with
      | .mem key mode =>
        if (match i with | .ldxs .. => windowRefuses i ((s.die (dieOf cx)).windowOf key) | _ => false) then
          .trap s (trapRange3 (BitVec.ofNat 64 a)) false
        else
          let p' : Piece := { p with place := .mem key (if mode == 2 then 1 else mode) }
          (s.bypass cx false p).loadPieces cx e false hold a [p'] fun s bs x => s.finishLoad cx e i bs x
      | _ => .trap s (trapBankMode a) false

/-- Whether an earlier S5 kind-1 read of the context has not been performed (R344, R348). -/
def Ctx.kind1Before (c : Ctx) (ord : Nat) (write : Bool) : Bool :=
  (c.queue 5).any fun x => (x.ord < ord || (write && x.ord = ord)) && x.kind1

/-- Whether every access that a `DRAIN` covers has been performed (R348): nothing of the context in flight but accepted
transit stores, and no earlier kind-1 read to come. -/
def State.drained (s : State) (cx ord : Nat) : Bool :=
  !((s.ctx cx).kind1Before ord false) &&
    !(s.net.any fun e =>
      e.2.cx = cx && e.2.entry.ord < ord &&
        (match e.2.stage with
         | .done => false
         | .accepted => (match e.2.entry.instr with | some (.stt ..) => false | _ => true)
         | _ => true))

/-- `DRAIN` (R348). -/
def State.startDrain (s : State) (cx : Nat) (e : Entry) (scope : BitVec 3) : Started :=
  let s := if scopeWide scope then s.writeBackAll (clusterOf cx) else s
  if s.drained cx e.ord then .done s else .wait

/-- A line of SCM that reaches the controller's write buffer (R310): dirty in a slice, or with queued writes, it is written back
there and stays clean. -/
def State.persistLine (s : State) (key : Nat) : State :=
  let s := if (mget [] (lineOf key) (s.quad (homeQuad key)).wq).isEmpty then s else s.fillSlice key
  if mget false (lineOf key) (s.quad (homeQuad key)).present then
    ((s.mediaAccess key).noteWear key).updQuad (homeQuad key) fun q => { q with present := mput (lineOf key) false q.present }
  else s

/-- A covered SCM line persisted (R310): dirty in the cache of the issuing cluster, it is written back to its slice first and stays
clean in the cache. -/
def State.persistFrom (cl : Nat) (s : State) (key : Nat) : State :=
  match (s.cluster cl).findLine key with
  | none => s.persistLine key
  | some l =>
    ((s.writeBackCached l).updCluster cl fun k =>
      { k with cache := k.cache.map fun x => if x.key == lineOf key then { x with dirty := false } else x }).persistLine key

/-- `PERSIST` (R310): a drain, then the covered SCM lines reach the controller's write buffer. -/
def State.startPersist (s : State) (cx : Nat) (e : Entry) (scope : BitVec 3) (finish : Bool) : Started :=
  let s := if scopeWide scope then s.writeBackAll (clusterOf cx) else s
  if !s.drained cx e.ord then .wait
  else if (s.ctx cx).unpersisted.isEmpty then .done s
  else if finish then .done (((s.ctx cx).unpersisted.foldl (State.persistFrom (clusterOf cx)) s).updCtx cx fun c => { c with unpersisted := [] })
  else .wait

/-- `STL` (R350): a drain, then the store. -/
def State.startStl (s : State) (cx : Nat) (e : Entry) (i : Instr) (n : Nat) (scope : BitVec 3) : Started :=
  let a := entryAddr e i
  if a % n != 0 then .trap s (trapAlign 3 a) false
  else
    match s.planScalar cx e .memOnly .write a n with
    | .error (s, t) => .trap s t false
    | .ok (s, p) =>
      let s := if scopeWide scope then s.writeBackAll (clusterOf cx) else s
      if !s.drained cx e.ord then .wait
      else (s.bypass cx false p).storePieces cx e false a [p] (bytesOfWord n (e.val 0)) false

/-- The checks of a timed access (R357, R360) and its request. -/
def State.startTimed (s : State) (cx : Nat) (e : Entry) (i : Instr) (n : Nat) (kind : AccKind) (strict : Bool)
    (bs : List Byte) : Started :=
  let a := entryAddr e i
  if a % n != 0 then .trap s (trapAlign 3 a) false
  else
    match s.planScalar cx e .memOnly kind a n with
    | .error (s, t) => .trap s t false
    | .ok (s, p) =>
      match p.place with
      | .mem key mode =>
        if isHost key then .trap s (trapRange3 (BitVec.ofNat 64 a)) false
        else if strict && !(s.die (dieOf cx)).mtskew.getLsbD 0 then
          .trap s { cause := 0x19, slot := 3, info1 := BitVec.ofNat 64 a } false
        else if s.overlapsPending cx [p] then .wait
        else
          let s := s.bypass cx true p
          let s := if mode == 3 then s.countMigration key (dieOf cx) else s
          match s.send { cx := cx, die := dieOf cx, home := homeDie key, kind := .transit, entry := e, pieces := [p], bytes := bs } with
          | none => .wait
          | some (s, id) =>
            let s := if bs.isEmpty then s
              else s.updCtx cx fun c => { c.signStore a bs with unpersisted := c.unpersisted ++ scmLines [p] }
            if (strict && !bs.isEmpty) || (bs.isEmpty && (s.ctx cx).guard.isSome) then .phase s (.sent id) else .done s
      | _ => .trap s (trapBankMode a) false

/-- `PREF` (R309): never a trap. -/
def State.startPref (s : State) (cx : Nat) (e : Entry) (i : Instr) (hint : Bool) (n : Nat) : Started :=
  let a := entryAddr e i
  if a % n != 0 || (windowOff a).isSome then .done s
  else
    match s.xlatePref (e.space cx) a with
    | (s, none) => .done s
    | (s, some x) =>
      if isHost x.key then .done s
      else
        let s := if x.mode == 3 then s.countMigration x.key (dieOf cx) else s
        if x.mode == 2 then .done ((s.copyRead (quadOf cx) x.key 1).map Prod.fst |>.getD s)
        else
          let s := (s.touch x.key).fillSlice x.key
          if !hint && s.cacheable cx x.mode then .done ((s.cacheFill (clusterOf cx) (s.ctx cx).launch x.key).getD s)
          else .done s

/-- `CFLUSH` (R224). -/
def State.startCflush (s : State) (cx : Nat) (e : Entry) (i : Instr) : Started :=
  let a := entryAddr e i
  if a % 8 != 0 then .trap s (trapAlign 3 a) false
  else
    match s.planScalar cx e .memOnly .read a 8 with
    | .error (s, t) => .trap s t false
    | .ok (s, p) =>
      match p.place with
      | .mem key _ => .done (s.flushCached (clusterOf cx) key)
      | _ => .trap s (trapBankMode a) false

/-- `FPUSH` and `FPOP` (R223): the bank must be a FIFO of the launch. -/
def State.fifoTrap (s : State) (cx b : Nat) : Option Trap :=
  if (s.cluster (clusterOf cx)).modeFor (s.ctx cx).launch b == 3 then none
  else some (trapBankMode (windowBase + 0x800000 + 0x40 * b))

/-- What an S3 instruction at the head of its queue does. `finish` is set where the completion of a `PERSIST` is at
hand. -/
def State.startMem (s : State) (cx : Nat) (e : Entry) (i : Instr) (finish : Bool) : Started :=
  match i with
  | .ld _ _ _ size _ _ => s.startLd cx e i (sizeBytes size)
  | .st _ _ _ size _ => s.startSt cx e i (sizeBytes size)
  | .lda _ _ _ size _ _ => s.startHomeLoad cx e i (sizeBytes size) true
  | .stl _ _ _ size scope => s.startStl cx e i (sizeBytes size) scope
  | .ldfe _ _ _ size sx _ => s.startTagLoad cx e i (sizeBytes size) sx true
  | .ldff _ _ _ size sx _ => s.startTagLoad cx e i (sizeBytes size) sx false
  | .stef _ _ _ size _ => s.startTagStore cx e i (sizeBytes size) true
  | .stff _ _ _ size _ => s.startTagStore cx e i (sizeBytes size) false
  | .feinit _ _ _ st => s.startFeinit cx e st
  | .vld .. => s.startVld cx e i
  | .vst _ v _ _ _ => s.startVst cx e i v
  | .vldw .. => s.startVldw cx e i
  | .vstf _ v _ _ _ => s.startVstf cx e i v
  | .ldnb _ _ _ _ size strict => s.startTimed cx e i (sizeBytes size) .read strict []
  | .stt _ _ _ _ size strict => s.startTimed cx e i (sizeBytes size) .write strict (bytesOfWord (sizeBytes size) (e.val 0))
  | .waita _ _ _ _ dbl _ => s.startHomeLoad cx e i (if dbl then 8 else 4) true
  | .fence _ scope =>
    if s.localPending cx e.ord || (s.ctx cx).kind1Before e.ord false then .wait else .done (if scopeWide scope then s.writeBackAll (clusterOf cx) else s)
  | .drain _ scope => s.startDrain cx e scope
  | .persist _ scope => s.startPersist cx e scope finish
  | .pref _ hint _ size _ => s.startPref cx e i hint (sizeBytes size)
  | .cflush .. => s.startCflush cx e i
  | .ldxs .. => s.startHomeLoad cx e i 64 false
  | .fpush _ _ b =>
    if (s.cluster (clusterOf cx)).switching.getLsbD b.toNat then .wait
    else
      match s.fifoTrap cx b.toNat with
      | some t => .trap s t false
      | none => s.startPush cx e b.toNat (e.val 0)
  | .fpop _ _ b =>
    if (s.cluster (clusterOf cx)).switching.getLsbD b.toNat then .wait
    else
      match s.fifoTrap cx b.toNat with
      | some t => .trap s t false
      | none => s.startPop cx e b.toNat
  | _ => if isAtomic i then s.startAtomic cx e i else .done s

end Sys2Proof.Machine
end

