-- ==== Sys2Proof/Machine/MemCmds.lean ====
section
/-!
DEFINITION. The S7 ops on memory and banks (07 R214–R216, 10 R285–R293, R307, 11 R323), `LAUNCH` (12 R355, 13 R379), and the
ticks of a quadrant (10 R286, R291).
-/

namespace Sys2Proof.Machine

/-- Whether a launch owns a bank of a cluster (R198). -/
def Cluster.owns (k : Cluster) (l : Option Nat) (b : Nat) : Bool :=
  match l with
  | none => false
  | some x => mget 0 b (k.owners.map fun p => (p.1, p.2 + 1)) = x + 1

/-- The banks of a mask. -/
def maskBanks (m : Word) : List Nat := (List.range 32).filter fun b => m.getLsbD b

/-- A mask of banks. -/
def bankMask (l : List Nat) : BitVec 32 := l.foldl (fun m b => m ||| ((1 : BitVec 32) <<< b)) 0

/-- The bank controller takes the command at the head of its queue (R214): its banks not yet in the mode are switching. -/
def State.bankBegin (s : State) (cl : Nat) : State :=
  match (s.cluster cl).bankq with
  | [] => s
  | id :: _ =>
    match s.cmd id with
    | none => s
    | some c =>
      match c.entry.instr with
      | some (.bankcfg _ _ _ mode) =>
        s.updCluster cl fun k =>
          { k with switching := bankMask ((maskBanks (c.entry.val 0)).filter fun b => k.mode b != mode.toNat) }
      | _ => s

/-- BANKCFG at the head of its queue (R214). -/
def State.startBankcfg (s : State) (cx : Nat) (e : Entry) : Started :=
  let v := e.val 0
  let cl := clusterOf cx
  let k := s.cluster cl
  if v.toNat / 2 ^ 32 != 0 || !(maskBanks v).all (k.owns (s.ctx cx).launch) then
    .trap s { cause := 0x04, slot := 7, info1 := v } false
  else
    let (s, id) := s.newCmd { cx := cx, cl := cl, entry := e }
    let s := s.updCluster cl fun k => { k with bankq := k.bankq ++ [id] }
    .done (if k.bankq.isEmpty then s.bankBegin cl else s)

/-- Banks put into a mode as they leave another (R205, R214): cached lines written back, contents XORed out of the parity banks and
cleared with the tags, FIFOs empty. -/
def State.switchBanks (s : State) (cl : Nat) (bs : List Nat) (mode : BitVec 2) : State :=
  let out := (s.cluster cl).cache.filter fun l => bs.contains l.way
  let s := out.foldl State.writeBackCached s
  s.updCluster cl fun k =>
    { k.clearBanks bs with
      cache := k.cache.filter fun l => !bs.contains l.way
      modes := bs.foldl (fun m b => mset 0 b mode m) k.modes
      full := k.full.filter fun p => !bs.contains (bankOfOff (8 * p.1))
      wpois := k.wpois.filter fun p => !bs.contains (bankOfOff (8 * p.1))
      werr := k.werr.filter fun p => !bs.contains (bankOfOff (8 * p.1))
      fifos := k.fifos.filter fun p => !bs.contains p.1 }

/-- BANK_SWITCH_COMPLETE (R214, R215). -/
def execBankSwitchComplete (cl : Nat) (s : State) : Host.Outcome State Fault Refusal :=
  match (s.cluster cl).bankq with
  | [] => .next s
  | id :: rest =>
    match (s.cmd id).bind fun c => c.entry.instr with
    | some (.bankcfg _ _ _ mode) =>
      let bs := (List.range 32).filter fun b => (s.cluster cl).switching.getLsbD b
      let s := (s.switchBanks cl bs mode).updCluster cl fun k => { k with switching := 0, bankq := rest }
      .next ((s.endCmd id none).bankBegin cl)
    | _ => .next (s.updCluster cl fun k => { k with switching := 0, bankq := rest })

/-- The busy result (R287). -/
def busy : Word := BitVec.allOnes 64

/-- The key of an operand with its die in bits 63:52. -/
def opKey (v : Word) : Nat := keyOf (v.extractLsb' 52 12).toNat (v.extractLsb' 0 52).toNat

/-- The pinned bytes of a slice (R285). -/
def Quad.pinnedBytes (q : Quad) : Nat := (q.pins.filter fun e => e.2.valid).foldl (fun n e => n + e.2.size) 0

/-- PINWIN at the head of its queue (R288). -/
def State.startPinwin (s : State) (cx : Nat) (e : Entry) : Started :=
  let base := e.val 0
  let sz := e.val 1
  let bytes := fld sz 0 29
  let f := fld sz 32 8
  let die := (base.extractLsb' 52 12).toNat
  let pa := (base.extractLsb' 0 52).toNat
  let key := opKey base
  let last := key + bytes - 1
  let range := fun (v : Word) => Started.trap s { cause := 0x04, slot := 7, info1 := v } false
  if base.toNat % 65536 != 0 then .trap s { cause := 0x06, slot := 7, info1 := base } false
  else if bytes % 65536 != 0 || bytes < 65536 || 2 ^ 28 < bytes || f = 0 || fld sz 29 3 != 0 || fld sz 40 24 != 0 then range sz
  else if cornerOf die != cornerOf (dieOf cx) || (regionOf pa == .scm && die != cornerOf die) then range base
  else if regionOf pa == .none || regionOf pa == .host || regionOf (keyPa last) != regionOf pa || homeQuad last != homeQuad key then
    range base
  else
    let q := homeQuad key
    let x := s.quad q
    let overlaps := x.pins.any fun p => p.2.valid && p.2.base < key + bytes && key < p.2.base + p.2.size
    match (List.range 32).find? fun i => !(mget ({} : Pin) i x.pins).valid with
    | some i =>
      if overlaps || 2 ^ 28 < x.pinnedBytes + bytes then
        .done ((s.setOut cx e { word := busy }).newCmd { cx := cx, cl := clusterOf cx, entry := e }).1
      else
        let ser := (mget ({} : Pin) i x.pins).serial + 1
        let p : Pin :=
          { valid := true, base := key, size := bytes, serial := ser, count := BitVec.ofNat 8 f, reload := BitVec.ofNat 8 f, touched := false }
        let h := BitVec.ofNat 64 (i + q % 4 * 2 ^ 5 + q / 4 * 2 ^ 8 + ser.toNat * 2 ^ 32)
        let s := (s.updQuad q fun y => { y with pins := mput i p y.pins }).setOut cx e { word := h }
        .done (s.newCmd { cx := cx, cl := clusterOf cx, entry := e, bound := some (q, i, ser.toNat) }).1
    | none => .done ((s.setOut cx e { word := busy }).newCmd { cx := cx, cl := clusterOf cx, entry := e }).1

/-- The lines of a range present in their slice (R288); `n` counts them. -/
def State.fillLines (key : Nat) : Nat → State → State
  | 0, s => s
  | n + 1, s => State.fillLines (key + 128) n (s.fillSlice key)

/-- The completion of a PINWIN (R288): every absent line is fetched. -/
def State.finishPinwin (s : State) (id : Nat) (c : Command) : State :=
  let s := match c.bound with
    | none => s
    | some (q, i, ser) =>
      let p : Pin := mget {} i (s.quad q).pins
      if p.valid && p.serial.toNat = ser then State.fillLines p.base (p.size / 128) s else s
  s.endCmd id none

/-- UNPIN at the head of its queue (R289). -/
def State.startUnpin (s : State) (cx : Nat) (e : Entry) : Started :=
  let h := e.val 0
  let die := fld h 8 12
  if fld h 7 1 != 0 || fld h 20 12 != 0 || fld h 48 16 != 0 || cornerOf die != cornerOf (dieOf cx) then
    .trap s { cause := 0x04, slot := 7, info1 := h } false
  else
    let q := 4 * die + fld h 5 2
    let i := fld h 0 5
    let p : Pin := mget {} i (s.quad q).pins
    let s := if p.valid && p.serial.toNat = fld h 32 16 then s.updQuad q fun y => { y with pins := mput i { p with valid := false } y.pins }
      else s
    .done (s.newCmd { cx := cx, cl := clusterOf cx, entry := e }).1

/-- One update of a pin at a 1 ms instant (R286). -/
def Pin.fade (p : Pin) : Pin :=
  if !p.valid then p
  else if p.touched then { p with count := p.reload, touched := false }
  else { p with count := p.count - 1, valid := p.count != 1 }

/-- PIN_FADE_TICK (R286); not while the die is shed (R429). -/
def execPinFadeTick (q : Nat) (s : State) : Host.Outcome State Fault Refusal :=
  if (s.die (q / 4)).shed then .next s
  else .next (s.updQuad q fun x =>
    { x with pins := mmap Pin.fade x.pins, fadeAt := s.mt (q / 4) / 1000000 })

/-- A granule's count aged and its samples added (R291). -/
def ageCount (c : BitVec 16) (n : Nat) : BitVec 16 := BitVec.ofNat 16 (min 0xFFFF (c.toNat - c.toNat / 8 + n))

/-- Whether a granule of the remap table is homed at a quadrant. -/
def granuleQuad (g : Nat) : Nat := if g < 4194304 then g / 2 ^ 20 % 4 else (g - 4194304) / 2 ^ 21 % 4

/-- REMAP_COUNT_UPDATE (R291): the entries of the quadrant's granules. -/
def execRemapCountUpdate (q : Nat) (s : State) : Host.Outcome State Fault Refusal :=
  let smp := (s.quad q).samples
  let s := s.updDie (q / 4) fun d =>
    let gs := ((d.remap.map Prod.fst) ++ smp.map Prod.fst).filter fun g => granuleQuad g = q % 4
    { d with remap := gs.foldl (fun m g =>
        let r := mget (remapReset g) g d.remap
        mput g { r with count := ageCount r.count (mget 0 g smp) } m) d.remap }
  .next (s.updQuad q fun x => { x with samples := [], countAt := s.mt (q / 4) / 1000000 })

/-- SWAPPG at the head of its queue (R293). -/
def State.startSwappg (s : State) (cx : Nat) (e : Entry) : Started :=
  let f := e.val 0
  let n := e.val 1
  let align := fun (v : Word) => Started.trap s { cause := 0x06, slot := 7, info1 := v } false
  if f.toNat % 65536 != 0 then align f
  else if n.toNat % 65536 != 0 then align n
  else
    let die := dieOf cx
    let fk := keyOf die f.toNat
    let nk := keyOf die n.toNat
    if regionOf f.toNat != .far || regionOf n.toNat != .near || homeQuad fk != homeQuad nk then
      .trap s { cause := 0x04, slot := 7, info1 := f } false
    else
      let q := homeQuad fk
      let x := s.quad q
      let active := x.swaps.any fun r => r.2.far = fk || r.2.near = nk
      match (List.range 64).find? fun r => !(x.swaps.any fun y => y.1 = r) with
      | some r =>
        if active then .done ((s.setOut cx e { word := busy }).newCmd { cx := cx, cl := clusterOf cx, entry := e, begun := true }).1
        else
          let (s, id) := s.newCmd { cx := cx, cl := clusterOf cx, entry := e }
          let s := s.updQuad q fun y => { y with swaps := mput r { far := fk, near := nk, done := 0, cmd := id } y.swaps }
          .done (s.setOut cx e { word := BitVec.ofNat 64 (r + q % 4 * 2 ^ 6 + die * 2 ^ 8) })
      | none => .done ((s.setOut cx e { word := busy }).newCmd { cx := cx, cl := clusterOf cx, entry := e, begun := true }).1

/-- SWAP_LINE_EXCHANGE (R292, R293): one more line; after the last the entries of the two granules swap. -/
def execSwapLineExchange (q r : Nat) (s : State) : Host.Outcome State Fault Refusal :=
  match (s.quad q).swaps.find? fun e => e.1 == r with
  | none => .next s
  | some (_, w) =>
    let s := (s.mediaAccess (w.far + 128 * w.done)).mediaAccess (w.near + 128 * w.done)
    if w.done + 1 < 512 then .next (s.updQuad q fun y => { y with swaps := mput r { w with done := w.done + 1 } y.swaps })
    else
      let s := s.updQuad q fun y => { y with swaps := merase r y.swaps }
      match granuleOf w.far, granuleOf w.near with
      | some f, some n =>
        let s := s.updDie (q / 4) fun d =>
          let a := d.remapOf f
          let b := d.remapOf n
          { d with remap := mput f { mg := b.mg, count := 0 } (mput n { mg := a.mg, count := 0 } d.remap) }
        .next (s.endCmd w.cmd none)
      | _, _ => .next (s.endCmd w.cmd none)

/-- TLBINV at the head of its queue (R307): the entries go at once; the command ends once the accesses they translated are
performed. -/
def State.startTlbinv (s : State) (cx : Nat) (e : Entry) (mode : BitVec 2) : Started :=
  let va := e.val 0
  let asid := e.val 1
  if mode == 0 && va.toNat / 2 ^ 57 != 0 then .trap s { cause := 0x04, slot := 7, info1 := va } false
  else if mode != 2 && 0xFFFF < asid.toNat then .trap s { cause := 0x04, slot := 7, info1 := asid } false
  else
    let s := s.tlbInvalidate (cornerOf (dieOf cx)) mode va.toNat (asid.setWidth 16)
    .done (s.newCmd { cx := cx, cl := clusterOf cx, entry := e, bound := some (s.nextPkt, s.tick, 0) }).1

/-- The completion of a TLBINV (R307): none while an access translated before it is to be performed: a request on its way, a timed one
in a transit buffer, a store held until a checkpoint (R409). -/
def State.finishTlbinv (s : State) (id : Nat) (c : Command) (mode : BitVec 2) : Option State :=
  let before := (c.bound.map fun b => b.1).getD 0
  let tick := (c.bound.map fun b => b.2.1).getD 0
  let named := fun (e : Entry) => mode == 2 || (e.asid.setWidth 16 : BitVec 16) == (c.entry.val 1).setWidth 16
  let pending := s.net.any fun p =>
    p.1 < before && cornerOf p.2.die = cornerOf (dieOf c.cx) && named p.2.entry &&
      (match p.2.stage with
       | .going => true
       | .merged => true
       | .parked _ => true
       | .accepted => true
       | _ => false)
  let held := s.ctxs.any fun x =>
    cornerOf (dieOf x.1) = cornerOf (dieOf c.cx) && x.2.held409.any fun h => h.tick < tick && named h.entry
  if pending || held then none else some (s.endCmd id none)

/-- The dies of the domain (R311). -/
def State.domainDies (s : State) : List Nat :=
  (List.range s.extents.2.2).flatMap fun z => (List.range s.extents.2.1).flatMap fun y => (List.range s.extents.1).map fun x =>
    x + 16 * y + 256 * z

/-- A window's descriptor in a router (R320, R323). -/
def Die.setWindow (d : Die) (w : Nat) (r : RWindow) : Die :=
  { d with windows := if r.size = 0 then merase w d.windows else mput w r d.windows }

/-- The window that a `MAPWIN` describes. -/
def mapwinOf (e : Entry) (exact : Bool) : RWindow := { base := opKey (e.val 0), size := (e.val 1).toNat, exact := exact }

/-- MAPWIN at the head of its queue (R323): a router may take the new descriptor at once or at the end (assumption log 59). -/
def State.startMapwin (s : State) (cx : Nat) (e : Entry) (w : Nat) (exact : Bool) : Started :=
  let base := e.val 0
  let size := (e.val 1).toNat
  let die := (base.extractLsb' 52 12).toNat
  let r := mapwinOf e exact
  let region := regionOf (base.extractLsb' 0 52).toNat
  let range := Started.trap s { cause := 0x04, slot := 7, info1 := base } false
  if base.toNat % 65536 != 0 || size % 65536 != 0 then .trap s { cause := 0x06, slot := 7, info1 := base } false
  else if 2 ^ 36 < size || !s.domainDies.contains die then range
  else if size != 0 && !((region == .near || region == .far) && regionOf (keyPa (r.base + size - 1)) == region &&
      keyDie (r.base + size - 1) == die) then range
  else if size != 0 && (s.die (dieOf cx)).windows.any fun x => x.1 != w && x.2.base < r.base + size && r.base < x.2.base + x.2.size then
    range
  else
    let early := s.domainDies.filter fun d => Config.freeNat (s.tick + d) % 2 = 1
    let s := early.foldl (fun s d => s.updDie d fun y => y.setWindow w r) s
    .done (s.newCmd { cx := cx, cl := clusterOf cx, entry := e }).1

/-- The completion of a MAPWIN (R323): every router holds the descriptor. -/
def State.finishMapwin (s : State) (id : Nat) (c : Command) (w : Nat) (exact : Bool) : State :=
  (s.domainDies.foldl (fun s d => s.updDie d fun y => y.setWindow w (mapwinOf c.entry exact)) s).endCmd id none

/-- A hardware queue of a module. -/
def State.queueOf (s : State) (m q : Nat) : HwQueue := mget {} q (s.mod m).queues
def State.setHwQueue (s : State) (m q : Nat) (x : HwQueue) : State := s.updMod m fun y => { y with queues := mput q x y.queues }

/-- The slots of a queue (R365). -/
def HwQueue.slots (q : HwQueue) : Nat := 2 ^ q.log2.toNat

/-- The free slots from `TAIL` on (R366). -/
def HwQueue.free (q : HwQueue) : Nat := q.slots - (q.tail - q.oldest).toNat

/-- The key of the slot of a record (R365, R366). -/
def HwQueue.slotKey (q : HwQueue) (seq : BitVec 32) : Nat := keyOf q.qdie.toNat (q.qaddr.toNat + 256 * (seq.toNat % q.slots))

/-- A `LAUNCH` that has read its record adds it, or holds the head of its queue for a slot (R379); one whose slot lies in host memory
that is not granted fails (R434). -/
def State.addRecord (s : State) (cx : Nat) (e : Entry) (q : Nat) (bs : List Byte) : Started :=
  let m := modOf (dieOf cx)
  let x := s.queueOf m q
  if x.free = 0 then .phase s (.fetched bs)
  else
    let ok := s.granted true (x.slotKey x.tail) 256
    let s := if ok then (s.hwPut (x.slotKey x.tail) bs).setHwQueue m q { x with tail := x.tail + 1 } else s
    let (s, id) := s.newCmd { cx := cx, cl := clusterOf cx, entry := e }
    .done (s.endCmd id (if ok then none else some (kindOther, 2)))

/-- LAUNCH at the head of its queue (R355, R379): the record is read and, where the queue takes it, added. A read that its home
answers PARKED is retried for 50 ms (R430). -/
def State.startLaunch (s : State) (cx : Nat) (e : Entry) (q : Nat) : Started :=
  let c := s.ctx cx
  let rec_ := e.val 0
  match e.phase with
  | .fetched bs => s.addRecord cx e q bs
  | _ =>
    if (c.queue 3).any (fun x => x.ord < e.ord) || c.kind1Before e.ord false then .wait
    else
      let s := s.writeBackAll (clusterOf cx)
      if !s.drained cx e.ord then .wait
      else if rec_.toNat % 256 != 0 then .trap s { cause := 0x06, slot := 7, info1 := rec_ } false
      else
        let failed := fun (s : State) =>
          let (s, id) := s.newCmd { cx := cx, cl := clusterOf cx, entry := e }
          Started.done (s.endCmd id (some (kindOther, 2)))
        let a : Agent := { cl := clusterOf cx, l := c.launch, sp := { e.space cx with core := none, cl := clusterOf cx }, win := .scratch }
        match s.agentRead a rec_.toNat 256 with
        | .error (.fault w) => failed (w.getD s)
        | .error .parked =>
          (match e.phase with
           | .parked t => if s.now < t + parkedNs then .wait else failed s
           | _ => .phase s (.parked s.now))
        | .error _ => .wait
        | .ok (s, bs, p) =>
          let x := s.queueOf (modOf (dieOf cx)) q
          if p || !x.en || !x.devok || x.asid != e.asid.setWidth 16 then failed s
          else s.addRecord cx e q bs

end Sys2Proof.Machine
end

