-- ==== Sys2Proof/Machine/Scalar.lean ====
section
/-!
DEFINITION. The instructions of slots S1 and S2 (03 R108–R121). Each computes a result from operand values read at the
start of the repetition, then pushes it and writes its destination; guarded off it pushes its first operand (R95).
`r` is the state at the start of the repetition, `s` the state the repetition has built so far.
-/

namespace Sys2Proof.Machine

/-- One executed repetition of an S1 or S2 op (R95, R98, R108): a poisoned operand traps, a guarded-off op pushes its
first operand, any other op pushes its result, writes its destination and sets its status. A poisoned operand traps ahead of a
control out of range (assumption log 84). -/
def scalarOp (g : Bool) (specs : List Spec) (d : Spec) (first : Word) (res : Except Trap (Word × Status))
    (r s : State) : Except Trap State :=
  match firstPoisoned (r.ctx s.cur.cx) specs with
  | some sp => .error (poisonTrap s.cur.slot sp)
  | none =>
    if g && s.cur.off then .ok (s.updCtx s.cur.cx fun c => c.push first)
    else
      match res with
      | .error t => .error t
      | .ok (v, st) => .ok (s.updCtx s.cur.cx fun c => ((c.push v).writeDest d v).orStatus st)

/-- An op of two operands without status. -/
def alu2 (g : Bool) (d a b : Spec) (f : Word → Word → Word) (r s : State) : Except Trap State :=
  let x := specVal r s.cur.cx a
  scalarOp g [a, b] d x (.ok (f x (specVal r s.cur.cx b), stNone)) r s

/-- An op of one operand without status. -/
def alu1 (g : Bool) (d a : Spec) (f : Word → Word) (r s : State) : Except Trap State :=
  let x := specVal r s.cur.cx a
  scalarOp g [a] d x (.ok (f x, stNone)) r s

/-- An op of three operands that may trap. -/
def alu3 (g : Bool) (d a b c : Spec) (f : Word → Word → Word → Except Trap (Word × Status)) (r s : State) :
    Except Trap State :=
  let x := specVal r s.cur.cx a
  scalarOp g [a, b, c] d x (f x (specVal r s.cur.cx b) (specVal r s.cur.cx c)) r s

/-- The FP32 operand of a value: bits 31:0 (R119). -/
def fpArg (x : Word) : Nat := x.toNat % 2 ^ 32

/-- An FP32 result: bits 31:0, the rest zero (R119). -/
def fpRes (p : Nat × Status) : Word × Status := (BitVec.ofNat 64 p.1, p.2)

/-- An FP op of two operands. -/
def fpu2 (g : Bool) (d a b : Spec) (f : Nat → Nat → Nat × Status) (r s : State) : Except Trap State :=
  let x := specVal r s.cur.cx a
  scalarOp g [a, b] d x (.ok (fpRes (f (fpArg x) (fpArg (specVal r s.cur.cx b))))) r s

/-- An FP op of one operand. -/
def fpu1 (g : Bool) (d a : Spec) (f : Word → Word × Status) (r s : State) : Except Trap State :=
  let x := specVal r s.cur.cx a
  scalarOp g [a] d x (.ok (f x)) r s

/-- 1 for a condition that holds, else 0 (R112). -/
def flag01 (b : Bool) : Word := if b then 1 else 0

def sext12 (i : BitVec 12) : Word := i.signExtend 64
def zext12 (i : BitVec 12) : Word := i.setWidth 64

/-- The quotients and remainders of R110. -/
def divS (a b : Word) : Word :=
  if b = 0 then BitVec.allOnes 64 else if a.toInt = -(2 : Int) ^ 63 && b.toInt = -1 then a else BitVec.ofInt 64 (a.toInt.tdiv b.toInt)
def remS (a b : Word) : Word :=
  if b = 0 then a else if a.toInt = -(2 : Int) ^ 63 && b.toInt = -1 then 0 else BitVec.ofInt 64 (a.toInt.tmod b.toInt)
def divU (a b : Word) : Word := if b = 0 then BitVec.allOnes 64 else BitVec.ofNat 64 (a.toNat / b.toNat)
def remU (a b : Word) : Word := if b = 0 then a else BitVec.ofNat 64 (a.toNat % b.toNat)

/-- The zero bits above the highest 1 bit (R113). -/
def clz64 (a : Word) : Nat := if a = 0 then 64 else 63 - Nat.log2 a.toNat

/-- The zero bits below the lowest 1 bit (R113). -/
def ctz64 (a : Word) : Nat := if a = 0 then 64 else Nat.log2 (a &&& (0 - a)).toNat

/-- The number of 1 bits among the low `n` (R113). -/
def popc : Nat → Word → Nat
  | 0, _ => 0
  | n + 1, a => (a.getLsbD n).toNat + popc n a

/-- The low `n` bits in reverse order (R113). -/
def brev : Nat → Word → Nat
  | 0, _ => 0
  | n + 1, a => brev n (a >>> 1) + (a.getLsbD 0).toNat * 2 ^ n

/-- A field of `len` bits at `pos` (R114). -/
def fieldZ (a : Word) (pos len : Nat) : Word := ((a >>> pos).setWidth len).setWidth 64
def fieldS (a : Word) (pos len : Nat) : Word := ((a >>> pos).setWidth len).signExtend 64

/-- `INS` (R115). -/
def insField (slot : Nat) (a b c : Word) : Except Trap (Word × Status) :=
  let pos := (c.extractLsb' 0 6).toNat
  let len := (c.extractLsb' 6 6).toNat
  if len = 0 || 64 < pos + len || c >>> 12 != 0 then .error (rangeTrap slot c)
  else
    let mask := ((1 <<< len) - 1 : Word) <<< pos
    .ok ((a &&& ~~~mask) ||| ((b <<< pos) &&& mask), stNone)

/-- One byte of `BPERM`: source byte, zero, or the source byte's top bit spread (R116). -/
def permByte (src : Word) (field : Nat) : Nat :=
  let x := (src >>> (8 * (field % 8))).toNat % 256
  match field / 8 with
  | 0 => x
  | 1 => 0
  | _ => if 128 ≤ x then 255 else 0

/-- `BPERM` (R116). -/
def bpermWord (slot : Nat) (a b c : Word) : Except Trap (Word × Status) :=
  let f := fun k => (c >>> (5 * k)).toNat % 32
  if 24 ≤ f 0 || 24 ≤ f 1 || 24 ≤ f 2 || 24 ≤ f 3 || c >>> 20 != 0 then .error (rangeTrap slot c)
  else
    let src : Word := (b.setWidth 32 ++ a.setWidth 32 : BitVec 64)
    .ok (BitVec.ofNat 64 (permByte src (f 0) + 2 ^ 8 * permByte src (f 1) + 2 ^ 16 * permByte src (f 2) +
      2 ^ 24 * permByte src (f 3)), stNone)

/-- Bits 16h+15:16h of a word replaced (R118). -/
def movkWord (old : Word) (h : BitVec 2) (imm : BitVec 16) : Word :=
  let k := 16 * h.toNat
  (old &&& ~~~((0xFFFF : Word) <<< k)) ||| (imm.setWidth 64 <<< k)

/-- The integer that `FCVTF` converts (R121): bit 0 of `t` selects unsigned, bit 1 32 bits. -/
def cvtSrc (t : BitVec 2) (a : Word) : Int := readInt (!t.getLsbD 0) (if t.getLsbD 1 then 32 else 64) a.toNat

/-- `FCVTI` (R121). -/
def cvtInt (t rm : BitVec 2) (a : Word) : Word × Status :=
  let (y, st) := (fp32.decode (fpArg a)).toInt (rmOf rm) (!t.getLsbD 0) (if t.getLsbD 1 then 32 else 64)
  (BitVec.ofInt 64 y, st)

/-- Whether an instruction is of the divide family (R110). -/
def isDivide : Instr → Bool
  | .div .. => true
  | .divw .. => true
  | .rem .. => true
  | .remw .. => true
  | _ => false

/-- Whether an S0–S2 op is held (R63): an operand or a destination is absent, the context's own divide is in progress,
or the op is a divide and the core's divider is busy. -/
def opHeld (i : Instr) (s : State) : Bool :=
  let c := s.ctx s.cur.cx
  (srcSpecs i).any (specAbsent c) || ((nWrite i).any (specAbsent c)) ||
    (match (s.core (coreOf s.cur.cx)).divider with
     | none => false
     | some dv => dv.cx == s.cur.cx || isDivide i)

/-- An S1 or S2 op issued alone: held, or its effect, or the precise trap it raises (R98). -/
def alone (i : Instr) (op : State → State → Except Trap State) (s : State) : Host.Outcome State Fault Refusal :=
  if opHeld i s then .next s
  else
    match op s s with
    | .ok s' => .next s'
    | .error t => .next (s.takePrecise t)

/-- A divide started (R97): the pushes and register writes made in `s`, the last `n` pushes and the registers `ws`, are kept
with the core's divider and the register set is `regs` until the divide completes. -/
def State.startDivide (s : State) (regs : RegSet) (n : Nat) (ws : List Nat) : State :=
  let c := s.ctx s.cur.cx
  (s.updCtx s.cur.cx fun c => c.setRegs regs).updCore (coreOf s.cur.cx) fun k =>
    { k with divider := some { cx := s.cur.cx, sys := c.sys, pushes := (c.regs.q.take n).reverse, writes := ws.map fun d => (d, c.regs.get d) } }

/-- A divide issued alone (R97, R110): held, guarded off, or started on the core's divider; `DIVIDE_COMPLETE` makes its push
and its write. -/
def aloneDivide (g : Bool) (i : Instr) (op : State → State → Except Trap State) (s : State) : Host.Outcome State Fault Refusal :=
  if opHeld i s then .next s
  else
    match op s s with
    | .ok s' =>
      if g && s.cur.off then .next s'
      else .next (s'.startDivide (s.ctx s.cur.cx).regs 1 ((nWrite i).toList.map namedIdx))
    | .error t => .next (s.takePrecise t)

/-- ADD (R109): Push a + b modulo 2^64. -/
def addOp (g : Bool) (d a b : Spec) (r s : State) : Except Trap State :=
  alu2 g d a b (fun x y => x + y) r s

def execAdd (g : Bool) (d a b : Spec) (s : State) : Host.Outcome State Fault Refusal :=
  alone (.add g d a b) (addOp g d a b) s

/-- SUB (R109): Push a - b modulo 2^64. -/
def subOp (g : Bool) (d a b : Spec) (r s : State) : Except Trap State :=
  alu2 g d a b (fun x y => x - y) r s

def execSub (g : Bool) (d a b : Spec) (s : State) : Host.Outcome State Fault Refusal :=
  alone (.sub g d a b) (subOp g d a b) s

/-- ADDI (R109): Push a plus a sign-extended 12-bit immediate. -/
def addiOp (g : Bool) (d a : Spec) (imm : BitVec 12) (r s : State) : Except Trap State :=
  alu1 g d a (fun x => x + sext12 imm) r s

def execAddi (g : Bool) (d a : Spec) (imm : BitVec 12) (s : State) : Host.Outcome State Fault Refusal :=
  alone (.addi g d a imm) (addiOp g d a imm) s

/-- MUL (R109): Push the low 64 bits of a × b. -/
def mulOp (g : Bool) (d a b : Spec) (r s : State) : Except Trap State :=
  alu2 g d a b (fun x y => x * y) r s

def execMul (g : Bool) (d a b : Spec) (s : State) : Host.Outcome State Fault Refusal :=
  alone (.mul g d a b) (mulOp g d a b) s

/-- MULH (R109): Push the high 64 bits of the signed product. -/
def mulhOp (g : Bool) (d a b : Spec) (r s : State) : Except Trap State :=
  alu2 g d a b (fun x y => BitVec.ofInt 64 (x.toInt * y.toInt / (2 : Int) ^ 64)) r s

def execMulh (g : Bool) (d a b : Spec) (s : State) : Host.Outcome State Fault Refusal :=
  alone (.mulh g d a b) (mulhOp g d a b) s

/-- MULHW (R109): Push the high 64 bits of the unsigned product. -/
def mulhwOp (g : Bool) (d a b : Spec) (r s : State) : Except Trap State :=
  alu2 g d a b (fun x y => BitVec.ofNat 64 (x.toNat * y.toNat / 2 ^ 64)) r s

def execMulhw (g : Bool) (d a b : Spec) (s : State) : Host.Outcome State Fault Refusal :=
  alone (.mulhw g d a b) (mulhwOp g d a b) s

/-- DIV (R110): Start a signed divide on the core's divider. -/
def divOp (g : Bool) (d a b : Spec) (r s : State) : Except Trap State :=
  alu2 g d a b (fun x y => divS x y) r s

def execDiv (g : Bool) (d a b : Spec) (s : State) : Host.Outcome State Fault Refusal :=
  aloneDivide g (.div g d a b) (divOp g d a b) s

/-- DIVW (R110): Start an unsigned divide on the core's divider. -/
def divwOp (g : Bool) (d a b : Spec) (r s : State) : Except Trap State :=
  alu2 g d a b (fun x y => divU x y) r s

def execDivw (g : Bool) (d a b : Spec) (s : State) : Host.Outcome State Fault Refusal :=
  aloneDivide g (.divw g d a b) (divwOp g d a b) s

/-- REM (R110): Start a signed remainder on the core's divider. -/
def remOp (g : Bool) (d a b : Spec) (r s : State) : Except Trap State :=
  alu2 g d a b (fun x y => remS x y) r s

def execRem (g : Bool) (d a b : Spec) (s : State) : Host.Outcome State Fault Refusal :=
  aloneDivide g (.rem g d a b) (remOp g d a b) s

/-- REMW (R110): Start an unsigned remainder on the core's divider. -/
def remwOp (g : Bool) (d a b : Spec) (r s : State) : Except Trap State :=
  alu2 g d a b (fun x y => remU x y) r s

def execRemw (g : Bool) (d a b : Spec) (s : State) : Host.Outcome State Fault Refusal :=
  aloneDivide g (.remw g d a b) (remwOp g d a b) s

/-- MIN (R109): Push the signed minimum. -/
def minOp (g : Bool) (d a b : Spec) (r s : State) : Except Trap State :=
  alu2 g d a b (fun x y => if x.toInt ≤ y.toInt then x else y) r s

def execMin (g : Bool) (d a b : Spec) (s : State) : Host.Outcome State Fault Refusal :=
  alone (.min g d a b) (minOp g d a b) s

/-- MAX (R109): Push the signed maximum. -/
def maxOp (g : Bool) (d a b : Spec) (r s : State) : Except Trap State :=
  alu2 g d a b (fun x y => if y.toInt ≤ x.toInt then x else y) r s

def execMax (g : Bool) (d a b : Spec) (s : State) : Host.Outcome State Fault Refusal :=
  alone (.max g d a b) (maxOp g d a b) s

/-- MINW (R109): Push the unsigned minimum. -/
def minwOp (g : Bool) (d a b : Spec) (r s : State) : Except Trap State :=
  alu2 g d a b (fun x y => if x.toNat ≤ y.toNat then x else y) r s

def execMinw (g : Bool) (d a b : Spec) (s : State) : Host.Outcome State Fault Refusal :=
  alone (.minw g d a b) (minwOp g d a b) s

/-- MAXW (R109): Push the unsigned maximum. -/
def maxwOp (g : Bool) (d a b : Spec) (r s : State) : Except Trap State :=
  alu2 g d a b (fun x y => if y.toNat ≤ x.toNat then x else y) r s

def execMaxw (g : Bool) (d a b : Spec) (s : State) : Host.Outcome State Fault Refusal :=
  alone (.maxw g d a b) (maxwOp g d a b) s

/-- ABS (R109): Push the absolute value of a. -/
def absOp (g : Bool) (d a : Spec) (r s : State) : Except Trap State :=
  alu1 g d a (fun x => if x.toInt < 0 then 0 - x else x) r s

def execAbs (g : Bool) (d a : Spec) (s : State) : Host.Outcome State Fault Refusal :=
  alone (.abs g d a) (absOp g d a) s

/-- AND (R111): Push a AND b. -/
def andOp (g : Bool) (d a b : Spec) (r s : State) : Except Trap State :=
  alu2 g d a b (fun x y => x &&& y) r s

def execAnd (g : Bool) (d a b : Spec) (s : State) : Host.Outcome State Fault Refusal :=
  alone (.and g d a b) (andOp g d a b) s

/-- OR (R111): Push a OR b. -/
def orOp (g : Bool) (d a b : Spec) (r s : State) : Except Trap State :=
  alu2 g d a b (fun x y => x ||| y) r s

def execOr (g : Bool) (d a b : Spec) (s : State) : Host.Outcome State Fault Refusal :=
  alone (.or g d a b) (orOp g d a b) s

/-- XOR (R111): Push a XOR b. -/
def xorOp (g : Bool) (d a b : Spec) (r s : State) : Except Trap State :=
  alu2 g d a b (fun x y => x ^^^ y) r s

def execXor (g : Bool) (d a b : Spec) (s : State) : Host.Outcome State Fault Refusal :=
  alone (.xor g d a b) (xorOp g d a b) s

/-- ANDN (R111): Push a AND NOT b. -/
def andnOp (g : Bool) (d a b : Spec) (r s : State) : Except Trap State :=
  alu2 g d a b (fun x y => x &&& ~~~y) r s

def execAndn (g : Bool) (d a b : Spec) (s : State) : Host.Outcome State Fault Refusal :=
  alone (.andn g d a b) (andnOp g d a b) s

/-- ORN (R111): Push a OR NOT b. -/
def ornOp (g : Bool) (d a b : Spec) (r s : State) : Except Trap State :=
  alu2 g d a b (fun x y => x ||| ~~~y) r s

def execOrn (g : Bool) (d a b : Spec) (s : State) : Host.Outcome State Fault Refusal :=
  alone (.orn g d a b) (ornOp g d a b) s

/-- ANDI (R111): Push a AND a zero-extended immediate. -/
def andiOp (g : Bool) (d a : Spec) (imm : BitVec 12) (r s : State) : Except Trap State :=
  alu1 g d a (fun x => x &&& zext12 imm) r s

def execAndi (g : Bool) (d a : Spec) (imm : BitVec 12) (s : State) : Host.Outcome State Fault Refusal :=
  alone (.andi g d a imm) (andiOp g d a imm) s

/-- ORI (R111): Push a OR a zero-extended immediate. -/
def oriOp (g : Bool) (d a : Spec) (imm : BitVec 12) (r s : State) : Except Trap State :=
  alu1 g d a (fun x => x ||| zext12 imm) r s

def execOri (g : Bool) (d a : Spec) (imm : BitVec 12) (s : State) : Host.Outcome State Fault Refusal :=
  alone (.ori g d a imm) (oriOp g d a imm) s

/-- XORI (R111): Push a XOR a zero-extended immediate. -/
def xoriOp (g : Bool) (d a : Spec) (imm : BitVec 12) (r s : State) : Except Trap State :=
  alu1 g d a (fun x => x ^^^ zext12 imm) r s

def execXori (g : Bool) (d a : Spec) (imm : BitVec 12) (s : State) : Host.Outcome State Fault Refusal :=
  alone (.xori g d a imm) (xoriOp g d a imm) s

/-- SHL (R111): Shift left by b[5:0]. -/
def shlOp (g : Bool) (d a b : Spec) (r s : State) : Except Trap State :=
  alu2 g d a b (fun x y => x <<< (y.toNat % 64)) r s

def execShl (g : Bool) (d a b : Spec) (s : State) : Host.Outcome State Fault Refusal :=
  alone (.shl g d a b) (shlOp g d a b) s

/-- SHR (R111): Shift right logically by b[5:0]. -/
def shrOp (g : Bool) (d a b : Spec) (r s : State) : Except Trap State :=
  alu2 g d a b (fun x y => x >>> (y.toNat % 64)) r s

def execShr (g : Bool) (d a b : Spec) (s : State) : Host.Outcome State Fault Refusal :=
  alone (.shr g d a b) (shrOp g d a b) s

/-- SAR (R111): Shift right arithmetically by b[5:0]. -/
def sarOp (g : Bool) (d a b : Spec) (r s : State) : Except Trap State :=
  alu2 g d a b (fun x y => x.sshiftRight (y.toNat % 64)) r s

def execSar (g : Bool) (d a b : Spec) (s : State) : Host.Outcome State Fault Refusal :=
  alone (.sar g d a b) (sarOp g d a b) s

/-- ROL (R111): Rotate left by b[5:0]. -/
def rolOp (g : Bool) (d a b : Spec) (r s : State) : Except Trap State :=
  alu2 g d a b (fun x y => x.rotateLeft (y.toNat % 64)) r s

def execRol (g : Bool) (d a b : Spec) (s : State) : Host.Outcome State Fault Refusal :=
  alone (.rol g d a b) (rolOp g d a b) s

/-- SHLI (R111): Shift left by the amount in f. -/
def shliOp (g : Bool) (d a : Spec) (f : BitVec 6) (r s : State) : Except Trap State :=
  alu1 g d a (fun x => x <<< f.toNat) r s

def execShli (g : Bool) (d a : Spec) (f : BitVec 6) (s : State) : Host.Outcome State Fault Refusal :=
  alone (.shli g d a f) (shliOp g d a f) s

/-- SHRI (R111): Shift right logically by the amount in f. -/
def shriOp (g : Bool) (d a : Spec) (f : BitVec 6) (r s : State) : Except Trap State :=
  alu1 g d a (fun x => x >>> f.toNat) r s

def execShri (g : Bool) (d a : Spec) (f : BitVec 6) (s : State) : Host.Outcome State Fault Refusal :=
  alone (.shri g d a f) (shriOp g d a f) s

/-- SARI (R111): Shift right arithmetically by the amount in f. -/
def sariOp (g : Bool) (d a : Spec) (f : BitVec 6) (r s : State) : Except Trap State :=
  alu1 g d a (fun x => x.sshiftRight f.toNat) r s

def execSari (g : Bool) (d a : Spec) (f : BitVec 6) (s : State) : Host.Outcome State Fault Refusal :=
  alone (.sari g d a f) (sariOp g d a f) s

/-- ROLI (R111): Rotate left by the amount in f. -/
def roliOp (g : Bool) (d a : Spec) (f : BitVec 6) (r s : State) : Except Trap State :=
  alu1 g d a (fun x => x.rotateLeft f.toNat) r s

def execRoli (g : Bool) (d a : Spec) (f : BitVec 6) (s : State) : Host.Outcome State Fault Refusal :=
  alone (.roli g d a f) (roliOp g d a f) s

/-- CEQ (R112): Push 1 if a = b. -/
def ceqOp (g : Bool) (d a b : Spec) (r s : State) : Except Trap State :=
  alu2 g d a b (fun x y => flag01 (x == y)) r s

def execCeq (g : Bool) (d a b : Spec) (s : State) : Host.Outcome State Fault Refusal :=
  alone (.ceq g d a b) (ceqOp g d a b) s

/-- CNE (R112): Push 1 if a ≠ b. -/
def cneOp (g : Bool) (d a b : Spec) (r s : State) : Except Trap State :=
  alu2 g d a b (fun x y => flag01 (x != y)) r s

def execCne (g : Bool) (d a b : Spec) (s : State) : Host.Outcome State Fault Refusal :=
  alone (.cne g d a b) (cneOp g d a b) s

/-- CLT (R112): Push 1 if a < b signed. -/
def cltOp (g : Bool) (d a b : Spec) (r s : State) : Except Trap State :=
  alu2 g d a b (fun x y => flag01 (x.slt y)) r s

def execClt (g : Bool) (d a b : Spec) (s : State) : Host.Outcome State Fault Refusal :=
  alone (.clt g d a b) (cltOp g d a b) s

/-- CLE (R112): Push 1 if a ≤ b signed. -/
def cleOp (g : Bool) (d a b : Spec) (r s : State) : Except Trap State :=
  alu2 g d a b (fun x y => flag01 (x.sle y)) r s

def execCle (g : Bool) (d a b : Spec) (s : State) : Host.Outcome State Fault Refusal :=
  alone (.cle g d a b) (cleOp g d a b) s

/-- CLTW (R112): Push 1 if a < b unsigned. -/
def cltwOp (g : Bool) (d a b : Spec) (r s : State) : Except Trap State :=
  alu2 g d a b (fun x y => flag01 (x.ult y)) r s

def execCltw (g : Bool) (d a b : Spec) (s : State) : Host.Outcome State Fault Refusal :=
  alone (.cltw g d a b) (cltwOp g d a b) s

/-- CLEW (R112): Push 1 if a ≤ b unsigned. -/
def clewOp (g : Bool) (d a b : Spec) (r s : State) : Except Trap State :=
  alu2 g d a b (fun x y => flag01 (x.ule y)) r s

def execClew (g : Bool) (d a b : Spec) (s : State) : Host.Outcome State Fault Refusal :=
  alone (.clew g d a b) (clewOp g d a b) s

/-- CEQI (R112): Push 1 if a equals a sign-extended immediate. -/
def ceqiOp (g : Bool) (d a : Spec) (imm : BitVec 12) (r s : State) : Except Trap State :=
  alu1 g d a (fun x => flag01 (x == sext12 imm)) r s

def execCeqi (g : Bool) (d a : Spec) (imm : BitVec 12) (s : State) : Host.Outcome State Fault Refusal :=
  alone (.ceqi g d a imm) (ceqiOp g d a imm) s

/-- CLTI (R112): Push 1 if a is less than a sign-extended immediate. -/
def cltiOp (g : Bool) (d a : Spec) (imm : BitVec 12) (r s : State) : Except Trap State :=
  alu1 g d a (fun x => flag01 (x.slt (sext12 imm))) r s

def execClti (g : Bool) (d a : Spec) (imm : BitVec 12) (s : State) : Host.Outcome State Fault Refusal :=
  alone (.clti g d a imm) (cltiOp g d a imm) s

/-- CLZ (R113): Push the count of leading zeros. -/
def clzOp (g : Bool) (d a : Spec) (r s : State) : Except Trap State :=
  alu1 g d a (fun x => BitVec.ofNat 64 (clz64 x)) r s

def execClz (g : Bool) (d a : Spec) (s : State) : Host.Outcome State Fault Refusal :=
  alone (.clz g d a) (clzOp g d a) s

/-- CTZ (R113): Push the count of trailing zeros. -/
def ctzOp (g : Bool) (d a : Spec) (r s : State) : Except Trap State :=
  alu1 g d a (fun x => BitVec.ofNat 64 (ctz64 x)) r s

def execCtz (g : Bool) (d a : Spec) (s : State) : Host.Outcome State Fault Refusal :=
  alone (.ctz g d a) (ctzOp g d a) s

/-- POPC (R113): Push the number of 1 bits. -/
def popcOp (g : Bool) (d a : Spec) (r s : State) : Except Trap State :=
  alu1 g d a (fun x => BitVec.ofNat 64 (popc 64 x)) r s

def execPopc (g : Bool) (d a : Spec) (s : State) : Host.Outcome State Fault Refusal :=
  alone (.popc g d a) (popcOp g d a) s

/-- BREV (R113): Push a with its bits reversed. -/
def brevOp (g : Bool) (d a : Spec) (r s : State) : Except Trap State :=
  alu1 g d a (fun x => BitVec.ofNat 64 (brev 64 x)) r s

def execBrev (g : Bool) (d a : Spec) (s : State) : Host.Outcome State Fault Refusal :=
  alone (.brev g d a) (brevOp g d a) s

/-- BSWAP (R113): Push a with its bytes reversed. -/
def bswapOp (g : Bool) (d a : Spec) (r s : State) : Except Trap State :=
  alu1 g d a (fun x => wordOfBytes (bytesOfWord 8 x).reverse) r s

def execBswap (g : Bool) (d a : Spec) (s : State) : Host.Outcome State Fault Refusal :=
  alone (.bswap g d a) (bswapOp g d a) s

/-- EXTS (R114): Push a bit field sign-extended. -/
def extsOp (g : Bool) (d a : Spec) (len pos : BitVec 6) (r s : State) : Except Trap State :=
  alu1 g d a (fun x => fieldS x pos.toNat len.toNat) r s

def execExts (g : Bool) (d a : Spec) (len pos : BitVec 6) (s : State) : Host.Outcome State Fault Refusal :=
  alone (.exts g d a len pos) (extsOp g d a len pos) s

/-- EXTZ (R114): Push a bit field zero-extended. -/
def extzOp (g : Bool) (d a : Spec) (len pos : BitVec 6) (r s : State) : Except Trap State :=
  alu1 g d a (fun x => fieldZ x pos.toNat len.toNat) r s

def execExtz (g : Bool) (d a : Spec) (len pos : BitVec 6) (s : State) : Host.Outcome State Fault Refusal :=
  alone (.extz g d a len pos) (extzOp g d a len pos) s

/-- INS (R115): Insert the low bits of b into a at the position and length given by c. -/
def insOp (g : Bool) (d a b c : Spec) (r s : State) : Except Trap State :=
  alu3 g d a b c (fun x y z => insField s.cur.slot x y z) r s

def execIns (g : Bool) (d a b c : Spec) (s : State) : Host.Outcome State Fault Refusal :=
  alone (.ins g d a b c) (insOp g d a b c) s

/-- BPERM (R116): Build a 32-bit value from eight source bytes under control c. -/
def bpermOp (g : Bool) (d a b c : Spec) (r s : State) : Except Trap State :=
  alu3 g d a b c (fun x y z => bpermWord s.cur.slot x y z) r s

def execBperm (g : Bool) (d a b c : Spec) (s : State) : Host.Outcome State Fault Refusal :=
  alone (.bperm g d a b c) (bpermOp g d a b c) s

/-- BSET (R117): Push a with bit f set. -/
def bsetOp (g : Bool) (d a : Spec) (f : BitVec 6) (r s : State) : Except Trap State :=
  alu1 g d a (fun x => x ||| ((1 : Word) <<< f.toNat)) r s

def execBset (g : Bool) (d a : Spec) (f : BitVec 6) (s : State) : Host.Outcome State Fault Refusal :=
  alone (.bset g d a f) (bsetOp g d a f) s

/-- BCLR (R117): Push a with bit f cleared. -/
def bclrOp (g : Bool) (d a : Spec) (f : BitVec 6) (r s : State) : Except Trap State :=
  alu1 g d a (fun x => x &&& ~~~((1 : Word) <<< f.toNat)) r s

def execBclr (g : Bool) (d a : Spec) (f : BitVec 6) (s : State) : Host.Outcome State Fault Refusal :=
  alone (.bclr g d a f) (bclrOp g d a f) s

/-- BTST (R117): Push bit f of a. -/
def btstOp (g : Bool) (d a : Spec) (f : BitVec 6) (r s : State) : Except Trap State :=
  alu1 g d a (fun x => flag01 (x.getLsbD f.toNat)) r s

def execBtst (g : Bool) (d a : Spec) (f : BitVec 6) (s : State) : Host.Outcome State Fault Refusal :=
  alone (.btst g d a f) (btstOp g d a f) s

/-- BFLIP (R117): Push a with bit f inverted. -/
def bflipOp (g : Bool) (d a : Spec) (f : BitVec 6) (r s : State) : Except Trap State :=
  alu1 g d a (fun x => x ^^^ ((1 : Word) <<< f.toNat)) r s

def execBflip (g : Bool) (d a : Spec) (f : BitVec 6) (s : State) : Host.Outcome State Fault Refusal :=
  alone (.bflip g d a f) (bflipOp g d a f) s

/-- MOV (R118): Push a. -/
def movOp (g : Bool) (d a : Spec) (r s : State) : Except Trap State :=
  alu1 g d a (fun x => x) r s

def execMov (g : Bool) (d a : Spec) (s : State) : Host.Outcome State Fault Refusal :=
  alone (.mov g d a) (movOp g d a) s

/-- MOVZ (R118): Push a 16-bit immediate shifted by 16·h. -/
def movzOp (g : Bool) (d : Spec) (h : BitVec 2) (imm : BitVec 16) (r s : State) : Except Trap State :=
  scalarOp g [] d 0 (.ok ((imm.setWidth 64 : Word) <<< (16 * h.toNat), stNone)) r s

def execMovz (g : Bool) (d : Spec) (h : BitVec 2) (imm : BitVec 16) (s : State) : Host.Outcome State Fault Refusal :=
  alone (.movz g d h imm) (movzOp g d h imm) s

/-- MOVK (R118): Replace one 16-bit field of n[d] with an immediate. -/
def movkOp (g : Bool) (d : Spec) (h : BitVec 2) (imm : BitVec 16) (r s : State) : Except Trap State :=
  let x := specVal r s.cur.cx d
  scalarOp g [d] d x (.ok (movkWord x h imm, stNone)) r s

def execMovk (g : Bool) (d : Spec) (h : BitVec 2) (imm : BitVec 16) (s : State) : Host.Outcome State Fault Refusal :=
  alone (.movk g d h imm) (movkOp g d h imm) s

/-- SEL (R118): Push a if c is nonzero, else b. -/
def selOp (g : Bool) (d a b c : Spec) (r s : State) : Except Trap State :=
  alu3 g d a b c (fun x y z => .ok (if z != 0 then x else y, stNone)) r s

def execSel (g : Bool) (d a b c : Spec) (s : State) : Host.Outcome State Fault Refusal :=
  alone (.sel g d a b c) (selOp g d a b c) s

/-- LEA (R118): Push a + (b << f). -/
def leaOp (g : Bool) (d a b : Spec) (f : BitVec 6) (r s : State) : Except Trap State :=
  alu2 g d a b (fun x y => x + (y <<< f.toNat)) r s

def execLea (g : Bool) (d a b : Spec) (f : BitVec 6) (s : State) : Host.Outcome State Fault Refusal :=
  alone (.lea g d a b f) (leaOp g d a b f) s

/-- FADD (R119): FP32 add in the given rounding mode. -/
def faddOp (g : Bool) (d a b : Spec) (rm : BitVec 2) (r s : State) : Except Trap State :=
  fpu2 g d a b (fun x y => fp32.add (rmOf rm) x y) r s

def execFadd (g : Bool) (d a b : Spec) (rm : BitVec 2) (s : State) : Host.Outcome State Fault Refusal :=
  alone (.fadd g d a b rm) (faddOp g d a b rm) s

/-- FSUB (R119): FP32 subtract in the given rounding mode. -/
def fsubOp (g : Bool) (d a b : Spec) (rm : BitVec 2) (r s : State) : Except Trap State :=
  fpu2 g d a b (fun x y => fp32.sub (rmOf rm) x y) r s

def execFsub (g : Bool) (d a b : Spec) (rm : BitVec 2) (s : State) : Host.Outcome State Fault Refusal :=
  alone (.fsub g d a b rm) (fsubOp g d a b rm) s

/-- FMUL (R119): FP32 multiply in the given rounding mode. -/
def fmulOp (g : Bool) (d a b : Spec) (rm : BitVec 2) (r s : State) : Except Trap State :=
  fpu2 g d a b (fun x y => fp32.mul (rmOf rm) x y) r s

def execFmul (g : Bool) (d a b : Spec) (rm : BitVec 2) (s : State) : Host.Outcome State Fault Refusal :=
  alone (.fmul g d a b rm) (fmulOp g d a b rm) s

/-- FMA (R119): FP32 fused multiply-add, rounded once in RNE. -/
def fmaOp (g : Bool) (d a b c : Spec) (r s : State) : Except Trap State :=
  alu3 g d a b c (fun x y z => .ok (fpRes (fp32.fma .rne (fpArg x) (fpArg y) (fpArg z)))) r s

def execFma (g : Bool) (d a b c : Spec) (s : State) : Host.Outcome State Fault Refusal :=
  alone (.fma g d a b c) (fmaOp g d a b c) s

/-- FMIN (R119): FP32 minimum. -/
def fminOp (g : Bool) (d a b : Spec) (r s : State) : Except Trap State :=
  fpu2 g d a b (fun x y => fp32.min x y) r s

def execFmin (g : Bool) (d a b : Spec) (s : State) : Host.Outcome State Fault Refusal :=
  alone (.fmin g d a b) (fminOp g d a b) s

/-- FMAX (R119): FP32 maximum. -/
def fmaxOp (g : Bool) (d a b : Spec) (r s : State) : Except Trap State :=
  fpu2 g d a b (fun x y => fp32.max x y) r s

def execFmax (g : Bool) (d a b : Spec) (s : State) : Host.Outcome State Fault Refusal :=
  alone (.fmax g d a b) (fmaxOp g d a b) s

/-- FCMP (R120): FP32 compare under a condition, pushing 1 or 0. -/
def fcmpOp (g : Bool) (d a b : Spec) (cond : BitVec 3) (r s : State) : Except Trap State :=
  fpu2 g d a b (fun x y => ((fp32.cmp cond x y).1.toNat, (fp32.cmp cond x y).2)) r s

def execFcmp (g : Bool) (d a b : Spec) (cond : BitVec 3) (s : State) : Host.Outcome State Fault Refusal :=
  alone (.fcmp g d a b cond) (fcmpOp g d a b cond) s

/-- FCVTF (R121): Convert an integer to FP32. -/
def fcvtfOp (g : Bool) (d a : Spec) (t rm : BitVec 2) (r s : State) : Except Trap State :=
  fpu1 g d a (fun x => fpRes (fp32.ofInt (rmOf rm) (cvtSrc t x))) r s

def execFcvtf (g : Bool) (d a : Spec) (t rm : BitVec 2) (s : State) : Host.Outcome State Fault Refusal :=
  alone (.fcvtf g d a t rm) (fcvtfOp g d a t rm) s

/-- FCVTI (R121): Convert FP32 to an integer. -/
def fcvtiOp (g : Bool) (d a : Spec) (t rm : BitVec 2) (r s : State) : Except Trap State :=
  fpu1 g d a (fun x => cvtInt t rm x) r s

def execFcvti (g : Bool) (d a : Spec) (t rm : BitVec 2) (s : State) : Host.Outcome State Fault Refusal :=
  alone (.fcvti g d a t rm) (fcvtiOp g d a t rm) s

/-- FABS (R119): FP32 absolute value. -/
def fabsOp (g : Bool) (d a : Spec) (r s : State) : Except Trap State :=
  fpu1 g d a (fun x => fpRes (fp32.abs (fpArg x), stNone)) r s

def execFabs (g : Bool) (d a : Spec) (s : State) : Host.Outcome State Fault Refusal :=
  alone (.fabs g d a) (fabsOp g d a) s

/-- FNEG (R119): FP32 negation. -/
def fnegOp (g : Bool) (d a : Spec) (r s : State) : Except Trap State :=
  fpu1 g d a (fun x => fpRes (fp32.negate (fpArg x), stNone)) r s

def execFneg (g : Bool) (d a : Spec) (s : State) : Host.Outcome State Fault Refusal :=
  alone (.fneg g d a) (fnegOp g d a) s

/-- NOP_SA (R94): No operation in S1, pushing nothing. -/
def nopSaOp (_g : Bool) (s : State) : State := s

def execNopSa (g : Bool) (s : State) : Host.Outcome State Fault Refusal := .next (nopSaOp g s)

/-- NOP_SB (R94): No operation in S2, pushing nothing. -/
def nopSbOp (_g : Bool) (s : State) : State := s

def execNopSb (g : Bool) (s : State) : Host.Outcome State Fault Refusal := .next (nopSbOp g s)

/-- The effect of an S1 or S2 op; every other instruction has none here. -/
def scalarEffect (i : Instr) (r s : State) : Except Trap State :=
  match i with
  | .add g d a b => addOp g d a b r s
  | .sub g d a b => subOp g d a b r s
  | .addi g d a imm => addiOp g d a imm r s
  | .mul g d a b => mulOp g d a b r s
  | .mulh g d a b => mulhOp g d a b r s
  | .mulhw g d a b => mulhwOp g d a b r s
  | .div g d a b => divOp g d a b r s
  | .divw g d a b => divwOp g d a b r s
  | .rem g d a b => remOp g d a b r s
  | .remw g d a b => remwOp g d a b r s
  | .min g d a b => minOp g d a b r s
  | .max g d a b => maxOp g d a b r s
  | .minw g d a b => minwOp g d a b r s
  | .maxw g d a b => maxwOp g d a b r s
  | .abs g d a => absOp g d a r s
  | .and g d a b => andOp g d a b r s
  | .or g d a b => orOp g d a b r s
  | .xor g d a b => xorOp g d a b r s
  | .andn g d a b => andnOp g d a b r s
  | .orn g d a b => ornOp g d a b r s
  | .andi g d a imm => andiOp g d a imm r s
  | .ori g d a imm => oriOp g d a imm r s
  | .xori g d a imm => xoriOp g d a imm r s
  | .shl g d a b => shlOp g d a b r s
  | .shr g d a b => shrOp g d a b r s
  | .sar g d a b => sarOp g d a b r s
  | .rol g d a b => rolOp g d a b r s
  | .shli g d a f => shliOp g d a f r s
  | .shri g d a f => shriOp g d a f r s
  | .sari g d a f => sariOp g d a f r s
  | .roli g d a f => roliOp g d a f r s
  | .ceq g d a b => ceqOp g d a b r s
  | .cne g d a b => cneOp g d a b r s
  | .clt g d a b => cltOp g d a b r s
  | .cle g d a b => cleOp g d a b r s
  | .cltw g d a b => cltwOp g d a b r s
  | .clew g d a b => clewOp g d a b r s
  | .ceqi g d a imm => ceqiOp g d a imm r s
  | .clti g d a imm => cltiOp g d a imm r s
  | .clz g d a => clzOp g d a r s
  | .ctz g d a => ctzOp g d a r s
  | .popc g d a => popcOp g d a r s
  | .brev g d a => brevOp g d a r s
  | .bswap g d a => bswapOp g d a r s
  | .exts g d a len pos => extsOp g d a len pos r s
  | .extz g d a len pos => extzOp g d a len pos r s
  | .ins g d a b c => insOp g d a b c r s
  | .bperm g d a b c => bpermOp g d a b c r s
  | .bset g d a f => bsetOp g d a f r s
  | .bclr g d a f => bclrOp g d a f r s
  | .btst g d a f => btstOp g d a f r s
  | .bflip g d a f => bflipOp g d a f r s
  | .mov g d a => movOp g d a r s
  | .movz g d h imm => movzOp g d h imm r s
  | .movk g d h imm => movkOp g d h imm r s
  | .sel g d a b c => selOp g d a b c r s
  | .lea g d a b f => leaOp g d a b f r s
  | .fadd g d a b rm => faddOp g d a b rm r s
  | .fsub g d a b rm => fsubOp g d a b rm r s
  | .fmul g d a b rm => fmulOp g d a b rm r s
  | .fma g d a b c => fmaOp g d a b c r s
  | .fmin g d a b => fminOp g d a b r s
  | .fmax g d a b => fmaxOp g d a b r s
  | .fcmp g d a b cond => fcmpOp g d a b cond r s
  | .fcvtf g d a t rm => fcvtfOp g d a t rm r s
  | .fcvti g d a t rm => fcvtiOp g d a t rm r s
  | .fabs g d a => fabsOp g d a r s
  | .fneg g d a => fnegOp g d a r s
  | .nopSa g => .ok (nopSaOp g s)
  | .nopSb g => .ok (nopSbOp g s)
  | _ => .ok s

end Sys2Proof.Machine
end

