-- ==== Sys2Proof/Machine/Control.lean ====
section
/-!
DEFINITION. The instructions of slot S0 and the system registers (02 R77–R93). An op's first part takes effect at issue
with the other slots; its second part takes effect after them (transfers, `LOOP`, `YIELD`, `EXIT`, `TRAP`, `RFT`).
-/

namespace Sys2Proof.Machine

/-- The precise trap of an S0 op. -/
def trap0 (cause : Nat) (info : Word := 0) : Trap := { cause := cause, slot := 0, info1 := info }

def trapIllegalBundle : Nat := 0x02
def trapOperandRange : Nat := 0x04
def trapPrivilege : Nat := 0x05

/-- The energy grant in force: floor(BFW × (8 − L) / 8) (R390). -/
def grantOf (bfw : BitVec 9) (l : BitVec 3) : Nat := bfw.toNat * (8 - l.toNat) / 8

/-- `EWGRANT` of a context (R390). -/
def ewgrant (s : State) (cx : Nat) : Word :=
  let k := s.core (coreOf cx)
  let cl := s.cluster (clusterOf cx)
  BitVec.ofNat 64 (grantOf k.bfw cl.limit + k.bfw.toNat * 2 ^ 9 + cl.limit.toNat * 2 ^ 18 +
    (match cl.move with | some (t, _) => t | none => cl.step.toNat) * 2 ^ 32 +
    cl.move.isSome.toNat * 2 ^ 37 + (s.ctx cx).stalls.toNat * 2 ^ 40)

/-- `WDOG` of a context: the launch's remaining µs (R383). -/
def wdogOf (s : State) (cx : Nat) : Word :=
  match (s.ctx cx).launch with
  | none => 0xFFFFFFFF
  | some l =>
    match (mget {} l s.launches).wdog with
    | none => 0xFFFFFFFF
    | some ns => BitVec.ofNat 64 ((ns + 999) / 1000 % 2 ^ 32)

/-- A system register as an `MFS` reads it (R88). -/
def sysRead (s : State) (cx : Nat) (n : BitVec 12) : Word :=
  let c := s.ctx cx
  let k := n.toNat
  if 0x100 ≤ k && k < 0x120 then c.prog.get (k - 0x100)
  else if 0x120 ≤ k && k < 0x130 then c.prog.q.getD (k - 0x120) 0
  else
    match k with
    | 0x00 => BitVec.ofNat 64 cx
    | 0x01 => c.launchid
    | 0x02 => c.trapvec.setWidth 64
    | 0x03 => c.trapcause
    | 0x04 => c.trappc
    | 0x05 => c.info0
    | 0x06 => c.info1
    | 0x07 => c.savebase
    | 0x08 => BitVec.ofNat 64 (c.tbase % 2 ^ 9 + c.tsize.toNat * 2 ^ 9 + c.tshared.toNat * 2 ^ 11)
    | 0x09 => c.accbanks
    | 0x0A => c.engfail
    | 0x0B => c.flags.setWidth 64
    | 0x0C => c.fpstatus.setWidth 64
    | 0x10 => ewgrant s cx
    | 0x11 => (s.core (coreOf cx)).ewtable
    | 0x20 => BitVec.ofNat 64 (s.mt (dieOf cx))
    | 0x21 => (s.die (dieOf cx)).mtskew
    | 0x22 => specVal s cx 61
    | 0x23 => c.rcount.setWidth 64 ||| (c.rrun.setWidth 64 <<< 32)
    | 0x30 => c.pageroot
    | 0x31 => c.asid
    | 0x40 => wdogOf s cx
    | 0x41 => c.res
    | _ => 0

/-- Whether a system register is privileged for writing (R88). -/
def sysPriv (n : BitVec 12) : Bool :=
  let k := n.toNat
  (2 ≤ k && k ≤ 7) || k == 0x11 || k == 0x30 || k == 0x31

/-- Whether a system register is reached at system level only (R88). -/
def sysOnly (n : BitVec 12) : Bool := 0x100 ≤ n.toNat && n.toNat < 0x130

/-- The write-back of a context's dirty vector registers to its save area, from register `n − 1` down (R102). -/
def writeBack (cx : Nat) : Nat → State → State
  | 0, s => s
  | n + 1, s =>
    let c := s.ctx cx
    let s := if c.vvalid.getLsbD n && c.vdirty.getLsbD n then s.putTile (areaKey c.savebase + 4096 * n) (mget [] n c.v) else s
    writeBack cx n s

/-- A write to `SAVEBASE` (R102, R145): dirty registers to the old area, every slot invalid, the new base; a die outside
the module is out of range. -/
def savebaseWriteOp (v : Word) (s : State) : Except Trap State :=
  let cx := s.cur.cx
  if cornerOf (v.extractLsb' 52 12).toNat = cornerOf (dieOf cx) then
    .ok ((writeBack cx 64 s).updCtx cx fun c =>
      { c with vvalid := 0, vdirty := 0, savebase := v &&& ~~~(0xFFFFF : Word) })
  else .error (trap0 trapOperandRange v)

/-- A write to `FLAGS` (R93). -/
def flagsWriteOp (v : Word) (s : State) : State := s.updCtx s.cur.cx fun c => { c with flags := v.setWidth 16 }

/-- A write to `ENGFAIL` (R92). -/
def engfailWriteOp (v : Word) (s : State) : State := s.updCtx s.cur.cx fun c => c.writeEngfail v

/-- A write to `FPSTATUS` (R130, R131). -/
def fpstatusWriteOp (v : Word) (s : State) : State := s.updCtx s.cur.cx fun c => { c with fpstatus := v.setWidth 6 }

/-- A write to a `PN` register: the program-level register, its presence bit set, its poison bit cleared (R85, R100). -/
def pnWriteOp (i : BitVec 5) (v : Word) (s : State) : State :=
  s.updCtx s.cur.cx fun c => { c with prog := c.prog.put i.toNat v }

/-- A write to `EWTABLE`: the core's energy table (R389). -/
def ewtableWriteOp (v : Word) (s : State) : State := s.updCore (coreOf s.cur.cx) fun k => { k with ewtable := v }

/-- A write to a system register that has no row of its own, field by field (R10, R88): read-only registers and reserved
fields ignore it. -/
def sysPlainWrite (n : BitVec 12) (v : Word) (c : Ctx) : Ctx :=
  let k := n.toNat
  if 0x120 ≤ k && k < 0x130 then { c with prog := { c.prog with q := c.prog.q.set (k - 0x120) v } }
  else
    match k with
    | 0x02 => { c with trapvec := v.setWidth 16 }
    | 0x03 => { c with trapcause := v &&& (0xFFFFFFFFF : Word) }
    | 0x04 => { c with trappc := v &&& (0x7FFF : Word) }
    | 0x05 => { c with info0 := v &&& ~~~(0xFC00 : Word) }
    | 0x06 => { c with info1 := v }
    | 0x30 => { c with pageroot := v &&& (0xFFFFFFFFFF001 : Word) }
    | 0x31 => { c with asid := v &&& (0xFFFF : Word) }
    | _ => c

/-- A write to a system register (R85, R88). -/
def sysWrite (n : BitVec 12) (v : Word) (s : State) : Except Trap State :=
  let k := n.toNat
  if 0x100 ≤ k && k < 0x120 then .ok (pnWriteOp (BitVec.ofNat 5 k) v s)
  else
    match k with
    | 0x07 => savebaseWriteOp v s
    | 0x0A => .ok (engfailWriteOp v s)
    | 0x0B => .ok (flagsWriteOp v s)
    | 0x0C => .ok (fpstatusWriteOp v s)
    | 0x11 => .ok (ewtableWriteOp v s)
    | _ => .ok (s.updCtx s.cur.cx (sysPlainWrite n v))

/-- The innermost entries that a unit sequence ending at `nxt` completes: the stack left and the back-edge taken, if one
is (R79). -/
def loopEnd (nxt : Nat) : List LoopEntry → List LoopEntry × Option Nat
  | [] => ([], none)
  | e :: es =>
    if e.stop = nxt then
      if 1 < e.count then ({ e with count := e.count - 1 } :: es, some e.start) else loopEnd nxt es
    else (e :: es, none)

/-- The end of a bundle with no taken transfer at `nxt`: back-edge or next unit (R79). -/
def Ctx.fallThrough (c : Ctx) (nxt : Nat) : Ctx :=
  let (es, back) := loopEnd nxt c.loops
  { c with loops := es, pc := back.getD nxt, mid := false, rcLeft := 0 }

/-- The loop stack after a taken transfer to `target`: entries whose body does not hold it are popped (R79). -/
def loopLeave (target : Nat) : List LoopEntry → List LoopEntry
  | [] => []
  | e :: es => if e.start ≤ target && target < e.stop then e :: es else loopLeave target es

/-- A taken `BR`, `JMP` or `RET` (R78, R79). -/
def Ctx.goto (c : Ctx) (target : Nat) : Ctx :=
  { c with pc := target, loops := loopLeave target c.loops, mid := false, rcLeft := 0 }

/-- The target of a relative transfer, if it lies in the bank (R17, R78). -/
def relTarget (pc : Nat) (off : BitVec 24) : Option Nat :=
  let t : Int := pcIdx pc + off.toInt
  if 0 ≤ t && t < 16384 then some (mkPc (pcBank pc) t.toNat) else none

/-- The target of an absolute transfer, if it names the current bank (R17). -/
def absTarget (pc : Nat) (v : Word) : Option Nat :=
  if v >>> 15 == 0 && v.toNat / 2 ^ 14 == pcBank pc then some (pcOfArch v.toNat) else none

/-- The units of a bundle's successor in the 15-bit form (R78). -/
def linkOf (s : State) : Word := BitVec.ofNat 64 (archPc s.cur.nxt)

/-- BR (R78): the target must lie in the bank. -/
def brOp (off : BitVec 24) (s : State) : Except Trap State :=
  if (relTarget s.cur.pc off).isSome then .ok s else .error (trap0 trapIllegalBundle)
def brPost (off : BitVec 24) (s : State) : State :=
  s.updCtx s.cur.cx fun c => match relTarget s.cur.pc off with | some t => c.goto t | none => c

/-- CALL (R78): the link to `n31`, then the transfer, which pops no loop. -/
def callOp (off : BitVec 24) (s : State) : Except Trap State :=
  if (relTarget s.cur.pc off).isSome then .ok (s.updCtx s.cur.cx fun c => c.setRegs (c.regs.put 31 (linkOf s)))
  else .error (trap0 trapIllegalBundle)
def callPost (off : BitVec 24) (s : State) : State :=
  s.updCtx s.cur.cx fun c =>
    match relTarget s.cur.pc off with
    | some t => { c with pc := t, mid := false, rcLeft := 0 }
    | none => c

/-- JMP (R78). -/
def jmpOp (a : Spec) (r s : State) : Except Trap State :=
  let v := specVal r s.cur.cx a
  if (absTarget s.cur.pc v).isSome then .ok s else .error (trap0 trapOperandRange v)
def jmpPost (a : Spec) (r s : State) : State :=
  s.updCtx s.cur.cx fun c => match absTarget s.cur.pc (specVal r s.cur.cx a) with | some t => c.goto t | none => c

/-- RET (R78): through `n31`. -/
def retOp (r s : State) : Except Trap State :=
  let v := specVal r s.cur.cx 47
  if (absTarget s.cur.pc v).isSome then .ok s else .error (trap0 trapOperandRange v)
def retPost (r s : State) : State :=
  s.updCtx s.cur.cx fun c => match absTarget s.cur.pc (specVal r s.cur.cx 47) with | some t => c.goto t | none => c

/-- LOOP (R79): the count and the room on the loop stack; a body past the end of the bank is illegal. -/
def loopOp (a : Spec) (len : BitVec 12) (r s : State) : Except Trap State :=
  let v := specVal r s.cur.cx a
  if 16384 < pcIdx s.cur.nxt + len.toNat then .error (trap0 trapIllegalBundle)
  else if 2 ^ 32 ≤ v.toNat || 2 ≤ (r.ctx s.cur.cx).loops.length then .error (trap0 trapOperandRange v)
  else .ok s
def loopPost (a : Spec) (len : BitVec 12) (r s : State) : State :=
  let v := specVal r s.cur.cx a
  s.updCtx s.cur.cx fun c =>
    if v = 0 then c.fallThrough (s.cur.nxt + len.toNat)
    else
      { c with
        loops := { start := s.cur.nxt, stop := s.cur.nxt + len.toNat, bank := pcBank s.cur.pc, count := v.toNat } :: c.loops
        pc := s.cur.nxt, mid := false, rcLeft := 0 }

/-- BRX (R78): the other bank; the loop stack is emptied. -/
def brxPost (u : BitVec 14) (s : State) : State :=
  s.updCtx s.cur.cx fun c => { c with pc := mkPc (1 - pcBank s.cur.pc) u.toNat, loops := [], mid := false, rcLeft := 0 }

/-- WAITF and PEEKF trap when a masked flag has failed (R80). -/
def waitTrap (mask : BitVec 16) (r : State) : Option Trap :=
  let f := (r.ctx r.cur.cx).ffail &&& mask
  if f = 0 then none else some (trap0 0x0F (f.setWidth 64))

def waitfOp (mask : BitVec 16) (r s : State) : Except Trap State :=
  match waitTrap mask r with
  | some t => .error t
  | none => .ok (s.updCtx s.cur.cx fun c => (c.clrFlags mask).coverFlags mask)

def peekfOp (mask : BitVec 16) (r s : State) : Except Trap State :=
  match waitTrap mask r with
  | some t => .error t
  | none => .ok (s.updCtx s.cur.cx fun c => c.coverFlags mask)

def setfOp (mask : BitVec 16) (s : State) : State := s.updCtx s.cur.cx fun c => c.setFlags mask
def clrfOp (mask : BitVec 16) (s : State) : State := s.updCtx s.cur.cx fun c => c.clrFlags mask

/-- YIELD (R82): the quantum ends once the bundle has executed; where no other context is ready it stays ended, so that the next one
to become ready is switched to (assumption log 82). -/
def yieldPost (s : State) : State := s.updCore (coreOf s.cur.cx) fun k => { k with quantumEnded := true }

/-- EXIT (R83): the context stops issuing and retires. -/
def exitPost (s : State) : State := s.updCtx s.cur.cx fun c => { c with phase := .retiring }

/-- The entry of the trap of a `TRAP n` at a program counter and repetition, which resumes at the bundle `nxt` (R75, R84). -/
def State.softTrap (s : State) (cx : Nat) (n : BitVec 8) (pc rep nxt : Nat) : State :=
  s.takeTrap cx { cause := 0x12, slot := 0, detail := n.toNat } pc rep nxt 0 false false false

/-- TRAP (R84, R75): after the rest of the bundle, and after a divide of the bundle (R97); it resumes at the next sequential bundle. -/
def trapPost (n : BitVec 8) (s : State) : State :=
  let s := s.updCtx s.cur.cx fun c => c.fallThrough s.cur.nxt
  match (s.core (coreOf s.cur.cx)).divider.filter fun d => d.cx == s.cur.cx with
  | some d => s.updCore (coreOf s.cur.cx) fun k => { k with divider := some { d with trap := some (n, s.cur.pc, s.cur.rep, s.cur.nxt) } }
  | none => s.softTrap s.cur.cx n s.cur.pc s.cur.rep s.cur.nxt

/-- The return of a context from its trap (R84). -/
def Ctx.returnFromTrap (c : Ctx) : Ctx :=
  let t := c.trapcause
  let stream := t.getLsbD 16
  let held := if t.getLsbD 17 then c.held.filter fun e => !e.fault else c.held
  let back := held.map fun e => { e with fault := false, phase := .queued }
  let c := { c with
    sticky := c.frame.sticky, cursors := c.frame.cursors, loops := c.frame.loops, frame := {}, sys := t.getLsbD 8 }
  let c := if stream then
      { c with
        held := []
        queues := [3, 4, 5, 6, 7].foldl (fun qs k =>
          mset [] k (back.filter (fun e => e.slot == k) ++ mget [] k qs) qs) c.queues }
    else c
  let c := if stream then
      back.foldl (fun c e => match e.instr with | some i => c.listOuts e i | none => c) c
    else c
  if t.getLsbD 19 then { c with phase := .retiring, mid := false, rcLeft := 0 }
  else
    { c with
      pc := pcOfArch (t.extractLsb' 21 15).toNat
      mid := t.getLsbD 20
      decoded := none
      rcLeft := if t.getLsbD 20 then (t.extractLsb' 9 7).toNat else 0
      skipS0 := t.getLsbD 18 }

/-- RFT (R84): privileged. -/
def rftOp (s : State) : Except Trap State :=
  if (s.ctx s.cur.cx).sys then .ok s else .error (trap0 trapPrivilege)
def rftPost (s : State) : State := s.updCtx s.cur.cx Ctx.returnFromTrap

/-- MFS (R85): `PN` and `PQ` are privileged. -/
def mfsOp (sr : BitVec 12) (d : Spec) (r s : State) : Except Trap State :=
  if sysOnly sr && !(r.ctx s.cur.cx).sys then .error (trap0 trapPrivilege)
  else .ok (s.updCtx s.cur.cx fun c => c.writeDest d (sysRead r s.cur.cx sr))

/-- MTS (R85): registers privileged for writing, `PN` and `PQ` trap at program level. -/
def mtsOp (sr : BitVec 12) (a : Spec) (r s : State) : Except Trap State :=
  if (sysOnly sr || sysPriv sr) && !(r.ctx s.cur.cx).sys then .error (trap0 trapPrivilege)
  else sysWrite sr (specVal r s.cur.cx a) s

/-- BKPT (R84): the trap `BREAKPOINT`, or a plain halt of a core whose debug unit is armed (R416). -/
def bkptOp (n : BitVec 8) (s : State) : Except Trap State :=
  if (s.core (coreOf s.cur.cx)).armed then .ok (s.plainHalt (coreOf s.cur.cx))
  else .error { cause := 0x13, slot := 0, detail := n.toNat }

/-- A write of `PWRREQ` to a cluster's power mailbox (R396): a management write of the same cycle is applied last, and stands. -/
def State.requestStep (s : State) (cl : Nat) (v : BitVec 5) : State :=
  if (s.cluster cl).mgmtAt == some (s.cycleOf cl) then s else s.updCluster cl fun k => { k with mailbox := some v }

/-- PWRREQ (R86): privileged; the target step 0–23 to the cluster's power mailbox. -/
def pwrreqOp (a : Spec) (r s : State) : Except Trap State :=
  let v := specVal r s.cur.cx a
  if !(r.ctx s.cur.cx).sys then .error (trap0 trapPrivilege)
  else if 23 < v.toNat then .error (trap0 trapOperandRange v)
  else .ok (s.requestStep (clusterOf s.cur.cx) (v.setWidth 5))

/-- Whether a context's streaming queues are empty. -/
def Ctx.queuesEmpty (c : Ctx) : Bool := c.entries.isEmpty

/-- Whether an S0 op holds its bundle on a condition of its own (R63, R80, R81, R84, R87). `RFT` waits until every streaming queue of the
context is empty, entries of the program that a trap left to run among them (assumption log 105). -/
def s0Waits (i : Instr) (s : State) : Bool :=
  let c := s.ctx s.cur.cx
  match i with
  | .waitf _ mask => !c.hasFlags mask
  | .peekf _ mask => !c.hasFlags mask
  | .await _ n => n.toNat < c.awc
  | .twait _ a => s.mt (dieOf s.cur.cx) < (specVal s s.cur.cx a).toNat
  | .rft _ => c.sys && !c.queuesEmpty
  | .ckpt _ => !c.queuesEmpty
  | _ => false

/-- The effect of an S0 op at issue, with the other slots. -/
def s0Effect (i : Instr) (r s : State) : Except Trap State :=
  match i with
  | .br _ off => brOp off s
  | .call _ off => callOp off s
  | .jmp _ a => jmpOp a r s
  | .ret _ => retOp r s
  | .loop _ a len => loopOp a len r s
  | .waitf _ mask => waitfOp mask r s
  | .peekf _ mask => peekfOp mask r s
  | .setf _ mask => .ok (setfOp mask s)
  | .clrf _ mask => .ok (clrfOp mask s)
  | .rft _ => rftOp s
  | .mfs _ sr d => mfsOp sr d r s
  | .mts _ sr a => mtsOp sr a r s
  | .bkpt _ n => bkptOp n s
  | .pwrreq _ a => pwrreqOp a r s
  | _ => .ok s

/-- The effect of an S0 op after the other slots, for a bundle whose last repetition it is; none where the bundle just
falls through. -/
def s0Post (i : Instr) (r s : State) : Option State :=
  match i with
  | .br _ off => some (brPost off s)
  | .call _ off => some (callPost off s)
  | .jmp _ a => some (jmpPost a r s)
  | .ret _ => some (retPost r s)
  | .loop _ a len => some (loopPost a len r s)
  | .brx _ u => some (brxPost u s)
  | .trap _ n => some (trapPost n s)
  | .rft _ => some (rftPost s)
  | _ => none

/-- An S0 op issued alone: off, held, its trap, or its effect and then what follows the rest of the bundle. -/
def aloneCtl (g : Bool) (i : Instr) (op : State → State → Except Trap State) (post : State → State → State) (s : State) :
    Host.Outcome State Fault Refusal :=
  if g && s.cur.off then .next s
  else
  match firstPoisoned (s.ctx s.cur.cx) (srcSpecs i) with
  | some sp => if opHeld i s then .next s else .next (s.takePrecise (poisonTrap 0 sp))
  | none =>
    if opHeld i s then .next s
    else if s0Waits i s then .next s
    else
      match op s s with
      | .error t => .next (s.takePrecise t)
      | .ok s' => (post s s').out

def execBr (g : Bool) (off : BitVec 24) (s : State) : Host.Outcome State Fault Refusal :=
  aloneCtl g (.br g off) (fun _ s => brOp off s) (fun _ s => brPost off s) s
def execCall (g : Bool) (off : BitVec 24) (s : State) : Host.Outcome State Fault Refusal :=
  aloneCtl g (.call g off) (fun _ s => callOp off s) (fun _ s => callPost off s) s
def execJmp (g : Bool) (a : Spec) (s : State) : Host.Outcome State Fault Refusal :=
  aloneCtl g (.jmp g a) (jmpOp a) (jmpPost a) s
def execRet (g : Bool) (s : State) : Host.Outcome State Fault Refusal :=
  aloneCtl g (.ret g) retOp retPost s
def execLoop (g : Bool) (a : Spec) (len : BitVec 12) (s : State) : Host.Outcome State Fault Refusal :=
  aloneCtl g (.loop g a len) (loopOp a len) (loopPost a len) s
def execBrx (g : Bool) (u : BitVec 14) (s : State) : Host.Outcome State Fault Refusal :=
  aloneCtl g (.brx g u) (fun _ s => .ok s) (fun _ s => brxPost u s) s
/-- FENCEI (R81): the model's fetch keeps no unit ahead, so only the issue remains (assumption log 16). -/
def execFencei (g : Bool) (s : State) : Host.Outcome State Fault Refusal :=
  aloneCtl g (.fencei g) (fun _ s => .ok s) (fun _ s => s) s
def execWaitf (g : Bool) (mask : BitVec 16) (s : State) : Host.Outcome State Fault Refusal :=
  aloneCtl g (.waitf g mask) (waitfOp mask) (fun _ s => s) s
def execPeekf (g : Bool) (mask : BitVec 16) (s : State) : Host.Outcome State Fault Refusal :=
  aloneCtl g (.peekf g mask) (peekfOp mask) (fun _ s => s) s
def execSetf (g : Bool) (mask : BitVec 16) (s : State) : Host.Outcome State Fault Refusal :=
  aloneCtl g (.setf g mask) (fun _ s => .ok (setfOp mask s)) (fun _ s => s) s
def execClrf (g : Bool) (mask : BitVec 16) (s : State) : Host.Outcome State Fault Refusal :=
  aloneCtl g (.clrf g mask) (fun _ s => .ok (clrfOp mask s)) (fun _ s => s) s
def execYield (g : Bool) (s : State) : Host.Outcome State Fault Refusal :=
  aloneCtl g (.yield g) (fun _ s => .ok s) (fun _ s => yieldPost s) s
def execTrap (g : Bool) (n : BitVec 8) (s : State) : Host.Outcome State Fault Refusal :=
  aloneCtl g (.trap g n) (fun _ s => .ok s) (fun _ s => trapPost n s) s
def execMfs (g : Bool) (sr : BitVec 12) (d : Spec) (s : State) : Host.Outcome State Fault Refusal :=
  aloneCtl g (.mfs g sr d) (mfsOp sr d) (fun _ s => s) s
def execMts (g : Bool) (sr : BitVec 12) (a : Spec) (s : State) : Host.Outcome State Fault Refusal :=
  aloneCtl g (.mts g sr a) (mtsOp sr a) (fun _ s => s) s
def execBkpt (g : Bool) (n : BitVec 8) (s : State) : Host.Outcome State Fault Refusal :=
  aloneCtl g (.bkpt g n) (fun _ s => bkptOp n s) (fun _ s => s) s
def execPwrreq (g : Bool) (a : Spec) (s : State) : Host.Outcome State Fault Refusal :=
  aloneCtl g (.pwrreq g a) (pwrreqOp a) (fun _ s => s) s
def execAwait (g : Bool) (n : BitVec 4) (s : State) : Host.Outcome State Fault Refusal :=
  aloneCtl g (.await g n) (fun _ s => .ok s) (fun _ s => s) s
def execTwait (g : Bool) (a : Spec) (s : State) : Host.Outcome State Fault Refusal :=
  aloneCtl g (.twait g a) (fun _ s => .ok s) (fun _ s => s) s
/-- NOP_CTL (R25). -/
def execNopCtl (_g : Bool) (s : State) : Host.Outcome State Fault Refusal := .next s

/-- SAVEBASE_WRITE (R102): for the context at hand; a die outside the module takes the trap of R102. -/
def execSavebaseWrite (v : Word) (s : State) : Host.Outcome State Fault Refusal :=
  match savebaseWriteOp v s with
  | .ok s' => s'.out
  | .error t => .next (s.takePrecise t)
def execFlagsWrite (v : Word) (s : State) : Host.Outcome State Fault Refusal := .next (flagsWriteOp v s)
def execEngfailWrite (v : Word) (s : State) : Host.Outcome State Fault Refusal := .next (engfailWriteOp v s)
def execFpstatusWrite (v : Word) (s : State) : Host.Outcome State Fault Refusal := .next (fpstatusWriteOp v s)
def execPnWrite (i : BitVec 5) (v : Word) (s : State) : Host.Outcome State Fault Refusal := .next (pnWriteOp i v s)
def execEwtableWrite (v : Word) (s : State) : Host.Outcome State Fault Refusal := .next (ewtableWriteOp v s)

end Sys2Proof.Machine
end

