-- ==== Sys2Proof/Machine/Fabric.lean ====
section
/-!
DEFINITION. The fabric and meridian time (11 R311–R337), the transit buffers (12 R357–R361) and PARKED answers (15 R429,
R430): requests at their home, acknowledgements and replies, huddle combining, links, multicast, the time exchange.
-/

namespace Sys2Proof.Machine

def State.pkt (s : State) (p : Nat) : Option Packet := (s.net.find? fun e => e.1 == p).map Prod.snd
def State.setPkt (s : State) (p : Nat) (x : Packet) : State := { s with net := mput p x s.net }

/-- A request answered; it is forgotten once its flow has acknowledged it too (R313). -/
def State.endPkt (s : State) (p : Nat) : State :=
  match s.pkt p with
  | none => s
  | some x => if x.acked then { s with net := merase p s.net } else s.setPkt p { x with stage := .done }

/-- An entry taken out of its queue. -/
def State.dropEntry (s : State) (cx : Nat) (e : Entry) : State :=
  s.updCtx cx fun c => c.setQueue e.slot ((c.queue e.slot).filter fun x => x.ord != e.ord)

/-- An entry of a queue given a new phase. -/
def State.setPhase (s : State) (cx : Nat) (e : Entry) (ph : EntryPhase) : State :=
  s.updCtx cx fun c =>
    c.setQueue e.slot ((c.queue e.slot).map fun x => if x.ord = e.ord then { x with phase := ph } else x)

/-- What follows from starting an entry, or from its answer (R67, R74). -/
def State.settle (s : State) (cx : Nat) (e : Entry) : Started → State
  | .wait => s
  | .phase s' ph => s'.setPhase cx e ph
  | .done s' => s'.dropEntry cx e
  | .trap s' t drop => s'.streamFault cx e t drop

/-- Whether an earlier packet of the same flow that addresses the same line has not been delivered (R313, R314). -/
def State.behindInFlow (s : State) (p : Nat) (x : Packet) : Bool :=
  s.net.any fun e =>
    e.1 < p && e.2.die = x.die && flowId e.2.home e.2.kind = flowId x.home x.kind && e.2.stage == .going &&
      e.2.pieces.any fun a => x.pieces.any fun b =>
        (match a.place, b.place with
         | .mem k _, .mem j _ => lineOf k = lineOf j
         | _, _ => false)

/-- The huddle entry that a packet leads at the router it stands at is closed, and the packet carries its merged operand
(R324, R325). -/
def State.leaveRouter (s : State) (p : Nat) (x : Packet) : State × Packet :=
  match x.leads.find? fun l => l.1 = x.place with
  | none => (s, x)
  | some (d, e) =>
    match mget none e ((s.die d).huddle.map fun h => (h.1, some h.2)) with
    | none => (s, x)
    | some h =>
      let x := { x with sum := h.sum, cell := h.cell }
      ((s.updDie d fun y => { y with huddle := mput e { h with isOpen := false } y.huddle }).setPkt p x, x)

/-- A part of a load of several parts that has been read (R222, R312): with the last one the load is done. -/
def State.gathered (s : State) (x : Packet) (g o : Nat) (bs : List Byte) (poison : Bool) : State :=
  match (s.gathers.find? fun e => e.1 == g).map Prod.snd with
  | none => s
  | some y =>
    let y := { y with left := y.left - 1, parts := mput o bs y.parts, poison := y.poison || poison }
    if y.left = 0 then
      let s := { s with gathers := merase g s.gathers }
      s.settle x.cx y.entry (s.finishLoad x.cx y.entry ((y.entry.instr).getD (.nopMem false)) (y.parts.flatMap Prod.snd) y.poison)
    else { s with gathers := mput g y s.gathers }

/-- A request performed at its home (R314, R317, R330); an atomic is counted by its granule once (R319). -/
def State.performPkt (s : State) (p : Nat) (x : Packet) : State :=
  let i := (x.entry.instr).getD (.nopMem false)
  match x.kind with
  | .load =>
    let cached := match i with
      | .ld .. => true
      | .vld .. => true
      | _ => false
    match s.readPieces x.cx cached x.pieces with
    | none => s
    | some (s, bs, poison) =>
      match x.gather with
      | some (g, o) => (s.gathered x g o bs poison).endPkt p
      | none => (s.settle x.cx x.entry (s.finishLoad x.cx x.entry i bs poison)).endPkt p
  | .store =>
    let cached := match i with
      | .st .. => true
      | .vst .. => true
      | _ => false
    match s.writePieces x.cx cached x.poison x.pieces x.bytes with
    | none => s
    | some s =>
      let s := if x.whole then x.pieces.foldl (fun (s : State) q => s.cleanLine x.cx cached q) s else s
      s.setPkt p { x with stage := .performed }
  | .atomic =>
    match x.pieces with
    | { place := .mem key mode, .. } :: _ =>
      let (s, x) := s.leaveRouter p x
      let (_, opd, c) := atomicVals i x.entry
      match s.performAtomic key i x.sum x.cell opd c with
      | none => s
      | some (s, old, poison) =>
        let s := if mode == 3 then s.countMigration key x.die else s
        s.setPkt p { x with stage := .performed, reply := old, replyPoison := poison }
    | _ => s
  | .transit => s

/-- Whether a request has reached its home's memory port: a windowed one goes through the home die's router first
(R324). -/
def Packet.atHome (x : Packet) : Bool := !x.windowed || (x.place = x.home && x.arrived)

/-- REMOTE_ACCESS_AT_HOME (R314): a shed home answers PARKED (R430). -/
def execRemoteAccessAtHome (p : Nat) (s : State) : Host.Outcome State Fault Refusal :=
  match s.pkt p with
  | none => .next s
  | some x =>
    if x.stage != .going || x.kind == .transit || !x.atHome || s.behindInFlow p x then .next s
    else if (s.die x.home).shed then .next (s.setPkt p { x with stage := .parked s.now })
    else .next (s.performPkt p x)

/-- What a transit request's acknowledgement makes its issuer do (R360). -/
def State.transitAnswered (s : State) (p : Nat) (x : Packet) : State :=
  let a := entryAddr x.entry ((x.entry.instr).getD (.nopMem false))
  let late := if x.late < 2 ^ 48 then x.late else 2 ^ 48 - 1
  let s := if x.stage == .performed then s.endPkt p else s
  if x.invalid then
    s.streamFault x.cx x.entry { cause := 0x19, slot := 3, detail := late, info1 := BitVec.ofNat 64 a } true
  else if x.late != 0 then
    s.streamFault x.cx x.entry { cause := 0x0E, slot := 3, detail := late, info1 := BitVec.ofNat 64 a } true
  else s.dropEntry x.cx x.entry

/-- Whether an entry at the head of its queue awaits the answer to a packet. -/
def State.awaits (s : State) (p : Nat) (x : Packet) : Bool :=
  match (s.ctx x.cx).queue x.entry.slot with
  | e :: _ => e.ord = x.entry.ord && e.phase == .sent p
  | [] => false

/-- STORE_ACKNOWLEDGEMENT (R314, R360). -/
def execStoreAcknowledgement (p : Nat) (s : State) : Host.Outcome State Fault Refusal :=
  match s.pkt p with
  | none => .next s
  | some x =>
    match x.kind, x.stage with
    | .store, .performed => .next (s.endPkt p)
    | .transit, .performed => .next (if s.awaits p x then s.transitAnswered p x else s.endPkt p)
    | .transit, .accepted => .next (if !x.bytes.isEmpty && s.awaits p x then s.transitAnswered p x else s)
    | _, _ => .next s

/-- ATOMIC_REPLY (R330): once every huddle entry that the request leads has been split. -/
def execAtomicReply (p : Nat) (s : State) : Host.Outcome State Fault Refusal :=
  match s.pkt p with
  | none => .next s
  | some x =>
    if x.kind == .atomic && x.stage == .performed && x.leads.isEmpty && !x.lost then
      .next ((s.atomicReplied x.cx x.entry x.reply x.replyPoison).endPkt p)
    else .next s

/-- Whether a bitmap of 64 sequence numbers from a base covers a packet's number (R313). -/
def ackCovers (base : Nat) (bits : BitVec 64) (seq : Nat) : Bool :=
  let d := (seq + 65536 - base % 65536) % 65536
  d < 64 && bits.getLsbD d

/-- SELECTIVE_ACK (R313): packets of the flow `dst` of a die that the target has received and the bitmap names are acknowledged. -/
def execSelectiveAck (src dst base : Nat) (bits : BitVec 64) (s : State) : Host.Outcome State Fault Refusal :=
  let named := fun (x : Packet) => x.die = src && flowId x.home x.kind = dst && x.stage != .going && ackCovers base bits x.seq.toNat
  let net : Map Packet := s.net.map fun e => (e.1, if named e.2 then { e.2 with acked := true } else e.2)
  let s := { s with net := net.filter fun e => !(e.2.acked && e.2.stage == PktStage.done) }
  .next (s.updDie src fun d =>
    let f : Flow := mget {} dst d.flows
    let left := f.unacked.filter fun u =>
      match s.pkt u.2 with
      | none => false
      | some x => !x.acked
    { d with flows := mput dst { f with unacked := left } d.flows })

/-- The time after which a source sends a packet again (R313). -/
def retransmitNs : Nat := 16000

/-- RETRANSMIT_TIMEOUT (R313): the packet is sent again; the target discards what it has. -/
def execRetransmitTimeout (p : Nat) (s : State) : Host.Outcome State Fault Refusal :=
  match s.pkt p with
  | none => .next s
  | some x =>
    if !x.acked && x.custody.isNone && x.sentAt + retransmitNs ≤ s.now then .next (s.setPkt p { x with sentAt := s.now })
    else .next s

def Die.link (d : Die) (port : Nat) : Link := mget {} port d.links
def Die.setLink (d : Die) (port : Nat) (l : Link) : Die := { d with links := mput port l d.links }

/-- Whether a width is one of R312. -/
def laneOk (lanes : Nat) : Bool := lanes == 8 || lanes == 4 || lanes == 2

/-- LINK_RETRAIN (R315): the link stops for 2 µs and comes back at a width of R312; with no lanes it fails to come back, and stays
stopped. -/
def execLinkRetrain (die port lanes : Nat) (s : State) : Host.Outcome State Fault Refusal :=
  if lanes = 0 && port < 6 then
    .next (s.updDie die fun d => d.setLink port { d.link port with failing := some ((d.link port).failing.getD s.now) })
  else if laneOk lanes && port < 6 then
    .next ((s.updMod (modOf die) fun m => { m with life := m.life.add (.retrain (8 * die + port)) 1 }).updDie die fun d =>
      d.setLink port { up := true, lanes := lanes, retrain := s.now + 2000 })
  else .next s

/-- LINK_WIDTH_CHANGE (R315). -/
def execLinkWidthChange (die port lanes : Nat) (s : State) : Host.Outcome State Fault Refusal :=
  if laneOk lanes && port < 6 then .next (s.updDie die fun d => d.setLink port { d.link port with lanes := lanes })
  else .next s

/-- LINK_MARKED_DOWN (R315): a link that has failed to retrain for 1 ms; an event is posted, and routers avoid the link. -/
def execLinkMarkedDown (die port : Nat) (s : State) : Host.Outcome State Fault Refusal :=
  if port < 6 && ((s.die die).link port).failing.any fun t => t + 1000000 ≤ s.now then
    .next ((s.updDie die fun d => d.setLink port { d.link port with up := false }).post die .linkDown [port])
  else .next s

/-- The versions of a multicast entry, newest first (R316). -/
def Die.castEntry (d : Die) (group : Nat) : List (Nat × BitVec 10) := mget [] group d.multicast

/-- Whether a packet in the domain carries a version of a group's entry: an announcement of the throttle group of that number
(R316, R399; assumption log 96). -/
def State.castUsed (s : State) (group ver : Nat) : Bool :=
  s.groups.any fun g => g.1 = group && g.2.anns.any fun a => a.ver = ver && !a.todo.isEmpty

/-- A write of a multicast entry (R316): a new version, or it waits while two are kept and packets carry the older one, or while an
earlier write of the entry waits. -/
def State.castWrite (s : State) (die : Nat) (w : Nat × BitVec 10) : State :=
  let d := s.die die
  let l := d.castEntry w.1
  let inUse := match l with
    | [_, o] => s.castUsed w.1 o.1
    | _ => false
  if inUse || d.castWait.any (fun x => x.1 = w.1) then s.setDie die { d with castWait := d.castWait ++ [w] }
  else s.setDie die { d with multicast := mput w.1 (((l.head?.map Prod.fst).getD 0 + 1, w.2) :: l.take 1) d.multicast }

/-- The writes of multicast entries that wait are tried again, in their order (R316). -/
def State.castRetry (s : State) : State :=
  s.dies.foldl (fun (s : State) e =>
    (s.die e.1).castWait.foldl (fun (s : State) w => s.castWrite e.1 w) (s.updDie e.1 fun d => { d with castWait := [] })) s

/-- MULTICAST_ENTRY_WRITE (R316). -/
def execMulticastEntryWrite (die group : Nat) (ports : BitVec 10) (s : State) : Host.Outcome State Fault Refusal :=
  if group < 256 then .next (s.castWrite die (group, ports)) else .next s

/-- A coordinate of a die number (R3). -/
def coordOf (die k : Nat) : Nat := die / 16 ^ k % 16

/-- A die with one coordinate replaced. -/
def setCoord (die k v : Nat) : Nat := die - coordOf die k * 16 ^ k + v * 16 ^ k

/-- The extent of a domain in a dimension (R311). -/
def State.extent (s : State) (k : Nat) : Nat := match k with | 0 => s.extents.1 | 1 => s.extents.2.1 | _ => s.extents.2.2

/-- The neighbour of a die in a dimension, upwards or downwards, with the port it is reached by and the input port there (R311). -/
def State.neighbour (s : State) (at_ k : Nat) (up : Bool) : Nat × Nat × Nat :=
  let n := s.extent k
  let a := coordOf at_ k
  if up then (setCoord at_ k ((a + 1) % n), 2 * k, 2 * k + 1) else (setCoord at_ k ((a + n - 1) % n), 2 * k + 1, 2 * k)

/-- Whether no end of the link to a neighbour is marked down (R315). -/
def State.linkUp (s : State) (at_ k : Nat) (up : Bool) : Bool :=
  let (d, o, i) := s.neighbour at_ k up
  ((s.die at_).link o).up && ((s.die d).link i).up

/-- Whether a link carries packets: it does not retrain (R315). -/
def Link.carries (l : Link) (now : Nat) : Bool := l.failing.isNone && l.retrain ≤ now

def State.linkCarries (s : State) (at_ k : Nat) (up : Bool) : Bool :=
  let (d, o, i) := s.neighbour at_ k up
  ((s.die at_).link o).carries s.now && ((s.die d).link i).carries s.now

/-- The next move in dimension order, the shorter way round (R311, R314); none at the target. -/
def State.minimal (s : State) (at_ dst : Nat) : Option (Nat × Bool) :=
  [0, 1, 2].findSome? fun k =>
    let n := s.extent k
    let up := (coordOf dst k + n - coordOf at_ k) % n
    if up = 0 then none else some (k, decide (up ≤ n - up))

/-- A way round a link marked down, of two extra hops (R315): aside in another dimension, along, and back (assumption log 95). -/
def State.detour (s : State) (at_ k : Nat) (up : Bool) : Option (List (Nat × Bool)) :=
  ([0, 1, 2].flatMap fun j => if j = k then [] else [(j, true), (j, false)]).findSome? fun a =>
    let side := (s.neighbour at_ a.1 a.2).1
    if s.linkUp at_ a.1 a.2 && s.linkUp side k up && s.linkUp (s.neighbour side k up).1 a.1 (!a.2) then some [a, (k, up), (a.1, !a.2)] else none

/-- The next router on the way, with the input port there and the moves of a detour left (R314, R315); none at the target, and where no
link carries it on. -/
def State.nextHop (s : State) (at_ dst : Nat) (way : List (Nat × Bool)) : Option (Nat × Nat × List (Nat × Bool)) :=
  let moves := match way with
    | [] =>
      match s.minimal at_ dst with
      | none => []
      | some m => if s.linkUp at_ m.1 m.2 then [m] else (s.detour at_ m.1 m.2).getD []
    | l => l
  match if at_ = dst then [] else moves with
  | [] => none
  | (k, up) :: rest =>
    if s.linkUp at_ k up && s.linkCarries at_ k up then
      let (d, _, i) := s.neighbour at_ k up
      some (d, i, rest)
    else none

/-- The address of a piece of memory. -/
def Piece.key (p : Piece) : Option Nat := match p.place with | .mem k _ => some k | _ => none

/-- Whether two requests have the same address, op and operand type (R325). -/
def sameAtomic (x y : Packet) : Bool :=
  (x.pieces.map Piece.key == y.pieces.map Piece.key) &&
    (match x.entry.instr, y.entry.instr with
     | some (.afadd _ _ _ _ a), some (.afadd _ _ _ _ b) => a == b
     | some (.afaddf _ _ _ _ a), some (.afaddf _ _ _ _ b) => a == b
     | _, _ => false)

/-- The open entry of a router that a request can merge into (R325). -/
def State.openEntry (s : State) (die : Nat) (x : Packet) : Option (Nat × HudEntry) :=
  (s.die die).huddle.find? fun h =>
    h.2.isOpen && h.2.port != x.port &&
      (match s.pkt h.2.lead with
       | some y => sameAtomic x y
       | none => false)

/-- The lowest number no entry of a huddle table has. -/
def freeHuddle (l : Map HudEntry) : Option Nat := (List.range 1024).find? fun n => !(l.any fun h => h.1 == n)

/-- The count or the integer that stands before a record's own operand (R324, R325). -/
def hudPrefix (x : Packet) (h : HudEntry) : Int :=
  match x.entry.instr with
  | some (.afaddf ..) => h.cell.n
  | _ => h.sum

/-- A windowed request taken in by the router it stands at (R325). -/
def State.enterRouter (s : State) (p : Nat) (x : Packet) : State :=
  let d := x.place
  let x := { x with arrived := true }
  match s.openEntry d x with
  | some (e, h) =>
    if h.recs.length < 7 then
      let h' := { h with
        recs := h.recs ++ [{ pkt := p, port := x.port, pre := hudPrefix x h, copies := 2 }]
        sum := h.sum + x.sum, cell := h.cell.add x.cell }
      (s.updDie d fun y => { y with huddle := mput e h' y.huddle }).setPkt p { x with stage := .merged, custody := some s.now }
    else s.setPkt p x
  | none =>
    match freeHuddle (s.die d).huddle with
    | none => s.setPkt p x
    | some e =>
      let h : HudEntry := { lead := p, port := x.port, isOpen := true, sum := x.sum, cell := x.cell, recs := [], copies := 2 }
      (s.updDie d fun y => { y with huddle := mput e h y.huddle }).setPkt p { x with leads := (d, e) :: x.leads }

/-- HUDDLE_ARRIVAL (R315, R325): a windowed request leaves the router it was in, if any, and arrives at the next. -/
def execHuddleArrival (p : Nat) (s : State) : Host.Outcome State Fault Refusal :=
  match s.pkt p with
  | none => .next s
  | some x =>
    if !x.windowed || x.stage != .going then .next s
    else if !x.arrived then .next (s.enterRouter p x)
    else
      match s.nextHop x.place x.home x.way with
      | none => .next s
      | some (d, port, way) =>
        let (s, x) := s.leaveRouter p x
        .next (s.enterRouter p { x with place := d, port := port, way := way, arrived := false })

/-- The reply that a record's requester receives (R326, R331). -/
def splitReply (x : Packet) (v : Word) (pre : Int) : Word :=
  match x.entry.instr with
  | some (.afadd _ _ _ _ false) => (BitVec.ofInt 32 (v.toInt + pre)).setWidth 64
  | _ => v + BitVec.ofInt 64 pre

/-- The replies of one entry's records (R326–R328); one that has trapped `ATOMIC_UNKNOWN` takes none. -/
def State.splitRecs (s : State) (v : Word) (poison lost : Bool) : List HudRec → State
  | [] => s
  | r :: rs =>
    let s := match s.pkt r.pkt with
      | none => s
      | some y =>
        if y.stage == PktStage.done then s
        else if lost || r.copies = 0 then s.setPkt r.pkt { y with lost := true }
        else s.setPkt r.pkt { y with stage := .performed, reply := splitReply y v r.pre, replyPoison := poison }
    s.splitRecs v poison lost rs

/-- REPLY_SPLIT (R326): the reply to a lead splits at the router nearest the home that still holds an entry it leads. -/
def execReplySplit (p : Nat) (s : State) : Host.Outcome State Fault Refusal :=
  match s.pkt p with
  | none => .next s
  | some x =>
    match x.stage, x.leads with
    | .performed, (d, e) :: rest =>
      match (s.die d).huddle.find? fun h => h.1 == e with
      | none => .next (s.setPkt p { x with leads := rest })
      | some (_, h) =>
        let lost := h.copies == 0 || x.lost
        let s := (s.splitRecs x.reply x.replyPoison lost h.recs).setPkt p { x with leads := rest, lost := lost }
        .next (s.updDie d fun y => { y with huddle := merase e y.huddle })
    | _, _ => .next s

/-- HUDDLE_COPY_LOSS (R327). -/
def execHuddleCopyLoss (die e : Nat) (rec : Option Nat) (s : State) : Host.Outcome State Fault Refusal :=
  match (s.die die).huddle.find? fun h => h.1 == e with
  | none => .next s
  | some (_, h) =>
    let h' := match rec with
      | none => { h with copies := h.copies - 1 }
      | some k => { h with recs := h.recs.mapIdx fun j r => if j = k then { r with copies := r.copies - 1 } else r }
    .next (s.updDie die fun y => { y with huddle := mput e h' y.huddle })

/-- The time without a reply after which a merged requester traps (R327). -/
def unknownNs : Nat := 32000

/-- ATOMIC_UNKNOWN_TIMEOUT (R327): the destination keeps its value, and the add is never performed again. -/
def execAtomicUnknownTimeout (p : Nat) (s : State) : Host.Outcome State Fault Refusal :=
  match s.pkt p with
  | none => .next s
  | some x =>
    let since := x.custody.or (if x.lost then some x.sentAt else none)
    match since with
    | none => .next s
    | some t =>
      if x.kind != .atomic || x.stage == .done || s.now < t + unknownNs then .next s
      else
        let a := (atomicVals ((x.entry.instr).getD (.nopMem false)) x.entry).1
        .next (((s.setOut x.cx x.entry { keep := true }).streamFault x.cx x.entry
          { cause := 0x10, slot := 3, info1 := a } true).endPkt p)

/-- MIGRATION_COUNTER_CLEAR (R319). -/
def execMigrationCounterClear (q : Nat) (s : State) : Host.Outcome State Fault Refusal :=
  .next (s.updQuad q fun x => { x with migs := [], migAt := s.mt (q / 4) / 1000000 })

/-- Whether a die's module is powered. -/
def State.powered (s : State) (die : Nat) : Bool :=
  match (s.mod (modOf die)).power with
  | .off => false
  | .halted => false
  | _ => true

/-- Whether the way from a die leads to another; `n` bounds its hops. -/
def State.routes (s : State) (dst : Nat) : Nat → Nat → List (Nat × Bool) → Bool
  | 0, at_, _ => at_ == dst
  | n + 1, at_, way =>
    at_ == dst ||
      match s.nextHop at_ dst way with
      | none => false
      | some (d, _, way) => s.powered d && s.routes dst n d way

/-- The grandmaster of a die: the first candidate that it reaches (R335). -/
def State.grandmaster (s : State) (die : Nat) : Option Nat :=
  s.grandmasters.find? fun g => s.powered g && s.routes g 96 die []

/-- Whether a die completes an exchange on one of its links (R335, R337). -/
def State.exchanges (s : State) (die : Nat) : Bool :=
  s.powered die && [0, 1, 2].any fun k => [true, false].any fun up =>
    s.linkUp die k up && s.linkCarries die k up && s.powered (s.neighbour die k up).1

/-- The offset of a die from the grandmaster in units of 0.125 ns, saturating to 16 bits (R336). -/
def ofsField (d : Int) : BitVec 16 :=
  BitVec.ofInt 16 (if d * 8 < -32768 then -32768 else if 32767 < d * 8 then 32767 else d * 8)

/-- `MTSKEW` with the fields an exchange sets (R336): EXT, GMSELF, GM, OFS. -/
def State.skewWord (s : State) (die gm : Nat) (ofs : Int) : Word :=
  let w := (s.die die).mtskew &&& (0xFFFF000000000001 : Word)
  w ||| BitVec.ofNat 64 (s.extRef.isSome.toNat * 2 + (if die = gm then 4 else 0) + gm % 4096 * 2 ^ 8 + (ofsField ofs).toNat * 2 ^ 32)

/-- Whether a die whose offset lies between two bounds keeps the bounds of R335 with every valid die, wherever those stand on their
way to their aims. -/
def State.skewOk (s : State) (die : Nat) (x y : Int) : Bool :=
  let lo := fun (a b : Int) => if a < b then a else b
  let hi := fun (a b : Int) => if a < b then b else a
  s.dies.all fun e => e.1 = die || !e.2.mtskew.getLsbD 0 ||
    decide (hi (hi x y) (hi e.2.mtOfs e.2.mtAim) - lo (lo x y) (lo e.2.mtOfs e.2.mtAim) ≤ (if modOf e.1 = modOf die then 4 else 24))

/-- What a die aims at after an exchange with a grandmaster whose offset is `g` (R335): the grandmaster at the external reference, or,
with none, at where it stands; another die within 2 ns of the grandmaster, where free (assumption log 18). -/
def State.mtGoal (s : State) (die gm : Nat) (cur g : Int) : Int :=
  if die = gm then s.extRef.getD cur else g + ((Config.freeNat s.tick % 5 : Nat) : Int) - 2

/-- MT_EXCHANGE (R334, R335): the offset from the grandmaster is estimated, and the die is slewed towards its goal, for a valid die
within the bounds of R335 (assumption log 18). -/
def execMtExchange (die : Nat) (s : State) : Host.Outcome State Fault Refusal :=
  if !s.exchanges die then .next s
  else
    let cur := (s.die die).ofs s.now
    match s.grandmaster die with
    | none => .next (s.updDie die fun d => { d with exchAt := s.now / 62500, mtMin := s.mt die, mtOfs := cur, mtAim := cur, mtAt := s.now })
    | some gm =>
      let g := (s.die gm).ofs s.now
      let aim := s.mtGoal die gm cur g
      let est := cur - g
      .next (s.updDie die fun d =>
        { d with
          exchAt := s.now / 62500, mtMin := s.mt die, mtOfs := cur, mtAt := s.now
          mtAim := if d.mtskew.getLsbD 0 && !s.skewOk die cur aim then cur else aim
          within := if est.natAbs ≤ 10 then some (d.within.getD s.now) else none, mtskew := s.skewWord die gm est })

/-- Whether a die has lost discipline (R337): its estimated offset exceeds 10 ns, or no exchange has completed for 10 ms. -/
def State.undisciplined (s : State) (die : Nat) : Bool :=
  let d := s.die die
  decide (80 < (d.mtskew.extractLsb' 32 16).toInt.natAbs) || decide (62500 * d.exchAt + 10000000 ≤ s.now)

/-- DISCIPLINE_LOSS (R337): `VALID` clear, `LOSSES` counted, an event posted. -/
def execDisciplineLoss (die : Nat) (s : State) : Host.Outcome State Fault Refusal :=
  let w := (s.die die).mtskew
  if w.getLsbD 0 && s.undisciplined die then
    let n : BitVec 16 := w.extractLsb' 48 16
    let n' := if n == 0xFFFF then n else n + 1
    .next ((s.updDie die fun d =>
      { d with within := none, mtskew := (w &&& (0xFFFFFFFFFFFE : Word)) ||| (n'.setWidth 64 <<< 48) }).post die .disciplineLoss [])
  else .next s

/-- Whether a die is to be valid again (R335, R337): its estimate has stayed within 10 ns for 1 ms, and it meets the bounds of R335. -/
def State.regains (s : State) (die : Nat) : Bool :=
  let d := s.die die
  !s.undisciplined die && d.within.any (fun t => t + 1000000 ≤ s.now) && s.skewOk die d.mtOfs d.mtAim

/-- DISCIPLINE_REGAIN (R337). -/
def execDisciplineRegain (die : Nat) (s : State) : Host.Outcome State Fault Refusal :=
  if s.regains die then .next (s.updDie die fun d => { d with mtskew := d.mtskew ||| 1 }) else .next s

/-- EXTERNAL_REFERENCE_CHANGE (R335, R336): the reference comes, showing a number of TAI ns, or goes; the grandmaster is slewed towards
it from its next exchange on. -/
def execExternalReferenceChange (ref : Option Nat) (s : State) : Host.Outcome State Fault Refusal :=
  .next { s with
    extRef := ref.map fun t => (t : Int) - s.now
    dies := s.dies.map fun e => (e.1, { e.2 with mtskew := if ref.isSome then e.2.mtskew ||| 2 else e.2.mtskew &&& ~~~(2 : Word) }) }

/-- A store of a transit entry performed at its home (R308, R358). -/
def State.transitWrite (s : State) (key : Nat) (bs : List Byte) : State := s.homeWrite key bs false

/-- A not-before load read at its home (R358, R360), under the stores that its context holds (R409): its value present, then the trap of
a strict one accepted where the home was not valid; none while it waits. -/
def State.transitRead (s : State) (p : Nat) (x : Packet) (key n : Nat) : Option State :=
  match s.homeRead key n with
  | none => none
  | some (s, bs, poison) =>
    let held := (s.ctx x.cx).held409
    let q : Piece := { place := .mem key 0, len := n }
    let bs := overlayHeld held q bs
    let head := s.awaits p x
    let s := ((s.setOut x.cx x.entry (scalarOut bs false (poison || heldPois held q))).updCtx x.cx fun c =>
      c.sign .s3 (bytesOfWord 8 (loadValue bs false))).endPkt p
    let s := if head then s.dropEntry x.cx x.entry else s
    let a := entryAddr x.entry ((x.entry.instr).getD (.nopMem false))
    some (if x.invalid then s.streamFault x.cx x.entry { cause := 0x19, slot := 3, info1 := BitVec.ofNat 64 a } true else s)

/-- Whether a timed op is strict, and its time (R357). -/
def timedOf (e : Entry) : Bool × Nat :=
  match e.instr with
  | some (.stt _ _ _ _ _ strict) => (strict, (e.val 2).toNat)
  | some (.ldnb _ _ _ _ _ strict) => (strict, (e.val 1).toNat)
  | _ => (false, 0)

/-- The die of a quadrant. -/
def dieOfQuad (q : Nat) : Nat := q / 4

/-- What a transit buffer serves next of what is due: the earliest instant; at one instant stores before loads, each in acceptance
order (R358). -/
def nextDue (now : Nat) (l : List Transit) : Option Transit :=
  (l.filter fun t => t.time ≤ now).foldl (fun b t =>
    match b with
    | none => some t
    | some x => if t.time < x.time || (t.time = x.time && t.store && !x.store) then some t else some x) none

/-- A due entry of a transit buffer: a store performed, a load read (R358). -/
def State.transitServe (s : State) (q : Nat) (t : Transit) : State :=
  let out := fun (s : State) => s.updQuad q fun y => { y with transit := y.transit.filter fun u => u.pkt != t.pkt }
  match s.pkt t.pkt with
  | none => if t.store then (out s).transitWrite t.key t.bytes else out s
  | some x =>
    if t.store then
      let s := (out s).transitWrite t.key t.bytes
      if s.awaits t.pkt x then s.setPkt t.pkt { x with stage := .performed } else s.endPkt t.pkt
    else
      let n := (x.pieces.head?.map Piece.len).getD 8
      (((out s).transitRead t.pkt x t.key n).or (((out s).fillSlice t.key).transitRead t.pkt x t.key n)).getD s

/-- What is due in a transit buffer served, unless its die is shed; `n` bounds the number. -/
def State.serveTransit (q : Nat) : Nat → State → State
  | 0, s => s
  | n + 1, s =>
    if (s.die (dieOfQuad q)).shed then s
    else
      match nextDue (s.mt (dieOfQuad q)) (s.quad q).transit with
      | none => s
      | some t => State.serveTransit q n (s.transitServe q t)

/-- TRANSIT_ACCEPT (R358, R360): the memory port of the home takes a timed request and judges it. A store whose time is the present
instant waits where a read has been served at that instant, before which it would have to be performed (R359). -/
def execTransitAccept (p : Nat) (s : State) : Host.Outcome State Fault Refusal :=
  match s.pkt p with
  | none => .next s
  | some x =>
    match x.kind, x.pieces with
    | .transit, { place := .mem key _, len := n } :: _ =>
      let due := match x.stage with
        | .going => true
        | .parked _ => true
        | _ => false
      if !due || s.behindInFlow p x then .next s
      else if (s.die x.home).shed then
        .next (if x.stage == .going then s.setPkt p { x with stage := .parked s.now } else s)
      else
        let q := homeQuad key
        let m := s.mt x.home
        let (strict, t) := timedOf x.entry
        let invalid := strict && !(s.die x.home).mtskew.getLsbD 0
        let store := !x.bytes.isEmpty
        let full := 256 ≤ (s.quad q).transit.length
        if store && t < m then
          .next ((s.transitWrite key x.bytes).setPkt p
            { x with stage := .performed, late := if strict then m - t else 0, invalid := invalid })
        else if !store && t ≤ m then .next ((s.transitRead p { x with invalid := invalid } key n).getD s)
        else if full || (store && t = m && (s.quad q).readAt == some m) then .next s
        else
          .next (State.serveTransit q 1 ((s.updQuad q fun y =>
            { y with transit := y.transit ++ [{ pkt := p, store := store, time := t, key := key, bytes := x.bytes }] }).setPkt p
              { x with stage := .accepted, invalid := invalid }))
    | _, _ => .next s

/-- The entry that a transit buffer is to serve next, if it is due and its die is not shed (R358). -/
def State.dueEntry (s : State) (q : Nat) : Option Transit :=
  if (s.die (dieOfQuad q)).shed then none else nextDue (s.mt (dieOfQuad q)) (s.quad q).transit

/-- TRANSIT_STORE_PERFORM (R358): a due store; as meridian time passes what falls due is served at once, ahead of every other access. -/
def execTransitStorePerform (q : Nat) (s : State) : Host.Outcome State Fault Refusal :=
  match s.dueEntry q with
  | some t => if t.store then .next (s.transitServe q t) else .next s
  | none => .next s

/-- LDNB_DUE_READ (R358): a due load, after every store due by its instant, in acceptance order. -/
def execLdnbDueRead (q : Nat) (s : State) : Host.Outcome State Fault Refusal :=
  match s.dueEntry q with
  | some t => if t.store then .next s else .next (s.transitServe q t)
  | none => .next s

/-- PARKED_RETRY (R430): performed once the home answers again. -/
def execParkedRetry (p : Nat) (s : State) : Host.Outcome State Fault Refusal :=
  match s.pkt p with
  | none => .next s
  | some x =>
    match x.stage with
    | .parked _ =>
      if (s.die x.home).shed || s.behindInFlow p x then .next s
      else if x.kind == .transit then execTransitAccept p s
      else .next (s.performPkt p x)
    | _ => .next s

/-- PARKED_TIMEOUT (R430): after 50 ms the access traps `ACCESS_PEER`, for a load of several parts the whole load. -/
def execParkedTimeout (p : Nat) (s : State) : Host.Outcome State Fault Refusal :=
  match s.pkt p with
  | none => .next s
  | some x =>
    match x.stage with
    | .parked since =>
      if s.now < since + 50000000 then .next s
      else
        let s := match x.gather with
          | none => s
          | some (g, _) =>
            { s with
              gathers := merase g s.gathers
              net := (s.net.filter fun (e : Nat × Packet) => e.1 != p && e.2.gather.any (fun (y : Nat × Nat) => y.1 = g)).foldl
                (fun (n : Map Packet) (e : Nat × Packet) => forget e.1 e.2 n) s.net }
        .next ((s.streamFault x.cx x.entry (trapPeer (entryAddr x.entry ((x.entry.instr).getD (.nopMem false)))) false).endPkt p)
    | _ => .next s

/-- A read of a piece at its home, whatever the MODE (R363), under the stores that the context holds (R409). -/
def State.homeReadPiece (s : State) (cx : Nat) (p : Piece) : Option (State × List Byte × Bool) :=
  match p.place with
  | .mem key _ =>
    let held := (s.ctx cx).held409
    (s.homeRead key p.len).map fun r => (r.1, overlayHeld held p r.2.1, r.2.2 || heldPois held p)
  | _ => none

/-- Whether a piece is homed at a die that is shed (R429). -/
def State.homeShed (s : State) (p : Piece) : Bool :=
  match p.place with
  | .mem key _ => !isHost key && (s.die (homeDie key)).shed
  | _ => false

/-- WAITA_REREAD (R363): the watching op reads again at home, once that is not shed (R429). -/
def execWaitaReread (cx : Nat) (s : State) : Host.Outcome State Fault Refusal :=
  match if (s.ctx cx).frozen then [] else (s.ctx cx).queue 3 with
  | e :: _ =>
    match e.phase, e.instr with
    | .watching, some i =>
      match s.planScalar cx e .memOnly .read (entryAddr e i) (match i with | .waita _ _ _ _ true _ => 8 | _ => 4) with
      | .error (s', t) => .next (s'.streamFault cx e t false)
      | .ok (s', p) =>
        if s'.homeShed p then .next s else
        match if s'.refused cx false p then none else (s'.bypass cx false p).homeReadPiece cx p with
        | none => .next (if s'.refused cx false p then s'.streamFault cx e (trapPeer (entryAddr e i)) false else s)
        | some (s', bs, x) => .next (s'.settle cx e (s'.finishLoad cx e i bs x))
    | _, _ => .next s
  | [] => .next s

/-- SLICE_FILL (R284): the line arrives and queued byte-masked writes merge into it. -/
def execSliceFill (q line : Nat) (s : State) : Host.Outcome State Fault Refusal :=
  if homeQuad line = q && !isHost line then .next (s.fillSlice line) else .next s

/-- MEDIA_ERROR (R308): the line is poisoned. -/
def execMediaError (line : Nat) (s : State) : Host.Outcome State Fault Refusal := .next (s.setLinePois line true)

end Sys2Proof.Machine
end

