-- ==== Sys2Proof/Machine/Stream.lean ====
section
/-!
DEFINITION. The streaming slots S3–S6: issue into a queue, the start of the entry at its head, the matrix beat, and the
writes that take effect later (02 R67–R69, 05 R140–R147, 06 R173–R192, 07 R209, 12 R344–R348).
-/

namespace Sys2Proof.Machine

/-- The cursors that an entry of a slot uses (R41): S3 and S5 source, S5 destination, S6. -/
def cursorsFor (c : Ctx) (slot : Nat) : Int × Int :=
  match slot with
  | 3 => (c.cursors.s3, 0)
  | 5 => (c.cursors.s5s, c.cursors.s5d)
  | 6 => (c.cursors.s6, 0)
  | _ => (0, 0)

/-- Whether an instruction counts in `AWC` (R186). -/
def countsAwc : Instr → Bool
  | .aget .. => true
  | .aput .. => true
  | .aputa .. => true
  | _ => false

/-- The entry of a streaming op that issues now (R67, R295): operand values and address space as they stand in `r`. -/
def mkEntry (r : State) (slot : Nat) (par : Parcel) (i : Instr) (ckpt : Bool) : Entry :=
  let c := r.ctx r.cur.cx
  let (a, b) := cursorsFor c slot
  { slot := slot, par := par, vals := (srcSpecs i).map (specVal r r.cur.cx), cur := a, cur2 := b, rep := r.cur.rep
    pc := r.cur.pc, ord := c.ord, sys := c.sys, ckpt := ckpt, fault := false, phase := .queued, root := c.pageroot, asid := c.asid }

/-- The tokens an S7 command consumes, as they stand when it issues (R43, R71), with the SCM lines that their commands wrote (R310). -/
def Ctx.captureTokens (c : Ctx) (i : Instr) (e : Entry) : Entry :=
  match tailFields i with
  | none => e
  | some t =>
    let ks := [t.c1, t.c2, t.c3]
    { e with
      waits := (ks.filter fun k => c.tok k == .pending).map fun k => mget 0 k.toNat c.tokOf
      dead := ks.any fun k => c.tok k == .failed
      scm := ks.flatMap fun k => mget [] k.toNat c.tokScm }

/-- An entry put into its queue: outstanding writes listed, `AWC` counted, a produced token pending (R67, R69, R71,
R186). -/
def Ctx.enqueue (c : Ctx) (e : Entry) (i : Instr) : Ctx :=
  let e := c.captureTokens i e
  let c := (c.listOuts e i).setQueue e.slot (c.queue e.slot ++ [e])
  let c := if countsAwc i then { c with awc := c.awc + 1 } else c
  match tailFields i with
  | some t => c.makeToken t.prod e.ord
  | none => c

/-- Whether every earlier write of a vector register has taken effect (R140). -/
def Ctx.vReady (c : Ctx) (ord : Nat) (v : Spec) : Bool := !(c.outs.any fun o => o.ord < ord && o.dst == .v v.toNat)

/-- Whether the slot of a register holds a valid copy (R144). -/
def Ctx.vFilled (c : Ctx) (v : Spec) : Bool := c.vvalid.getLsbD v.toNat

/-- Whether an op can read its vector registers (R140, R144). -/
def Ctx.vSources (c : Ctx) (ord : Nat) (i : Instr) : Bool := (vReads i).all fun v => c.vReady ord v && c.vFilled v

/-- Whether an instruction reads a vector register. -/
def readsV (i : Instr) (n : Nat) : Bool := (vReads i).any fun v => v.toNat == n

/-- Whether an op may write its vector register (R140): earlier writes of it have taken effect, and earlier reads, those of its own
bundle among them, have been performed. An op that reads the register itself does not wait for a write of its own bundle, which waits
for that read. -/
def Ctx.vWritable (c : Ctx) (e : Entry) (i : Instr) : Bool :=
  (vWrite i).all fun v =>
    let n := v.toNat
    !(c.outs.any fun o => o.dst == .v n && (o.ord < e.ord || (o.ord = e.ord && o.slot < e.slot && !readsV i n))) &&
      !((c.queue 3 ++ c.queue 4 ++ c.queue 5 ++ c.queue 6).any fun x =>
        (x.ord < e.ord || (x.ord = e.ord && x.slot != e.slot)) && x.instr.any fun j => readsV j n)

/-- The lowest register that an op is to read whose slot is invalid (R144). -/
def Ctx.vMissing (c : Ctx) (ord : Nat) (i : Instr) : Option Nat :=
  (List.range 64).find? fun n => readsV i n && !c.vvalid.getLsbD n && c.vReady ord (BitVec.ofNat 6 n)

/-- The register that the entry issued at `ord`, at the head of its queue, waits to have filled (R144). -/
def Ctx.fillFor (c : Ctx) (slot ord : Nat) : Option Nat :=
  match c.queue slot with
  | e :: _ => if e.ord = ord then e.instr.bind (c.vMissing ord) else none
  | [] => none

/-- The fill that a core's fill path carries out next: of the first request that still waits, its lowest register (R144). -/
def State.nextFill (s : State) (k : Nat) : Option (Nat × Nat) :=
  (s.core k).fillq.findSome? fun q => ((s.ctx q.1).fillFor q.2.1 q.2.2).map fun r => (q.1, r)

/-- An entry at the head of its queue asks for the fills it needs, behind the requests that still wait (R144). -/
def State.askFill (s : State) (cx : Nat) (e : Entry) (i : Instr) : State :=
  if ((s.ctx cx).vMissing e.ord i).isNone || (s.core (coreOf cx)).fillq.contains (cx, e.slot, e.ord) then s
  else s.updCore (coreOf cx) fun k =>
    { k with fillq := (k.fillq.filter fun q => ((s.ctx q.1).fillFor q.2.1 q.2.2).isSome) ++ [(cx, e.slot, e.ord)] }

/-- The lowest-numbered poisoned register that an op reads, which `TRAPINFO1` names (R141; which of several is the model's choice,
assumption log 108). -/
def Ctx.vPoisoned (c : Ctx) (i : Instr) : Option Nat :=
  (List.range 64).find? fun n => c.vpois.getLsbD n && (vReads i).any fun v => v.toNat == n

def trapPoisonV (slot n : Nat) : Trap := { cause := 0x0B, slot := slot, info1 := BitVec.ofNat 64 n }

/-- Whether an op that reads `VDEC` waits for an earlier op's write of it (R147, R154). -/
def Ctx.vdecBusy (c : Ctx) (e : Entry) (i : Instr) : Bool :=
  match i with
  | .vdecmv .. => c.outs.any fun o => o.ord < e.ord && o.val.any fun v => v.vdec.isSome
  | _ => false

/-- An S4 entry at the head of its queue (R140, R141, R147). A poisoned register comes before an index out of range (assumption log
84). -/
def State.startVec (s : State) (cx : Nat) (e : Entry) (i : Instr) : Started :=
  let c := s.ctx cx
  if !c.vSources e.ord i || !c.vWritable e i || c.vdecBusy e i then .wait
  else
    match c.vPoisoned i with
    | some n => .trap s (trapPoisonV 4 n) false
    | none =>
      match vecResult i c e.vals with
      | .error t => .trap s t false
      | .ok r =>
        let bs := if (nWrite i).isSome then bytesOfWord 8 r.word else bytesOfTile r.vec
        .done ((s.setOut cx e { word := r.word, vec := r.vec, status := r.status, vdec := r.vdec }).updCtx cx fun c => c.sign .s4 bs)

/-- Whether an earlier-issued entry of a slot accesses an accumulator bank (R185). -/
def Ctx.bankBusy (c : Ctx) (slot ord : Nat) (bank : BitVec 3) (reads : Bool) : Bool :=
  (c.queue slot).any fun x =>
    x.ord < ord &&
      (match x.instr with
       | some i => (accWrites i).contains bank || (reads && (accReads i).contains bank)
       | none => false)

/-- The `AGET`s of a context in execution (R186, R190). -/
def Ctx.agets (c : Ctx) : Nat := (c.outs.filter fun o => o.val.any OutVal.awc).length

/-- The most S6 ops that are in execution (R186). -/
def accMax : Nat := 3

/-- An S6 entry at the head of its queue (R140, R185, R186, R190–R192). -/
def State.startAcc (s : State) (cx : Nat) (e : Entry) (i : Instr) : Started :=
  let c := s.ctx cx
  let k := s.core (coreOf cx)
  let rowOf := fun (row : BitVec 7) => ((row.toNat + e.cur) % 128).toNat
  let less := fun (c : Ctx) => { c with awc := c.awc - 1 }
  match i with
  | .aget _ _ bank row cvt rm =>
    if c.bankBusy 5 e.ord bank false || !c.vWritable e i || accMax ≤ c.agets then .wait
    else
      let (v, st) := k.agetRes bank.toNat (rowOf row) cvt rm
      .done ((s.setOut cx e { vec := v, poison := k.agetPoisoned bank.toNat (rowOf row) cvt, status := st, awc := true }).updCtx cx
        fun c => c.sign .s6 (bytesOfTile v))
  | .aput _ vd bank row _ =>
    if c.bankBusy 5 e.ord bank true || !c.vSources e.ord i then .wait
    else
      let v := mget [] vd.toNat c.v
      .done (((s.updCore (coreOf cx) fun k => k.aputRows bank.toNat (rowOf row) false false v (c.vpois.getLsbD vd.toNat) 8).updCtx cx
        fun c => c.sign .s6 (bytesOfTile v)).updCtx cx less)
  | .aputa _ vd bank row cvt =>
    if c.bankBusy 5 e.ord bank true || !c.vSources e.ord i then .wait
    else
      let v := mget [] vd.toNat c.v
      let s := s.updCore (coreOf cx) fun k =>
        k.aputRows bank.toNat (rowOf row) true (cvt != 0) v (c.vpois.getLsbD vd.toNat) 8
      let rows := (List.range 8).flatMap fun n => ((s.core (coreOf cx)).accRow bank.toNat (rowOf row + n)).flatMap fun x => bytesOfNat 4 x.toNat
      .done ((s.updCtx cx fun c => c.sign .s6 rows).updCtx cx less)
  | .aclr _ bank row =>
    if c.bankBusy 5 e.ord bank true then .wait
    else
      .done ((s.updCore (coreOf cx) fun k => k.aclrRows bank.toNat (rowOf row) 8).updCtx cx fun c =>
        c.sign .s6 (List.replicate 4096 0))
  | _ => .done s

/-- Whether a context holds the array (R171, R173). -/
def Ctx.holder (c : Ctx) : Bool := c.accbanks.getLsbD 8

def trapMatrix (n : Nat) : Trap := { cause := 0x18, slot := 5, info1 := BitVec.ofNat 64 n }

/-- `POISON_USE` of a beat (R187); the spec gives no `TRAPINFO1` for a poisoned plane or accumulator row (assumption log 43). -/
def trapPoison5 (info : Word) : Trap := { cause := 0x0B, slot := 5, info1 := info }

/-- `MWSEL` and `MMODE` at the head of the holder's queue (R173, R188, R189); an `MBEAT` waits for its beat. -/
def State.startMx (s : State) (cx : Nat) (_e : Entry) (i : Instr) : Started :=
  let c := s.ctx cx
  let k := coreOf cx
  match i with
  | .mwsel _ h =>
    if !c.holder then .trap s (trapMatrix 0) false
    else .done (s.updCore k fun x => { x with arr := x.arr.mwsel h })
  | .mmode _ a w d =>
    if !c.holder then .trap s (trapMatrix 0) false
    else if !(s.core k).arr.emptyPipe then .trap s (trapMatrix 1) false
    else .done (s.updCore k fun x => { x with arr := { x.arr with afmt := a, wfmt := w, dfmt := d } })
  | .mbeat .. => .wait
  | _ => .done s

/-- The A vector of a beat (R180, R181, R187): its bytes, none while it waits, or its fault. -/
def State.fetchA (s : State) (cx : Nat) (e : Entry) (i : Instr) (kind : BitVec 2) (src : Spec) : Except (Option Trap) (List Byte) :=
  let c := s.ctx cx
  let k := s.core (coreOf cx)
  match kind.toNat with
  | 0 =>
    if !c.vSources e.ord i then .error none
    else
      match c.vPoisoned i with
      | some n => .error (some (trapPoisonV 5 n))
      | none => .ok (((bytesOfTile (mget [] src.toNat c.v)).drop (e.cur % 4096).toNat).take (matPitch k.arr.afmt))
  | 1 =>
    match e.phase with
    | .fetched bs => .ok bs
    | _ => .error none
  | _ =>
    let bank := (src.extractLsb' 3 3).toNat
    let start := (e.cur % 65536).toNat
    let n := matK k.arr.dfmt
    if matInt k.arr.afmt then .error (some { cause := 0x04, slot := 5, info1 := k.arr.afmt.setWidth 64 })
    else if c.bankBusy 6 e.ord (src.extractLsb' 3 3) false then .error none
    else if k.accValuesPoisoned bank start n then .error (some (trapPoison5 (BitVec.ofNat 64 (Config.freeNat s.tick))))
    else .ok (downConvert k.arr.dfmt (k.accValues bank start n))

/-- A beat of an `MBEAT` at the head of the holder's queue (R173, R178–R187); a row that it writes is signed (R412). -/
def State.startBeat (s : State) (cx : Nat) (e : Entry) (i : Instr) : Started :=
  let c := s.ctx cx
  let k := s.core (coreOf cx)
  match i with
  | .mbeat _ push kind src out bank row wload wswap =>
    if !c.holder then .trap s (trapMatrix 0) false
    else if wload && !k.arr.halfFull then .wait
    else if out != 0 && c.bankBusy 6 e.ord bank true then .wait
    else
      let a := if wload then k.arr.wload else k.arr
      let a := if wswap then a.wswap else a
      let vec := if push then (s.fetchA cx e i kind src).map some else .ok none
      match vec with
      | .error none => .wait
      | .error (some t) => .trap s t false
      | .ok v =>
        if push && a.activePois then .trap s (trapPoison5 (BitVec.ofNat 64 (Config.freeNat s.tick))) false
        else
          let fa := if kind == 2 then k.arr.dfmt else k.arr.afmt
          let r := ((row.toNat + e.cur2) % 128).toNat
          let k' := k.beat v fa out bank.toNat r wload wswap
          let s := s.setCore (coreOf cx) k'
          .done (if k'.beatRow.isNone then s
            else s.updCtx cx fun c => c.sign .s5 ((k'.accRow bank.toNat r).flatMap fun x => bytesOfNat 4 x.toNat))
  | _ => .wait

/-- KIND1_FETCH (R180, R182, R209): the fetch of a scratch pitch by the `MBEAT` at the head of the holder's queue, once every earlier
window access has been performed; it parks until its words are FULL and it is chosen at each. -/
def execKind1Fetch (cx : Nat) (s : State) : Host.Outcome State Fault Refusal :=
  let c := s.ctx cx
  match c.queue 5 with
  | e :: _ =>
    match e.instr, e.phase with
    | some (.mbeat _ true 1 _ _ _ _ _ _), .fetched _ => .next s
    | some (.mbeat _ true 1 _ _ _ _ _ _), .resting => .next s
    | some (.mbeat _ true 1 _ _ _ _ _ _), _ =>
      if c.frozen || e.fault || !c.holder || (c.queue 3).any fun x => x.ord < e.ord && x.holdsKind1 then .next s
      else
        let k := s.cluster (clusterOf cx)
        let n := matPitch (s.core (coreOf cx)).arr.afmt
        let a := wrap64 ((e.val 0).toNat + e.cur)
        let fault := fun (cause : Nat) => s.streamFault cx e { cause := cause, slot := 5, info1 := BitVec.ofNat 64 a } false
        if a % 64 != 0 then .next (fault 0x06)
        else
          match windowOff a with
          | none => .next (fault 0x04)
          | some o =>
            if 0x800000 < o + n then .next (fault 0x04)
            else if k.switchingIn o n then .next s
            else if !k.scratchOk c.launch o n then .next (fault 0x17)
            else if s.parks cx e then
              .next (match e.phase with
                | .parked _ => s
                | _ => s.setPhase cx e (if (s.core (coreOf cx)).halt == .none then .parked s.tick else .resting))
            else
              match if s.scratchError cx [{ place := .scratch o, len := n }] then none
                else s.readPiece cx false { place := .scratch o, len := n } with
              | none => .next (if s.scratchError cx [{ place := .scratch o, len := n }] then s.noteError cx else s)
              | some (s', bs, p) => if p then .next (fault 0x0B) else .next (s'.setPhase cx e (.fetched bs))
    | _, _ => .next s
  | [] => .next s

/-- BEAT (R178). -/
def execBeat (cx : Nat) (s : State) : Host.Outcome State Fault Refusal :=
  match (s.ctx cx).queue 5 with
  | e :: _ =>
    match e.fault, e.instr with
    | false, some i =>
      .next (if (s.ctx cx).frozen then s
        else
          let s := s.askFill cx e i
          s.settle cx e (s.startBeat cx e i))
    | _, _ => .next s
  | [] => .next s

/-- Whether an S3 op writes memory, scratch or a FIFO (R343). -/
def writesMem (i : Instr) : Bool :=
  match i with
  | .fence .. => false
  | .drain .. => false
  | .persist .. => false
  | _ => !readsOnly i

/-- Whether an S3 op need not wait for other slots: for its vector registers (R140, R144), a window access for an earlier kind-1 read
(R344), a write for the kind-1 read of its own repetition (R343). -/
def State.memReady (s : State) (cx : Nat) (e : Entry) (i : Instr) : Bool :=
  let c := s.ctx cx
  c.vSources e.ord i && c.vWritable e i && !(e.usesWindow && c.kind1Before e.ord false) &&
    !(writesMem i && (c.queue 5).any fun x => x.ord = e.ord && x.kind1)

/-- An entry of S3–S6 at the head of its queue. -/
def State.startEntry (s : State) (cx : Nat) (e : Entry) (i : Instr) (finish : Bool) : Started :=
  match e.slot with
  | 3 => if s.memReady cx e i then s.startMem cx e i finish else .wait
  | 4 => s.startVec cx e i
  | 5 => s.startMx cx e i
  | _ => s.startAcc cx e i

/-- The entry at the head of a queue of S3–S6 starts, if it can (R68). -/
def State.startHead (s : State) (cx slot : Nat) (finish : Bool) : State :=
  match (s.ctx cx).queue slot with
  | e :: _ =>
    match e.fault, e.phase, e.instr with
    | false, .queued, some i =>
      let s := s.askFill cx e i
      s.settle cx e (s.startEntry cx e i finish)
    | _, _, _ => s
  | [] => s

/-- STREAMING_WRITE (R69): outstanding write `i` of a context takes effect. -/
def execStreamingWrite (cx i : Nat) (s : State) : Host.Outcome State Fault Refusal :=
  let c := s.ctx cx
  match c.outs[i]? with
  | none => .next s
  | some o =>
    match o.val with
    | none => .next s
    | some v => if c.outReady o then .next (s.setCtx cx (c.applyOut o v)) else .next s

/-- VECTOR_FILL (R144): the fill that is next on its core's path: the slot is read from the save area; it is clean. -/
def execVectorFill (cx r : Nat) (s : State) : Host.Outcome State Fault Refusal :=
  let c := s.ctx cx
  if s.nextFill (coreOf cx) != some (cx, r) then .next s
  else
    let key := areaKey c.savebase + 4096 * r
    if populated key then
      let (s, bs) := s.hwGet key 4096
      .next (s.setCtx cx
        { c with
          v := mset [] r (tileOfBytes bs) c.v
          vvalid := c.vvalid ||| ((1 : Word) <<< r), vdirty := c.vdirty &&& ~~~((1 : Word) <<< r) })
    else .fault (.unpopulated key)

/-- VECTOR_EARLY_WRITEBACK (R145): a dirty slot is written back and stays valid. -/
def execVectorEarlyWriteback (cx r : Nat) (s : State) : Host.Outcome State Fault Refusal :=
  let c := s.ctx cx
  if r < 64 && c.vvalid.getLsbD r && c.vdirty.getLsbD r then
    ((s.putTile (areaKey c.savebase + 4096 * r) (mget [] r c.v)).setCtx cx
      { c with vdirty := c.vdirty &&& ~~~((1 : Word) <<< r) }).out
  else .next s

/-- CONDITIONED_OP_PERFORM (R209): a parked op performs once its condition holds and it is chosen; that of S5 is a kind-1 read. -/
def execConditionedOpPerform (cx slot : Nat) (s : State) : Host.Outcome State Fault Refusal :=
  match (s.ctx cx).queue slot with
  | e :: _ =>
    match e.fault, e.phase, e.instr with
    | false, .parked _, some i =>
      if (s.ctx cx).frozen then .next s
      else if slot = 3 then .next (s.settle cx e (s.startMem cx e i false))
      else execKind1Fetch cx s
    | _, _, _ => .next s
  | [] => .next s

/-- The instruction at the head of a queue. -/
def Ctx.headInstr (c : Ctx) (slot : Nat) : Option Instr :=
  match if c.frozen then [] else c.queue slot with
  | e :: _ => e.instr
  | [] => none

/-- DRAIN_COMPLETE (R348): the `DRAIN` or `STL` at the head of a context's queue, once its covered accesses are
performed. -/
def execDrainComplete (cx : Nat) (s : State) : Host.Outcome State Fault Refusal :=
  match (s.ctx cx).headInstr 3 with
  | some (.drain ..) => .next (s.startHead cx 3 false)
  | some (.stl ..) => .next (s.startHead cx 3 false)
  | _ => .next s

/-- PERSIST_COMPLETE (R310): the covered SCM lines have reached the controller's write buffer. -/
def execPersistComplete (cx : Nat) (s : State) : Host.Outcome State Fault Refusal :=
  match (s.ctx cx).headInstr 3 with
  | some (.persist ..) => .next (s.startHead cx 3 true)
  | _ => .next s

/-- Whether an instruction is a `NOP` of its slot (R25). -/
def isNop : Instr → Bool
  | .nopCtl _ => true
  | .nopSa _ => true
  | .nopSb _ => true
  | .nopMem _ => true
  | .nopVec _ => true
  | .nopMx _ => true
  | .nopAcc _ => true
  | .nopEng _ => true
  | _ => false

/-- The step of an S3 op (R36). -/
def step3 : Instr → Int
  | .ld _ _ _ size _ _ => sizeBytes size
  | .st _ _ _ size _ => sizeBytes size
  | .lda _ _ _ size _ _ => sizeBytes size
  | .stl _ _ _ size _ => sizeBytes size
  | .ldfe _ _ _ size _ _ => sizeBytes size
  | .ldff _ _ _ size _ _ => sizeBytes size
  | .stef _ _ _ size _ => sizeBytes size
  | .stff _ _ _ size _ => sizeBytes size
  | .vld _ _ _ _ st => 256 * st.toInt
  | .vst _ _ _ _ st => 256 * st.toInt
  | .vldw _ _ _ _ st => 256 * st.toInt
  | .vstf _ _ _ _ st => 256 * st.toInt
  | .ldnb _ _ _ _ size _ => sizeBytes size
  | .stt _ _ _ _ size _ => sizeBytes size
  | .pref _ _ _ size _ => sizeBytes size
  | .cflush .. => 128
  | .ldxs .. => 64
  | _ => 0

/-- The formats afmt and dfmt that hold when an op issued now reaches the array: those of the last `MMODE` queued, else the
array's (R180, R189). -/
def State.formatsAhead (s : State) (cx : Nat) : BitVec 4 × BitVec 4 :=
  let a := (s.core (coreOf cx)).arr
  ((s.ctx cx).queue 5).foldl (fun f e => match e.instr with
    | some (.mmode _ fa _ fd) => (fa, fd)
    | _ => f) (a.afmt, a.dfmt)

/-- The steps of the cursors after a repetition of an op (R41, R42, R180). -/
def State.stepCursors (s : State) (cx : Nat) (slot : Nat) (i : Instr) (c : Cursors) : Cursors :=
  match slot, i with
  | 3, _ => { c with s3 := c.s3 + step3 i }
  | 5, .mbeat _ push kind _ _ _ _ _ _ =>
    let (fa, fd) := s.formatsAhead cx
    { c with s5s := c.s5s + (if !push then 0 else if kind == 2 then 4 * matK fd else matPitch fa), s5d := c.s5d + 1 }
  | 6, .aget _ _ _ _ cvt _ => { c with s6 := c.s6 + (if 3 ≤ cvt.toNat then 16 else 8) }
  | 6, _ => { c with s6 := c.s6 + 8 }
  | _, _ => c

/-- Whether an op ends the stickiness of its slot (R36–R39, R44). -/
def oneShot : Instr → Bool
  | .feinit .. => true
  | .mwsel .. => true
  | .mmode .. => true
  | .rinit .. => true
  | .lease .. => true
  | .unlease .. => true
  | .lwarm .. => true
  | .launch .. => true
  | .bankcfg .. => true
  | .tload .. => true
  | .pinwin .. => true
  | .unpin .. => true
  | .swappg .. => true
  | .tlbinv .. => true
  | .mapwin .. => true
  | i => isNop i

/-- A command turned off by the guard completes its token at once (R24). -/
def Ctx.guardedOff (c : Ctx) (i : Instr) : Ctx :=
  match tailFields i with
  | none => c
  | some t => c.completeToken t.prod

/-- What a streaming slot does to a context in a repetition (R24, R41–R44, R67): stickiness, its entry, its cursor. `r` is the
state that operands are read in. -/
def State.issueCtx (r : State) (off ckpt : Bool) (slot : Nat) (par : Parcel) (i : Instr) (c : Ctx) : Ctx :=
  let d :=
    if isNop i then c
    else if off && parcelG par.w0 then (if slot = 7 then c.guardedOff i else c)
    else c.enqueue (mkEntry r slot par i ckpt) i
  { d with
    sticky := if oneShot i then merase slot c.sticky else mput slot par c.sticky
    cursors := if isNop i then c.cursors else r.stepCursors r.cur.cx slot i c.cursors }

/-- What a streaming slot does in a repetition. -/
def State.issueSlot (r : State) (off ckpt : Bool) (slot : Nat) (par : Parcel) (i : Instr) (s : State) : State :=
  s.updCtx s.cur.cx (r.issueCtx off ckpt slot par i)

/-- The words of a parcel's instruction. -/
def parcelOf (i : Instr) : Parcel := { w0 := (encodeParcel i).1, w1 := (encodeParcel i).2 }

/-- A streaming op issued alone in its slot (R41–R44, R67): one repetition of a bundle that holds nothing else. -/
def State.issueAlone (s : State) (slot : Nat) (i : Instr) : State :=
  s.updCtx s.cur.cx fun c => { s.issueCtx s.cur.off false slot (parcelOf i) i c with ord := c.ord + 1 }

/-- The most that `AWC` counts (R186). -/
def awcMax : Nat := 11

/-- Whether a streaming op is held at issue (R63, R67): an operand is absent, or its queue is full; an op that counts in `AWC` also
while `AWC` is at its limit, which the entries that a trap holds can bring it to (R186; assumption log 114). -/
def streamHeld (slot : Nat) (i : Instr) (s : State) : Bool :=
  let c := s.ctx s.cur.cx
  (srcSpecs i).any (specAbsent c) || 8 ≤ (c.queue slot).length || (countsAwc i && awcMax ≤ c.awc)

/-- The writes of the context at hand that are due take effect. -/
def State.landed (s : State) : State := s.updCtx s.cur.cx (Ctx.applyOuts (s.ctx s.cur.cx).outs.length)

/-- A `NOP` of a streaming slot issued alone (R44). -/
def aloneNop (slot : Nat) (i : Instr) (s : State) : Host.Outcome State Fault Refusal :=
  .next (s.issueAlone slot i)

/-- A streaming op of S3–S6 issued alone: turned off, when it reads nothing and enters no queue (R24), held, its trap, or its entry,
which starts if it is the first of its queue; a write that is then due takes effect. -/
def aloneStream (slot : Nat) (g : Bool) (i : Instr) (s : State) : Host.Outcome State Fault Refusal :=
  if g && s.cur.off then .next (s.issueAlone slot i)
  else if streamHeld slot i s then .next s
  else
    match firstPoisoned (s.ctx s.cur.cx) (srcSpecs i) with
    | some sp => .next (s.takePrecise (poisonTrap slot sp))
    | none => (((s.issueAlone slot i).startHead s.cur.cx slot false).landed).out

end Sys2Proof.Machine
end

