-- ==== Sys2Proof/Machine/Commands.lean ====
section
/-!
DEFINITION. Slot S7 (02 R71, 08 R249, 09 R274, 10 R287): when a command starts, what it does then, how it ends, and the
meaning of each S7 instruction issued alone.
-/

namespace Sys2Proof.Machine

/-- Whether every earlier cluster SRAM access of the context has been performed (R249, R344). -/
def Ctx.sramDone (c : Ctx) (ord : Nat) : Bool :=
  !((c.queue 3).any fun x => x.ord < ord && x.usesWindow) && !(c.kind1Before ord false)

/-- What an S7 instruction does at the head of its queue once it may start. -/
def State.startOp7 (s : State) (cx : Nat) (e : Entry) (i : Instr) : Started :=
  match i with
  | .cpy _ _ _ ch => s.startCpy cx e ch
  | .stage .. => s.startStage cx e
  | .rinit .. => s.startRinit cx e
  | .rawait _ t _ ring => s.startRawait cx e t ring.toNat
  | .rrel _ _ _ ring => s.startRrel cx e ring.toNat
  | .lease _ _ _ kind prio => s.startLease cx e kind prio
  | .lcmd .. => s.startLcmd cx e
  | .unlease .. => s.startUnlease cx e
  | .lwarm _ _ kind keep => s.startLwarm cx e kind keep
  | .launch _ _ _ q => s.startLaunch cx e q.toNat
  | .wstr .. => s.startWstr cx e
  | .bankcfg .. => s.startBankcfg cx e
  | .tload _ _ _ _ count => s.startTload cx e (count.toNat + 1)
  | .pinwin .. => s.startPinwin cx e
  | .unpin .. => s.startUnpin cx e
  | .swappg .. => s.startSwappg cx e
  | .tlbinv _ _ _ _ mode => s.startTlbinv cx e mode
  | .mapwin _ _ _ _ w exact => s.startMapwin cx e w.toNat exact
  | _ => .done s

/-- The failure kind of a command that never started (R71, R92): that of the engine it asks for. -/
def deadKind (e : Entry) (i : Instr) : Nat :=
  match i with
  | .lease _ _ _ kind _ => kind.toNat
  | .lcmd .. => (e.val 0).toNat / 16 % 8
  | .wstr .. => 0
  | _ => kindOther

/-- A command that consumes a failed token fails in turn (R71): its destination becomes present with its old value. -/
def State.failDead (s : State) (cx : Nat) (e : Entry) (i : Instr) : State :=
  match tailFields i with
  | none => s
  | some t => (s.setOut cx e { keep := true }).updCtx cx fun c => c.commandEnds t e.ord e.scm (some (deadKind e i, 1))

/-- The S7 entry at the head of its queue (R71, R249). -/
def State.startCmd (s : State) (cx : Nat) (e : Entry) (i : Instr) : Started :=
  if !e.waits.isEmpty then .wait
  else if e.dead then .done (s.failDead cx e i)
  else if !(s.ctx cx).sramDone e.ord then .wait
  else s.startOp7 cx e i

/-- The entry at the head of the S7 queue starts, if it can. -/
def State.startHead7 (s : State) (cx : Nat) : State :=
  match (s.ctx cx).queue 7 with
  | e :: _ =>
    match e.fault, e.phase, e.instr with
    | false, .queued, some i => s.settle cx e (s.startCmd cx e i)
    | false, .fetched _, some i => s.settle cx e (s.startCmd cx e i)
    | false, .parked _, some i => s.settle cx e (s.startCmd cx e i)
    | _, _, _ => s
  | [] => s

/-- COMMAND_COMPLETION (R71): the end of a command that has no event of its own. -/
def execCommandCompletion (id : Nat) (s : State) : Host.Outcome State Fault Refusal :=
  match s.cmd id with
  | none => .next s
  | some c =>
    if c.play.isSome then .next s
    else
      match c.entry.instr with
      | some (.stage ..) => .next (s.endCmd id none)
      | some (.rrel ..) => .next (s.endCmd id none)
      | some (.lwarm ..) => .next (s.endCmd id none)
      | some (.unpin ..) => .next (s.endCmd id none)
      | some (.swappg ..) => .next (if c.begun then s.endCmd id none else s)
      | some (.rinit _ _ _ _ ring) => .next ((s.finishRinit id c ring.toNat).getD s)
      | some (.tload _ _ _ _ count) =>
        match s.finishTload id c (count.toNat + 1) with
        | none => .next s
        | some s' => s'.out
      | some (.unlease ..) => .next (s.endCmd id none)
      | some (.pinwin ..) => .next (s.finishPinwin id c)
      | some (.tlbinv _ _ _ _ mode) => .next ((s.finishTlbinv id c mode).getD s)
      | some (.mapwin _ _ _ _ w exact) => .next (s.finishMapwin id c w.toNat exact)
      | _ => .next s

/-- An S7 op issued alone: turned off (R24), held, its trap, or its entry, which starts if it can. -/
def aloneCommand (g : Bool) (i : Instr) (s : State) : Host.Outcome State Fault Refusal :=
  if g && s.cur.off then .next (s.issueAlone 7 i)
  else if streamHeld 7 i s then .next s
  else
    match firstPoisoned (s.ctx s.cur.cx) (srcSpecs i) with
    | some sp => .next (s.takePrecise (poisonTrap 7 sp))
    | none => (((s.issueAlone 7 i).startHead7 s.cur.cx).landed).out

end Sys2Proof.Machine
end

