-- ==== Sys2Proof/Machine/Guard.lean ====
section
/-!
DEFINITION. Error-guarded launches (15 R406–R415): the snapshot of a checkpoint, held stores released, a region undone, the
end of a rerun, and a core retired.
-/

namespace Sys2Proof.Machine

/-- Whether a context is of an error-guarded launch (R367). -/
def Ctx.guarded (c : Ctx) : Bool := c.guard.isSome

/-- The vector registers below `n` whose slots are invalid filled from the save area, which no program observes (R142). -/
def State.fillSlots (cx : Nat) : Nat → State → State
  | 0, s => s
  | n + 1, s =>
    let s := State.fillSlots cx n s
    let c := s.ctx cx
    let key := areaKey c.savebase + 4096 * n
    if c.vvalid.getLsbD n then s
    else if !populated key then { s with bad := s.bad.or (some key) }
    else
      let (s, bs) := s.hwGet key 4096
      s.setCtx cx { c with v := mset [] n (tileOfBytes bs) c.v, vvalid := c.vvalid ||| ((1 : Word) <<< n) }

/-- Whether an accumulator row, numbered across the banks, lies in a bank allotted to the context (R171). -/
def Ctx.ownsRow (c : Ctx) (row : Nat) : Bool := c.accbanks.getLsbD (row / 128) && row < 1024

/-- The key of the holder's array image area (R171, R193). -/
def Ctx.imageKey (c : Ctx) : Nat :=
  keyOf (c.accbanks.extractLsb' 52 12).toNat ((c.accbanks.extractLsb' 19 33).toNat * 2 ^ 19)

/-- The snapshot of a context as it stands (R406). -/
def State.snapshotOf (s : State) (cx : Nat) : Snapshot :=
  let c := s.ctx cx
  let k := s.core (coreOf cx)
  { pc := c.pc, rcLeft := c.rcLeft, mid := c.mid, sys := c.sys, prog := c.prog, shad := c.shad, v := c.v, vpres := c.vpres,
    vpois := c.vpois, vdec := c.vdec, flags := c.flags, fpstatus := c.fpstatus, engfail := c.engfail, loops := c.loops,
    cursors := c.cursors, sticky := c.sticky, awc := c.awc, frame := c.frame, trapcause := c.trapcause,
    trappc := c.trappc, info0 := c.info0, info1 := c.info1, trapvec := c.trapvec, skipS0 := c.skipS0,
    retiring := c.phase == .retiring, acc := k.acc.filter fun r => c.ownsRow r.1
    accPois := k.accPois.filter fun r => c.ownsRow r.1
    held := c.held, engrec := c.engrec, energy := c.energy }

/-- The end of a checkpoint (R410): snapshot, checkpoint image of the holder (R196), counts and journals cleared. -/
def State.takeSnapshot (s : State) (cx : Nat) : State :=
  let s := State.fillSlots cx 48 s
  let c := s.ctx cx
  let s := s.setCtx cx { c with rcount := 0, rrun := 0, guard := some { snap := s.snapshotOf cx } }
  let s := s.updCore (coreOf cx) fun k => { k with contain := k.contain.filter (· != cx) }
  if c.holder then s.hwPut (c.imageKey + 0x30000) (s.core (coreOf cx)).arr.image else s

/-- Whether what a checkpoint bundle issued has come far enough for the snapshot (R196, R410): its entries have started, its results
have landed, and its S3 accesses have been performed. -/
def State.ckptDone (s : State) (cx : Nat) : Bool :=
  (s.ctx cx).queuesEmpty && ((s.ctx cx).outs.all fun o => o.slot = 7) && !(s.net.any fun p =>
    p.2.cx = cx && p.2.entry.ckpt && (match p.2.stage with
      | .done => false
      | .accepted => p.2.bytes.isEmpty
      | .performed => p.2.kind != .store
      | _ => true))

/-- A `WSTR` of a checkpoint bundle that has ended is restarted by a rollback (R196). -/
def State.restartWstr (s : State) (p : Nat × Nat × Command) : State :=
  let c := p.2.2
  let x := mget ({} : Engine) p.2.1 (s.die p.1).engines
  if x.st == .leased && x.cx = c.cx then
    let par : Parcel := { w0 := c.entry.par.w0 &&& 0xFF03FFFF, w1 := c.entry.par.w1 &&& 0xFFFFC1FF }
    let (s, id) := s.newCmd { c with entry := { c.entry with par := par, waits := [], dead := false }, begun := false, parked := none }
    s.updDie p.1 fun d => { d with engines := mput p.2.1 { x with queue := x.queue ++ [id] } d.engines }
  else s

/-- A region undone (R414): queues and hold buffer discarded, registers and rows as at the checkpoint, the holder's array read
back from the checkpoint image (R196); engine completions since it stand. -/
def State.restoreRegion (s : State) (cx : Nat) (run : BitVec 2) : State :=
  let c := s.ctx cx
  match c.guard with
  | none => s
  | some g =>
    let x := g.snap
    let dead := s.net.filter fun p => p.2.cx = cx && (p.2.kind == .load || p.2.pendingLdnb)
    let (s, _) := s.withdrawLdnb cx
    let s := { s with net := dead.foldl (fun n (p : Nat × Packet) => forget p.1 p.2 n) s.net
                      gathers := s.gathers.filter fun g => g.2.cx != cx }
    let image := c.imageKey + 0x30000
    let s := if c.holder && !populated image then { s with bad := s.bad.or (some image) } else s
    let (s, bs) := if c.holder then s.hwGet image 0x21440 else (s, [])
    let arr := matArrayOf bs
    let s := s.updCore (coreOf cx) fun k =>
      { k with
        acc := x.acc.foldl (fun m (r : Nat × AccRow) => mput r.1 r.2 m) (k.acc.filter fun r => !c.ownsRow r.1)
        accPois := x.accPois.foldl (fun m (r : Nat × Bool) => mput r.1 r.2 m) (k.accPois.filter fun r => !c.ownsRow r.1)
        arr := if c.holder then arr else k.arr
        fillq := k.fillq.filter fun f => f.1 != cx
        divider := match k.divider with
          | some d => if d.cx = cx then none else some d
          | none => none }
    let s := s.setCtx cx
      { c with
        phase := .running, pc := x.pc, rcLeft := x.rcLeft, mid := x.mid, decoded := none, sys := x.sys, prog := x.prog, shad := x.shad, v := x.v
        vpres := x.vpres, vpois := x.vpois, vvalid := BitVec.allOnes 64, vdirty := BitVec.allOnes 64, vdec := x.vdec,
        flags := x.flags, fpstatus := x.fpstatus, engfail := x.engfail, engrec := x.engrec, loops := x.loops,
        cursors := x.cursors, sticky := x.sticky, awc := x.awc, frame := x.frame, trapcause := x.trapcause,
        trappc := x.trappc, info0 := x.info0, info1 := x.info1, trapvec := x.trapvec, skipS0 := x.skipS0,
        energy := x.energy, queues := [], outs := c.outs.filter fun o => o.slot = 7, sfault := [], held := x.held
        rrun := run, rcount := 0
        guard := some { snap := x, runs := g.runs } }
    g.wstr.foldl State.restartWstr s

/-- The lifetime counts of the module of a die (R438). -/
def State.countLife (s : State) (die : Nat) (f : Lifetime → Lifetime) : State :=
  s.updMod (modOf die) fun m => { m with life := f m.life }

/-- A number put into a rising list. -/
def insertNat (x : Nat) : List Nat → List Nat
  | [] => [x]
  | y :: ys => if x ≤ y then x :: y :: ys else y :: insertNat x ys

/-- A started playbook entry of a launch withdrawn (R244): it credits no ring and gives back its booking. -/
def State.withdrawPlay (s : State) (l id : Nat) (c : Command) : State :=
  let s := { s with cmds := merase id s.cmds }
  s.updCluster c.cl fun k =>
    let k := match c.bound with
      | none => k
      | some (h, cr, _) => k.setRing h { k.ring h with booked := (k.ring h).booked - BitVec.ofNat 32 cr }
    let p := mget ({} : Play) l k.plays
    let i := (c.play.map Prod.snd).getD 0
    { k with
      chans := (k.chans.map fun x => (x.1, x.2.filter (· != id))).filter fun x => !x.2.isEmpty
      plays := mput l { p with again := insertNat i p.again } k.plays }

/-- Every started playbook entry of a launch withdrawn, in the order they started (R244). -/
def State.withdrawPlays (s : State) (l : Nat) : State :=
  (s.cmds.filter fun e => e.2.play.any fun p => p.1 = l).foldl (fun s e => s.withdrawPlay l e.1 e.2) s

/-- A guarded context is to stand as at its last checkpoint (R381, R415): its region is undone, but a checkpoint bundle that has
issued, or begun to release held stores (R410), ends first. -/
def State.toCheckpoint (s : State) (cx : Nat) : State :=
  if (s.ctx cx).guard.any fun g => !g.closing && !g.released then s.restoreRegion cx 0
  else if (s.ctx cx).guard.any fun g => !g.closing then s
  else if (s.ctx cx).guarded && s.ckptDone cx then s.takeSnapshot cx
  else s

/-- A bound launch is to be pre-empted whole (R380, R381): issue stops, guarded contexts stand as at their last checkpoint, and
started playbook entries are withdrawn. -/
def State.preempt (s : State) (l : Nat) : State :=
  let x := mget ({} : Launch) l s.launches
  if x.st != .bound || x.stop.isSome then s
  else
    let s := { s with launches := mput l { x with st := .preempting, since := s.modMt x.m, aged := 0 } s.launches }
    ((s.boundTo l).foldl State.toCheckpoint s).withdrawPlays l

/-- A core retired (R415): its contexts stand as at their last checkpoint, and the launch is pre-empted whole, or ends. -/
def State.retireCore (s : State) (cx : Nat) : State :=
  let k := coreOf cx
  let s := (List.range 4).foldl (fun s h => s.toCheckpoint (4 * k + h)) s
  let s := (s.updCore k fun y => { y with retired := true }).countLife (dieOf cx) fun l => { l with retired := satAdd l.retired 1 }
  let s := s.post (dieOf cx) .coreRetired [k]
  match (s.ctx cx).launch with
  | none => s
  | some l =>
    let x := mget ({} : Launch) l s.launches
    if x.flag 1 then s.preempt l
    else s.failLaunch (some l) statusFault

/-- A detected error of a guarded context (R413, R414): the region is undone and run again; an error that cannot be contained,
among them one after the release of a checkpoint bundle (R410), ends the launch or retires the core. While the errors of
another context of the core are contained it is only noted. -/
def State.detected (s : State) (cx : Nat) (scratch : Bool) : State :=
  let c := s.ctx cx
  match c.guard with
  | none => s
  | some g =>
    if g.closing || g.released then s.failLaunch c.launch statusFault
    else if s.containing cx then s.noted cx scratch
    else if c.rrun != 0 then
      if scratch then s.failLaunch c.launch statusFault else s.retireCore cx
    else
      ((s.addContained cx).restoreRegion cx 1).countLife (dieOf cx) fun l =>
        { l with rollbacks := satAdd l.rollbacks 1, reruns := satAdd l.reruns 1 }

/-- A noted error dealt with (R413); none while another context of the core is contained. -/
def State.pendingError (s : State) (cx : Nat) : Option State :=
  if s.containing cx then none else ((s.ctx cx).guard.bind Guard.err).map fun scratch => s.detected cx scratch

/-- The end of a rerun (R414): after the first the region runs once more; two runs that agree let the checkpoint bundle
execute (none), two that differ retire the core. -/
def State.endRerun (s : State) (cx : Nat) : Option State :=
  let c := s.ctx cx
  match c.guard with
  | none => none
  | some g =>
    let mine := (c.rcount.toNat, g.sig)
    if c.rrun = 0 then none
    else if c.rrun = 1 then
      some (((s.setCtx cx { c with guard := some { g with runs := [mine] } }).restoreRegion cx 2).countLife (dieOf cx) fun l =>
        { l with reruns := satAdd l.reruns 1 })
    else if g.runs == [mine] then none
    else some (s.retireCore cx)

/-- One held store performed or sent (R409), as if it issued now, the last part in a line that its access wrote whole leaving it
without poison (R308); none while it waits. -/
def State.releaseStore (s : State) (cx : Nat) (h : HeldStore) : Option State :=
  let note := fun (s : State) => s.updCtx cx fun c => { c with unpersisted := c.unpersisted ++ scmLines [h.piece] }
  if s.overlapsPending cx [h.piece] then none
  else if s.remotePiece cx true false h.piece then
    (s.send { cx := cx, die := dieOf cx, home := h.piece.home, kind := .store, entry := { h.entry with ckpt := true }
              pieces := [h.piece], bytes := h.bytes, poison := h.poison, whole := h.whole }).map fun p => note p.1
  else (s.writePieces cx true h.poison [h.piece] h.bytes).map fun s => note (if h.whole then s.cleanLine cx true h.piece else s)

/-- The hold buffer released in order (R409, R410), as far as it goes; `n` bounds its length. -/
def State.releaseHeld (cx : Nat) : Nat → State → State
  | 0, s => s
  | n + 1, s =>
    let c := s.ctx cx
    match c.guard with
    | none => s
    | some g =>
      match g.hold with
      | [] => s
      | h :: hs =>
        match (s.setCtx cx { c with guard := some { g with hold := hs } }).releaseStore cx h with
        | none => s
        | some s' => State.releaseHeld cx n s'

/-- The region counts of R407: repetitions, held stores, rows and registers written. -/
structure RegionUse where
  stores : Nat := 0
  rows : List Nat := []
  vregs : List Nat := []
  deriving DecidableEq, Repr

/-- What an op that issues counts towards the limits of its region (R407), with the cursors it issues with. -/
def regionUse (i : Instr) (cur : Cursors) (u : RegionUse) : RegionUse :=
  let row := fun (b : BitVec 3) (r : BitVec 7) (k : Int) => b.toNat * 128 + ((r.toNat + k) % 128).toNat
  let rows := fun (b : BitVec 3) (r : BitVec 7) => (List.range 8).map fun (n : Nat) => row b r (cur.s6 + (n : Int))
  let u := match i with
    | .st .. => { u with stores := u.stores + 1 }
    | .vst .. => { u with stores := u.stores + 16 }
    | .mbeat _ _ _ _ out b r _ _ => if out != 0 then { u with rows := u.rows ++ [row b r cur.s5d] } else u
    | .aput _ _ b r _ => { u with rows := u.rows ++ rows b r }
    | .aputa _ _ b r _ => { u with rows := u.rows ++ rows b r }
    | .aclr _ b r => { u with rows := u.rows ++ rows b r }
    | _ => u
  match vWrite i with
  | some v => { u with vregs := u.vregs ++ [v.toNat] }
  | none => u

/-- New members of a list, each once. -/
def addNew (l : List Nat) : List Nat → List Nat
  | [] => l
  | x :: xs => addNew (if l.contains x then l else l ++ [x]) xs

/-- The counts of a region after a repetition, or the code of the limit it would pass (R407). -/
def Guard.count (g : Guard) (sys : Bool) (u : RegionUse) : Except Nat Guard :=
  let rows := addNew g.rows u.rows
  let vregs := addNew g.vregs u.vregs
  if !sys && 4096 ≤ g.reps then .error 0
  else if 256 < g.holdCount + u.stores then .error 1
  else if 128 < rows.length then .error 2
  else if 16 < vregs.length then .error 3
  else .ok { g with reps := if sys then g.reps else g.reps + 1, holdCount := g.holdCount + u.stores, rows := rows, vregs := vregs }

end Sys2Proof.Machine
end

