-- ==== Sys2Proof/Machine/Issue.lean ====
section
/-!
DEFINITION. Bundles (01 R14–R25, R41–R53): fetch, template expansion, the checks of the decoder, what holds a repetition
(02 R63), its issue, and the events of the issue selector, of streaming entries, of traps and of retirement (02 R64–R69,
R74, R75, R83; 03 R97).
-/

namespace Sys2Proof.Machine

/-! Fetch and expansion -/

/-- The unit at a program counter (R14, R15). -/
def Core.unitAt (k : Core) (pc : Nat) : HUnit := mget 0 (pcBank pc * 16384 + pcIdx pc) k.ibank

/-- The units from a program counter to the end of its bank, at most `n`. -/
def Core.unitsFrom (k : Core) (pc : Nat) : Nat → List HUnit
  | 0 => []
  | n + 1 => if pcIdx pc < 16384 then k.unitAt pc :: k.unitsFrom (pc + 1) n else []

/-- The whole words of a list of units (R21). -/
def wholeWords : List HUnit → List W32
  | lo :: hi :: us => wordOf lo hi :: wholeWords us
  | _ => []

/-- The instruction at a program counter (R18–R21): at most 20 units; of a bundle that runs past the bank, the words inside it
(R53). -/
def Core.fetch (k : Core) (pc : Nat) : Instr :=
  let us := k.unitsFrom pc 20
  match decodeUnits us with
  | .ok (i, _) => i
  | .error _ =>
    match wholeWords us with
    | hdr :: words => .fullBundle hdr words
    | [] => .fullBundle 0 []

/-- The core as a context fetches from it: the banks with the context's own held stores to them (R16, R409). -/
def State.fetchCore (s : State) (cx : Nat) : Core :=
  match (s.ctx cx).guard with
  | none => s.core (coreOf cx)
  | some g => g.hold.foldl (fun k h => match h.piece.place with
      | .ibank o => k.putIbank o h.bytes
      | _ => k) (s.core (coreOf cx))

/-- The instruction that a context issues next (R14–R21): while repetitions of a bundle are left, the one that it decoded (R50),
otherwise the one at its program counter. -/
def State.fetch (s : State) (cx : Nat) : Instr :=
  let c := s.ctx cx
  match c.decoded.filter fun _ => c.mid with
  | some d => d.instr
  | none => (s.fetchCore cx).fetch c.pc

/-- A bundle about to issue: the instruction it comes from and the template entry read, header, repeat count, units, the template
index it was called by, whether that lies in the window, whether a template header is malformed and the absent slots with nonzero
words, and its own parcels. -/
structure Bundle where
  instr : Instr
  entry : BitVec 256 := 0
  hdr : W32
  rc : Nat
  units : Nat
  index : Option Nat := none
  outside : Bool := false
  badHead : Bool := false
  badWords : List Nat := []
  cut : Bool := false
  own : List (Nat × Parcel) := []
  deriving DecidableEq, Repr

/-- The parcels of the slots present, from a bundle's words (R21). -/
def splitWords : List Nat → List W32 → List (Nat × Parcel)
  | [], _ => []
  | 7 :: _, w0 :: w1 :: _ => [(7, ⟨w0, w1⟩)]
  | k :: ks, w :: ws => (k, ⟨w, 0⟩) :: splitWords ks ws
  | _, [] => []

/-- A full bundle (R20, R21). -/
def fullBundleOf (hdr : W32) (words : List W32) : Bundle :=
  let slots := (List.range 8).filter fun k => hdr.getLsbD k
  { instr := .fullBundle hdr words, hdr := hdr, rc := (hdr.extractLsb' 8 7).toNat, units := 2 + 2 * bundleWords hdr
    cut := words.length < bundleWords hdr, own := splitWords slots words }

/-- The bundle that a template call issues (R49, R50), from the entry as the call was decoded. -/
def Core.templateOf (k : Core) (c : Ctx) (index : BitVec 9) (rc : BitVec 6) : Bundle :=
  if c.tmplEntries ≤ index.toNat then
    { instr := .tcall index rc, hdr := 0, rc := rc.toNat, units := 1, index := some index.toNat, outside := true }
  else
    let e : BitVec 256 := match c.decoded.filter fun d => c.mid && d.instr == .tcall index rc with
      | some d => d.entry
      | none => mget 0 (c.tbase + index.toNat) k.tmpl
    let word : Nat → W32 := fun n => e.extractLsb' (32 * n) 32
    let h := word 0
    let slots := [1, 2, 3, 4, 5, 6].filter fun n => h.getLsbD n
    { instr := .tcall index rc, entry := e, hdr := h, rc := rc.toNat, units := 1, index := some index.toNat
      badHead := h.extractLsb' 8 8 != 0 || h.getLsbD 0 || h.getLsbD 7 || word 7 != 0
      badWords := [1, 2, 3, 4, 5, 6].filter fun n => !h.getLsbD n && word n != 0
      own := slots.map fun n => (n, ⟨word n, 0⟩) }

/-- A slot of a bundle in effect: the parcel, what it decodes to, and whether it re-issues (R43). -/
structure SlotOp where
  slot : Nat
  par : Parcel
  dec : Except DecErr Instr
  sticky : Bool

/-- The slots of a bundle in effect: its own, with S0 a `NOP` after a return that skips it (R84), and sticky ones (R43). -/
def Bundle.slots (b : Bundle) (c : Ctx) : List SlotOp :=
  let own := b.own.map fun p =>
    if p.1 = 0 && c.skipS0 then { slot := 0, par := p.2, dec := .ok (.nopCtl false), sticky := false }
    else ({ slot := p.1, par := p.2, dec := decodeParcel p.1 p.2.w0 p.2.w1, sticky := false } : SlotOp)
  let sticky := (c.sticky.filter fun p => !b.own.any fun q => q.1 = p.1).map fun p =>
    ({ slot := p.1, par := p.2, dec := decodeParcel p.1 p.2.w0 p.2.w1, sticky := true } : SlotOp)
  (List.range 8).flatMap fun k => (own ++ sticky).filter fun x => x.slot = k

/-- The slots that decode. -/
def opsOf (l : List SlotOp) : List (Nat × Instr) :=
  l.filterMap fun x => match x.dec with
    | .ok i => some (x.slot, i)
    | .error _ => none

/-! Decode-time illegality (R52, R53) -/

/-- A condition of a slot: the place of its cause in the order of R52, and the trap. -/
def atSlot (rank cause slot : Nat) (info : Word := 0) : Nat × Trap := (16 * rank + 1 + slot, { cause := cause, slot := slot, info1 := info })

/-- A condition of the header or of the bundle as a whole (R53). -/
def whole (rank cause : Nat) (info : Word := 0) : Nat × Trap := (16 * rank, { cause := cause, slot := 0, detail := 1, info1 := info })

/-- The named registers that an op reads and writes. -/
def readRegs (i : Instr) : List Nat := (srcSpecs i).filterMap fun sp => if isNamed sp then some (namedIdx sp) else none
def writeRegs (i : Instr) : List Nat := ((nWrite i).map namedIdx).toList

/-- Whether an S0 op may stand in a repeated bundle (R34, R46). -/
def repeatable : Instr → Bool
  | .br .. => false
  | .call .. => false
  | .jmp .. => false
  | .ret .. => false
  | .loop .. => false
  | .brx .. => false
  | .yield .. => false
  | .exit .. => false
  | .trap .. => false
  | .rft .. => false
  | .bkpt .. => false
  | .ckpt .. => false
  | _ => true

/-- Whether an op is irrevocable (R408). -/
def irrevocable (slot : Nat) (i : Instr) : Bool :=
  slot = 7 && !isNop i || isAtomic i ||
    (match i with
     | .stl .. => true
     | .ldfe .. => true
     | .stef .. => true
     | .stff .. => true
     | .feinit .. => true
     | .vstf .. => true
     | .stt .. => true
     | .fpush .. => true
     | .fpop .. => true
     | .persist .. => true
     | _ => false)

/-- Whether an op is privileged (R34, R39, R85). -/
def privileged : Instr → Bool
  | .rft .. => true
  | .pwrreq .. => true
  | .mts _ sr _ => sysOnly sr || sysPriv sr
  | .mfs _ sr _ => sysOnly sr
  | .pinwin .. => true
  | .unpin .. => true
  | .swappg .. => true
  | .tlbinv .. => true
  | .mapwin .. => true
  | _ => false

/-- The literal of an op that names a vector register, accumulator bank, ring or FIFO bank not allotted to the context
(R52, R142, R183, R223, R249), with the value. -/
def State.unallotted (s : State) (cx : Nat) (i : Instr) : Option Word :=
  let c := s.ctx cx
  let regs := (((vWrite i).toList ++ vReads i).map fun v => v.toNat).filter fun v => c.guarded && 48 ≤ v
  let banks := ((accBanks i).map fun b => b.toNat).filter fun b => !c.accbanks.getLsbD b
  let ring := match i with
    | .rinit _ _ _ _ r => [r.toNat]
    | .rawait _ _ _ r => [r.toNat]
    | .rrel _ _ _ r => [r.toNat]
    | _ => []
  let have_ := match c.launch with
    | some l => (mget ({} : Launch) l s.launches).rings
    | none => 0
  let fifo := match i with
    | .fpush _ _ b => [b.toNat]
    | .fpop _ _ b => [b.toNat]
    | _ => []
  let owner := fun (b : Nat) => ((s.cluster (clusterOf cx)).owners.find? fun p => p.1 == b).map Prod.snd
  ((regs ++ banks ++ (ring.filter fun r => have_ ≤ r) ++ fifo.filter fun b => c.launch.isNone || owner b != c.launch).head?).map
    (BitVec.ofNat 64)

/-- Whether one op writes a register that another reads or writes. -/
def clash (a b : Instr) : Bool :=
  (writeRegs a).any (fun r => (writeRegs b).contains r || (readRegs b).contains r) ||
    (writeRegs b).any fun r => (readRegs a).contains r

/-- The conditions of R52 that hold for a bundle of a context. -/
def State.conditions (s : State) (cx : Nat) (b : Bundle) (l : List SlotOp) : List (Nat × Trap) :=
  let c := s.ctx cx
  let ops := (opsOf l).filter fun p => !isNop p.2
  let idx := BitVec.ofNat 64 (b.index.getD 0)
  let gated := (l.filter fun x => parcelG x.par.w0).map SlotOp.slot
  let gn := (b.hdr.extractLsb' 17 5).toNat
  let ckpt := (opsOf l).any fun p => match p.2 with
    | .ckpt _ => true
    | _ => false
  let pairs := ops.flatMap fun p => (ops.filter fun q => p.1 < q.1).map fun q => (p, q)
  (if b.badHead then [whole 0 0x03 idx] else []) ++
  b.badWords.map (fun k => atSlot 0 0x03 k idx) ++
  l.filterMap (fun x => match x.dec with
    | .error .illegalOp => some (atSlot 1 0x01 x.slot)
    | .error _ => some (atSlot 2 0x02 x.slot)
    | .ok _ => none) ++
  (if b.hdr.extractLsb' 16 12 != 0 && gated.isEmpty && !b.badHead then [whole 2 0x02] else []) ++
  (if b.cut || 16384 < pcIdx c.pc + b.units then [whole 2 0x02] else []) ++
  (if b.outside then [] else (ops.filter fun p => (writeRegs p.2).contains gn).flatMap fun p =>
    gated.map fun g => atSlot 2 0x02 (if p.1 < g then p.1 else g)) ++
  (pairs.filter fun p => clash p.1.2 p.2.2).map (fun p => atSlot 2 0x02 p.1.1) ++
  (pairs.filter fun p => p.1.1 = 5 && p.2.1 = 6 && (accBanks p.1.2).any fun k => (accBanks p.2.2).contains k).map
    (fun _ => atSlot 2 0x02 5) ++
  (ops.filter fun p => b.rc != 0 && !repeatable p.2).map (fun p => atSlot 2 0x02 p.1) ++
  (ops.filter fun p => match p.2 with
    | .br _ off => (relTarget c.pc off).isNone
    | .call _ off => (relTarget c.pc off).isNone
    | .loop _ _ len => 16384 < pcIdx c.pc + b.units + len.toNat
    | _ => false).map (fun p => atSlot 2 0x02 p.1) ++
  (ops.filter fun p => c.guarded && !ckpt && irrevocable p.1 p.2).map (fun p => atSlot 2 0x02 p.1) ++
  (ops.filter fun p => !c.sys && privileged p.2).map (fun p => atSlot 3 0x05 p.1) ++
  (if b.outside then [whole 4 0x04 idx] else []) ++
  ops.filterMap fun p => (s.unallotted cx p.2).map fun v => atSlot 4 0x04 p.1 v

/-- The condition reported: the first cause in the order of R52, the bundle ahead of its slots, the lowest slot (R53). -/
def firstCondition : List (Nat × Trap) → Option (Nat × Trap)
  | [] => none
  | x :: xs =>
    match firstCondition xs with
    | none => some x
    | some y => if y.1 < x.1 then some y else some x

/-- Whether a bundle is the one that its context has decoded and issued in part (R50, R52). -/
def Ctx.inBundle (c : Ctx) (b : Bundle) : Bool := c.mid && c.decoded == some ⟨b.instr, b.entry⟩

/-- The trap that the decoder raises for a bundle, before its first repetition (R52, R53). -/
def State.decodeTrap (s : State) (cx : Nat) (b : Bundle) : Option Trap :=
  if (s.ctx cx).inBundle b then none
  else (firstCondition (s.conditions cx b (b.slots (s.ctx cx)))).map Prod.snd

/-! What holds a repetition (R63) -/

/-- The repetition that a bundle of the context would issue now (R41, R45): its guard verdict, index and what remains. -/
def State.curOf (s : State) (cx : Nat) (b : Bundle) : Cur :=
  let c := s.ctx cx
  let left := if c.mid then c.rcLeft else b.rc
  let gn := (b.hdr.extractLsb' 17 5).toNat
  let bit := (c.regs.get gn).getLsbD (b.hdr.extractLsb' 22 6).toNat
  { cx := cx, pc := c.pc, nxt := c.pc + b.units, off := bit == b.hdr.getLsbD 16, slot := 0, rep := b.rc - left, left := left }

/-- The ops of a bundle that the guard leaves on. -/
def liveOps (off : Bool) (l : List SlotOp) : List (Nat × Instr) :=
  (opsOf (l.filter fun x => !(off && parcelG x.par.w0))).filter fun p => !isNop p.2

/-- The ops whose operands a repetition reads (R24, R95): those left on, and S1 and S2 whether on or off. -/
def readingOps (off : Bool) (l : List SlotOp) : List (Nat × Instr) :=
  (opsOf l).filter fun p => !isNop p.2 && (p.1 = 1 || p.1 = 2 || (liveOps off l).any fun q => q.1 = p.1)

/-- Whether an earlier `DRAIN`, or an op built on it that holds issue, has not completed (R63, R310, R348, R350). -/
def Ctx.draining (c : Ctx) : Bool :=
  (c.queue 3).any fun e => match e.instr with
    | some (.drain ..) => true
    | some (.persist ..) => true
    | some (.stl ..) => true
    | _ => false

/-- Whether an earlier store of the context to the instruction banks has not been performed (R16). -/
def Ctx.bankStores (c : Ctx) : Bool :=
  (c.queue 3).any fun e => match e.instr with
    | some (.st g src base size off) =>
      (match windowOff (entryAddr e (.st g src base size off)) with
       | some o => 0xC00000 ≤ o && o < 0xC10000
       | none => false)
    | _ => false

/-- Whether a divide of a context is in progress (R97). -/
def State.dividing (s : State) (cx : Nat) : Bool := (s.core (coreOf cx)).divider.any fun d => d.cx == cx

/-- Whether the checkpoint bundle of a guarded context has begun to release held stores (R410). -/
def Ctx.releasing (c : Ctx) : Bool := (c.guard.map Guard.released).getD false

/-- Whether a context of a core may issue at all, be it a trap at decode: bound, not halted (R416), not stopping (R381, R384) unless it
has a checkpoint bundle begun to end (R410), no fault to report (R74), no divide of its own in progress (R97), no other context
contained (R414). -/
def State.mayIssue (s : State) (cx : Nat) : Bool :=
  let c := s.ctx cx
  c.phase == .running && c.sfault.isEmpty && (s.core (coreOf cx)).halt == .none && !s.dividing cx && !s.containing cx &&
    (match c.launch with
     | none => true
     | some l =>
       let x := mget ({} : Launch) l s.launches
       x.stop.isNone && (x.st == .bound || (x.st == .preempting && c.releasing)))

/-- Whether something of R63 holds the repetition: the guard register is read whether or not a slot is guarded (R23; assumption log 81).
While the core's divider is busy for another context, only a divide op that the guard leaves on holds (R95, R97; assumption log 106).
`AWC` at its limit holds an op that counts in it (R186; assumption log 114). -/
def State.holds (s : State) (cur : Cur) (b : Bundle) (l : List SlotOp) : Bool :=
  let s := { s with cur := cur }
  let c := s.ctx cur.cx
  let live := liveOps cur.off l
  let gn := (b.hdr.extractLsb' 17 5).toNat
  !c.regs.pres.getLsbD gn ||
  ((readingOps cur.off l).any fun p => (srcSpecs p.2).any (specAbsent c)) ||
  (live.any fun p => p.1 < 3 && (nWrite p.2).any (specAbsent c)) ||
  (live.any fun p => 3 ≤ p.1 && (8 ≤ (c.queue p.1).length || (countsAwc p.2 && awcMax ≤ c.awc))) ||
  (live.any fun p => p.1 = 0 && s0Waits p.2 s) ||
  c.draining ||
  (live.any fun p => (match p.2 with
    | .fencei _ => c.bankStores
    | _ => false)) ||
  (match (s.core (coreOf cur.cx)).divider with
   | none => false
   | some d => d.cx = cur.cx || live.any fun p => isDivide p.2)

/-! Issue -/

/-- The class weight of a bundle (R22, R389). -/
def Core.weight (k : Core) (hdr : W32) : Nat := (k.ewtable.toNat / 16 ^ (hdr.extractLsb' 28 4).toNat) % 16

/-- Whether a stall is due before a repetition of weight `w` (R391). -/
def EnergyWin.stallDue (e : EnergyWin) (grant w : Nat) : Bool :=
  let ws := e.weights.take 31
  grant < ws.sum + w && !((e.stalls.take 31).all id)

/-- A new entry of the energy window (R391). -/
def EnergyWin.push (e : EnergyWin) (w : Nat) (stall : Bool) : EnergyWin :=
  { weights := (w :: e.weights).take 32, stalls := (stall :: e.stalls).take 32 }

/-- A stall cycle (R391, R411). -/
def Ctx.stall (c : Ctx) : Ctx :=
  { c with
    energy := c.energy.push 0 true
    stalls := if c.stalls == BitVec.allOnes 24 then c.stalls else c.stalls + 1
    rcount := c.rcount + 1 }

/-- The cursors as a repetition finds them (R41): zero at the first one for the streaming ops present. -/
def zeroCursors (b : Bundle) (rep : Nat) (l : List SlotOp) (c : Cursors) : Cursors :=
  let own := fun (k : Nat) => rep = 0 && b.own.any (fun p => p.1 = k) && (opsOf l).any fun p => p.1 = k && !isNop p.2
  { s3 := if own 3 then 0 else c.s3, s5s := if own 5 then 0 else c.s5s, s5d := if own 5 then 0 else c.s5d
    s6 := if own 6 then 0 else c.s6 }

/-- A streaming slot of a repetition (R43): a sticky op re-issues as a present one does. -/
def streamSlot (r : State) (off ckpt : Bool) (s : State) (x : SlotOp) : State :=
  match x.dec with
  | .error _ => s
  | .ok i => r.issueSlot off ckpt x.slot x.par i s

/-- The effects of S1 and S2 in a repetition (R94, R98). -/
def scalarSlots (r : State) (l : List (Nat × Instr)) (s : State) : Except Trap State :=
  l.foldlM (fun (s : State) p => scalarEffect p.2 r { s with cur := { s.cur with slot := p.1 } }) s

/-- The first poisoned operand that streaming ops capture (R100). -/
def capturePoison (c : Ctx) (l : List (Nat × Instr)) : Option Trap :=
  l.findSome? fun p => (firstPoisoned c (srcSpecs p.2)).map (poisonTrap p.1)

/-- The named registers that the ops of S1 and S2 not guarded off write (R97). -/
def writesOf (off : Bool) (l : List (Nat × Instr)) : List Nat :=
  (l.filter fun p => !(off && (match encodeParcel p.2 with | (w, _) => parcelG w))).flatMap fun p => (nWrite p.2).toList.map namedIdx

/-- The values pushed by S1 and S2 added to the region's signature (R412). -/
def signPushes (n : Nat) (c : Ctx) : Ctx := ((c.regs.q.take n).reverse).foldl (fun c v => c.sign .scalar (bytesOfWord 8 v)) c

/-- The region counts of a context after a repetition, or the trap of the limit that it would pass (R407). -/
def Ctx.countRegion (c : Ctx) (live : List (Nat × Instr)) (cursors : Cursors) : Except Trap Guard :=
  match (c.guard.map fun g => g.count c.sys (live.foldl (fun u p => regionUse p.2 cursors u) {})).getD (.ok {}) with
  | .error k => .error { cause := 0x11, slot := 0, info1 := BitVec.ofNat 64 k }
  | .ok g => .ok g

/-- A repetition issued (R22–R25, R41–R46, R63, R94, R407): a precise trap, or its effects. `b` has passed the decoder and
nothing holds it. Of traps in several slots the first in the order of issue is taken (assumption log 23); a poisoned guard register
is reported with slot 0 (assumption log 83). -/
def State.issueRep (s : State) (b : Bundle) (l : List SlotOp) (ckpt : Bool) : Except Trap State :=
  let cx := s.cur.cx
  let c0 := s.ctx cx
  let off := s.cur.off
  let live := liveOps off l
  let gn : Spec := BitVec.ofNat 6 (16 + (b.hdr.extractLsb' 17 5).toNat)
  let cursors := zeroCursors b s.cur.rep l c0.cursors
  let r := s.setCtx cx { c0 with cursors := cursors }
  let scal := (opsOf l).filter fun p => (p.1 = 1 || p.1 = 2) && !isNop p.2
  let s0 := (live.find? fun p => p.1 = 0).map Prod.snd
  if specPoisoned c0 gn then .error (poisonTrap 0 gn)
  else
    match s0.bind fun i => firstPoisoned c0 (srcSpecs i) with
    | some sp => .error (poisonTrap 0 sp)
    | none =>
      match s0Effect (s0.getD (.nopCtl false)) r r with
      | .error t => .error t
      | .ok s1 =>
        match scalarSlots r scal s1 with
        | .error t => .error t
        | .ok s2 =>
          match capturePoison c0 (live.filter fun p => 3 ≤ p.1) with
          | some t => .error t
          | none =>
            match c0.countRegion live cursors with
            | .error t => .error t
            | .ok g =>
              let divides := live.any fun p => isDivide p.2
              let s2 := { s2 with cur := s.cur }
              let s3 := if divides then
                  s2.startDivide (s1.ctx cx).regs scal.length (writesOf off scal)
                else s2.updCtx cx (signPushes scal.length)
              let s3 := s3.updCtx cx fun c =>
                { c with
                  guard := c.guard.map fun x =>
                    { x with reps := g.reps, holdCount := g.holdCount, rows := g.rows, vregs := g.vregs, closing := x.closing || ckpt } }
              let s4 := (l.filter fun x => 3 ≤ x.slot).foldl (streamSlot r off ckpt) s3
              .ok (s4.updCtx cx fun c => { c with ord := c.ord + 1, skipS0 := false })

/-- A context that a return from a trap has put back into retirement withdraws its pending lease requests (R83). -/
def State.backToRetiring (s : State) (cx : Nat) : State :=
  if (s.ctx cx).phase == .retiring then s.withdrawRequests cx true else s

/-- What follows a repetition (R45, R78–R84, R391): window and counts, the quantum's start, then the transfer of the last
repetition, or the repetitions left, for which the bundle stays decoded (R50). -/
def State.finishRep (r s : State) (b : Bundle) (l : List SlotOp) : State :=
  let cx := s.cur.cx
  let k := coreOf cx
  let w := (r.core k).weight b.hdr
  let s := s.updCtx cx fun c => { c with energy := c.energy.push w false, rcount := c.rcount + 1 }
  let s := s.updCore k fun y => if y.hasRun then y else { y with hasRun := true, quantum := s.millis (clusterOf cx) }
  let s0 := ((liveOps s.cur.off l).find? fun p => p.1 = 0).map Prod.snd
  if s.cur.left != 0 then
    s.updCtx cx fun c => { c with mid := true, rcLeft := s.cur.left - 1, decoded := some ⟨b.instr, b.entry⟩ }
  else
    match s0.bind fun i => s0Post i r s with
    | some s' => s'.backToRetiring cx
    | none =>
      let s := s.updCtx cx fun c => c.fallThrough s.cur.nxt
      match s0 with
      | some (.yield _) => yieldPost s
      | some (.exit _) => (exitPost s).withdrawRequests cx true
      | _ => s

/-- Whether a checkpoint bundle's snapshot is still to come (R410). -/
def Ctx.closing (c : Ctx) : Bool := (c.guard.map Guard.closing).getD false

/-- The release step of a checkpoint bundle of a guarded context, before its slots (R409, R410): held stores go out. From then on a
detected error cannot be contained, until the snapshot. -/
def State.releaseAll (s : State) (cx : Nat) : State :=
  let s := s.updCtx cx fun c => { c with guard := c.guard.map fun g => { g with released := true } }
  State.releaseHeld cx (((s.ctx cx).guard.map fun g => g.hold.length).getD 0) s

/-- Whether the hold buffer of a context is empty. -/
def Ctx.holdEmpty (c : Ctx) : Bool := (c.guard.map fun g => g.hold.isEmpty).getD true

/-- The rerun that a checkpoint ends is over, and the region commits (R414): the other contexts are held until the snapshot. -/
def Ctx.commit (c : Ctx) : Ctx :=
  { c with rrun := 0, guard := c.guard.map fun g => { g with runs := [], committing := g.committing || c.rrun != 0 } }

/-- Whether a live S0 op is `CKPT`. -/
def ckptLive (live : List (Nat × Instr)) : Bool := live.any fun p => match p.2 with
  | .ckpt _ => true
  | _ => false

/-- Whether a live S0 op is `BKPT`. -/
def bkptLive (live : List (Nat × Instr)) : Bool := live.any fun p => match p.2 with
  | .bkpt .. => true
  | _ => false

/-- A repetition that the decoder passes and nothing holds (R391, R407, R410, R416): the end of a rerun, a stall, an armed
breakpoint's halt, a region's limit, held stores going out, a precise trap, or its effects. -/
def State.go (s : State) (b : Bundle) (l : List SlotOp) : State :=
  let cx := s.cur.cx
  let k := s.core (coreOf cx)
  let live := liveOps s.cur.off l
  let ckpt := (s.ctx cx).guarded && ckptLive live
  match if ckpt then s.endRerun cx else none with
  | some s' => s'
  | none =>
    let s := if ckpt then s.updCtx cx Ctx.commit else s
    if (s.ctx cx).energy.stallDue (grantOf k.bfw (s.cluster (clusterOf cx)).limit) (k.weight b.hdr) then s.updCtx cx Ctx.stall
    else if bkptLive live && k.armed then s.plainHalt (coreOf cx)
    else
      match if ckpt then (s.ctx cx).countRegion live (zeroCursors b s.cur.rep l (s.ctx cx).cursors) else .ok {} with
      | .error t => s.takePrecise t
      | .ok _ =>
        let s := if ckpt then s.releaseAll cx else s
        if ckpt && !(s.ctx cx).holdEmpty then s
        else
          match s.issueRep b l ckpt with
          | .error t => s.takePrecise t
          | .ok s' => State.finishRep s s' b l

/-- The bundle that a context issues next. -/
def State.bundleAt (s : State) (cx : Nat) : Bundle :=
  match s.fetch cx with
  | .fullBundle hdr ws => fullBundleOf hdr ws
  | .tcall i rc => (s.core (coreOf cx)).templateOf (s.ctx cx) i rc
  | i => { instr := i, hdr := 0, rc := 0, units := 2, cut := true }

/-- Whether a context is ready (R63). -/
def State.ready (s : State) (cx : Nat) : Bool :=
  let b := s.bundleAt cx
  s.mayIssue cx && (((s.ctx cx).guard.bind Guard.err).isSome || (!(s.ctx cx).closing || s.ckptDone cx) &&
    ((s.decodeTrap cx b).isSome || !s.holds (s.curOf cx b) b (b.slots (s.ctx cx))))

/-- The first ready context after the running one (R64). -/
def State.nextReady (s : State) (core : Nat) : Option Nat :=
  let r := (s.core core).running
  [(r + 1) % 4, (r + 2) % 4, (r + 3) % 4].find? fun h => s.ready (4 * core + h)

/-- Whether the quantum of a core's running context is over: 1,024 cycles since its first issue (R65), or a `YIELD` (R82). -/
def State.quantumOver (s : State) (core : Nat) : Bool :=
  let k := s.core core
  k.quantumEnded || (k.hasRun && k.quantum + 1024000 ≤ s.millis (clusterOf (4 * core)))

/-- Whether the next repetition of a context is being stalled (R391): no switch takes place then. -/
def State.midStall (s : State) (cx : Nat) : Bool := (s.ctx cx).energy.stalls.head?.getD false && s.ready cx

/-- Whether the selector is to leave the running context of a core at this boundary, although it may issue (R65, R82). -/
def State.mustSwitch (s : State) (core : Nat) : Bool :=
  s.quantumOver core && !s.midStall (4 * core + (s.core core).running) && (s.nextReady core).isSome

/-- A bundle of the context at hand tries to issue its next repetition (R52, R63): nothing where another context is to be selected
(R65), a rollback or a snapshot that is due (R410), nothing while it is held, the decoder's trap, or `State.go`. -/
def State.issue (s : State) (b : Bundle) : State :=
  let cx := s.cur.cx
  if !s.mayIssue cx || s.mustSwitch (coreOf cx) then s
  else if ((s.ctx cx).guard.bind Guard.err).isSome then (s.pendingError cx).getD s
  else if (s.ctx cx).closing then (if s.ckptDone cx then s.takeSnapshot cx else s)
  else
    let s' := { s with cur := s.curOf cx b }
    match s'.decodeTrap cx b with
    | some t => s'.takePrecise t
    | none =>
      let l := b.slots (s'.ctx cx)
      if s'.holds s'.cur b l then s else s'.go b l

/-- FULL_BUNDLE (R20–R25): the bundle of the context at hand, at its program counter. -/
def execFullBundle (hdr : W32) (words : List W32) (s : State) : Host.Outcome State Fault Refusal :=
  (s.issue (fullBundleOf hdr words)).out

/-- TCALL (R19, R50): the template that a call of the context at hand names. -/
def execTcall (index : BitVec 9) (rc : BitVec 6) (s : State) : Host.Outcome State Fault Refusal :=
  (s.issue ((s.core (coreOf s.cur.cx)).templateOf (s.ctx s.cur.cx) index rc)).out

/-- EXIT (R83): the context retires; its pending lease requests are withdrawn. -/
def execExit (g : Bool) (s : State) : Host.Outcome State Fault Refusal :=
  aloneCtl g (.exit g) (fun _ s => .ok s) (fun _ s => (exitPost s).withdrawRequests s.cur.cx true) s

/-- RFT (R84): the context goes on where its trap left it, or retires. -/
def execRft (g : Bool) (s : State) : Host.Outcome State Fault Refusal :=
  aloneCtl g (.rft g) (fun _ s => rftOp s) (fun _ s => (rftPost s).backToRetiring s.cur.cx) s

/-- The effect of `CKPT` alone in its bundle (R87, R410). -/
def ckptPost (s : State) : State :=
  let cx := s.cur.cx
  if !(s.ctx cx).guarded then s
  else
    match (s.pendingError cx).or (s.endRerun cx) with
    | some s' => s'
    | none =>
      let s := (s.updCtx cx Ctx.commit).releaseAll cx
      if (s.ctx cx).holdEmpty && s.ckptDone cx then s.takeSnapshot cx else s

/-- CKPT (R87, R410). -/
def execCkpt (g : Bool) (s : State) : Host.Outcome State Fault Refusal :=
  aloneCtl g (.ckpt g) (fun _ s => .ok s) (fun _ s => ckptPost s) s

/-! The issue selector (R64, R65) -/

/-- CONTEXT_SWITCH (R64, R65, R82, R391): the running context cannot issue, or its quantum is over and it is not in a stall, and another
one is ready. -/
def execContextSwitch (core : Nat) (s : State) : Host.Outcome State Fault Refusal :=
  let k := s.core core
  if s.ready (4 * core + k.running) && !s.mustSwitch core then .next s
  else
    match s.nextReady core with
    | none => .next s
    | some h => .next (s.setCore core { k with running := h, hasRun := false, quantumEnded := false })

/-- QUANTUM_EXPIRY (R65): 1,024 cycles after the running context's first issue its quantum has ended, so that the selector
switches once another context is ready. -/
def execQuantumExpiry (core : Nat) (s : State) : Host.Outcome State Fault Refusal :=
  let k := s.core core
  if s.quantumOver core then .next (s.setCore core { k with quantumEnded := true }) else .next s

/-! Streaming entries, divides, traps, retirement -/

/-- Whether an S7 entry of a context may start: an entry of a context that is being pre-empted or whose state is on its way, or halted
with quiescence, is held unless it has started (R59, R381, R416), or a checkpoint bundle ends with it (R410). -/
def State.mayStart7 (s : State) (cx : Nat) : Bool :=
  let c := s.ctx cx
  let going := (match c.launch with
    | none => true
    | some l => (mget ({} : Launch) l s.launches).st == .bound || c.closing) && (s.core (coreOf cx)).halt != .quiesced
  (going && !c.moving) || (c.queue 7).head?.any Entry.started

/-- STREAMING_ENTRY_START (R68); on a halted core an op that would wait at its home, at its watch or at the waiter table is held instead
(R361, R363). -/
def execStreamingEntryStart (cx slot : Nat) (s : State) : Host.Outcome State Fault Refusal :=
  .next (match s.pendingError cx with
    | some s' => s'
    | none =>
    if slot = 7 then (if s.mayStart7 cx then s.startHead7 cx else s)
    else if (s.ctx cx).frozen then s
    else
      let s := s.startHead cx slot false
      if (s.core (coreOf cx)).halt == .none then s else s.haltWaits cx)

/-- DIVIDE_COMPLETE (R97): the pushes, then the writes, of the divide's bundle, then the entry of a `TRAP` in it. -/
def execDivideComplete (core : Nat) (s : State) : Host.Outcome State Fault Refusal :=
  match (s.core core).divider with
  | none => .next s
  | some d =>
    let s := s.updCore core fun k => { k with divider := none }
    let s := s.updCtx d.cx fun c =>
      let regs := d.writes.foldl (fun (r : RegSet) w => r.put w.1 w.2) (d.pushes.foldl RegSet.push (c.set d.sys))
      d.pushes.foldl (fun c v => c.sign .scalar (bytesOfWord 8 v)) (c.setSet d.sys regs)
    .next (match d.trap with
      | none => s
      | some (n, pc, rep, nxt) => s.softTrap d.cx n pc rep nxt)

/-- TRAP_ENTRY (R74, R75): the streaming fault of a context reported at a bundle boundary, after a divide in progress, and after the
result of the faulting op where it has one (R360); during retirement no place to resume is recorded (R446). -/
def execTrapEntry (cx : Nat) (s : State) : Host.Outcome State Fault Refusal :=
  let c := s.ctx cx
  let k := s.core (coreOf cx)
  match firstFault c.sfault with
  | none => .next s
  | some f =>
    if (c.phase != .running && c.phase != .retiring) || k.halt != .none || s.dividing cx ||
        c.outs.any (fun o => o.ord = f.ord && o.slot = f.slot && o.val.isSome) then .next s
    else
      match (c.queue f.slot).find? fun e => e.ord = f.ord with
      | none => .next (s.setCtx cx { c with sfault := c.sfault.filter fun x => x != f })
      | some e =>
        let gone := c.phase == .retiring
        .next ((s.setCtx cx { c with sfault := [f] }).takeTrap cx f.trap e.pc e.rep (if gone then 0 else c.pc)
          (if c.mid && !gone then c.rcLeft else 0) (c.mid && !gone) true f.drop)

/-- Whether a context has nothing left to wait for after `EXIT` (R83). -/
def State.retired (s : State) (cx : Nat) : Bool :=
  let c := s.ctx cx
  c.phase == .retiring && c.queuesEmpty && c.outs.isEmpty && c.sfault.isEmpty && c.awc = 0 && !s.dividing cx &&
    !(s.cmds.any fun p => p.2.cx = cx && p.2.play.isNone && p.2.area.isNone) &&
    !(s.net.any fun p => p.2.cx = cx && (match p.2.stage with
      | .done => false
      | .accepted => false
      | _ => true))

/-- RETIREMENT_COMPLETE (R83, R172, R278): the hardware context is released, with its leases and its array. A rerun that
reaches its end by `EXIT` is compared there. -/
def execRetirementComplete (cx : Nat) (s : State) : Host.Outcome State Fault Refusal :=
  if !s.retired cx then .next s
  else
    match s.endRerun cx with
    | some s' => .next s'
    | none =>
      let c := s.ctx cx
      let s := ((s.setCtx cx { c with phase := .free, guard := none, rrun := 0 }).releaseLeases cx).dropWarm cx
      .next (if c.holder then s.updCore (coreOf cx) fun k => { k with arr := {} } else s)

end Sys2Proof.Machine
end

