-- ==== Sys2Proof/Machine/Sched.lean ====
section
/-!
DEFINITION. Queues, launches and the scheduler (13 R364–R387, R456): records at the head of a queue, dependences, placement
and binding, pre-emption with its save and rebinding, completion, the watchdog, and the writes of the queue registers.
-/

namespace Sys2Proof.Machine

/-- The statuses of a completion event (R373). -/
def statusOk : Nat := 1
def statusTimeout : Nat := 3
def statusReset : Nat := 4
def statusReject : Nat := 5

/-- Fields of a launch record (R367). -/
def Launch.accb (l : Launch) : Nat := l.num 0x1C 1 % 16
def Launch.holderIdx (l : Launch) : Nat := l.num 0x1C 1 / 16 % 8
def Launch.twsize (l : Launch) : Nat := l.num 0x1F 1 / 64
def Launch.window (l : Launch) : Nat := 64 * 2 ^ l.twsize
def Launch.prio (l : Launch) : Nat := l.num 0x1E 1 % 8
def Launch.entryPc (l : Launch) : Nat := l.num 0x0C 2 % 2 ^ 15
def Launch.owned (l : Launch) : List Nat := (List.range 32).filter fun b => (l.num 0x20 4).testBit b
def Launch.modeOf (l : Launch) (b : Nat) : BitVec 2 := BitVec.ofNat 2 (l.num 0x28 8 / 4 ^ b)
def Launch.depAddr (l : Launch) (j : Nat) : Nat := l.num (0x60 + 24 * j) 8
def Launch.numCores (l : Launch) : Nat := l.perCluster * l.perQuad * l.perDie * l.dies

/-- Whether a module dispatches (R417–R419): its supply is up, and the reserve has reached the threshold. -/
def Module.dispatches (m : Module) : Bool :=
  m.ready && !m.recovery && (match m.power with
    | .up => true
    | .brownOut => true
    | _ => false)

/-! The conditions of R370 -/

/-- Condition 1 of R370: a reserved field or code, an odd or long image, too many templates, a misaligned area. -/
def Launch.reservedSet (l : Launch) : Bool :=
  (l.num 0x0C 2).testBit 15 || (l.num 0x1A 1).testBit 7 || l.num 0x1A 1 / 32 % 4 = 3 || l.num 0x1B 1 / 16 != 0 ||
    !(1 ≤ l.dies && l.dies ≤ 8) || (l.num 0x1C 1).testBit 7 || l.num 0x1D 1 / 64 != 0 || 32 < l.num 0x1D 1 % 64 ||
    l.num 0x1E 1 / 8 != 0 || ((List.range 32).any fun b => !l.owned.contains b && l.modeOf b != 0) || l.num 0x08 4 % 2 = 1 ||
    32768 < l.num 0x08 4 || 512 < l.num 0x18 2 || ((l.image.drop 0xC0).any fun b => b != 0) ||
    (l.holderIdx != 7 && l.num 0x48 8 % 2 ^ 52 % 2 ^ 19 != 0) || (l.hasCsave && l.num 0x50 8 % 2 ^ 52 % 2 ^ 16 != 0)

/-- Whether a shape takes whole groups above its lowest partial level (R368). -/
def Launch.shapeOk (l : Launch) : Bool :=
  (l.perCluster = 8 || (l.perQuad = 1 && l.perDie = 1 && l.dies = 1)) &&
    (l.perQuad = 2 || (l.perDie = 1 && l.dies = 1)) && (l.perDie = 4 || l.dies = 1)

/-- Condition 3 of R370: the allotments of a core. -/
def Launch.allotsTooMuch (l : Launch) : Bool :=
  8 < l.accb * l.perCore || (l.perCore ≤ l.holderIdx && l.holderIdx != 7) ||
    (!l.flag 3 && 512 < l.perCore * l.window) || l.window < l.num 0x18 2

/-- Whether an area of `n` bytes lies in a queue's save region, aligned to `a` (R370). -/
def HwQueue.areaOk (x : HwQueue) (v n a : Nat) : Bool :=
  let pa := v % 2 ^ 52
  pa % a = 0 && v / 2 ^ 52 = x.svdie.toNat && x.svaddr.toNat ≤ pa && pa + n ≤ x.svaddr.toNat + x.svsize.toNat

/-- Condition 4 of R370. -/
def Launch.areasBad (l : Launch) (x : HwQueue) : Bool :=
  let n := l.numCores
  !(x.areaOk (l.num 0x40 8) (n * l.perCore * 2 ^ 20) (2 ^ 20) &&
    (l.holderIdx = 7 || x.areaOk (l.num 0x48 8) (n * 2 ^ 19) (2 ^ 19)) &&
    (!l.hasCsave || x.areaOk (l.num 0x50 8) (n * 2 ^ 16) (2 ^ 16)))

/-! Positions -/

/-- The ways to take `n` of a list, in lexicographic order. -/
def choose {α : Type} : Nat → List α → List (List α)
  | 0, _ => [[]]
  | _ + 1, [] => []
  | n + 1, x :: xs => (choose n xs).map (x :: ·) ++ choose (n + 1) xs

/-- The groups of clusters that a shape takes in a module, lowest rank first (R368). -/
def Launch.groups (l : Launch) : List (List Nat) :=
  let dies := (List.range 8).map (dieAt l.m)
  let clustersOf := fun (d : Nat) => (List.range 8).map fun c => 8 * d + c
  if l.perDie = 4 then (choose l.dies dies).map fun ds => ds.flatMap clustersOf
  else if l.perQuad = 2 then
    dies.flatMap fun d => (List.range (4 / l.perDie)).map fun g => (List.range (2 * l.perDie)).map fun c => 8 * d + 2 * l.perDie * g + c
  else dies.flatMap fun d => (clustersOf d).map fun c => [c]

/-- The bit of a cluster in `PMASK`: its module rank (R364). -/
def moduleRank (cl : Nat) : Nat := 8 * localIndex (cl / 8) + cl % 8

/-- The aligned positions of a shape within its partition, lowest rank first (R368, R376), each as cores in rank order; of a
launch that has been placed before, only those in the clusters it occupied. -/
def State.positions (s : State) (l : Launch) : List (List Nat) :=
  let mask := mget (0 : Word) l.part (s.mod l.m).pmask
  let mine := l.groups.filter fun g =>
    g.all (fun c => mask.getLsbD (moduleRank c)) && (l.cores.isEmpty || g == l.clusterList)
  mine.flatMap fun g => (List.range (8 / l.perCluster)).map fun i =>
    g.flatMap fun c => (List.range l.perCluster).map fun n => 8 * c + i * l.perCluster + n

/-- The cores that bound launches hold, and those reserved for another waiting launch (R376). -/
def State.taken (s : State) (id : Nat) : List Nat :=
  s.launches.flatMap fun p =>
    if p.1 = id then []
    else (if p.2.st == .bound || p.2.st == .preempting then p.2.cores else []) ++ p.2.reserve

/-- Whether a launch fits a position, with the cores `freed` counted as free (R376): cores free and in service on dies that
are up, owned banks unowned. -/
def State.fits (s : State) (id : Nat) (l : Launch) (freed : List Nat) (pos : List Nat) : Bool :=
  let taken := (s.taken id).filter fun k => !freed.contains k
  (pos.all fun k => !taken.contains k && !(s.core k).retired && !(s.mod l.m).shed.contains (localIndex (k / 64))) &&
    (l.st != .saved || l.flag 1 || pos == l.cores) &&
    (pos.all fun k => l.owned.all fun b =>
      match (s.cluster (k / 8)).owners.find? fun o => o.1 == b with
      | none => true
      | some o => o.2 == id)

/-- The lowest-ranked position that a launch fits. -/
def State.place? (s : State) (id : Nat) (l : Launch) (freed : List Nat) : Option (List Nat) :=
  (s.positions l).find? (s.fits id l freed)

/-! Completion -/

/-- A queue whose record `seq` has a free slot: `OLDEST` passes every record with a free slot (R365, R374). -/
def HwQueue.advance : Nat → HwQueue → HwQueue
  | 0, x => x
  | n + 1, x =>
    if x.done.contains x.oldest && x.oldest != x.tail then
      { x with oldest := x.oldest + 1, done := x.done.filter (· != x.oldest) }.advance n
    else x

/-- The slot of a launch becomes free, and the launch is forgotten (R374). -/
def State.freeSlot (s : State) (id : Nat) (l : Launch) : State :=
  let x := s.queueOf l.m l.q
  let x := { x with done := l.seq :: x.done, atHead := if x.atHead == some id then none else x.atHead }
  { s.setHwQueue l.m l.q (x.advance x.slots) with launches := merase id s.launches }

/-- The space that the dispatcher uses for a launch on a cluster's die (R445, R447, R456); `cl` names the die. -/
def Launch.space (l : Launch) (cl : Nat) : Space :=
  { core := none, cl := cl, root := l.root, asid := l.asid, prog := !l.isSys, disp := true }

/-- `ESTAT` (R373). -/
def Launch.estat (l : Launch) (status : Nat) : Word :=
  BitVec.ofNat 64 (status + l.pbfail.toNat * 2 ^ 8 + l.detail % 16 * 2 ^ 12 + l.q % 128 * 2 ^ 16 + l.seq.toNat * 2 ^ 32)

/-- The cluster whose die translates a launch's completion event (R456); before a binding, one of `QDIE` (assumption log
20). -/
def Launch.doneCluster (l : Launch) : Nat :=
  match l.cores with
  | k :: _ => k / 8
  | [] => 8 * l.qdie

/-- A write of 16 bytes at a virtual address by the dispatcher, `EMT` first (R374): whether it goes through; none while it
waits on a shed home (R430). -/
def State.writeEvent (s : State) (l : Launch) (status : Nat) : Option (State × Bool) :=
  let va := l.num 0x58 8
  let cl := l.doneCluster
  if va = 0 then some (s, true)
  else
    match s.xlate (l.space cl) .write va with
    | .error (s', _) => some (s', false)
    | .ok (s', x) =>
      if isHost x.key && !(s'.mod l.m).grants true (keyPa x.key - 2 ^ 48) 16 then some (s', false)
      else if !isHost x.key && (s'.die (homeDie x.key)).shed then none
      else
        let s' := s'.homeWrite (x.key + 8) (bytesOfNat 8 (s.mt (cl / 8))) false
        some (s'.homeWrite x.key (bytesOfWord 8 (l.estat status)) false, true)

/-- What a launch holds in a cluster given up (R374): its banks OFF, its rings gone, its stage counter gone. -/
def State.releaseCluster (l : Nat) (s : State) (cl : Nat) : State :=
  let bs := (List.range 32).filter fun b => (s.cluster cl).owners.any fun o => o.1 == b && o.2 == l
  let s := (s.flushAll cl).switchBanks cl bs 0
  s.updCluster cl fun k =>
    { k with
      owners := k.owners.filter fun o => o.2 != l
      rings := k.rings.filter fun r => !(ringAt (some l) 0 ≤ r.1 && r.1 < ringAt (some l) 32)
      plays := merase l k.plays }

/-- Whether a command belongs to a launch. -/
def State.ofLaunch (s : State) (l : Nat) (c : Command) : Bool :=
  match c.play, c.area with
  | some (k, _), _ => k = l
  | none, some (k, _) => k = l
  | none, none => (s.ctx c.cx).launch == some l

/-- Whether a launch holds its cores. -/
def Launch.holdsCores (l : Launch) : Bool := l.st == .bound || l.st == .preempting

/-- Whether a launch has given up its cores, its event still to be written (R374). -/
def Launch.hasEnded (l : Launch) : Bool :=
  match l.st with
  | .ended .. => true
  | _ => false

/-- The hardware contexts of a launch that holds its cores, in rank order. -/
def Launch.contexts (l : Launch) : List Nat :=
  if l.holdsCores then l.cores.flatMap fun k => (List.range l.perCore).map fun h => 4 * k + h else []

/-- Whether playbook entries of a launch that were withdrawn are to begin again (R244). -/
def State.replays (s : State) (id : Nat) (l : Launch) : Bool :=
  l.clusterList.any fun cl => !(mget ({} : Play) id (s.cluster cl).plays).again.isEmpty

/-- Whether nothing that the launch started is in progress (R374): commands, playbook entries, requests. -/
def State.quiet (s : State) (id : Nat) (l : Launch) : Bool :=
  !(s.cmds.any fun e => s.ofLaunch id e.2) &&
    !(s.net.any fun p => l.contexts.contains p.2.cx && (match p.2.stage with
      | .done => false
      | .accepted => p.2.bytes.isEmpty
      | _ => true))

/-- Step 2 of a completion (R374): banks, rings, stage counter, cores and contexts are given up. -/
def State.giveUp (s : State) (id : Nat) (l : Launch) (status : Nat) : State :=
  let s := l.clusterList.foldl (State.releaseCluster id) s
  let s := l.contexts.foldl (fun (s : State) cx => s.setCtx cx {}) s
  s.updLaunch id fun x => { x with st := .ended status s.now, reserve := [], saved := [] }

/-- Steps 3 and 4 of a completion (R374): the event is written and the slot becomes free. A write that faults, or that waits on a shed
home for 50 ms (R430), is dropped. -/
def State.writeDone (s : State) (id : Nat) (l : Launch) (status since : Nat) : State :=
  let dropped := fun (s : State) => (s.post (l.doneCluster / 8) .eventDropped [l.q, l.seq.toNat]).freeSlot id l
  match s.writeEvent l status with
  | none => if since + 50000000 ≤ s.now then dropped s else s
  | some (s', ok) => if ok then s'.freeSlot id l else dropped s'

/-- The completion of a launch (R354, R374): its event follows at once, or once it goes through. -/
def State.complete (s : State) (id : Nat) (l : Launch) (status : Nat) : State :=
  let s := s.giveUp id l status
  s.writeDone id (s.launch id) status s.now

/-! Steps 1 to 4 of a partition reset, for one launch (R384, R385) -/

/-- Whether a command is aborted at a reset: a copy, a template load, a ring op, an engine command, or a lease request. -/
def aborted (c : Command) : Bool :=
  c.play.isSome || (match c.entry.instr with
    | some (.cpy ..) => true
    | some (.wstr ..) => true
    | some (.lcmd ..) => true
    | some (.lease ..) => true
    | some (.rinit ..) => true
    | some (.tload ..) => true
    | _ => false)

/-- A command aborted leaves its channel and its bench; a reduction fails for its other members (R272). -/
def State.abortCmd (s : State) (id : Nat) (c : Command) : State :=
  let s := s.failPeers id
  let s := { s with cmds := merase id s.cmds }
  let s := s.updCluster c.cl fun k => { k with chans := (k.chans.map fun x => (x.1, x.2.filter (· != id))).filter fun x => !x.2.isEmpty }
  s.updDie (c.cl / 8) fun d => { d with benches := d.benches.map fun b => (b.1, b.2.filter (· != id)) }

/-- What a stopped launch started is aborted (R384, R385); requests of loads are forgotten, and those of stores and
atomics still perform. -/
def State.killLaunch (s : State) (id : Nat) (l : Launch) : State :=
  let cxs := l.contexts
  let s := (s.boundTo id).foldl State.stopCtx s
  let dies := l.clusterList.foldl (fun r c => if r.contains (c / 8) then r else r ++ [c / 8]) ([] : List Nat)
  let s := (s.cmds.filter fun e => s.ofLaunch id e.2 && aborted e.2).foldl (fun s e => s.abortCmd e.1 e.2) s
  let s := dies.foldl State.arbiter s
  let s := cxs.foldl (fun (s : State) cx => (s.withdrawLdnb cx).1) s
  let s := { s with
    gathers := s.gathers.filter fun g => !cxs.contains g.2.cx
    net := (s.net.filter fun p => cxs.contains p.2.cx &&
      (p.2.kind == .load || (p.2.kind == .transit && p.2.stage == .going))).foldl (fun n p => forget p.1 p.2 n) s.net }
  let s := l.clusterList.foldl (fun (s : State) cl =>
    (s.writeBackAll cl).updCluster cl fun k =>
      { k with full := k.full.filter fun p => !((k.owners.any fun o => o.1 == bankOfOff (8 * p.1) && o.2 == id)) }) s
  l.cores.foldl (fun (s : State) k =>
    if l.holdsCores then
      s.updCore k fun y => { y with arr := {}, acc := [], accPois := [], beatRow := none, accSeed := (List.range 8).map fun b => (b, s.tick + 1) }
    else s) s

/-- Whether another launch of the partition that a watchdog reset goes before this one (R384). -/
def State.resetBefore (s : State) (id : Nat) (l : Launch) : Bool :=
  s.launches.any fun p =>
    p.1 != id && p.2.m = l.m && (p.2.stop == some statusTimeout || p.2.stop == some statusReset) &&
      p.2.part = l.part && (p.2.q < l.q || (p.2.q = l.q && p.1 < id))

/-- LAUNCH_COMPLETION (R374, R384, R385). -/
def execLaunchCompletion (id : Nat) (s : State) : Host.Outcome State Fault Refusal :=
  match s.launches.find? fun p => p.1 == id with
  | none => .next s
  | some (_, l) =>
    match l.st, l.stop with
    | .ended st since, _ => (s.writeDone id l st since).out
    | _, some st =>
      let s := s.killLaunch id l
      if !s.quiet id l then .next s
      else if (st = statusTimeout || st = statusReset) && s.resetBefore id l then .next s
      else (s.complete id l st).out
    | _, none =>
      if l.holdsCores && (s.boundTo id).isEmpty && l.saved.isEmpty && s.quiet id l && !s.replays id l then
        (s.complete id l statusOk).out
      else .next s

/-! Records and dependences -/

/-- The number that a launch goes by: its module, queue and sequence number. -/
def launchId (m q : Nat) (seq : BitVec 32) : Nat := (m * 128 + q) * 2 ^ 32 + seq.toNat

/-- A launch rejected (R370): it completes without running, and `HEAD` passes it. -/
def State.reject (s : State) (id : Nat) (l : Launch) (detail : Nat) : State :=
  let x := s.queueOf l.m l.q
  let s := { s with launches := mput id { l with stop := some statusReject, detail := detail, reserve := [] } s.launches }
  s.setHwQueue l.m l.q { x with head := if x.atHead == some id then x.head + 1 else x.head, atHead := if x.atHead == some id then none else x.atHead }

/-- The lowest condition among 1 to 5 of R370 that a record breaks. -/
def State.badRecord (s : State) (l : Launch) : Option Nat :=
  let x := s.queueOf l.m l.q
  if l.reservedSet then some 1
  else if !l.shapeOk || (s.positions l).isEmpty then some 2
  else if l.allotsTooMuch then some 3
  else if l.areasBad x then some 4
  else if l.isSys && !x.sysok then some 5
  else none

/-- RECORD_AT_HEAD (R366, R370): the next record of an enabled queue is read and checked; without dependences it is a
candidate at once. A record that lies in host memory which is not granted is rejected with `DETAIL` 6, and is taken to be all zero, so
that no event is written (R434; assumption log 122). -/
def execRecordAtHead (m q : Nat) (s : State) : Host.Outcome State Fault Refusal :=
  let x := s.queueOf m q
  if !(s.mod m).dispatches || !x.en || x.atHead.isSome || x.head == x.tail then .next s
  else
    let key := x.slotKey x.head
    if !populated key then .fault (.unpopulated key)
    else
      let id := launchId m q x.head
      let ok := s.granted false key 256
      let (s, bs) := if ok then s.hwGet key 256 else (s, [])
      let l : Launch :=
        { m := m, q := q, seq := x.head, image := bs, root := x.root, asid := x.asid, part := x.part.toNat
          qdie := x.qdie.toNat, since := s.modMt m }
      let deps := (List.range 4).map fun j => decide (l.depAddr j = 0)
      let wd := l.num 0x24 4
      let l := { l with
        deps := deps, wdog := if wd = 0 then none else some (wd * 1000)
        st := if deps.all (· = true) then .candidate else .waiting }
      let s := { s.setHwQueue m q { x with atHead := some id } with launches := mput id l s.launches }
      match if ok then s.badRecord l else some 6 with
      | some d => .next (s.reject id l d)
      | none => .next s

/-- A read by the dispatcher at a virtual address of a launch (R367, R370, R456); none while it waits, an error for a fault,
a refused host access, or poison, with the state that it leaves. -/
def State.dispRead (s : State) (sp : Space) : List (Nat × Nat) → Option (Except State (State × List Byte))
  | [] => some (.ok (s, []))
  | (va, n) :: ps =>
    match s.xlate sp .read va with
    | .error (s, _) => some (.error s)
    | .ok (s, x) =>
      if isHost x.key && !(s.mod (modOf (sp.cl / 8))).grants false (keyPa x.key - 2 ^ 48) n then some (.error s)
      else if !isHost x.key && (s.die (homeDie x.key)).shed && homeDie x.key != sp.cl / 8 then none
      else
        match s.homeRead x.key n with
        | none => none
        | some (s, _, true) => some (.error s)
        | some (s, bs, false) =>
          match s.dispRead sp ps with
          | some (.ok (s, cs)) => some (.ok (s, bs ++ cs))
          | r => r

/-- DEPENDENCE_SATISFIED (R372): dependence word `j` of the record at the head of a queue is read at home; one that matches
stays satisfied, and with the last the record is a candidate. -/
def execDependenceSatisfied (m q j : Nat) (s : State) : Host.Outcome State Fault Refusal :=
  let x := s.queueOf m q
  match x.atHead.bind fun id => (s.launches.find? fun p => p.1 == id) with
  | none => .next s
  | some (id, l) =>
    if l.st != .waiting || l.stop.isSome || l.deps.getD j true then .next s
    else
      match s.dispRead (l.space (8 * l.qdie)) (lineParts 9 (l.depAddr j) 8) with
      | none => .next s
      | some (.error s) => .next (s.reject id l 6)
      | some (.ok (s, bs)) =>
        if natOfBytes bs &&& l.num (0x60 + 24 * j + 8) 8 = l.num (0x60 + 24 * j + 16) 8 then
          let deps := l.deps.set j true
          .next (s.updLaunch id fun y =>
            { y with deps := deps, st := if deps.all (· = true) then .candidate else .waiting, since := if deps.all (· = true) then s.modMt m else y.since })
        else .next s

/-! Binding -/

/-- The template window of a context of a core (R47, R369): its first entry. -/
def Launch.tbase (l : Launch) (c : Nat) : Nat := if l.flag 3 then 0 else c * l.window

/-- The allotment of accumulator banks and of the array (R171, R369). -/
def Launch.accbanks (l : Launch) (c m : Nat) : Word :=
  let mask := (2 ^ l.accb - 1) * 2 ^ (l.accb * c)
  if c = l.holderIdx then
    let v := l.num 0x48 8 + 2 ^ 19 * m
    BitVec.ofNat 64 (mask + 2 ^ 8 + v % 2 ^ 52 / 2 ^ 19 * 2 ^ 19 + v / 2 ^ 52 * 2 ^ 52)
  else BitVec.ofNat 64 mask

/-- A context as it is created (R61, R369, R378): context `c` of core rank `m`. -/
def Launch.newCtx (l : Launch) (id c m : Nat) (cycle : Nat) : Ctx :=
  { phase := .running
    pc := pcOfArch l.entryPc
    sys := l.isSys
    trapvec := BitVec.ofNat 16 (l.num 0x0E 2)
    savebase := BitVec.ofNat 64 (l.num 0x40 8 + 2 ^ 20 * (m * l.perCore + c))
    tbase := l.tbase c
    tsize := BitVec.ofNat 2 l.twsize
    tshared := l.flag 3
    accbanks := l.accbanks c m
    pageroot := l.root
    asid := l.asid.setWidth 64
    launchid := BitVec.ofNat 64 (l.q % 128 + l.seq.toNat * 2 ^ 7)
    args := BitVec.ofNat 64 (l.num 0x30 8)
    cycBase := 0 - BitVec.ofNat 64 cycle
    launch := some id
    guard := if l.flag 2 then some {} else none }

/-- The code that a launch's bank is to hold (R377). -/
def Launch.codeRes (l : Launch) : CodeRes := { code := l.num 0 8, len := l.num 8 4, asid := l.asid }

/-- Whether the load of a launch's code is skipped: the bank holds it from the core's previous launch (R377). -/
def Core.holdsCode (k : Core) (l : Launch) : Bool :=
  !l.flag 5 && (if l.entryPc / 2 ^ 14 = 0 then k.code0 else k.code1) == some l.codeRes

/-- The code image loaded into its bank, unless the load is skipped (R377). -/
def Core.loadCode (k : Core) (l : Launch) (code : List Byte) : Core :=
  let b := l.entryPc / 2 ^ 14
  let k' := if k.holdsCode l then k else k.putIbank (0x8000 * b) code
  { k' with code0 := if b = 0 then some l.codeRes else none, code1 := if b = 0 then none else some l.codeRes }

/-- A core given to a launch counts a fresh quantum, with nothing to fill and no error to contain (R65, R144, R414). -/
def Core.given (k : Core) : Core := { k with hasRun := false, quantum := 0, quantumEnded := false, fillq := [], contain := [] }

/-- The template window of a new context filled (R47). -/
def Core.fillWindow (k : Core) (first size : Nat) (bs : List Byte) : Core :=
  { k with tmpl := k.tmpl.filter fun p => !(first ≤ p.1 && p.1 < first + size) }.putTmpl first bs (bs.length / 32)

/-- A core given to a launch for the first time (R377). -/
def State.bindCore (s : State) (id : Nat) (l : Launch) (code tmpl : List Byte) (m k : Nat) : State :=
  let s := s.updCore k fun y =>
    let y := y.given.loadCode l code
    let y := (List.range l.perCore).foldl (fun (y : Core) c => y.fillWindow (l.tbase c) l.window tmpl) y
    let banks := (List.range (l.accb * l.perCore))
    { y with
      arr := if l.holderIdx = 7 then y.arr else {}
      acc := y.acc.filter fun r => !banks.contains (r.1 / 128)
      accPois := y.accPois.filter fun r => !banks.contains (r.1 / 128)
      accSeed := banks.foldl (fun a b => mput b (s.tick + 1) a) y.accSeed }
  (List.range l.perCore).foldl (fun (s : State) c =>
    let s := s.setCtx (4 * k + c) (l.newCtx id c m (s.cycleOf (k / 8)))
    if l.flag 2 then s.takeSnapshot (4 * k + c) else s) s

/-- A cluster given to a launch (R354, R377): caches written back and invalidated, owned banks in their modes as from OFF,
the stage counter 0; its rings are fresh, so invalid. -/
def State.bindCluster (id : Nat) (l : Launch) (s : State) (cl : Nat) : State :=
  let s := s.flushAll cl
  let s := l.owned.foldl (fun (s : State) b => s.switchBanks cl [b] (l.modeOf b)) s
  s.updCluster cl fun k =>
    { k with
      owners := l.owned.foldl (fun o b => mput b id o) k.owners
      plays := if l.num 0x38 8 = 0 then k.plays else mput id {} k.plays }

/-- What a die reads for a launch at binding (R377, R456): code image, template image, playbook header. -/
structure Images where
  code : List Byte
  tmpl : List Byte
  pb : List Byte
  deriving DecidableEq, Repr

/-- Whether a playbook header is malformed (R242). -/
def badHeader (bs : List Byte) : Bool :=
  let n := bytesNum bs 0 4
  !(1 ≤ n && n ≤ 4096) || bytesNum bs 4 4 != 0 || bytesNum bs 0x18 8 != 0

/-- The images read by each die, or the reason to reject (R370); none while a read waits. The code is read only for cores that load it. -/
def State.readImages (l : Launch) : List Nat → State → Option (Except (State × Nat) (State × List (Nat × Images)))
  | [], s => some (.ok (s, []))
  | d :: ds, s =>
    let sp := l.space ((l.clusterList.find? fun c => c / 8 = d).getD (8 * d))
    let rd := fun (s : State) (va n : Nat) => s.dispRead sp (lineParts (n + 1) va n)
    match if l.cores.any (fun k => k / 64 = d && !(s.core k).holdsCode l) then rd s (l.num 0 8) (l.num 8 4) else some (.ok (s, [])) with
    | none => none
    | some (.error s) => some (.error (s, 6))
    | some (.ok (s, code)) =>
      match rd s (l.num 0x10 8) (32 * l.num 0x18 2) with
      | none => none
      | some (.error s) => some (.error (s, 6))
      | some (.ok (s, tmpl)) =>
        match if l.num 0x38 8 = 0 then some (.ok (s, [])) else rd s (l.num 0x38 8) 32 with
        | none => none
        | some (.error s) => some (.error (s, 6))
        | some (.ok (s, pb)) =>
          if l.num 0x38 8 != 0 && (badHeader pb || l.num 0x38 8 % 32 != 0) then some (.error (s, 7))
          else
            match State.readImages l ds s with
            | none => none
            | some (.error e) => some (.error e)
            | some (.ok (s, r)) => some (.ok (s, (d, { code := code, tmpl := tmpl, pb := pb }) :: r))

/-- The dies of a launch's cores. -/
def Launch.dieList (l : Launch) : List Nat :=
  l.cores.foldl (fun r k => if r.contains (k / 64) then r else r ++ [k / 64]) []

/-- A launch bound for the first time (R377); none while a read of its images waits. -/
def State.bind (s : State) (id : Nat) (l : Launch) (pos : List Nat) : Option State :=
  let l := { l with cores := pos, reserve := [], st := .bound, placed := s.now }
  match State.readImages l l.dieList s with
  | none => none
  | some (.error (s, d)) => some (s.reject id { l with cores := [], st := .candidate } d)
  | some (.ok (s, imgs)) =>
    let x := s.queueOf l.m l.q
    let l := { l with pb := imgs.foldl (fun p i => mput i.1 i.2.pb p) [] }
    let s := { s with launches := mput id l s.launches }
    let s := s.setHwQueue l.m l.q { x with head := x.head + 1, atHead := none }
    let s := l.clusterList.foldl (State.bindCluster id l) s
    let s := l.dieList.foldl (fun (s : State) d => s.updDie d fun y => { y with epoch := y.epoch + 1 }) s
    some ((pos.mapIdx fun m k => (m, k)).foldl (fun (s : State) p =>
      let im := ((imgs.find? fun i => i.1 == p.2 / 64).map Prod.snd).getD ⟨[], [], []⟩
      s.bindCore id l im.code im.tmpl p.1 p.2) s)

/-! Saves and rebindings -/

/-- Whether an entry is blocked on scratch words or on a weight-buffer half, or waits in another way that holds it (R209, R381). -/
def State.blocked (s : State) (cx : Nat) (e : Entry) : Bool :=
  s.headWaits cx e || (match e.instr with
    | some (.mbeat _ _ _ _ _ _ _ wload _) => wload && !(s.core (coreOf cx)).arr.halfFull
    | _ => false)

/-- Whether an entry at the head of S3–S6 is one of the waiting entries of R381: blocked, an op of S6 that waits behind such an `MBEAT`,
or a FIFO wait. -/
def State.waiting (s : State) (cx : Nat) (e : Entry) : Bool :=
  s.blocked cx e ||
    (match e.instr with
     | none => false
     | some i =>
       (e.slot = 6 && ((s.ctx cx).queue 5).head?.any (s.blocked cx) || (e.slot = 3 && (match i with
          | .fpush .. => true
          | .fpop .. => true
          | _ => (match windowOff (entryAddr e i) with
            | some o => decide (0x800000 ≤ o)
            | none => false)))) &&
         (s.ctx cx).vSources e.ord i && (match e.phase, s.startEntry cx e i false with
          | .queued, .wait => true
          | _, _ => false))

/-- Whether a queue of S3–S6 has met the stop rules: empty, or its head is a waiting entry (R381). -/
def State.slotStopped (s : State) (cx slot : Nat) : Bool :=
  match (s.ctx cx).queue slot with
  | [] => true
  | e :: _ => !e.fault && ((s.ctx cx).frozen && !e.started || s.waiting cx e)

/-- Whether every request of a context that has started has been performed (R381). -/
def State.requestsDone (s : State) (cx : Nat) : Bool :=
  !(s.net.any fun p =>
    p.2.cx = cx && !p.2.pendingLdnb && !((s.ctx cx).queue 3).any (fun e => e.withdrawn && e.phase == .sent p.1) &&
      (match p.2.stage with
       | .done => false
       | .accepted => false
       | _ => true))

/-- Whether a context has met the stop rules (R381): what has started has run to completion and its results have landed (R138). A
`WSTR` in progress has written no byte of its half, so the save withdraws it (R195, R248). -/
def State.stopped (s : State) (cx : Nat) : Bool :=
  let c := s.ctx cx
  !s.dividing cx && c.sfault.isEmpty && (c.outs.all fun o => o.val.isNone) &&
    ([3, 4, 5, 6].all fun k => s.slotStopped cx k) && !(c.queue 7).head?.any Entry.started && s.requestsDone cx &&
    !c.closing && !c.releasing

/-- STOP_RULE_TIMEOUT (R381): 20 µs after the decision every entry of S3–S6 that is neither waiting nor started is held as
waiting ones are, but for those of a checkpoint bundle, which ends (R410). -/
def execStopRuleTimeout (cx : Nat) (s : State) : Host.Outcome State Fault Refusal :=
  match (s.ctx cx).launch with
  | none => .next s
  | some id =>
    if (s.launch id).st != .preempting || s.modMt (s.launch id).m < (s.launch id).since + 20000 || (s.ctx cx).closing || (s.ctx cx).releasing then .next s
    else .next (s.updCtx cx fun c => { c with frozen := true })

/-- The accumulator rows of the banks allotted to a context, written to its save area or read from it (R103); a poisoned row
poisons its lines (R308). -/
def State.saveAcc (cx : Nat) (s : State) (row : Nat) : State :=
  let k := s.core (coreOf cx)
  let key := areaKey (s.ctx cx).savebase + 0x80000 + 512 * row
  let s := s.hwPut key ((k.accRow (row / 128) row).flatMap fun x => bytesOfNat 4 x.toNat)
  (List.range 4).foldl (fun (s : State) i => s.setLinePois (key + 128 * i) (k.accPoisoned (row / 128) row)) s

def State.loadAcc (cx : Nat) (s : State) (row : Nat) : State :=
  let key := areaKey (s.ctx cx).savebase + 0x80000 + 512 * row
  let (s, bs) := s.hwGet key 512
  let vals := (List.range 128).map fun i => BitVec.ofNat 32 (natOfBytes ((bs.drop (4 * i)).take 4))
  s.updCore (coreOf cx) fun k => k.putAcc (row / 128) row vals ((List.range 4).any fun i => s.linePois (key + 128 * i))

/-- The rows of the banks allotted to a context. -/
def Ctx.ownRows (c : Ctx) : List Nat := (List.range 1024).filter c.ownsRow

/-- Whether a context's template window goes with it: its own, or the shared one with the lowest-numbered sharer (R48). -/
def State.carriesWindow (s : State) (cx : Nat) : Bool :=
  !(s.ctx cx).tshared || (List.range (cx % 4)).all fun h => (s.ctx (4 * coreOf cx + h)).launch != (s.ctx cx).launch ||
    (s.ctx (4 * coreOf cx + h)).phase == .free

/-- The dirty resident vector registers of a context below `n` written to its save area (R106, R145). -/
def State.saveTiles (cx : Nat) : Nat → State → State
  | 0, s => s
  | n + 1, s =>
    let s := State.saveTiles cx n s
    let c := s.ctx cx
    if c.vvalid.getLsbD n && c.vdirty.getLsbD n then s.putTile (areaKey c.savebase + 4096 * n) (mget [] n c.v) else s

/-- A context whose state begins to move to or from its save area (R59). -/
def Ctx.toArea (c : Ctx) : Ctx :=
  if c.moving then c else { c with phase := .saving (c.phase == .retiring), frozen := true }

/-- A context whose state has moved (R59). -/
def Ctx.arrived (c : Ctx) : Ctx :=
  match c.phase with
  | .saving r => { c with phase := if r then .retiring else .running, frozen := false }
  | _ => c

/-- A context as it stands once it is saved: every entry in its queue again, vector registers only in the save area, the cycle
counter stopped. -/
def Ctx.atRest (c : Ctx) (late : List Entry) (cycle : Nat) : Ctx :=
  let late := late.filter fun e => !c.held.any fun h => h.ord = e.ord && h.slot = e.slot
  let again := fun (q : List Entry) => q.map fun e => { e with phase := .queued, fault := false }
  let c := { c with queues := mmap again (c.setQueue 3 (late ++ c.queue 3)).queues }
  { c with v := [], vvalid := 0, vdirty := 0, frozen := false, cycBase := c.cycBase + BitVec.ofNat 64 cycle }

/-- A context saved (R106, R195, R381, R382): rank `r` of a launch; its commands and leases follow it to its save area. -/
def State.saveCtx (s : State) (id r cx : Nat) : State :=
  let s := s.updCtx cx fun c => Ctx.applyOuts c.outs.length c.arrived
  let (s, late) := s.withdrawLdnb cx
  let s := s.forgetWaits cx (s.ctx cx).entries
  let c := s.ctx cx
  let area := areaKey c.savebase
  let s := State.saveTiles cx 64 s
  let s := s.hwPut (area + 0x41000) (bytesOfNat 256 c.vdec.toNat)
  let s := if s.carriesWindow cx then
      s.hwPut (area + 0x42000) ((List.range c.tmplEntries).flatMap fun i => bytesOfNat 32 (mget 0 (c.tbase + i) (s.core (coreOf cx)).tmpl).toNat)
    else s
  let s := c.ownRows.foldl (State.saveAcc cx) s
  let s := if c.holder then s.hwPut c.imageKey (s.core (coreOf cx)).arr.image else s
  let c := c.atRest late (s.cycleOf (clusterOf cx))
  let s := s.saveBlock c (c.held ++ c.entries)
  let s := s.updLaunch id fun x => { x with saved := mput r c x.saved }
  let s := { s with cmds := s.cmds |> mmap fun (c : Command) =>
    if c.cx = cx && c.area.isNone && c.play.isNone then { c with area := some (id, r) } else c }
  let s := s.updDie (dieOf cx) fun d =>
    { d with engines := d.engines |> mmap fun (x : Engine) =>
      if x.cx = cx && x.area.isNone && (x.st == .leased || x.granted) then { x with area := some (id, r) } else x }
  s.dropWarm cx

/-- What a hardware context keeps of one that has been saved from it: its tag on the slots that hold its registers (R143). -/
def Ctx.leaves (c : Ctx) : Ctx := { leftTag := some c.savebase, vvalid := c.vvalid }

/-- The contexts of a launch that have not ended saved, its code with them, its cores free (R381). -/
def State.saveLaunch (s : State) (id : Nat) (l : Launch) : State :=
  let live := l.contexts.mapIdx fun r cx => (r, cx)
  let left := (s.boundTo id).map fun cx => (cx, (s.ctx cx).leaves)
  let s := (live.filter fun p => (s.boundTo id).contains p.2).foldl (fun (s : State) p => s.saveCtx id p.1 p.2) s
  let s := if l.hasCsave then
      (l.cores.mapIdx fun m k => (m, k)).foldl (fun (s : State) p => s.hwPut (l.csaveKey p.1) ((s.core p.2).ibankBytes 0 65536)) s
    else s
  let s := l.contexts.foldl (fun (s : State) cx => s.setCtx cx (mget {} cx left)) s
  let s := if l.holderIdx = 7 then s else l.cores.foldl (fun (s : State) k => s.updCore k fun y => { y with arr := {} }) s
  s.updLaunch id fun x => { x with st := .saved }

/-- The contexts of a launch bound again go on once their states have moved back; with the first of a launch that a halt had stopped, the
halt's image is done with (R425). -/
def State.resumeBound (s : State) (id : Nat) (l : Launch) : State :=
  ((s.boundTo id).foldl (fun (s : State) cx => s.updCtx cx Ctx.arrived) s).updMod l.m fun m =>
    { m with image := m.image.filter fun im => !(im.launches.any fun p => p.1 = id) }

/-- SAVE_COMPLETE (R59, R381, R415): once every context of a victim has met the stop rules their states move to the save areas, and then
the launch is saved, as is one that has only playbook entries to begin again (R244); one that was stopped by the retirement of a core and
can be placed no more ends. A launch bound again goes on (R425). -/
def execSaveComplete (id : Nat) (s : State) : Host.Outcome State Fault Refusal :=
  match s.launches.find? fun p => p.1 == id with
  | none => .next s
  | some (_, l) =>
    let live := s.boundTo id
    if l.stop.isSome || (live.isEmpty && !(l.st == .preempting && s.replays id l)) then .next s
    else if l.st == .bound then .next (s.resumeBound id l)
    else if l.st != .preempting || !live.all s.stopped then .next s
    else if live.any fun cx => !(s.ctx cx).moving then .next (live.foldl (fun (s : State) cx => s.updCtx cx Ctx.toArea) s)
    else
      let s := s.saveLaunch id l
      let l' := s.launch id
      let lost := l.cores.any (fun k => (s.core k).retired) &&
        !((s.positions l').any fun pos => pos.all fun k => !(s.core k).retired)
      (if lost then s.failLaunch (some id) statusFault else s).out

/-- The held entries read back, shared out between those a trap holds and the queues (R382, R405). -/
def Ctx.takeBack (c keep : Ctx) (hs : List Entry) : Ctx :=
  let slot := fun (k : Nat) => hs.filter fun e => e.slot == k
  let trapped := fun (k : Nat) => keep.held.filter fun e => e.slot == k
  let back := fun (k : Nat) =>
    ((slot k).drop (trapped k).length).map (fun e => { e with fault := false }) ++
      (keep.queue k).drop ((heldOf (keep.held ++ keep.entries) k).length - (trapped k).length)
  let ks := [3, 4, 5, 6, 7]
  let c := { c with
    held := ks.flatMap fun k => (slot k).take (trapped k).length ++ (trapped k).drop 8
    queues := ks.foldl (fun qs k => mset [] k (back k) qs) []
    outs := keep.outs.filter fun o => !(o.val.isNone && keep.entries.any fun e => e.ord = o.ord && e.slot = o.slot) }
  (ks.flatMap back).foldl (fun c e => match e.instr with
    | some i => c.listOuts e i
    | none => c) c

/-- The vector slots that a context finds as it is bound again (R143): valid, with what its save area holds, where they still carry its
tag (assumption log 62). -/
def State.leftSlots (s : State) (left c : Ctx) : Ctx :=
  if left.leftTag != some c.savebase then c
  else
    { c with
      vvalid := left.vvalid
      v := ((List.range 64).filter left.vvalid.getLsbD).foldl (fun v n =>
        mset [] n (tileOfBytes (s.homeBytes (areaKey c.savebase + 4096 * n) 4096)) v) [] }

/-- A saved context bound again at a hardware context (R106, R143, R195, R377, R382), its state on the way; none where its save area does
not read back (R107). `STALLS` counts from the binding (R390). -/
def State.rebindCtx (s : State) (id r cx : Nat) : Option State :=
  let keep := mget ({} : Ctx) r (s.launch id).saved
  match s.loadBlock { keep with cycBase := keep.cycBase - BitVec.ofNat 64 (s.cycleOf (clusterOf cx)), stalls := 0 } (keep.held ++ keep.entries) with
  | none => none
  | some (c, hs) =>
    let area := areaKey c.savebase
    let (s, _) := s.hwGet (blockKey c.savebase) 4096
    let (s, vd) := s.hwGet (area + 0x41000) 256
    let c := { s.leftSlots (s.ctx cx) (c.takeBack keep hs) with vdec := BitVec.ofNat 2048 (natOfBytes vd) }
    let s := s.setCtx cx c
    let s := if s.carriesWindow cx then
        let (s, bs) := s.hwGet (area + 0x42000) (32 * c.tmplEntries)
        s.updCore (coreOf cx) fun k => k.putTmpl c.tbase bs c.tmplEntries
      else s
    let s := c.ownRows.foldl (State.loadAcc cx) s
    let s := if c.holder then
        let (s, bs) := s.hwGet c.imageKey 0x21440
        s.updCore (coreOf cx) fun k => { k with arr := matArrayOf bs }
      else s
    let s := { s with cmds := s.cmds |> mmap fun (c : Command) =>
      if c.area == some (id, r) then { c with area := none, cx := cx } else c }
    let s := s.updDie (dieOf cx) fun d =>
      { d with engines := d.engines |> mmap fun (x : Engine) =>
        if x.area == some (id, r) then { x with area := none, cx := cx } else x }
    some ((if c.guarded then s.takeSnapshot cx else s).updCtx cx Ctx.toArea)

/-- A pre-empted launch bound again (R376, R377, R382): code, then its contexts; one that does not read back ends the launch
with FAULT. None while a read waits or where the code is rejected. -/
def State.rebind (s : State) (id : Nat) (l : Launch) (pos : List Nat) : Option State :=
  let l' := { l with cores := pos, st := .bound, placed := s.now, reserve := [] }
  let put := fun (s : State) (m k : Nat) (code : List Byte) =>
    if l.hasCsave then
      let (s, bs) := s.hwGet (l.csaveKey m) 65536
      s.updCore k fun y =>
        { y.given.putIbank 0 bs with
          code0 := if l.entryPc / 2 ^ 14 = 0 then some l.codeRes else none
          code1 := if l.entryPc / 2 ^ 14 = 0 then none else some l.codeRes }
    else s.updCore k fun y => y.given.loadCode l code
  match if l.hasCsave then some (.ok (s, [])) else State.readImages l' l'.dieList s with
  | none => none
  | some (.error (s, _)) => some (s.failLaunch (some id) statusFault)
  | some (.ok (s, imgs)) =>
    let s := { s with launches := mput id l' s.launches }
    let s := (pos.mapIdx fun m k => (m, k)).foldl (fun (s : State) p =>
      put s p.1 p.2 (((imgs.find? fun i => i.1 == p.2 / 64).map fun i => i.2.code).getD [])) s
    let s := l.saved.foldl (fun (s : State) e =>
      match s.rebindCtx id e.1 (4 * pos.getD (e.1 / l.perCore) 0 + e.1 % l.perCore) with
      | some s' => s'
      | none => s.failLaunch (some id) statusFault) s
    some (s.updLaunch id fun x => { x with saved := [] })

/-! The scheduler -/

/-- The effective priority of a waiting launch (R375). -/
def State.effPrio (s : State) (l : Launch) : Nat := min 7 (l.prio + (s.modMt l.m - l.since) / 2000000)

/-- Whether a partition is being reset: the launches that its watchdog stopped have not all completed (R384). -/
def State.resetting (s : State) (m part : Nat) : Bool :=
  s.launches.any fun p => p.2.m = m && p.2.part = part && (p.2.stop == some statusTimeout || p.2.stop == some statusReset)

/-- Whether a launch waits for a placement (R375): a candidate of an enabled queue, or a saved one; dispatch waits for the end of a
reset of the partition (R384). -/
def State.awaitsPlace (s : State) (m : Nat) (l : Launch) : Bool :=
  l.m = m && l.stop.isNone && !s.resetting m l.part && ((l.st == .candidate && (s.queueOf m l.q).en) || l.st == .saved)

/-- Whether one waiting launch goes before another (R375): effective priority, then queues round robin. -/
def State.goesBefore (s : State) (a b : Launch) : Bool :=
  let last := (s.mod a.m).lastQueue
  let far := fun (l : Launch) => (l.q + 127 - last) % 128
  s.effPrio b < s.effPrio a || (s.effPrio a = s.effPrio b && (far a < far b || (far a = far b && a.since < b.since)))

def State.insertLaunch (s : State) (x : Nat × Launch) : List (Nat × Launch) → List (Nat × Launch)
  | [] => [x]
  | y :: ys => if s.goesBefore x.2 y.2 then x :: y :: ys else y :: s.insertLaunch x ys

/-- The waiting launches of a module in the scheduler's order (R375). -/
def State.waitOrder (s : State) (m : Nat) : List (Nat × Launch) :=
  (s.launches.filter fun p => s.awaitsPlace m p.2).foldl (fun l x => s.insertLaunch x l) []

/-- Whether one victim goes before another (R380): lowest `PRIO`, then most recently placed. -/
def victimBefore (a b : Launch) : Bool := a.prio < b.prio || (a.prio = b.prio && b.placed < a.placed)

def insertVictim (x : Nat × Launch) : List (Nat × Launch) → List (Nat × Launch)
  | [] => [x]
  | y :: ys => if victimBefore x.2 y.2 then x :: y :: ys else y :: insertVictim x ys

/-- The launches that may be pre-empted for a waiting launch, in order (R380). -/
def State.victims (s : State) (l : Launch) : List (Nat × Launch) :=
  (s.launches.filter fun p =>
    p.2.m = l.m && p.2.part = l.part && p.2.st == .bound && p.2.stop.isNone && p.2.flag 0 && p.2.prio < s.effPrio l).foldl
    (fun r x => insertVictim x r) []

/-- The shortest beginning of a list of victims that frees a placement. -/
def State.enough (s : State) (id : Nat) (l : Launch) : List (Nat × Launch) → List (Nat × Launch) → Option (List (Nat × Launch))
  | _, [] => none
  | before, v :: vs =>
    let now_ := before ++ [v]
    if (s.place? id l (now_.flatMap fun x => x.2.cores)).isSome then some now_ else s.enough id l now_ vs

/-- Whether victims pre-empted for a waiting launch still hold cores reserved for it (R380). -/
def State.awaitsCores (s : State) (id : Nat) (l : Launch) : Bool :=
  s.launches.any fun p => p.1 != id && p.2.holdsCores && p.2.cores.any l.reserve.contains

/-- What the scheduler does for one waiting launch (R376, R380): its binding or rebinding, pre-emptions, further ones where what earlier
victims gave up does not make a placement, or nothing. -/
def State.serveLaunch (s : State) (id : Nat) (l : Launch) : Option State :=
  match s.place? id l [] with
  | some pos =>
    (if l.st == .saved then s.rebind id l pos else s.bind id l pos).map fun s' => s'.updMod l.m fun m => { m with lastQueue := l.q }
  | none =>
    if s.awaitsCores id l then none
    else
      (s.enough id l [] (s.victims l)).map fun vs =>
        vs.foldl (fun (s : State) v => s.preempt v.1) (s.updLaunch id fun x => { x with reserve := l.reserve ++ vs.flatMap fun v => v.2.cores })

def State.serveList (s : State) : List (Nat × Launch) → State
  | [] => s
  | x :: xs =>
    match s.serveLaunch x.1 x.2 with
    | some s' => s'
    | none => s.serveList xs

/-- The scheduler places, or makes room for, the first waiting launch of a module for which it can (R375, R376, R380). -/
def State.schedule (s : State) (m : Nat) : State :=
  if (s.mod m).dispatches then s.serveList (s.waitOrder m) else s

/-- SCHEDULER_PLACEMENT (R375, R376, R377, R380). -/
def execSchedulerPlacement (m : Nat) (s : State) : Host.Outcome State Fault Refusal := (s.schedule m).out

/-- AGEING_STEP (R375): another 2 ms have passed for a waiting launch, and the scheduler works. -/
def execAgeingStep (id : Nat) (s : State) : Host.Outcome State Fault Refusal :=
  match s.launches.find? fun p => p.1 == id with
  | none => .next s
  | some (_, l) =>
    let n := (s.modMt l.m - l.since) / 2000000
    if !s.awaitsPlace l.m l || n ≤ l.aged then .next s
    else ((s.updLaunch id fun x => { x with aged := n }).schedule l.m).out

/-! The watchdog and the registers of queues -/

/-- An entry of a cluster's almanac, where it has one (R400). -/
def State.almanac (s : State) (cl t cause : Nat) : State :=
  let k := s.cluster cl
  match k.almanac with
  | none => s
  | some base =>
    let key := base + 16 * (k.almSeq % 1024)
    let s := s.hwPut key (bytesOfNat 8 (s.mt (cl / 8)))
    let s := s.hwPut (key + 8) (bytesOfNat 8 (t % 32 + cause % 8 * 2 ^ 5 + k.almSeq % 2 ^ 32 * 2 ^ 32))
    s.updCluster cl fun k => { k with almSeq := k.almSeq + 1 }

/-- A cluster that starts again runs at step 18 (R394); a change of its frequency is an entry of its almanac, cause 6 (R400). -/
def State.restartClock (s : State) (cl : Nat) : State :=
  let k := s.cluster cl
  let s := s.setClock cl fun k => { k with step := 18, move := none }
  if k.mhz = stepMHz 18 && k.move.isNone then s else s.almanac cl 18 6

/-- Whether a launch has contexts bound, saving or saved (R384). -/
def State.hasContexts (s : State) (id : Nat) (l : Launch) : Bool :=
  (l.holdsCores && !(s.boundTo id).isEmpty) || (l.st == .saved && !l.saved.isEmpty)

/-- WATCHDOG_EXPIRY (R384, R394): the launch's partition is reset, its clusters at step 18; what its launches with contexts have started
ends in `LAUNCH_COMPLETION`. -/
def execWatchdogExpiry (id : Nat) (s : State) : Host.Outcome State Fault Refusal :=
  match s.launches.find? fun p => p.1 == id with
  | none => .next s
  | some (_, l) =>
    if !l.holdsCores || l.stop.isSome || l.wdog != some 0 then .next s
    else
      let hit := s.launches.filter fun p => p.2.m = l.m && p.2.part = l.part && (p.1 = id || s.hasContexts p.1 p.2)
      let s := hit.foldl (fun (s : State) p => s.failLaunch (some p.1) (if p.1 = id then statusTimeout else statusReset)) s
      let mask := mget (0 : Word) l.part (s.mod l.m).pmask
      let part := ((s.clusters.map Prod.fst).filter fun c => modOf (c / 8) = l.m && mask.getLsbD (moduleRank c))
      (part.foldl (fun (s : State) c => (s.updCluster c fun k => { k with full := [] }).restartClock c) s).out

/-- QUEUE_ENABLE (R365, R443): a write of 1 is ignored while `LOG2SLOTS` is outside 1–12, and until the module has come up. -/
def execQueueEnable (m q : Nat) (en : Bool) (s : State) : Host.Outcome State Fault Refusal :=
  let x := s.queueOf m q
  if en && !((s.mod m).ready && 1 ≤ x.log2.toNat && x.log2.toNat ≤ 12) then .next s else .next (s.setHwQueue m q { x with en := en })

/-- TAIL_DOORBELL (R365, R366): accepted within the free slots of a queue that is enabled and that the host may add to. -/
def execTailDoorbell (m q : Nat) (tail : BitVec 32) (s : State) : Host.Outcome State Fault Refusal :=
  let x := s.queueOf m q
  if (tail - x.tail).toNat ≤ x.free && !x.devok && x.en then .next (s.setHwQueue m q { x with tail := tail })
  else .next (s.post m .tailIgnored [q, tail.toNat])

/-- PREEMPT_WRITE (R380). -/
def execPreemptWrite (m q : Nat) (s : State) : Host.Outcome State Fault Refusal :=
  .next ((s.launches.filter fun p => p.2.m = m && p.2.q = q && p.2.flag 0).foldl (fun (s : State) p => s.preempt p.1) s)

/-- PMASK_WRITE (R364). -/
def execPmaskWrite (m p : Nat) (v : Word) (s : State) : Host.Outcome State Fault Refusal :=
  let y := s.mod m
  if 16 ≤ p || (y.queues.any fun q => q.2.en && q.2.part.toNat = p) || (s.launches.any fun l => l.2.m = m && l.2.part = p) then .next s
  else if y.pmask.any fun e => e.1 != p && e.2 &&& v != 0 then .next (s.post m .maskConflict [p, v.toNat])
  else .next (s.setMod m { y with pmask := mset 0 p v y.pmask })

end Sys2Proof.Machine
end

