-- ==== Sys2Proof/Machine/Power.lean ====
section
/-!
DEFINITION. Energy, current and frequency (14 R389–R403), the module power comparator (16 R435), and detected errors (06 R179,
R192, 07 R210, 15 R413).
-/

namespace Sys2Proof.Machine

/-- The requested step of a cluster: its mailbox, which reads as 18 while it is empty (R396). -/
def Cluster.requested (k : Cluster) : Nat := (k.mailbox.map BitVec.toNat).getD 18

/-- The clusters of a die. -/
def dieClusters (die : Nat) : List Nat := (List.range 8).map fun c => 8 * die + c

/-- The clusters of a module. -/
def moduleClusters (m : Nat) : List Nat := (List.range 8).flatMap fun k => dieClusters (dieAt m k)

/-- CURRENT_LIMITER_TICK (R393): at each 1 µs of meridian time, once. -/
def execCurrentLimiterTick (cl : Nat) (sense : Sense) (s : State) : Host.Outcome State Fault Refusal :=
  let now := s.mt (cl / 8) / 1000
  if now ≤ (s.cluster cl).limAt || !s.powered (cl / 8) then .next s
  else .next (s.updCluster cl fun k =>
    let l := match sense with
      | .above => if k.limit == 7 then k.limit else k.limit + 1
      | .within => k.limit
      | .below => if k.limit == 0 then k.limit else k.limit - 1
    { k with limit := l, limited := k.limited || l != 0 || k.limit != 0, limAt := now })

/-- A move of a cluster to a step starts (R395, R398): a downward one changes the clock at once. -/
def State.startMove (s : State) (cl t cause : Nat) : State :=
  let k := s.cluster cl
  let ns := if k.at_ / 8 = t / 8 then 1200 else 6000
  let s := s.setClock cl fun k => { k with move := some (t, s.now + ns), cause := cause }
  if stepMHz t < stepMHz k.at_ then s.almanac cl t cause else s

/-- MOVE_COMPLETE (R395): an upward move changes the clock at its end. -/
def execMoveComplete (cl : Nat) (s : State) : Host.Outcome State Fault Refusal :=
  let k := s.cluster cl
  match k.move with
  | none => .next s
  | some (t, e) =>
    if s.now < e then .next s
    else
      let s' := s.setClock cl fun k => { k with move := none, step := BitVec.ofNat 5 t }
      (if stepMHz t < stepMHz k.at_ then s' else s'.almanac cl t k.cause).out

/-- The throttle group of a die (R399). -/
def State.groupOf (s : State) (die : Nat) : Option (Nat × ThrottleGroup) := s.groups.find? fun g => g.2.dies.contains die

/-- The awake budget W of a die (R401, R428). -/
def State.wantedBudget (s : State) (die : Nat) : Nat :=
  let d := s.die die
  let cap := (dieClusters die).foldl (fun n c => min n (s.cluster c).thermalCap) 23
  if d.tripped || d.shed then 0 else min d.wconf (if cap < 8 then 8 else if cap < 16 then 16 else 24)

/-- The quadrants that a packet of a multicast group reaches under a version, from the dies of a list on (R316): each router copies it
to the ports of that version of its entry. `seen` are the dies that it has passed. -/
def State.castReach (s : State) (group ver : Nat) : Nat → List Nat → List Nat → List Nat
  | 0, _, _ => []
  | _ + 1, [], _ => []
  | n + 1, d :: ds, seen =>
    match if seen.contains d then none else ((s.die d).castEntry group).find? fun e => e.1 == ver with
    | none => s.castReach group ver n ds seen
    | some (_, ports) =>
      let next := ((List.range 6).filter fun p => ports.getLsbD p).map fun p => (s.neighbour d (p / 2) (p % 2 = 0)).1
      ((List.range 4).filter fun q => ports.getLsbD (6 + q)).map (fun q => 4 * d + q) ++ s.castReach group ver n (ds ++ next) (d :: seen)

/-- The announcement of a group step by the leader (R399): to the member clusters that its multicast entry reaches under the newest
version, to all where the entry has not been written (assumption log 96). -/
def State.announce (s : State) (g : Nat) (x : ThrottleGroup) (step : Nat) : Announcement :=
  let members := x.dies.flatMap dieClusters
  let apply := s.mt x.leader + 20000
  match ((s.die x.leader).castEntry g).head? with
  | none => { step := step, apply := apply, ver := 0, todo := members }
  | some (ver, _) =>
    let reach := s.castReach g ver (7 * s.dies.length + 7) [x.leader] []
    { step := step, apply := apply, ver := ver, todo := members.filter fun cl => reach.contains (cl / 2) }

/-- With the values of every member cluster of a die that is not shed the leader of a group takes their minimum, and announces it where
it differs from the step announced last (R399). -/
def State.groupMin (s : State) (g : Nat) : State :=
  let x := mget ({} : ThrottleGroup) g s.groups
  let senders := (x.dies.filter fun d => !(s.die d).shed).flatMap dieClusters
  let vals := x.vals.filter fun p => senders.contains p.1
  if vals.isEmpty || !(senders.all fun c => vals.any fun p => p.1 == c) then s
  else
    let m := vals.foldl (fun n p => min n p.2) 23
    let x := if m = x.step then { x with vals := [] } else { x with vals := [], step := m, anns := x.anns ++ [s.announce g x m] }
    { s with groups := mput g x s.groups }

/-- The value of a member cluster reaches its group's leader (R399). -/
def State.sendValue (s : State) (g : Nat) (x : ThrottleGroup) (cl v : Nat) : State :=
  let now := s.mt (cl / 8) / 10000
  let vals := if x.instant = now then x.vals else []
  State.groupMin { s with groups := mput g { x with vals := mput cl v vals, instant := now } s.groups } g

/-- ARBITER_INTERVAL (R397, R399, R401): the current cap falls after an interval in which the limiter acted; W is set; the
cluster moves to its target. -/
def execArbiterInterval (cl : Nat) (s : State) : Host.Outcome State Fault Refusal :=
  let die := cl / 8
  if !s.powered die then .next s
  else
  let s := s.updCluster cl fun k =>
    { k with
      currentCap := if k.limited || k.limit != 0 then k.currentCap - 1 else k.currentCap
      limited := false, arbAt := s.mt die / 10000 }
  let w := s.wantedBudget die
  let s := if w = (s.die die).budget then s else s.setBudget die w
  let k := s.cluster cl
  let want := max k.requested k.boost
  let v := min (min k.thermalCap k.currentCap) want
  let (s, t, cause) := match s.groupOf die with
    | some (g, x) => (if (s.die die).shed then s else s.sendValue g x cl v, k.groupStep, 4)
    | none => (s, v, if v < want then (if v = k.thermalCap then 2 else 3) else if k.requested < k.boost then 1 else 0)
  let (t, cause) := if (s.die die).tripped then (0, 5) else (t, cause)
  (if t = k.at_ || k.move.isSome then s else s.startMove cl t cause).out

/-- A group step taken by a member cluster: it moves now, or once its move in progress has completed (R399). -/
def State.takeGroupStep (s : State) (cl t : Nat) : State :=
  let k := s.cluster cl
  if k.move.isSome then s.updCluster cl fun k => { k with announced := k.announced ++ [(t, s.mt (cl / 8))] }
  else
    let s := s.updCluster cl fun k => { k with groupStep := t }
    if (s.die (cl / 8)).tripped || t = k.at_ then s else s.startMove cl t 4

/-- An announcement received by a member cluster; once none of its copies is on its way a write of the multicast entry that waited for
it goes on (R316). -/
def State.received (s : State) (cl step apply : Nat) : State :=
  match s.groupOf (cl / 8) with
  | none => s
  | some (g, x) =>
    let anns := x.anns.map fun a => if a.step = step && a.apply = apply then { a with todo := a.todo.filter (· != cl) } else a
    { s with groups := mput g { x with anns := anns.filter fun a => !a.todo.isEmpty } s.groups }.castRetry

/-- GROUP_ANNOUNCEMENT (R399): received late, or by a die that is not valid, it is taken at once, with an event. -/
def execGroupAnnouncement (cl : Nat) (step : BitVec 5) (mtApply : Nat) (s : State) : Host.Outcome State Fault Refusal :=
  let die := cl / 8
  let s := s.received cl step.toNat mtApply
  if !(s.die die).mtskew.getLsbD 0 || mtApply < s.mt die then ((s.takeGroupStep cl step.toNat).post die .groupLate [cl, step.toNat]).out
  else .next (s.updCluster cl fun k => { k with announced := k.announced ++ [(step.toNat, mtApply)] })

/-- GROUP_STEP_APPLY (R399): the first announced step whose time has come is taken, after a move in progress. -/
def execGroupStepApply (cl : Nat) (s : State) : Host.Outcome State Fault Refusal :=
  match (s.cluster cl).announced.find? fun a => decide (a.2 ≤ s.mt (cl / 8)) with
  | none => .next s
  | some a =>
    if (s.cluster cl).move.isSome then .next s
    else ((s.updCluster cl fun k => { k with announced := k.announced.erase a }).takeGroupStep cl a.1).out

/-- Whether the management controller of a module takes commands: not while it resets itself (R441). -/
def State.managed (s : State) (m : Nat) : Bool := (s.mod m).fwReset ≤ s.now

/-- Whether the firmware of a module runs: its controller does not reset itself, and has not started its recovery loader (R441). -/
def State.firmware (s : State) (m : Nat) : Bool := s.managed m && !(s.mod m).recovery

/-- A command of the mailbox (R441, R442): the host reaches it over the CXL link; one that comes while the controller resets itself is
ignored, one that comes while another runs is answered busy, and one that the recovery loader does not accept (`loader`) is refused. It
runs for a time that is free (assumption log 123). -/
def State.mailbox (s : State) (m : Nat) (loader : Bool) (act : State → Host.Outcome State Fault Refusal) : Host.Outcome State Fault Refusal :=
  let x := s.mod m
  if !x.cxlUp || !s.managed m then .next s
  else if s.now < x.mboxUntil then .next (s.updMod m fun y => { y with mboxStatus := .busy })
  else if x.recovery && !loader then .next (s.updMod m fun y => { y with mboxStatus := .refused })
  else act (s.updMod m fun y => { y with mboxStatus := .success, mboxUntil := s.now + Config.freeNat s.tick })

/-- POWER_MAILBOX_WRITE (R396, R441): by firmware. -/
def execPowerMailboxWrite (cl : Nat) (step : BitVec 5) (s : State) : Host.Outcome State Fault Refusal :=
  if s.firmware (modOf (cl / 8)) && step.toNat ≤ 23 then
    .next (s.updCluster cl fun k => { k with mailbox := some step, mgmtAt := some (s.cycleOf cl) })
  else .next s

/-- The highest thermal cap of a module: 7 while its inlet is too hot or its flow too low (R402). -/
def Module.capLimit (x : Module) : Nat := if x.coolant == .normal then 23 else 7

/-- CAP_AND_BOOST_WRITE (R397, R401, R402, R435), by firmware: a raise of a current cap is ignored while `TRIP` = 1. -/
def execCapAndBoostWrite (cl : Nat) (kind : CapKind) (step : BitVec 5) (s : State) : Host.Outcome State Fault Refusal :=
  let m := modOf (cl / 8)
  let n := step.toNat
  if !s.firmware m then .next s
  else
    match kind with
    | .awake => if n ≤ 24 then .next (s.updDie (cl / 8) fun d => { d with wconf := n }) else .next s
    | .boost => if n ≤ 23 then .next (s.updCluster cl fun k => { k with boost := n }) else .next s
    | .thermal => if n ≤ 23 then .next (s.updCluster cl fun k => { k with thermalCap := min n (s.mod m).capLimit }) else .next s
    | .group => if n ≤ 23 then .next (s.updCluster cl fun k => { k with groupCap := n }) else .next s
    | .current =>
      if n ≤ 23 && !((s.mod m).pwrTrip && (s.cluster cl).currentCap < n) then .next (s.updCluster cl fun k => { k with currentCap := n })
      else .next s

/-- THERMAL_TRIP (R398): every cluster of the die moves to step 0 in place of any move in progress. -/
def execThermalTrip (die : Nat) (s : State) : Host.Outcome State Fault Refusal :=
  let s := (dieClusters die).foldl (fun (s : State) cl =>
    if (s.cluster cl).at_ = 0 && (s.cluster cl).move.isNone then s else s.startMove cl 0 5) s
  ((s.updDie die fun d => { d with tripped := true }).post die .thermal []).out

/-- THERMAL_TRIP_CLEAR (R398). -/
def execThermalTripClear (die : Nat) (s : State) : Host.Outcome State Fault Refusal :=
  if (s.die die).tripped then .next ((s.updDie die fun d => { d with tripped := false }).post die .thermalClear []) else .next s

/-- The refresh row of a stack temperature in °C, and the upper bounds of the rows (R403). -/
def refreshRow (t : Int) : Nat := if t ≤ 85 then 0 else if t ≤ 95 then 1 else if t ≤ 105 then 2 else 3
def refreshBound (r : Nat) : Int := 85 + 10 * (r : Int)

/-- HBM_TEMPERATURE_READ (R403): a rise takes effect at once, a fall 2 °C below the lower row's bound. -/
def execHbmTemperatureRead (q : Nat) (temp : Int) (s : State) : Host.Outcome State Fault Refusal :=
  .next (s.updQuad q fun x =>
    let r := refreshRow temp
    { x with refresh := if x.refresh ≤ r then r else (((List.range x.refresh).find? fun k => decide (temp ≤ refreshBound k - 2)).getD x.refresh) })

/-- POWER_COMPARATOR_INTERVAL (R435), at the instants of R397. -/
def execPowerComparatorInterval (m watts : Nat) (s : State) : Host.Outcome State Fault Refusal :=
  let now := s.modMt m / 10000
  if now ≤ (s.mod m).pwrAt || !s.powered m then .next s
  else
  let above := (s.mod m).pwrlim < watts
  let s := s.updMod m fun x => { x with pwrTrip := above, pwrPower := watts, pwrAt := now }
  .next (if above then (moduleClusters m).foldl (fun (s : State) cl =>
    s.updCluster cl fun k => { k with currentCap := k.currentCap - 1 }) s else s)

/-! The reserve (R417) -/

/-- The energy of a module's reserve in nJ (R417): while the input holds 48 V or more it charges at 250 to 400 W, at a rate that is free, up
to at least 38 kJ. -/
def State.reserveOf (s : State) (m : Nat) : Nat :=
  let x := s.mod m
  if 48 ≤ x.volts then
    min (38000000000000 + Config.packExtra m) (x.reserve + (250 + Config.chargeWatts m x.chargeAt % 151) * (s.now - x.chargeAt))
  else x.reserve

/-- The supply of a module in another state, with what its input reads (R418); the reserve stands at what it has. -/
def State.setPower (s : State) (m : Nat) (p : Power) (volts : Nat) : State :=
  let r := s.reserveOf m
  s.updMod m fun x => { x with power := p, volts := volts, reserve := r, chargeAt := s.now }

/-! Detected errors (R413) -/

/-- SCRATCH_WORD_ERROR (R210): a word of a bank in SCRATCH is poisoned; a guarded context that reads it finds the error. -/
def execScratchWordError (cl w : Nat) (s : State) : Host.Outcome State Fault Refusal :=
  .next (s.updCluster cl fun k =>
    if k.mode (bankOfOff (8 * w)) = 1 && w < 2 ^ 20 then { k with wpois := mset false w true k.wpois, werr := mset false w true k.werr } else k)

/-- TAG_ARRAY_ERROR (R210): the words are poisoned and FULL. -/
def execTagArrayError (cl w n : Nat) (s : State) : Host.Outcome State Fault Refusal :=
  .next (s.updCluster cl fun k => (List.range n).foldl (fun (k : Cluster) i =>
    if k.mode (bankOfOff (8 * (w + i))) = 1 && w + i < 2 ^ 20 then
      { k.setFull (w + i) 1 true with wpois := mset false (w + i) true k.wpois, werr := mset false (w + i) true k.werr }
    else k) k)

/-- REGISTER_FILE_ERROR (R141, R413), detected as register `r` of a context is read. -/
def execRegisterFileError (cx r : Nat) (s : State) : Host.Outcome State Fault Refusal :=
  let c := s.ctx cx
  if 64 ≤ r || !c.vvalid.getLsbD r then .next s
  else if c.guarded then (s.detected cx false).out
  else .next (s.setCtx cx { c with vpois := c.vpois ||| ((1 : Word) <<< r) })

/-- ACCUMULATOR_ROW_ERROR (R192, R413), detected as a row of a core is read. -/
def execAccumulatorRowError (core row : Nat) (s : State) : Host.Outcome State Fault Refusal :=
  if 1024 ≤ row then .next s
  else
    match ((List.range 4).map fun h => 4 * core + h).find? fun cx => (s.ctx cx).guarded && (s.ctx cx).ownsRow row with
    | some cx => (s.detected cx false).out
    | none => .next (s.updCore core fun k => { k with accPois := mset false row true k.accPois })

/-- RESIDUE_MISMATCH (R179, R413): found at the latest beat of a core's array. -/
def execResidueMismatch (core : Nat) (s : State) : Host.Outcome State Fault Refusal :=
  match ((List.range 4).map fun h => 4 * core + h).find? fun cx => (s.ctx cx).guarded && (s.ctx cx).holder with
  | some cx => (s.detected cx false).out
  | none =>
    match (s.core core).beatRow with
    | none => .next s
    | some r => .next (s.updCore core fun k => { k with accPois := mset false r true k.accPois })

/-- QUEUE_PARITY_ERROR (R413): found as the entry at the head of a streaming queue executes. -/
def execQueueParityError (cx slot : Nat) (s : State) : Host.Outcome State Fault Refusal :=
  let c := s.ctx cx
  if (c.queue slot).isEmpty then .next s
  else if c.guarded then (s.detected cx false).out
  else .next ((s.stopCtx cx).failLaunch c.launch statusFault)

end Sys2Proof.Machine
end

