-- ==== Sys2Proof/Machine/Halt.lean ====
section
/-!
DEFINITION. Debug halts, the reserve, the power-fail halt with its manifest and seal, the restart, and brown-out (15
R416–R430), and the coolant limits (14 R402).
-/

namespace Sys2Proof.Machine

/-! Debug halts (R416) -/

/-- The hardware contexts of a core. -/
def coreContexts (core : Nat) : List Nat := (List.range 4).map fun h => 4 * core + h

/-- The module whose controller halts or resumes (R442). -/
def targetMod : HaltTarget → Nat
  | .core k => modOf (k / 64)
  | .partition m _ => m

/-- The cores that a halt or a resume names: one, or those of the clusters of a partition (R364, R416). -/
def State.haltCores (s : State) : HaltTarget → List Nat
  | .core k => [k]
  | .partition m p =>
    ((moduleClusters m).filter fun c => (mget (0 : Word) p (s.mod m).pmask).getLsbD (moduleRank c)).flatMap fun c =>
      (List.range 8).map fun i => 8 * c + i

/-- PLAIN_HALT (R416, R442), a mailbox command; one that waited for a divide takes effect by itself (R97). -/
def execPlainHalt (tgt : HaltTarget) (s : State) : Host.Outcome State Fault Refusal :=
  match tgt, (s.haltCores tgt).filter fun k => (s.core k).halt == .pending with
  | .core _, k :: _ => .next (if (s.core k).divider.isSome then s else s.plainHalt k)
  | _, _ =>
    s.mailbox (targetMod tgt) false fun s =>
      .next ((s.haltCores tgt).foldl (fun (s : State) k => (s.plainHalt k).post (k / 64) .debugHalt [k]) s)

/-- Whether a context of a core halted with quiescence has nothing left in progress (R416): commands, and the playbook entries of its
launch in its cluster, among them. -/
def State.quiesced (s : State) (cx : Nat) : Bool :=
  let c := s.ctx cx
  (c.phase != .running && c.phase != .retiring) || (s.stopped cx && !(s.cmds.any fun e =>
    match e.2.play with
    | some (l, _) => c.launch == some l && e.2.cl = clusterOf cx
    | none => e.2.cx = cx && e.2.area.isNone))

/-- The entries that wait of the contexts of a core are held, context by context once what it has started has completed (R416). -/
def State.quiesce (s : State) (core : Nat) : State :=
  (coreContexts core).foldl (fun (s : State) cx =>
    if s.quiesced cx then (s.haltWaits cx).updCtx cx fun c => { c with frozen := true } else s) s

/-- QUIESCED_HALT (R416, R442), a mailbox command: issue stops; a core halted so goes on by itself until its contexts are quiet. -/
def execQuiescedHalt (tgt : HaltTarget) (s : State) : Host.Outcome State Fault Refusal :=
  match tgt, (s.haltCores tgt).filter fun k => (s.core k).halt == .quiesced with
  | .core _, k :: _ => .next (s.quiesce k)
  | _, _ =>
    s.mailbox (targetMod tgt) false fun s =>
      .next ((s.haltCores tgt).foldl (fun (s : State) k =>
        ((s.updCore k fun y => { y with halt := .quiesced }).post (k / 64) .debugHalt [k]).quiesce k) s)

/-- The contexts of a core go on, what was withdrawn starts again, but for one whose entries a pre-emption holds (R416). -/
def State.resumeCore (s : State) (core : Nat) : State :=
  (coreContexts core).foldl (fun (s : State) cx =>
    s.updCtx cx fun c =>
      let go := fun (q : List Entry) => q.map fun e => if e.phase == .resting then { e with phase := .queued } else e
      { c with
        queues := mmap go c.queues
        frozen := c.frozen && (match c.launch with
          | none => false
          | some l => (s.launch l).st == .preempting || c.moving) }) (s.updCore core fun k => { k with halt := .none })

/-- RESUME (R416, R442), a mailbox command. -/
def execResume (tgt : HaltTarget) (s : State) : Host.Outcome State Fault Refusal :=
  s.mailbox (targetMod tgt) false fun s => .next ((s.haltCores tgt).foldl State.resumeCore s)

/-- CLEAR_RETIREMENT (R415, R442), a mailbox command. -/
def execClearRetirement (core : Nat) (s : State) : Host.Outcome State Fault Refusal :=
  s.mailbox (modOf (core / 64)) false fun s => .next (s.updCore core fun k => { k with retired := false })

/-! The power-fail halt (R418–R424) -/

/-- The dies of a module. -/
def moduleDies (m : Nat) : List Nat := (List.range 8).map (dieAt m)

/-- Whether a key is near or far memory of a module's die. -/
def volatileOf (m key : Nat) : Bool := nearFar (keyPa key) && cornerOf (keyDie key) = m

/-- The failure kind of a command that a power-fail halt aborts (R419). -/
def haltKind (c : Command) : Nat :=
  match c.entry.instr with
  | some (.lease _ _ _ kind _) => kind.toNat
  | some (.lcmd ..) => engKind c.engine
  | some (.wstr ..) => 0
  | _ => kindOther

/-- The reductions that fail when a command is aborted (R427): itself, and the peers that have joined it, each with its tag and with the
cluster and the place of its `RESULT` word. -/
def State.redFailed (s : State) (id : Nat) (c : Command) : List (Nat × Nat × Place) :=
  if !c.isRed then []
  else
    let bs := s.redDesc c
    ((id, c) :: s.redPeers id (dieOf c.cx) bs).filterMap fun e =>
      let va := bytesNum (s.redDesc e.2) 8 8
      if va = 0 then none
      else
        match s.agentPlan (s.cmdAgent e.2 .scratch) .write va 8 with
        | .ok (_, p) => some (redTag bs, e.2.cl, p.place)
        | .error _ => none

/-- A command aborted by a power-fail halt (R419): it leaves whatever queue it stands in, and fails with `FWHY` 3; a `LEASE`
that has no grant frees its slot and leaves its destination as it was. -/
def State.haltCmd (s : State) (id : Nat) (c : Command) : State :=
  let s := s.failPeers id
  let out := fun (l : List Nat) => l.filter (· != id)
  let s := s.updCluster c.cl fun k =>
    { k with
      chans := (mmap out k.chans).filter fun x => !x.2.isEmpty
      switching := if k.bankq.head? == some id then 0 else k.switching
      bankq := out k.bankq }
  let s := s.updDie (c.cl / 8) fun d => { d with benches := mmap out d.benches, engines := mmap (fun x => { x with queue := out x.queue }) d.engines }
  let s := match c.entry.instr with
    | some (.lease ..) => s.onCmdCtx c fun x =>
        (x.setLease ((c.bound.map Prod.fst).getD 0) fun l => { serial := l.serial }).setOut c.entry.ord 7 { keep := true }
    | _ => s
  s.endCmd id (some (haltKind c, 3))

/-- The leases of a die revoked, grants that still wake among them (R265, R419). -/
def State.revokeAll (s : State) (die : Nat) : State :=
  (List.range 96).foldl (fun (s : State) e =>
    let x := s.engine die e
    if x.st == .leased then s.endLease die e 3
    else if x.granted then s.endGrant die e
    else s) s

/-- Whether a command is a `LEASE` with a grant that still wakes (R265). -/
def State.isGranted (s : State) (id : Nat) (c : Command) : Bool :=
  (s.die (dieOf c.cx)).engines.any fun e => e.2.granted && e.2.req = id

/-- The CXL link goes down (R434): host accesses are refused, and watches on host lines end so. -/
def State.hostDown (s : State) (m : Nat) : State :=
  let s := s.updMod m fun x => { x with cxlUp := false }
  let s := (s.ctxs.filter fun c => modOf (dieOf c.1) = m && (c.2.queue 3).any fun e => e.phase == .watching).foldl
    (fun (s : State) c => s.after (execWaitaReread c.1 s)) s
  (s.launches.filter fun l => l.2.m = m && l.2.st == .waiting && l.2.stop.isNone).foldl (fun (s : State) l =>
    (List.range 4).foldl (fun (s : State) j => s.after (execDependenceSatisfied m l.2.q j s)) s) s

/-- Whether a module has been restarted and no context of what its halt sealed has resumed yet (R425): its timed entries are not armed
again, or launches that it saved still wait. -/
def State.haltPending (s : State) (m : Nat) : Bool :=
  (s.mod m).image.any fun im => im.isSealed &&
    (!(s.mod m).ready || im.launches.any fun p => s.launches.any fun q => q.1 = p.1 && !q.2.saved.isEmpty)

/-- What the input of a module reads from a power-fail on (R418). -/
def haltVolts (volts : Nat) : HaltCause → Nat
  | .lowInput => min volts 39
  | .lossOfInput => 0
  | .coolant => volts

/-- Phase 1 of a power-fail halt (R419): every launch of the module is to stop, leases are revoked, commands aborted, caches
written back. -/
def State.haltBegin (s : State) (m : Nat) (cause : HaltCause) : State :=
  let mine := s.launches.filter fun p => p.2.m = m
  let running := (mine.filter fun p => p.2.holdsCores && p.2.stop.isNone).map Prod.fst
  let s := running.foldl State.preempt s
  let cmds := s.cmds.filter fun e => modOf (e.2.cl / 8) = m && e.2.play.isNone
  let reds := cmds.flatMap fun e => s.redFailed e.1 e.2
  let s := cmds.foldl (fun (s : State) e => match e.2.entry.instr with
    | some (.swappg ..) => s
    | _ => if s.isGranted e.1 e.2 then s else s.haltCmd e.1 e.2) s
  let s := (moduleDies m).foldl State.revokeAll s
  let s := ((moduleClusters m).foldl State.flushAll s).hostDown m
  let old := s.haltPending m
  ((s.setPower m (.halting cause) (haltVolts (s.mod m).volts cause)).updMod m fun x =>
    { x with
      ready := false
      image := if old then x.image else (some { mtHalt := s.mt m, reds := reds, running := running }) }).post m .powerHalt []

/-- Whether every launch of a module has been saved or has given up its cores, and every swap has completed (R419). -/
def State.haltReady (s : State) (m : Nat) : Bool :=
  !(s.launches.any fun p => p.2.m = m && (p.2.holdsCores || (p.2.stop.isSome && !p.2.hasEnded))) &&
    (moduleDies m).all fun d => (List.range 4).all fun q => (s.quad (4 * d + q)).swaps.isEmpty

/-- A range of memory copied, with the poison of its lines. -/
def State.copyRange (s : State) (src dst n : Nat) : State :=
  let cells := s.mem.filter fun p => src ≤ p.1 && p.1 < src + n
  let bad := s.mpoison.filter fun p => src ≤ p.1 && p.1 < src + n
  { s with
    mem := cells.foldl (fun m p => memPut m (dst + (p.1 - src)) p.2) (memClear s.mem dst n)
    mpoison := bad.foldl (fun (m : Map Bool) (p : Nat × Bool) => mset false (dst + (p.1 - src)) p.2 m)
      (s.mpoison.filter fun p => !(dst ≤ p.1 && p.1 < dst + n)) }

/-- A region to drain (R421): base key, size, priority, class, and whether it is automatic or rejected. -/
structure Drain where
  base : Nat
  size : Nat
  prio : Nat
  cls : Nat
  auto : Bool
  bad : Bool := false
  deriving DecidableEq, Repr

/-- The automatic regions of a module (R419): slot arrays and save regions of enabled queues. -/
def State.autoRegions (s : State) (m : Nat) : List Drain :=
  ((s.mod m).queues.filter fun q => q.2.en).flatMap fun q =>
    let one := fun (key n : Nat) => if n = 0 then [] else [{ base := key, size := n, prio := 0, cls := 0, auto := true : Drain }]
    one (q.2.slotKey 0) (256 * q.2.slots) ++ one (keyOf q.2.svdie.toNat q.2.svaddr.toNat) q.2.svsize.toNat

/-- An entry of the drain list, rejected where it breaks R421. -/
def drainOf (m : Nat) (bs : List Byte) : Drain :=
  let v := bytesNum bs 0 8
  let key := physKey v
  let n := bytesNum bs 8 8
  let good := v % 65536 = 0 && n % 65536 = 0 && 65536 ≤ n && n ≤ 2 ^ 39 && volatileOf m key && volatileOf m (key + n - 1) &&
    regionOf (keyPa key) == regionOf (keyPa (key + n - 1)) && bytesNum bs 0x11 1 ≤ 1 && (bs.drop 0x12).all fun b => b == 0
  { base := key, size := n, prio := bytesNum bs 0x10 1, cls := bytesNum bs 0x11 1, auto := false, bad := !good }

def insertDrain (x : Drain) : List Drain → List Drain
  | [] => [x]
  | y :: ys => if y.prio < x.prio then x :: y :: ys else y :: insertDrain x ys

/-- The drain list of a module in drain order (R420, R421). -/
def State.drainList (s : State) (m : Nat) : List Drain :=
  let y := s.mod m
  ((List.range (min 256 y.dlCount.toNat)).map fun i => drainOf m (s.homeBytes (physKey y.dlAddr.toNat + 32 * i) 32)).foldl
    (fun l d => insertDrain d l) []

/-- How far a drain has come: bytes of the area used, energy of the reserve left in nJ, region records, whether the state may resume. -/
structure Draining where
  used : Nat
  energy : Nat
  recs : List Byte := []
  ok : Bool := true
  deriving DecidableEq, Repr

/-- The energy in nJ that draining takes (R422). -/
def drainNeed (n : Nat) : Nat := n * 65 / 32

/-- The discharge floor of the reserve in nJ (R417, R439). -/
def reserveFloor : Nat := 2000000000000

/-- The energy in nJ that draining leaves in the reserve: the discharge floor and the margin for the seal (R417, R422). -/
def drainFloor : Nat := 2050000000000

/-- One region drained into the area, or lost, with its record (R422, R423). What draining takes beyond the estimate is free; where the
reserve does not last, the region is lost with status 3 (assumption log 21). -/
def State.drainOne (area size : Nat) (p : State × Draining) (d : Drain) : State × Draining :=
  let (s, g) := p
  let need := drainNeed d.size
  let took := need + Config.freeNat (s.tick + g.recs.length + 8)
  let st := if d.bad then 4 else if size - g.used < d.size then 2 else if g.energy < drainFloor + need then 1
    else if g.energy < drainFloor + took then 3 else 0
  let pois := (s.mpoison.filter fun e => d.base ≤ e.1 && e.1 < d.base + d.size).length
  let hash := if st = 0 then sha3 (s.homeBytes d.base d.size) else List.replicate 32 0
  let rec_ := bytesNat8 (keyDie d.base * 2 ^ 52 + keyPa d.base) ++ bytesNat8 d.size ++ bytesNat8 (if st = 0 then g.used else 0) ++
    [BitVec.ofNat 8 d.prio, BitVec.ofNat 8 d.cls, BitVec.ofNat 8 st, BitVec.ofNat 8 d.auto.toNat] ++ bytesOfNat 4 pois ++ hash
  let g' : Draining :=
    { used := if st = 0 then g.used + d.size else g.used
      energy := if st = 0 then g.energy - took else if st = 3 then drainFloor else g.energy
      recs := g.recs ++ rec_
      ok := g.ok && !((st = 1 || st = 2 || st = 3) && (d.auto || d.cls = 0)) }
  (if st = 0 then s.copyRange d.base (area + g.used) d.size else s, g')
where
  bytesNat8 (n : Nat) : List Byte := bytesOfNat 8 n

/-- The key of a module's hibernation area. -/
def Module.area (x : Module) (m : Nat) : Nat := keyOf m x.hibBase

/-- The cause in a manifest (R423). -/
def causeCode : HaltCause → Nat
  | .lowInput => 0
  | .lossOfInput => 1
  | .coolant => 2

/-- "HM8 seal" (R424). -/
def sealName : List Byte := [0x48, 0x4D, 0x38, 0x20, 0x73, 0x65, 0x61, 0x6C]

/-- The duration in µs of the drain that seals in this step (R423, R438): none without an area, else free (assumption log 21). -/
def State.drainTime (s : State) (m : Nat) : Nat := if (s.mod m).hibSize = 0 then 0 else Config.freeNat (s.tick + 1) % 2 ^ 32

/-- A part of the manifest to which the spec gives no form (R419, R423): free bytes, of a free number (assumption log 21). -/
def State.freeTable (s : State) (i : Nat) : List Byte :=
  (List.range (Config.freeNat (s.tick + i) % 2 ^ 28)).map fun j => Config.freeByte (s.tick + i) j

/-- Phases 3 to 5 (R419, R422–R424): regions drained on what the reserve holds after phases 1 to 3, the manifest with the machine image,
the timed entries and the step tables written, and sealed. What the phases and the seal took and the drain's duration are free values
(assumption log 21); the reserve keeps its floor. -/
def State.sealUp (s : State) (m : Nat) (cause : HaltCause) (mtHalt : Nat) : State :=
  let x := s.mod m
  if x.hibSize = 0 then s
  else
    let ds := s.autoRegions m ++ s.drainList m
    let (image, timed, steps) := (s.freeTable 2, s.freeTable 3, s.freeTable 4)
    let at_ := 256 + 64 * ds.length
    let len := at_ + image.length + timed.length + steps.length
    let start := (len + 64 + 65535) / 65536 * 65536
    let least := min (s.reserveOf m) reserveFloor
    let (s, g) := ds.foldl (State.drainOne (x.area m) x.hibSize)
      (s, { used := start, energy := max least (s.reserveOf m - Config.freeNat s.tick) })
    let head := bytesOfNat 4 1 ++ bytesOfNat 4 (g.ok.toNat + 2 * causeCode cause) ++ bytesOfNat 8 (x.counter + 1) ++ bytesOfNat 8 mtHalt ++
      bytesOfNat 4 ds.length ++ bytesOfNat 4 (s.drainTime m) ++ bytesOfNat 8 len ++
      bytesOfNat 8 256 ++ bytesOfNat 8 at_ ++ bytesOfNat 8 (at_ + image.length) ++ bytesOfNat 8 (at_ + image.length + timed.length) ++
      List.replicate 184 0
    let man := head ++ g.recs ++ image ++ timed ++ steps
    let s := (s.hwPut (x.area m) man).hwPut (x.area m + len) (kmac256 (Config.sealKey m) sealName man)
    s.updMod m fun y =>
      { y with
        counter := x.counter + 1, chargeAt := s.now
        reserve := max least (g.energy - Config.freeNat (s.tick + 5) % (drainFloor - reserveFloor + 1)) }

/-- The clusters, step tables and timed entries that the machine image keeps (R419); a timed entry with its remaining
duration. -/
def State.machineImage (s : State) (m : Nat) (im : HaltImage) : HaltImage :=
  let x := s.mod m
  { im with
    clusters := s.clusters.filter fun c => modOf (c.1 / 8) = m
    windows := (moduleDies m).map fun d => (d, (s.die d).windows)
    steps := (moduleDies m).map fun d => (d, (s.die d).steps)
    queues := x.queues
    pmask := x.pmask
    timed := (moduleDies m).flatMap fun d => (List.range 4).map fun q =>
      (4 * d + q, (s.quad (4 * d + q)).transit.map fun t => { t with time := t.time - im.mtHalt })
    launches := s.launches.filter fun p => p.2.m = m
    isSealed := true }

/-- The lines of SCM that stand dirty in a slice as the supply ends: they had not reached the controller's write buffer, so what SCM
holds of them is free (R282, R310; assumption log 47). -/
def State.loseDirty (s : State) (q : Nat) : State :=
  (((s.quad q).present.filter fun l => l.2 && regionOf (keyPa l.1) == .scm).map Prod.fst).foldl (fun (s : State) key =>
    s.putBytes key ((List.range 128).map fun i => Config.freeByte s.tick (key + i))) s

/-- What a module loses with its supply: registers, banks, near and far memory, what slices hold; all but what firmware set, the serials
of pins (R285), what lies in SCM and what the lifetime record counts (R438). The core tables are configured again (R389). -/
def State.powerDown (s : State) (m : Nat) : State :=
  let mine := fun (die : Nat) => cornerOf die = m
  let s := ((List.range 32).map fun i => 4 * dieAt m (i / 4) + i % 4).foldl State.loseDirty ((moduleClusters m).foldl State.retime s)
  { s with
    ctxs := s.ctxs.filter fun p => !mine (dieOf p.1)
    cores := s.cores.map fun p => if mine (p.1 / 64) then (p.1, { retired := p.2.retired }) else p
    clusters := s.clusters.map fun p =>
      if mine (p.1 / 8) then (p.1, { almanac := p.2.almanac, almSeq := p.2.almSeq, ratioNs := p.2.ratioNs }) else p
    quads := s.quads.map fun p =>
      if mine (p.1 / 4) then (p.1, { pins := mmap (fun (x : Pin) => { serial := x.serial }) p.2.pins }) else p
    dies := s.dies.map fun p =>
      if mine p.1 then
        (p.1, { p.2 with
          windows := [], engines := [], benches := [], budget := 24, warmReqs := [], steps := [], tripped := false, huddle := []
          mtskew := 0, within := none })
      else p
    launches := s.launches.filter fun p => p.2.m != m
    mem := s.mem.filter fun p => !volatileOf m p.1
    mpoison := s.mpoison.filter fun p => !volatileOf m p.1
    mods := s.mods.map fun p =>
      if p.1 = m then
        (p.1, { p.2 with
          queues := [], pmask := [], lastQueue := 127, dma := [], dlAddr := 0, dlCount := 0, pwrlim := 4800, pwrTrip := false, pwrPower := 0
          pwrAt := 0, shed := [], brownAt := none, heldAt := none, ready := false, cxlUp := false })
      else p }

/-- Phases 2 to 5 of a power-fail halt, once every context is saved (R419): the caches, which contexts may have written as they stopped,
are written back once more, and the supply ends after the seal. A halt before a context has resumed since the restart seals nothing new
(R425). The dies of a module that has halted answer PARKED (R430). -/
def State.haltEnd (s : State) (m : Nat) (cause : HaltCause) : State :=
  if !s.haltReady m then s
  else
    let s := (moduleClusters m).foldl State.flushAll s
    let im := (s.mod m).image.getD {}
    let count := fun (l : Lifetime) => { l with halts := satAdd l.halts 1, drains := l.drains ++ [s.drainTime m] }
    let s := if im.isSealed then s
      else (s.updMod m fun y => { y with image := some (s.machineImage m im), life := count y.life }).sealUp m cause im.mtHalt
    let s := (s.powerDown m).setPower m .halted (s.mod m).volts
    (moduleDies m).foldl (fun (s : State) d => s.updDie d fun y => { y with shed := true }) s

/-- PWR_HALT (R418, R419): phase 1 at once, the rest as it comes. -/
def execPwrHalt (m : Nat) (cause : HaltCause) (s : State) : Host.Outcome State Fault Refusal :=
  match (s.mod m).power with
  | .off => .next s
  | .halted => .next s
  | .halting c => (s.haltEnd m c).out
  | _ => ((s.haltBegin m cause).haltEnd m cause).out

/-- The row of R402 that a reading of the coolant falls in. -/
def coolantOf (r : CoolantReading) : Coolant :=
  if 650 < r.inlet || r.flow < 40 then .critical else if 600 < r.inlet || r.flow < 60 then .hot else .normal

/-- COOLANT_LIMIT (R402): inlet and flow out of rating lower every thermal cap to 7, and further out halt the module. -/
def execCoolantLimit (m : Nat) (r : CoolantReading) (s : State) : Host.Outcome State Fault Refusal :=
  let c := coolantOf r
  let s := s.updMod m fun x => { x with coolant := c }
  let low := (moduleClusters m).foldl (fun (s : State) cl => s.updCluster cl fun k => { k with thermalCap := min k.thermalCap 7 }) s
  match c with
  | .normal => .next s
  | .hot => .next low
  | .critical => execPwrHalt m .coolant low

/-! Configuration records (R440) -/

/-- Whether a hibernation area of a module lies in its SCM as R417 asks. -/
def hibOk (base size : Nat) : Bool :=
  base % 2 ^ 30 = 0 && size % 2 ^ 30 = 0 && size ≤ 3072 * 2 ^ 30 && (size = 0 || (regionOf base == .scm && regionOf (base + size - 1) == .scm))

/-- Whether an HDM window of a module maps a host range onto near memory of one of its dies as R431 asks. -/
def hdmOk (m hbase size die pa : Nat) : Bool :=
  hbase % 2 ^ 28 = 0 && size % 2 ^ 28 = 0 && pa + size ≤ 2 ^ 38 && (moduleDies m).contains die

/-- What an item of a configuration record sets; a value outside its limits changes nothing (R290, R311, R319, R389, R390, R397, R400, R401, R417, R431). -/
def State.configure (s : State) (m : Nat) : ConfigItem → State
  | .ewtable core v => s.updCore core fun k => { k with ewtable := v }
  | .bfw core v => if v.toNat ≤ 480 then s.updCore core fun k => { k with bfw := v } else s
  | .extents x y z => if [x, y, z].all fun n => n % 2 = 0 && 2 ≤ n && n ≤ 16 then { s with extents := (x, y, z) } else s
  | .grandmasters dies => { s with grandmasters := dies.take 4 }
  | .throttleGroup g dies leader =>
    if 256 ≤ g || s.groups.any fun p => p.1 != g && p.2.dies.any dies.contains then s
    else if dies.isEmpty then { s with groups := merase g s.groups }
    else
      let x := mget ({} : ThrottleGroup) g s.groups
      let s := ((dies.filter fun d => !x.dies.contains d).flatMap dieClusters).foldl (fun (s : State) cl =>
        s.updCluster cl fun k => { k with groupStep := x.step }) s
      { s with groups := mput g { x with dies := dies, leader := leader } s.groups }
  | .threshold v => if 1 ≤ v && v ≤ 65535 then { s with threshold := v } else s
  | .awake die w => if w ≤ 24 then s.updDie die fun d => { d with wconf := w } else s
  | .almanac cl base => if base % 16384 = 0 then s.updCluster cl fun k => { k with almanac := some base } else s
  | .hib base size => if hibOk base size then s.updMod m fun x => { x with hibBase := base, hibSize := size } else s
  | .shedOrder order => s.updMod m fun x => { x with shedOrder := order }
  | .multicast die group ports => s.after (execMulticastEntryWrite die group ports s)
  | .remapTable die base => if base + 96 * 2 ^ 20 ≤ 2 ^ 38 then s.updDie die fun d => { d with remapBase := some base } else s
  | .hdm i hbase size die pa =>
    if i < 8 && hdmOk m hbase size die pa then s.updMod m fun x => { x with hdm := mput i { hbase := hbase, size := size, die := die, pa := pa } x.hdm } else s

/-! Restart (R425–R427) -/

/-- Of the records of one type the one that applies (R440): of the highest sequence number, of equals the first stored. -/
def applyingOf (k : RecordKind) (l : List ConfigRecord) : Option ConfigRecord :=
  (l.filter fun r => decide (r.kind = k)).foldl (fun (b : Option ConfigRecord) r =>
    match b with
    | none => some r
    | some x => if x.seq.toNat < r.seq.toNat then some r else some x) none

/-- The records of a module that apply, one of each type at most (R440). -/
def Module.applying (x : Module) : List ConfigRecord :=
  [.energy, .domain, .budget, .tables, .hibernation, .multicast, .hdm].filterMap fun k => applyingOf k x.records

/-- What a configuration record sets (R440). -/
def State.applyRecord (m : Nat) (s : State) (r : ConfigRecord) : State := r.items.foldl (fun (s : State) i => s.configure m i) s

/-- Why a module's manifest does not restore (R424, R425), numbered: 0 there is none, 1 its seal or 2 its counter fails, 3 it is not
resumable; none where it restores. -/
def State.coldCause (s : State) (m : Nat) (sealOk : Bool) : Option Nat :=
  let x := s.mod m
  let head := s.homeBytes (x.area m) 256
  let len := bytesNum head 0x20 8
  if x.hibSize = 0 || x.image.isNone then some 0
  else if !sealOk || x.hibSize < len ||
      s.homeBytes (x.area m + len) 64 != kmac256 (Config.sealKey m) sealName (s.homeBytes (x.area m) len) then some 1
  else if bytesNum head 8 8 != x.counter then some 2
  else if !(head.getD 4 0).getLsbD 0 then some 3
  else none

/-- The lines of a range poisoned. -/
def State.poisonRange (s : State) (base n : Nat) : State :=
  (List.range (n / 128)).foldl (fun (s : State) i => s.setLinePois (base + 128 * i) true) s

/-- One region restored from the area (R425): lost or mismatching ones are poisoned. -/
def State.restoreOne (area : Nat) (s : State) (rec_ : List Byte) : State :=
  let key := physKey (bytesNum rec_ 0 8)
  let n := bytesNum rec_ 8 8
  let st := bytesNum rec_ 0x1A 1
  if st = 4 then s
  else if st != 0 then s.poisonRange key n
  else
    let s' := s.copyRange (area + bytesNum rec_ 0x10 8) key n
    if sha3 (s'.homeBytes key n) == (rec_.drop 0x20).take 32 then s' else s'.poisonRange key n

/-- The regions of a manifest restored. -/
def State.restoreRegions (s : State) (m : Nat) : State :=
  let area := (s.mod m).area m
  let n := bytesNum (s.homeBytes area 256) 0x18 4
  (List.range n).foldl (fun (s : State) i => s.restoreOne area (s.homeBytes (area + 256 + 64 * i) 64)) s

/-- The machine image put back (R425): banks, rings, queues, windows, steps, launches. -/
def State.restoreImage (s : State) (m : Nat) (im : HaltImage) : State :=
  let s := im.clusters.foldl (fun (s : State) c =>
    s.updCluster c.1 fun k =>
      { k with modes := c.2.modes, owners := c.2.owners, scratch := c.2.scratch, parity := c.2.parity, full := c.2.full, wpois := c.2.wpois, werr := c.2.werr
               fifos := c.2.fifos, rings := c.2.rings, plays := c.2.plays }) s
  let s := (moduleDies m).foldl (fun (s : State) d =>
    s.updDie d fun y => { y with windows := mget [] d im.windows, steps := mget [] d im.steps }) s
  let s := s.updMod m fun x => { x with queues := im.queues, pmask := im.pmask }
  { s with launches := im.launches.foldl (fun l p => mput p.1 p.2 l) s.launches }

/-- The first die of another module that is valid, or, with `any`, that runs (R334, R335). -/
def State.otherDie (s : State) (m : Nat) (any : Bool) : Option Nat :=
  s.domainDies.find? fun d => cornerOf d != m && ((s.die d).mtskew.getLsbD 0 || (any && s.powered d))

/-- What the external reference shows, if there is one (R335): the one that is present, or one that comes with the module. -/
def State.refTime (s : State) (mt : Option Nat) : Option Nat := (s.extRef.map fun (o : Int) => (o + (s.now : Int)).toNat).or mt

/-- The meridian time that a module's dies lock to: that of a valid die of the domain, at a first lock else that of a neighbour that runs,
else what the external reference shows (R334, R335, R426), else a time kept. -/
def State.lockTime (s : State) (m : Nat) (mt : Option Nat) (first : Bool) (kept : Nat) : Nat :=
  match (s.otherDie m false).or (if first then s.otherDie m true else none) with
  | some d => s.mt d
  | none => (s.refTime mt).getD kept

/-- The dies of a module locked to a time, none of them valid yet (R334–R337). -/
def State.lock (s : State) (m t : Nat) : State :=
  (moduleDies m).foldl (fun (s : State) d =>
    let gm := (s.grandmaster d).getD d
    let at_ : Int := (t : Int) - s.now
    s.updDie d fun y =>
      { y with mtOfs := at_, mtAim := at_, mtAt := s.now, mtMin := t, within := none, exchAt := s.now / 62500, shed := false
               mtskew := s.skewWord d gm 0 &&& ~~~(1 : Word) }) s

/-- The clusters of a module start at step 18, with an entry of the almanac, cause 6 (R394, R400), with the thermal caps that the coolant
allows (R402), and with the step of their throttle group, which its arbiter takes up (R399; assumption log 124). -/
def State.restartClocks (s : State) (m : Nat) : State :=
  (moduleClusters m).foldl (fun (s : State) cl =>
    let group := s.groupOf (cl / 8)
    let s := s.updCluster cl fun k =>
      { k with
        step := 18, move := none, cycAt := s.now, thermalCap := min k.thermalCap (s.mod m).capLimit
        groupStep := (group.map fun g => g.2.step).getD k.groupStep }
    if (s.cluster cl).almanac.isSome then s.almanac cl 18 6 else s) s

/-- Steps 1, 2, 4 and 5 of a start (R441, R443), all but meridian time and the clocks: the ROM starts the image, whose records then apply,
or its recovery loader where the location holds none that verifies; links train, engines sleep. -/
def State.startUp (s : State) (m : Nat) : State :=
  let x := s.mod m
  let s := s.updMod m fun y =>
    { y with ready := false, recovery := !x.fwGood, fwPending := false, fwVersion := if x.fwGood then x.fwNext else 0 }
  let s := if x.fwGood then x.applying.foldl (State.applyRecord m) s else s
  let s := (moduleDies m).foldl (fun (s : State) d =>
    s.updDie d fun y =>
      { y with engines := [], benches := [], budget := 24, links := (List.range 6).map fun p => (p, { up := true, lanes := 8 }) }) s
  s.setPower m .up (max 48 x.volts)

/-- A cold start sets the remap tables of a module to identity (R290, R443). -/
def State.identityRemap (s : State) (m : Nat) : State := (moduleDies m).foldl (fun (s : State) d => s.updDie d fun y => { y with remap := [] }) s

/-- RESTART (R425, R426, R443): a manifest that verifies restores the halted state, otherwise the module starts cold, with an event that
names the cause, and nothing of it is restored. -/
def execRestart (m : Nat) (sealOk : Bool) (mt : Option Nat) (s : State) : Host.Outcome State Fault Refusal :=
  match (s.mod m).power with
  | .halted =>
    let im := (s.mod m).image.getD {}
    let s := s.startUp m
    let s := s.lock m (s.lockTime m mt false im.mtHalt)
    let s := match s.coldCause m sealOk with
      | none => (s.restoreRegions m).restoreImage m im
      | some why => ((s.identityRemap m).updMod m fun y => { y with image := none }).post m .coldStart [why]
    (s.restartClocks m).out
  | _ => .next s

/-- The captured time of a held `STT` or `LDNB` shifted (R426). -/
def shiftHeld (mtHalt delta : Nat) (e : Entry) : Entry :=
  let at_ := fun (i : Nat) =>
    { e with vals := e.vals.mapIdx fun k v => if k = i && mtHalt < v.toNat then v + BitVec.ofNat 64 delta else v }
  match e.instr with
  | some (.stt ..) => at_ 2
  | some (.ldnb ..) => at_ 1
  | _ => e

/-- A saved context after a restart: held timed entries shifted, in its save area too, and, of a launch that ran, `RESUMES`
incremented (R425, R426). -/
def State.resumeCtx (mtHalt delta l : Nat) (ran : Bool) (s : State) (p : Nat × Ctx) : State :=
  let c := p.2
  let sh := shiftHeld mtHalt delta
  let k := blockKey c.savebase + 0x800
  let s := match heldBack c (c.held ++ c.entries) fun i => s.byte (k + i) with
    | some es => if es.isEmpty then s else s.hwPut k (heldBytes (es.map sh))
    | none => s
  s.updLaunch l fun x =>
    { x with saved := mput p.1 { c with held := c.held.map sh, queues := mmap (fun (q : List Entry) => q.map sh) c.queues
                                        res := if ran then c.res + 1 else c.res } x.saved }

/-- The dies agree on the steps of each tag, and the reductions that failed have their `RESULT` words written (R427); members that had
not joined them may issue them anew. -/
def State.agreeSteps (s : State) (m : Nat) (reds : List (Nat × Nat × Place)) : State :=
  let stepOf := fun (d tag : Nat) => ((s.die d).steps.find? fun p => p.1 == tag).map Prod.snd
  let low := fun (tag : Nat) => (s.domainDies.filterMap fun d => stepOf d tag).foldl (fun a b => match a with
    | none => some b
    | some x => some (min x b)) (none : Option Nat)
  let tags := (moduleDies m).flatMap fun d => (s.die d).steps.map Prod.fst
  let s := s.domainDies.foldl (fun (s : State) d =>
    s.updDie d fun y => { y with steps := y.steps.map fun p => if tags.contains p.1 then (p.1, (low p.1).getD p.2) else p }) s
  let s := { s with redFails := s.redFails.filter fun r => !(tags ++ reds.map Prod.fst).contains r.1 }
  reds.foldl (fun (s : State) r =>
    let bs := bytesOfNat 8 (2 ^ 63 + (low r.1).getD 0)
    match r.2.2 with
    | .mem key _ => s.hwPut key bs
    | .scratch o => s.updCluster r.2.1 fun k => k.scratchWrite o bs false
    | _ => s) s

/-- RESERVE_READY (R417, R425, R443): once the reserve holds its threshold the module may dispatch, and the host sees the link up; after a
restart timed entries are re-armed first, steps agreed, and the launches that ran wait for placement. -/
def execReserveReady (m : Nat) (s : State) : Host.Outcome State Fault Refusal :=
  let x := s.mod m
  match x.power with
  | .up =>
    if x.ready || s.reserveOf m < drainFloor + drainNeed x.hibSize then .next s
    else
      let s' := match x.image with
        | none => s
        | some im =>
          let t := s.mt m
          let s := im.timed.foldl (fun (s : State) (q : Nat × List Transit) =>
            s.updQuad q.1 fun y => { y with transit := y.transit ++ q.2.map fun (e : Transit) => { e with time := s.mt (q.1 / 4) + e.time } }) s
          let s := im.launches.foldl (fun (s : State) (l : Nat × Launch) =>
            l.2.saved.foldl (State.resumeCtx im.mtHalt (t - im.mtHalt) l.1 (im.running.contains l.1)) s) s
          s.agreeSteps m im.reds
      (s'.updMod m fun y => { y with ready := true, cxlUp := true }).out
  | _ => .next s

/-! Brown-out (R428) -/

/-- BROWN_OUT (R417, R418, R428): what the input reads, from 30 V up; below 40 V it is a brown-out. -/
def execBrownOut (m volts : Nat) (s : State) : Host.Outcome State Fault Refusal :=
  let note := fun (s : State) => (s.setPower m .brownOut volts).updMod m fun x =>
    { x with
      brownAt := if volts < 40 then some (x.brownAt.getD s.now) else none
      heldAt := if 44 ≤ volts then some (x.heldAt.getD s.now) else none }
  match if volts < 30 then .off else (s.mod m).power with
  | .up => if volts < 40 then .next ((note s).post m .brownOut [volts]) else .next (s.setPower m .up volts)
  | .brownOut => .next (note s)
  | _ => .next s

/-- The brown-out of a module is over (R418, R428). -/
def State.endBrownOut (s : State) (m : Nat) : State :=
  (s.setPower m .up (s.mod m).volts).updMod m fun x => { x with brownAt := none, heldAt := none }

/-- The launches that hold cores of a die. -/
def State.onDie (s : State) (die : Nat) : List Nat :=
  (s.launches.filter fun p => p.2.holdsCores && p.2.cores.any fun k => k / 64 = die).map Prod.fst

/-- A die that is to be shed is shed once its contexts are saved and its swaps complete (R428, R429); its throttle group goes on without
it (R399). -/
def State.shedDie (s : State) (die : Nat) : State :=
  if (s.onDie die).isEmpty && ((List.range 4).all fun q => (s.quad (4 * die + q)).swaps.isEmpty) then
    let s := s.updDie die fun d => { d with shed := true }
    match s.groupOf die with
    | some (g, _) => s.groupMin g
    | none => s
  else s

/-- DIE_SHED (R428): a die that is being shed goes on; otherwise the next one of the configured order, 100 µs after the one before it,
while the module takes more than 100 A at the input's voltage. -/
def execDieShed (m : Nat) (s : State) : Host.Outcome State Fault Refusal :=
  let x := s.mod m
  match x.power with
  | .brownOut =>
    match x.shed.find? fun k => !(s.die (dieAt m k)).shed with
    | some k => .next (s.shedDie (dieAt m k))
    | none =>
      if x.pwrPower ≤ 100 * x.volts || (!x.shed.isEmpty && s.now < x.shedAt + 100000) then .next s
      else
        match x.shedOrder.find? fun k => !x.shed.contains k with
        | none => .next s
        | some k =>
          let s := s.updMod m fun y => { y with shed := x.shed ++ [k], shedAt := s.now }
          let s := (s.onDie (dieAt m k)).foldl State.preempt s
          .next (s.shedDie (dieAt m k))
  | _ => .next s

/-- What a restored home serves next of what is due (R429): first the stores, in ascending time and then in acceptance order, then the
loads in acceptance order. -/
def restoredDue (now : Nat) (l : List Transit) : Option Transit :=
  let due := l.filter fun t => t.time ≤ now
  ((due.filter fun t => t.store).foldl (fun (b : Option Transit) t =>
    match b with
    | none => some t
    | some x => if t.time < x.time then some t else some x) none).or (due.find? fun t => !t.store)

/-- The due entries of a quadrant's transit buffer served as its die is restored; `n` bounds their number (R429). -/
def State.serveDue (q : Nat) : Nat → State → State
  | 0, s => s
  | n + 1, s =>
    match restoredDue (s.mt (dieOfQuad q)) (s.quad q).transit with
    | none => s
    | some t => State.serveDue q n (s.transitServe q t)

/-- DIE_RESTORE (R428, R429): once the input has held 44 V for 10 ms, and 1 ms after the one before it, the die shed last serves its due
transit entries, and answers again, its pins fading from the next 1 ms instant on; with the last one the brown-out is over, without one as the input has 40 V again. -/
def execDieRestore (m : Nat) (s : State) : Host.Outcome State Fault Refusal :=
  let x := s.mod m
  match x.power with
  | .brownOut =>
    match x.shed.reverse with
    | [] => if 40 ≤ x.volts then .next (s.endBrownOut m) else .next s
    | k :: rest =>
      if !(x.heldAt.any fun t => t + 10000000 ≤ s.now) || s.now < x.shedAt + 1000000 then .next s
      else
      let die := dieAt m k
      let s := (s.updDie die fun d => { d with shed := false }).updMod m fun y =>
        { y with shed := rest.reverse, shedAt := s.now }
      let s := if rest.isEmpty then s.endBrownOut m else s
      .next ((List.range 4).foldl (fun (s : State) i =>
        let q := 4 * die + i
        State.serveDue q (s.quad q).transit.length (s.updQuad q fun y => { y with fadeAt := s.mt die / 1000000 })) s)
  | _ => .next s

end Sys2Proof.Machine
end

