-- ==== Sys2Proof/Machine/Manage.lean ====
section
/-!
DEFINITION. Host attachment and the management controller (16 R431–R443): the register block, host accesses, DMA windows, the
mailbox commands, configuration records, firmware activation, bring-up.
-/

namespace Sys2Proof.Machine

/-- A base or size of a DMA window: bits 47:12 of a write (R433). -/
def dmaField (v : Word) : Nat := v.toNat / 2 ^ 12 % 2 ^ 36 * 2 ^ 12

/-- DMA_WINDOW_WRITE (R433): a host write of the low or the high word of a window, which reaches it over the CXL link. -/
def execDmaWindowWrite (m w : Nat) (hi : Bool) (v : Word) (s : State) : Host.Outcome State Fault Refusal :=
  if 16 ≤ w || !(s.mod m).cxlUp then .next s
  else
    .next (s.updMod m fun x =>
      let d := mget ({} : DmaWin) w x.dma
      let d := if hi then { d with size := dmaField v } else { d with en := v.getLsbD 0, wr := v.getLsbD 1, base := dmaField v }
      { x with dma := mput w d x.dma })

/-- PWRLIM_WRITE (R435): a host write, over the CXL link; the limit is kept between 1,000 and 4,800 W. -/
def execPwrlimWrite (m : Nat) (v : Word) (s : State) : Host.Outcome State Fault Refusal :=
  if !(s.mod m).cxlUp then .next s
  else .next (s.updMod m fun x => { x with pwrlim := min 4800 (max 1000 (v.toNat % 2 ^ 13)) })

/-- A write of a word of a queue block (R365): fields other than `EN`, `TAIL` and `PREEMPT` only while `EN` = 0. -/
def State.queueWrite (s : State) (m q off : Nat) (v : Word) : State :=
  let x := s.queueOf m q
  let set := fun (y : HwQueue) => if x.en then s else s.setHwQueue m q y
  match off with
  | 0x00 =>
    let s := if v.getLsbD 12 then s.after (execPreemptWrite m q s) else s
    let y := if x.en then x
      else { x with part := v.extractLsb' 1 4, devok := v.getLsbD 5, sysok := v.getLsbD 6, log2 := v.extractLsb' 8 4 }
    let s := s.setHwQueue m q y
    s.after (execQueueEnable m q (v.getLsbD 0) s)
  | 0x08 => set { x with qaddr := v.extractLsb' 0 52, qdie := v.extractLsb' 52 12 }
  | 0x10 => set { x with root := v }
  | 0x18 => set { x with asid := v.setWidth 16 }
  | 0x20 => s.after (execTailDoorbell m q (v.setWidth 32) s)
  | 0x30 => set { x with svaddr := v.extractLsb' 0 52, svdie := v.extractLsb' 52 12 }
  | 0x38 => set { x with svsize := v }
  | _ => s

/-- A write of a word of the module register block (R432), by the host, over the CXL link, or by the management controller, whose writes
to `PWRLIM` and to the DMA windows are discarded. -/
def State.blockWrite (s : State) (host : Bool) (m off : Nat) (v : Word) : State :=
  if off % 8 != 0 || (host && !(s.mod m).cxlUp) || (!host && 0x4100 ≤ off) then s
  else if 0x1000 ≤ off && off < 0x1080 then s.after (execPmaskWrite m ((off - 0x1000) / 8) v s)
  else if 0x2000 ≤ off && off < 0x4000 then s.queueWrite m ((off - 0x2000) / 64) (off % 64) v
  else if off = 0x4000 then s.updMod m fun x => { x with dlAddr := v }
  else if off = 0x4008 then s.updMod m fun x => { x with dlCount := v.setWidth 9 }
  else if off = 0x4100 then s.after (execPwrlimWrite m v s)
  else if 0x4200 ≤ off && off < 0x4300 then s.after (execDmaWindowWrite m ((off - 0x4200) / 16) (off % 16 != 0) v s)
  else s

/-- A word of a queue block as the host reads it (R365). -/
def HwQueue.read (x : HwQueue) (off : Nat) : Word :=
  match off with
  | 0x00 => BitVec.ofNat 64 (x.en.toNat + x.part.toNat * 2 ^ 1 + x.devok.toNat * 2 ^ 5 + x.sysok.toNat * 2 ^ 6 + x.log2.toNat * 2 ^ 8)
  | 0x08 => (x.qdie ++ x.qaddr : BitVec 64)
  | 0x10 => x.root
  | 0x18 => x.asid.setWidth 64
  | 0x20 => x.tail.setWidth 64
  | 0x28 => (x.oldest ++ x.head : BitVec 64)
  | 0x30 => (x.svdie ++ x.svaddr : BitVec 64)
  | 0x38 => x.svsize
  | _ => 0

/-- A word of a DMA window as the host reads it (R433). -/
def DmaWin.read (d : DmaWin) (hi : Bool) : Word :=
  BitVec.ofNat 64 (if hi then d.size else d.base + d.en.toNat + d.wr.toNat * 2)

/-- A word of the module register block as the host reads it (R432); reserved offsets read as zero. What the mailbox block reads, whose
layout the spec does not give, is free (assumption log 123). -/
def State.blockRead (s : State) (m off : Nat) : Word :=
  let x := s.mod m
  if off % 8 != 0 then 0
  else if 0x1000 ≤ off && off < 0x1080 then mget 0 ((off - 0x1000) / 8) x.pmask
  else if 0x2000 ≤ off && off < 0x4000 then (s.queueOf m ((off - 0x2000) / 64)).read (off % 64)
  else if 0x5000 ≤ off && off < 0x6000 then BitVec.ofNat 64 (Config.freeNat (s.tick + off))
  else if 0x4200 ≤ off && off < 0x4300 then (mget ({} : DmaWin) ((off - 0x4200) / 16) x.dma).read (off % 16 != 0)
  else
    match off with
    | 0x00 => 0x0008
    | 0x08 => BitVec.ofNat 64 m
    | 0x10 => if x.recovery then 0 else x.fwVersion
    | 0x4000 => x.dlAddr
    | 0x4008 => x.dlCount.setWidth 64
    | 0x4100 => BitVec.ofNat 64 x.pwrlim
    | 0x4108 => BitVec.ofNat 64 (x.pwrTrip.toNat + x.pwrPower % 2 ^ 13 * 2)
    | _ => 0

/-- REGISTER_WRITE (R10, R88, R432): a system register of the context at hand, or a register of a module's block. -/
def execRegisterWrite (tgt : RegTarget) (v : Word) (s : State) : Host.Outcome State Fault Refusal :=
  match tgt with
  | .sys n =>
    match sysWrite n v s with
    | .ok s' => s'.out
    | .error t => .next (s.takePrecise t)
  | .bar0 host m off => (s.blockWrite host m off v).out

/-- Bytes written by the host at a home, and bytes that it reads there; none where a read waits. -/
def State.hostWrite (s : State) (key : Nat) (data : List Byte) : State :=
  ((lineParts (data.length + 1) key data.length).foldl (fun (p : State × List Byte) a =>
    (p.1.homeWrite a.1 (p.2.take a.2) false, p.2.drop a.2)) (s, data)).1

def State.hostRead (s : State) (key n : Nat) : Option (State × List Byte) :=
  (lineParts (n + 1) key n).foldl (fun (r : Option (State × List Byte)) a =>
    r.bind fun p => (p.1.homeRead a.1 a.2).map fun y => (y.1, p.2 ++ y.2.1)) (some (s, []))

/-- Where an access of the host goes, if it goes through: to near memory behind an HDM window, over the CXL link, while its die answers
(R431), or to the host's own memory. -/
def State.hostKey (s : State) (m : Nat) (w : HostSide) (off n : Nat) : Option Nat :=
  match w with
  | .own => if n != 0 && regionOf (2 ^ 48 + off + n - 1) == .host then some (keyOf m (2 ^ 48 + off)) else none
  | .hdm i =>
    match (s.mod m).hdm.find? fun x => x.1 == i with
    | none => none
    | some (_, x) =>
      if !(s.mod m).cxlUp || x.size < off + n || regionOf (x.pa + off) != .near || (s.die x.die).shed then none
      else some (keyOf x.die (x.pa + off))

/-- HOST_MEMORY_ACCESS (R387, R388, R431): a host access through an HDM window, or to the host's own memory, performed at its home; a read
returns its bytes. -/
def execHostMemoryAccess (m : Nat) (w : HostSide) (off : Nat) (write : Bool) (data : List Byte) (s : State) :
    Host.Outcome State Fault Refusal :=
  match s.hostKey m w off data.length with
  | none => .next s
  | some key =>
    if write then .next (s.hostWrite key data)
    else
      match s.hostRead key data.length with
      | none => .next s
      | some (s, bs) => .next (s.updMod m fun y => { y with reply := bs })

/-- CXL_LINK_DOWN (R434). -/
def execCxlLinkDown (m : Nat) (s : State) : Host.Outcome State Fault Refusal := .next (s.hostDown m)

/-- CXL_LINK_TRAIN (R431): the link of a module that has come up (R443), at most ×16 at 128 GT/s. -/
def execCxlLinkTrain (m lanes rate : Nat) (s : State) : Host.Outcome State Fault Refusal :=
  if (s.mod m).ready && 1 ≤ lanes && lanes ≤ 16 && 1 ≤ rate && rate ≤ 128 then
    .next (s.updMod m fun x => { x with cxlUp := true, cxlLanes := lanes, cxlRate := rate })
  else .next s

/-! The mailbox (R442) -/

/-- WRITE_RECORD (R440, R442): an invalid record is ignored with an event; a valid one is stored, and one of a higher sequence number than
any of its type applies, with all that it sets. -/
def execWriteRecord (m : Nat) (r : ConfigRecord) (s : State) : Host.Outcome State Fault Refusal :=
  s.mailbox m false fun s =>
    if !r.valid then .next (s.post m .recordIgnored [r.seq.toNat])
    else
      let newest := !((s.mod m).records.any fun x => x.kind = r.kind && r.seq.toNat ≤ x.seq.toNat)
      let s := s.updMod m fun x => { x with records := x.records ++ [r] }
      (if newest then s.applyRecord m r else s).out

/-- The firmware version word of an image (R432). -/
def versionWord (secVer imgVer : Nat) : Word := BitVec.ofNat 64 (secVer % 2 ^ 16 + imgVer % 2 ^ 32 * 2 ^ 32)

/-- Whether an image may run (R1, R441): both signatures verify, and its security version is not below the fused one. -/
def imageOk (m : Nat) (h : ImageHeader) : Bool := h.sigs.both && decide (Config.fusedVersion m ≤ h.secVer)

/-- WRITE_IMAGE (R441, R442): a chunk of the image, which is not pending any more; with the chunk that completes it the controller checks
the image, and marks it pending if it may run. -/
def execWriteImage (m off : Nat) (chunk : ImageChunk) (s : State) : Host.Outcome State Fault Refusal :=
  s.mailbox m true fun s =>
    let ok := chunk.check.any (imageOk m)
    .next (s.updMod m fun x =>
      { x with
        fw := ((List.range chunk.bytes.length).zip chunk.bytes).foldl (fun f p => mput (off + p.1) p.2 f) x.fw
        fwPending := ok, fwGood := ok, fwNext := (chunk.check.map fun h => versionWord h.secVer h.imgVer).getD x.fwNext })

/-- How long a reset of the controller lasts in ns: a free value of at most 2 s (R441). -/
def resetNs (tick : Nat) : Nat := Config.freeNat tick % 2000000001

/-- ACTIVATE (R1, R441, R442): of a pending image the controller resets itself, the ROM verifies the image again, and starts it, or else
its recovery loader. Without a pending image the command is refused; firmware that starts after the loader applies the configuration
records (assumption log 123). -/
def execActivate (m : Nat) (sigs : Signatures) (secVer imgVer : Nat) (s : State) : Host.Outcome State Fault Refusal :=
  s.mailbox m true fun s =>
    let x := s.mod m
    if !x.fwPending then .next (s.updMod m fun y => { y with mboxStatus := .refused })
    else
      let ok := imageOk m { sigs := sigs, secVer := secVer, imgVer := imgVer }
      let v := versionWord secVer imgVer
      let s := s.updMod m fun y =>
        { y with
          fwPending := false, fwReset := s.now + resetNs s.tick, recovery := !ok, fwGood := ok
          fwNext := v, fwVersion := if ok then v else 0 }
      (if ok && x.recovery then x.applying.foldl (State.applyRecord m) s else s).out

/-- The number of an event code in a log record (R437; assumption log 119). -/
def LogCode.num : LogCode → Nat
  | .linkDown => 0
  | .migration => 1
  | .disciplineLoss => 2
  | .maskConflict => 3
  | .tailIgnored => 4
  | .eventDropped => 5
  | .groupLate => 6
  | .recordIgnored => 7
  | .debugHalt => 8
  | .powerHalt => 9
  | .coldStart => 10
  | .coreRetired => 11
  | .brownOut => 12
  | .thermal => 13
  | .thermalClear => 14

/-- The 64 bytes of a record of the event log (R437). -/
def LogRec.bytes (r : LogRec) : List Byte :=
  bytesOfWord 8 r.mt ++ bytesOfNat 2 r.code.num ++ bytesOfNat 2 r.die.toNat ++ bytesOfNat 4 r.seq.toNat ++ r.data

/-- READ_LOG (R437, R442): the records from a sequence number on, which wraps, oldest first. -/
def execReadLog (m seq : Nat) (s : State) : Host.Outcome State Fault Refusal :=
  s.mailbox m false fun s =>
    .next (s.updMod m fun x =>
      { x with mbox := (x.log.filter fun r => (r.seq - BitVec.ofNat 32 seq).toNat < 2 ^ 31).reverse.flatMap fun r =>
          r.bytes.map BitVec.toNat })

/-- What a count of the lifetime record stands for, as numbers: the kind of thing, and which it is (R438). -/
def LifeKey.nums : LifeKey → List Nat
  | .vecErr k => [0, k]
  | .accErr k => [1, k]
  | .sramErr cl => [2, cl]
  | .sliceErr q => [3, q]
  | .hbmErr q => [4, q]
  | .farErr ch => [5, ch]
  | .scmErr ch => [6, ch]
  | .wear gib => [7, gib]
  | .retrain link => [8, link]
  | .temp die bin => [9, die, bin]

/-- What the lifetime record counts that no program shows (R436, R438): the time in each bin of a die's temperatures, and corrected
errors. How many there are of each since the record was last read is free (assumption log 125). -/
def hiddenCounts (m : Nat) : List LifeKey :=
  (moduleDies m).flatMap (fun d => (List.range 64).map fun b => LifeKey.temp d b) ++
  (moduleDies m).flatMap (fun d => (List.range 64).flatMap fun k => [LifeKey.vecErr (64 * d + k), LifeKey.accErr (64 * d + k)]) ++
  (moduleClusters m).map LifeKey.sramErr ++
  (moduleDies m).flatMap (fun d => (List.range 4).flatMap fun q =>
    [LifeKey.sliceErr (4 * d + q), LifeKey.hbmErr (4 * d + q), LifeKey.farErr (4 * d + q)]) ++
  (List.range 8).map LifeKey.scmErr

/-- The lifetime record with the counts that no program shows raised (R438). -/
def Lifetime.observe (m tick : Nat) (l : Lifetime) : Lifetime :=
  (hiddenCounts m).zipIdx.foldl (fun l k => l.add k.1 (Config.freeNat (tick + k.2))) l

/-- The ns that a cluster has spent in a converter ratio (R394, R438). -/
def State.ratioTime (s : State) (cl r : Nat) : Word :=
  let k := s.cluster cl
  satAdd 0 (mget 0 r k.ratioNs + if s.powered (cl / 8) && k.runStep / 8 = r then s.now - k.cycAt else 0)

/-- READ_LIFETIME (R438, R442): the halts with their drain durations, rollbacks, reruns and retired cores, the time of each cluster in each
ratio, and each other count with what it counts. -/
def execReadLifetime (m : Nat) (s : State) : Host.Outcome State Fault Refusal :=
  s.mailbox m false fun s =>
    let s := s.updMod m fun x => { x with life := x.life.observe m s.tick }
    let l := (s.mod m).life
    .next (s.updMod m fun x =>
      { x with mbox := [l.halts.toNat, l.drains.length] ++ l.drains ++ [l.rollbacks.toNat, l.reruns.toNat, l.retired.toNat] ++
          ((moduleClusters m).flatMap fun cl => (List.range 3).map fun r => (s.ratioTime cl r).toNat) ++
          l.counts.flatMap fun e => e.1.nums ++ [e.2.toNat] })

/-! Bring-up (R443) -/

/-- BRING_UP (R334, R335, R443): a first start, with the remap table at identity. The reserve charges, and the CXL link follows, at
RESERVE_READY. -/
def execBringUp (m : Nat) (mt : Option Nat) (s : State) : Host.Outcome State Fault Refusal :=
  match (s.mod m).power with
  | .off =>
    let s := (s.startUp m).identityRemap m
    ((s.lock m (s.lockTime m mt true 0)).restartClocks m).out
  | _ => .next s

end Sys2Proof.Machine
end

