-- ==== Sys2Proof/Machine/Agenda.lean ====
section
/-!
DEFINITION. What the machine may do next: the issue of a core, an internal event, a step of the outside world, or nothing
but time passing (assumption log 2, 3). An event listed here may turn out not to be due; then it does nothing.
-/

namespace Sys2Proof.Machine

/-- Whether a step is one of the outside world or of the hardware's own unforced acts, which `inputs` may name: errors, links,
power and temperature, the host, management and debug, early translation. -/
def fromOutside : Instr → Bool
  | .registerWrite (.bar0 ..) _ => true
  | .vectorEarlyWriteback .. => true
  | .pageWalk .. => true
  | .selectiveAck .. => true
  | .linkRetrain .. => true
  | .linkWidthChange .. => true
  | .linkMarkedDown .. => true
  | .multicastEntryWrite .. => true
  | .huddleCopyLoss .. => true
  | .externalReferenceChange .. => true
  | .sliceFill .. => true
  | .queueEnable .. => true
  | .tailDoorbell .. => true
  | .preemptWrite .. => true
  | .pmaskWrite .. => true
  | .currentLimiterTick .. => true
  | .powerMailboxWrite .. => true
  | .capAndBoostWrite .. => true
  | .thermalTrip .. => true
  | .thermalTripClear .. => true
  | .groupAnnouncement .. => true
  | .hbmTemperatureRead .. => true
  | .coolantLimit .. => true
  | .powerComparatorInterval .. => true
  | .scratchWordError .. => true
  | .tagArrayError .. => true
  | .mediaError .. => true
  | .registerFileError .. => true
  | .accumulatorRowError .. => true
  | .residueMismatch .. => true
  | .queueParityError .. => true
  | .brownOut .. => true
  | .dieRestore .. => true
  | .pwrHalt .. => true
  | .restart .. => true
  | .hostMemoryAccess .. => true
  | .cxlLinkDown .. => true
  | .cxlLinkTrain .. => true
  | .dmaWindowWrite .. => true
  | .pwrlimWrite .. => true
  | .writeImage .. => true
  | .activate .. => true
  | .writeRecord .. => true
  | .readLog .. => true
  | .readLifetime .. => true
  | .plainHalt .. => true
  | .quiescedHalt .. => true
  | .resume .. => true
  | .clearRetirement .. => true
  | .bringUp .. => true
  | _ => false

/-- The internal events: the rows of the table that the machine carries out by itself, with the identity of what acts. -/
inductive Event where
  | contextSwitch (core : Nat)
  | quantumExpiry (core : Nat)
  | streamingEntryStart (cx slot : Nat)
  | streamingWrite (cx i : Nat)
  | divideComplete (core : Nat)
  | trapEntry (cx : Nat)
  | retirementComplete (cx : Nat)
  | commandCompletion (id : Nat)
  | vectorFill (cx r : Nat)
  | disciplineLoss (die : Nat)
  | disciplineRegain (die : Nat)
  | plainHalt (core : Nat)
  | beat (cx : Nat)
  | kind1Fetch (cx : Nat)
  | conditionedOpPerform (cx slot : Nat)
  | bankSwitchComplete (cl : Nat)
  | copyBegin (cl ch : Nat)
  | ringSlotBind (cl ch : Nat)
  | copyComplete (cl ch : Nat)
  | playbookEntryStart (cl l : Nat)
  | rawaitReturn (cx : Nat)
  | weightStreamWrite (die eng : Nat)
  | benchArrival (die id : Nat)
  | holdThresholdPassed (die eng : Nat)
  | leaseGrant (die eng : Nat)
  | engineWakeEnd (die eng : Nat)
  | warmEngineSleep (die eng : Nat)
  | dcxDecode (die eng : Nat)
  | srtSort (die eng : Nat)
  | gsxGather (die eng : Nat)
  | gsxScatter (die eng : Nat)
  | smxSoftmax (die eng : Nat)
  | hshCrc32c (die eng : Nat)
  | hshSha3256 (die eng : Nat)
  | redReduce (die eng : Nat)
  | engineCommandComplete (die eng : Nat)
  | sliceFill (q line : Nat)
  | pinFadeTick (q : Nat)
  | remapCountUpdate (q : Nat)
  | swapLineExchange (q r : Nat)
  | drainComplete (cx : Nat)
  | persistComplete (cx : Nat)
  | remoteAccessAtHome (p : Nat)
  | storeAcknowledgement (p : Nat)
  | atomicReply (p : Nat)
  | selectiveAck (src dst base : Nat) (bits : BitVec 64)
  | retransmitTimeout (p : Nat)
  | huddleArrival (p : Nat)
  | replySplit (p : Nat)
  | atomicUnknownTimeout (p : Nat)
  | migrationCounterClear (q : Nat)
  | mtExchange (die : Nat)
  | transitAccept (p : Nat)
  | transitStorePerform (q : Nat)
  | ldnbDueRead (q : Nat)
  | waitaReread (cx : Nat)
  | recordAtHead (m q : Nat)
  | dependenceSatisfied (m q j : Nat)
  | schedulerPlacement (m : Nat)
  | ageingStep (l : Nat)
  | stopRuleTimeout (cx : Nat)
  | saveComplete (l : Nat)
  | launchCompletion (l : Nat)
  | watchdogExpiry (l : Nat)
  | arbiterInterval (cl : Nat)
  | moveComplete (cl : Nat)
  | groupAnnouncement (cl : Nat) (step : BitVec 5) (mtApply : Nat)
  | groupStepApply (cl : Nat)
  | dieShed (m : Nat)
  | pwrHalt (m : Nat) (cause : HaltCause)
  | reserveReady (m : Nat)
  | parkedRetry (p : Nat)
  | parkedTimeout (p : Nat)
  | quiescedHalt (core : Nat)
  deriving DecidableEq, Repr

/-- The meaning of an internal event: that of its row. -/
def Event.run (e : Event) (s : State) : Host.Outcome State Fault Refusal :=
  match e with
  | .contextSwitch core => execContextSwitch core s
  | .quantumExpiry core => execQuantumExpiry core s
  | .streamingEntryStart cx slot => execStreamingEntryStart cx slot s
  | .streamingWrite cx i => execStreamingWrite cx i s
  | .divideComplete core => execDivideComplete core s
  | .trapEntry cx => execTrapEntry cx s
  | .retirementComplete cx => execRetirementComplete cx s
  | .commandCompletion id => execCommandCompletion id s
  | .vectorFill cx r => execVectorFill cx r s
  | .disciplineLoss die => execDisciplineLoss die s
  | .disciplineRegain die => execDisciplineRegain die s
  | .plainHalt core => execPlainHalt (.core core) s
  | .beat cx => execBeat cx s
  | .kind1Fetch cx => execKind1Fetch cx s
  | .conditionedOpPerform cx slot => execConditionedOpPerform cx slot s
  | .bankSwitchComplete cl => execBankSwitchComplete cl s
  | .copyBegin cl ch => execCopyBegin cl ch s
  | .ringSlotBind cl ch => execRingSlotBind cl ch s
  | .copyComplete cl ch => execCopyComplete cl ch s
  | .playbookEntryStart cl l => execPlaybookEntryStart cl l s
  | .rawaitReturn cx => execRawaitReturn cx s
  | .weightStreamWrite die eng => execWeightStreamWrite die eng s
  | .benchArrival die id => execBenchArrival die id s
  | .holdThresholdPassed die eng => execHoldThresholdPassed die eng s
  | .leaseGrant die eng => execLeaseGrant die eng s
  | .engineWakeEnd die eng => execEngineWakeEnd die eng s
  | .warmEngineSleep die eng => execWarmEngineSleep die eng s
  | .dcxDecode die eng => execDcxDecode die eng s
  | .srtSort die eng => execSrtSort die eng s
  | .gsxGather die eng => execGsxGather die eng s
  | .gsxScatter die eng => execGsxScatter die eng s
  | .smxSoftmax die eng => execSmxSoftmax die eng s
  | .hshCrc32c die eng => execHshCrc32c die eng s
  | .hshSha3256 die eng => execHshSha3256 die eng s
  | .redReduce die eng => execRedReduce die eng s
  | .engineCommandComplete die eng => execEngineCommandComplete die eng s
  | .sliceFill q line => execSliceFill q line s
  | .pinFadeTick q => execPinFadeTick q s
  | .remapCountUpdate q => execRemapCountUpdate q s
  | .swapLineExchange q r => execSwapLineExchange q r s
  | .drainComplete cx => execDrainComplete cx s
  | .persistComplete cx => execPersistComplete cx s
  | .remoteAccessAtHome p => execRemoteAccessAtHome p s
  | .storeAcknowledgement p => execStoreAcknowledgement p s
  | .atomicReply p => execAtomicReply p s
  | .selectiveAck src dst base bits => execSelectiveAck src dst base bits s
  | .retransmitTimeout p => execRetransmitTimeout p s
  | .huddleArrival p => execHuddleArrival p s
  | .replySplit p => execReplySplit p s
  | .atomicUnknownTimeout p => execAtomicUnknownTimeout p s
  | .migrationCounterClear q => execMigrationCounterClear q s
  | .mtExchange die => execMtExchange die s
  | .transitAccept p => execTransitAccept p s
  | .transitStorePerform q => execTransitStorePerform q s
  | .ldnbDueRead q => execLdnbDueRead q s
  | .waitaReread cx => execWaitaReread cx s
  | .recordAtHead m q => execRecordAtHead m q s
  | .dependenceSatisfied m q j => execDependenceSatisfied m q j s
  | .schedulerPlacement m => execSchedulerPlacement m s
  | .ageingStep l => execAgeingStep l s
  | .stopRuleTimeout cx => execStopRuleTimeout cx s
  | .saveComplete l => execSaveComplete l s
  | .launchCompletion l => execLaunchCompletion l s
  | .watchdogExpiry l => execWatchdogExpiry l s
  | .arbiterInterval cl => execArbiterInterval cl s
  | .moveComplete cl => execMoveComplete cl s
  | .groupAnnouncement cl step mtApply => execGroupAnnouncement cl step mtApply s
  | .groupStepApply cl => execGroupStepApply cl s
  | .dieShed m => execDieShed m s
  | .pwrHalt m cause => execPwrHalt m cause s
  | .reserveReady m => execReserveReady m s
  | .parkedRetry p => execParkedRetry p s
  | .parkedTimeout p => execParkedTimeout p s
  | .quiescedHalt core => execQuiescedHalt (.core core) s

/-- What a step may be. -/
inductive Choice where
  | issue (cx : Nat)
  | event (e : Event)
  | input
  | pass
  deriving DecidableEq, Repr

/-- The cores that hold contexts. -/
def State.coreList (s : State) : List Nat := (s.ctxs.map fun p => coreOf p.1).eraseDups

/-- The streaming entries, writes and ends of a context. -/
def Ctx.events (cx : Nat) (c : Ctx) : List Event :=
  (if c.sfault.isEmpty then [] else [.trapEntry cx]) ++
  ([3, 4, 5, 6, 7].filter fun k => !(c.queue k).isEmpty).map (fun k => .streamingEntryStart cx k) ++
  (List.range c.outs.length).map (fun i => .streamingWrite cx i) ++
  (match (c.queue 3).head? with
   | none => []
   | some e =>
     (match e.phase with
      | .parked _ => [.conditionedOpPerform cx 3]
      | .watching => [.waitaReread cx]
      | _ => []) ++
     (match e.instr with
      | some (.drain ..) => [.drainComplete cx]
      | some (.stl ..) => [.drainComplete cx]
      | some (.persist ..) => [.persistComplete cx]
      | _ => [])) ++
  (if (c.queue 5).isEmpty then [] else [.kind1Fetch cx, .beat cx]) ++
  (if (c.queue 7).isEmpty then [] else [.rawaitReturn cx]) ++
  (if c.phase == .retiring then [.retirementComplete cx] else [])

/-- The events of a core, the fill that its fill path carries out next among them (R144). -/
def State.coreEvents (s : State) (k : Nat) : List Event :=
  let x := s.core k
  [.contextSwitch k] ++ (if x.hasRun then [.quantumExpiry k] else []) ++
    (if x.divider.isSome then [.divideComplete k] else []) ++ (if x.halt == .quiesced then [.quiescedHalt k] else []) ++
    (if x.halt == .pending then [.plainHalt k] else []) ++
    ((if x.fillq.isEmpty then none else s.nextFill k).map fun f => Event.vectorFill f.1 f.2).toList

/-- The events of a command (R71, R262). -/
def Command.events (id : Nat) (c : Command) : List Event :=
  .commandCompletion id ::
    match c.entry.instr with
    | some (.lease ..) => [.benchArrival (dieOf c.cx) id]
    | _ => []

/-- Whether an instant at a multiple of `period` ns has passed since the last one served. -/
def due (period now last : Nat) : Bool := last < now / period

/-- The events of a cluster; its arbiter works at the instants of R397. -/
def State.clusterEvents (s : State) (cl : Nat) : List Event :=
  let k := s.cluster cl
  (if k.bankq.isEmpty then [] else [.bankSwitchComplete cl]) ++
  (k.chans.filter fun p => !p.2.isEmpty).flatMap (fun p => [.copyBegin cl p.1, .ringSlotBind cl p.1, .copyComplete cl p.1]) ++
  k.plays.map (fun p => .playbookEntryStart cl p.1) ++
  (if k.move.isSome then [.moveComplete cl] else []) ++
  (if k.announced.isEmpty then [] else [.groupStepApply cl]) ++
  (if due 10000 (s.mt (cl / 8)) k.arbAt then [.arbiterInterval cl] else [])

/-- The clusters whose arbiters may have something to do: those listed, and those of the members of throttle groups. -/
def State.clusterIds (s : State) : List Nat :=
  (s.clusters.map Prod.fst ++ (s.dies.map fun d => d.1).flatMap dieClusters ++
    s.groups.flatMap fun g => g.2.dies.flatMap dieClusters).eraseDups

/-- The events of an engine (R258–R263), and those of the command at the head of its queue. -/
def Engine.events (d e : Nat) (x : Engine) : List Event :=
  (match x.st with
   | .reserved => [.leaseGrant d e]
   | .waking => [.engineWakeEnd d e]
   | .warm => [.warmEngineSleep d e]
   | .leased => [.holdThresholdPassed d e]
   | .aborting => []
   | .asleep => []) ++
  (if x.queue.isEmpty then []
   else .engineCommandComplete d e ::
     match engKind e with
     | 0 => [.weightStreamWrite d e, .dcxDecode d e]
     | 1 => [.srtSort d e]
     | 2 => [.gsxGather d e, .gsxScatter d e]
     | 3 => [.smxSoftmax d e]
     | 4 => [.hshCrc32c d e, .hshSha3256 d e]
     | _ => [.redReduce d e])

/-- The events of a die: its engines, the exchange of R335 every 62.5 µs, and what becomes of its discipline (R337). -/
def State.dieEvents (s : State) (d : Nat) (x : Die) : List Event :=
  (if due 62500 s.now x.exchAt then [.mtExchange d] else []) ++
  (if x.mtskew.getLsbD 0 then (if s.undisciplined d then [.disciplineLoss d] else [])
   else if x.within.isSome then [.disciplineRegain d] else []) ++ x.engines.flatMap fun e => e.2.events d e.1

/-- The events of a quadrant. -/
def State.quadEvents (s : State) (q : Nat) (x : Quad) : List Event :=
  let mt := s.mt (dieOfQuad q)
  x.wq.map (fun p => .sliceFill q p.1) ++
  (if due 1000000 mt x.fadeAt then [.pinFadeTick q] else []) ++
  (if due 1000000 mt x.countAt then [.remapCountUpdate q] else []) ++
  (if due 1000000 mt x.migAt then [.migrationCounterClear q] else []) ++
  x.swaps.map (fun p => .swapLineExchange q p.1) ++
  (if x.transit.isEmpty then [] else [.transitStorePerform q, .ldnbDueRead q])

/-- The events of a request in flight. -/
def Packet.events (p : Nat) (x : Packet) : List Event :=
  [.remoteAccessAtHome p, .storeAcknowledgement p, .atomicReply p, .huddleArrival p, .replySplit p, .transitAccept p,
    .parkedRetry p, .parkedTimeout p, .atomicUnknownTimeout p, .retransmitTimeout p] ++
    if x.acked then [] else [.selectiveAck x.die (flowId x.home x.kind) x.seq.toNat 1]

/-- The events of a module: its scheduler, its power, its shed dies. -/
def Module.events (now m : Nat) (x : Module) : List Event :=
  (x.queues.flatMap fun q =>
    .recordAtHead m q.1 :: if q.2.atHead.isSome then (List.range 4).map fun j => .dependenceSatisfied m q.1 j else []) ++
  (if x.dispatches then [.schedulerPlacement m] else []) ++
  (match x.power with
   | .halting c => [.pwrHalt m c]
   | .brownOut => .dieShed m :: if x.brownAt.any fun t => t + 1000000000 ≤ now then [.pwrHalt m .lowInput] else []
   | .up => if x.ready then [] else [.reserveReady m]
   | _ => [])

/-- The events of a launch. -/
def State.launchEvents (s : State) (id : Nat) (l : Launch) : List Event :=
  [.ageingStep id, .launchCompletion id] ++
    match l.st with
    | .bound => .watchdogExpiry id :: if (s.boundTo id).any fun cx => (s.ctx cx).moving then [.saveComplete id] else []
    | .preempting => .saveComplete id :: .watchdogExpiry id :: (s.boundTo id).map fun cx => .stopRuleTimeout cx
    | _ => []

/-- The announcements of throttle groups on their way (R399). -/
def ThrottleGroup.events (g : ThrottleGroup) : List Event :=
  g.anns.flatMap fun a => a.todo.map fun cl => .groupAnnouncement cl (BitVec.ofNat 5 a.step) a.apply

/-- Every internal event that may be due. -/
def State.events (s : State) : List Event :=
  s.ctxs.flatMap (fun p => p.2.events p.1) ++ s.coreList.flatMap s.coreEvents ++ s.cmds.flatMap (fun p => p.2.events p.1) ++
  s.clusterIds.flatMap s.clusterEvents ++ s.dies.flatMap (fun p => s.dieEvents p.1 p.2) ++
  s.quads.flatMap (fun p => s.quadEvents p.1 p.2) ++ s.net.flatMap (fun p => p.2.events p.1) ++
  s.mods.flatMap (fun p => p.2.events s.now p.1) ++ s.launches.flatMap (fun p => s.launchEvents p.1 p.2) ++
  s.groups.flatMap fun p => p.2.events

/-- What the next step may be: the issue of each core's running context, a step of the outside world, time passing, or an event. -/
def State.choices (s : State) : List Choice :=
  s.coreList.map (fun k => .issue (4 * k + (s.core k).running)) ++ (if s.inputs.isEmpty then [] else [.input]) ++ [.pass] ++
    s.events.map .event

/-- What the next step is: the schedule's number, or without one the tick, taken round the list (assumption log 2). -/
def State.choice (s : State) : Choice :=
  let l := s.choices
  l.getD ((s.sched.head?.getD s.tick) % l.length) .pass

/-- Whether a launch's watchdog counts: one of its contexts is bound or saving, and its module is not halted (R383). -/
def State.counting (s : State) (id : Nat) (l : Launch) : Bool :=
  !(s.boundTo id).isEmpty && match (s.mod l.m).power with
    | .up => true
    | .brownOut => true
    | _ => false

/-- Time passes by an amount of ns: the clocks advance, watchdogs count the meridian time down (R383), aborts end (R264), and what falls
due in a transit buffer is served (R358; assumption log 3). -/
def State.passTime (s : State) (ns : Nat) : State :=
  let t := { s with now := s.now + ns }
  let t := { t with
    launches := s.launches.map fun p =>
      (p.1, if s.counting p.1 p.2 then { p.2 with wdog := p.2.wdog.map (· - (t.modMt p.2.m - s.modMt p.2.m)) } else p.2)
    dies := mmap (fun (d : Die) => { d with engines := mmap (Engine.abortEnds t.now) d.engines }) s.dies }
  (s.quads.filter fun q => !q.2.transit.isEmpty).foldl (fun (s : State) q => State.serveTransit q.1 q.2.transit.length s) t

/-- The snapshots of checkpoint bundles that have come to their end (R410). -/
def State.snapshots (s : State) : State :=
  (s.ctxs.filter fun p => p.2.closing && s.ckptDone p.1).foldl (fun (s : State) p => s.takeSnapshot p.1) s

/-- What one step leaves to the hardware before the next: snapshots that are due (R410); and what it takes of the tapes and adds to the
clock. -/
def State.advance (s : State) : State :=
  { s.snapshots.passTime (s.delays.head?.getD 1) with tick := s.tick + 1, sched := s.sched.drop 1, delays := s.delays.drop 1 }

/-- The state in which a context issues: it is the one at hand. -/
def State.atHand (s : State) (cx : Nat) : State := { s with cur := { cx := cx } }

/-- The step that the outside world takes next, if `inputs` names one. -/
def State.nextInput (s : State) : Option Instr := s.inputs.head?.filter fromOutside

/-- The units of a parcel's bundle that issues once (R20, R21). -/
def unitsOfParcel (slot : Nat) (i : Instr) : List HUnit := unitsOfWord (BitVec.ofNat 32 (2 ^ slot)) ++ encodeUnits i

/-- The units of a table word: a template call, or a bundle of its own. -/
def unitsOfTable (nbits w : Nat) : List HUnit :=
  if nbits ≤ 16 then [BitVec.ofNat 16 w]
  else match tableParcel nbits w with
    | some (k, i) => unitsOfParcel k i
    | none => unitsOfWord 2 ++ unitsOfWord (BitVec.ofNat 32 w)

/-- Units placed from the start of bank 0. -/
def placeUnits (k : Nat) (m : Map HUnit) : List HUnit → Map HUnit
  | [] => m
  | u :: us => placeUnits (k + 1) (mset 0 k u m) us

/-- Context 0 of core 0 ready to issue the units at the start of bank 0, and nothing else chosen (assumption log 5). -/
def State.placed (s : State) (us : List HUnit) : State :=
  let k := s.core 0
  let c := s.ctx 0
  let s := s.setCore 0 { k.given with ibank := placeUnits 0 k.ibank us, running := 0, divider := none, halt := .none }
  { s.setCtx 0
      { c with
        phase := .running, launch := none, guard := none, pc := 0, mid := false, rcLeft := 0, decoded := none, skipS0 := false
        sfault := [], sticky := [], queues := [], frozen := false, energy := {} } with
    sched := 0 :: s.sched }

end Sys2Proof.Machine
end

