-- ==== Sys2Proof/Machine/Slots.lean ====
section
/-!
DEFINITION. The meaning of each instruction of the streaming slots S3–S7 issued alone: its entry is made and queued by the
shared operations of Stream and Commands, which carry out what its own definition there says.
-/

namespace Sys2Proof.Machine

/-- LD (R219): Load 1, 2, 4 or 8 bytes into a named register. -/
def execLd (g : Bool) (d base : Spec) (size : BitVec 2) (sx : Bool) (off : BitVec 9) (s : State) : Host.Outcome State Fault Refusal :=
  aloneStream 3 g (.ld g d base size sx off) s
/-- ST (R219): Store 1, 2, 4 or 8 bytes. -/
def execSt (g : Bool) (src base : Spec) (size : BitVec 2) (off : BitVec 9) (s : State) : Host.Outcome State Fault Refusal :=
  aloneStream 3 g (.st g src base size off) s
/-- LDA (R349): Load with acquire at the given scope. -/
def execLda (g : Bool) (d base : Spec) (size : BitVec 2) (sx : Bool) (scope : BitVec 3) (s : State) : Host.Outcome State Fault Refusal :=
  aloneStream 3 g (.lda g d base size sx scope) s
/-- STL (R350): Drain at the given scope, then store. -/
def execStl (g : Bool) (src base : Spec) (size : BitVec 2) (scope : BitVec 3) (s : State) : Host.Outcome State Fault Refusal :=
  aloneStream 3 g (.stl g src base size scope) s
/-- LDFE (R220): Wait for a FULL word, load it and make it EMPTY. -/
def execLdfe (g : Bool) (d base : Spec) (size : BitVec 2) (sx : Bool) (off : BitVec 9) (s : State) : Host.Outcome State Fault Refusal :=
  aloneStream 3 g (.ldfe g d base size sx off) s
/-- LDFF (R220): Wait for a FULL word and load it, leaving it FULL. -/
def execLdff (g : Bool) (d base : Spec) (size : BitVec 2) (sx : Bool) (off : BitVec 9) (s : State) : Host.Outcome State Fault Refusal :=
  aloneStream 3 g (.ldff g d base size sx off) s
/-- STEF (R220): Wait for an EMPTY word, store and make it FULL. -/
def execStef (g : Bool) (src base : Spec) (size : BitVec 2) (off : BitVec 9) (s : State) : Host.Outcome State Fault Refusal :=
  aloneStream 3 g (.stef g src base size off) s
/-- STFF (R220): Store and make the word FULL unconditionally. -/
def execStff (g : Bool) (src base : Spec) (size : BitVec 2) (off : BitVec 9) (s : State) : Host.Outcome State Fault Refusal :=
  aloneStream 3 g (.stff g src base size off) s
/-- FEINIT (R221): Set a run of scratch words EMPTY or FULL. -/
def execFeinit (g : Bool) (cnt base : Spec) (st : Bool) (s : State) : Host.Outcome State Fault Refusal :=
  aloneStream 3 g (.feinit g cnt base st) s
/-- VLD (R222): Load a 16-row tile into a vector register. -/
def execVld (g : Bool) (v base stride : Spec) (step : BitVec 6) (s : State) : Host.Outcome State Fault Refusal :=
  aloneStream 3 g (.vld g v base stride step) s
/-- VST (R222): Store a vector register as 16 rows. -/
def execVst (g : Bool) (v base stride : Spec) (step : BitVec 6) (s : State) : Host.Outcome State Fault Refusal :=
  aloneStream 3 g (.vst g v base stride step) s
/-- VLDW (R222): Wait until all 512 words are FULL, then load the tile. -/
def execVldw (g : Bool) (v base stride : Spec) (step : BitVec 6) (s : State) : Host.Outcome State Fault Refusal :=
  aloneStream 3 g (.vldw g v base stride step) s
/-- VSTF (R222): Store a tile and make each word FULL. -/
def execVstf (g : Bool) (v base stride : Spec) (step : BitVec 6) (s : State) : Host.Outcome State Fault Refusal :=
  aloneStream 3 g (.vstf g v base stride step) s
/-- LDNB (R357): Load not before a meridian time. -/
def execLdnb (g : Bool) (d base time : Spec) (size : BitVec 2) (strict : Bool) (s : State) : Host.Outcome State Fault Refusal :=
  aloneStream 3 g (.ldnb g d base time size strict) s
/-- STT (R357): Store in transit, performed at a meridian time. -/
def execStt (g : Bool) (src base time : Spec) (size : BitVec 2) (strict : Bool) (s : State) : Host.Outcome State Fault Refusal :=
  aloneStream 3 g (.stt g src base time size strict) s
/-- WAITA (R362): Wait until a memory word meets a condition against an expected value. -/
def execWaita (g : Bool) (d addr opd : Spec) (dbl : Bool) (cond : BitVec 4) (s : State) : Host.Outcome State Fault Refusal :=
  aloneStream 3 g (.waita g d addr opd dbl cond) s
/-- FENCE (R347): Order the context's die-homed accesses at a scope. -/
def execFence (g : Bool) (scope : BitVec 3) (s : State) : Host.Outcome State Fault Refusal :=
  aloneStream 3 g (.fence g scope) s
/-- DRAIN (R348): Hold issue until every earlier access is performed at a scope. -/
def execDrain (g : Bool) (scope : BitVec 3) (s : State) : Host.Outcome State Fault Refusal :=
  aloneStream 3 g (.drain g scope) s
/-- PERSIST (R310): Drain, then hold until covered SCM writes are persistent. -/
def execPersist (g : Bool) (scope : BitVec 3) (s : State) : Host.Outcome State Fault Refusal :=
  aloneStream 3 g (.persist g scope) s
/-- PREF (R309): Prefetch a line in the background without faulting. -/
def execPref (g : Bool) (hint : Bool) (base : Spec) (size : BitVec 2) (off : BitVec 9) (s : State) : Host.Outcome State Fault Refusal :=
  aloneStream 3 g (.pref g hint base size off) s
/-- CFLUSH (R224): Write back and invalidate a line of the cluster cache. -/
def execCflush (g : Bool) (base : Spec) (off : BitVec 9) (s : State) : Host.Outcome State Fault Refusal :=
  aloneStream 3 g (.cflush g base off) s
/-- AFADD (R330): Atomic fetch-and-add at home. -/
def execAfadd (g : Bool) (d addr opd : Spec) (dbl : Bool) (s : State) : Host.Outcome State Fault Refusal :=
  aloneStream 3 g (.afadd g d addr opd dbl) s
/-- AFADDF (R331): Add a floating-point operand exactly into an exact-sum cell. -/
def execAfaddf (g : Bool) (d addr opd : Spec) (size : BitVec 2) (s : State) : Host.Outcome State Fault Refusal :=
  aloneStream 3 g (.afaddf g d addr opd size) s
/-- AFMIN (R330): Atomic fetch-and-minimum, signed. -/
def execAfmin (g : Bool) (d addr opd : Spec) (dbl : Bool) (s : State) : Host.Outcome State Fault Refusal :=
  aloneStream 3 g (.afmin g d addr opd dbl) s
/-- AFMAX (R330): Atomic fetch-and-maximum, signed. -/
def execAfmax (g : Bool) (d addr opd : Spec) (dbl : Bool) (s : State) : Host.Outcome State Fault Refusal :=
  aloneStream 3 g (.afmax g d addr opd dbl) s
/-- AFAND (R330): Atomic fetch-and-AND. -/
def execAfand (g : Bool) (d addr opd : Spec) (dbl : Bool) (s : State) : Host.Outcome State Fault Refusal :=
  aloneStream 3 g (.afand g d addr opd dbl) s
/-- AFOR (R330): Atomic fetch-and-OR. -/
def execAfor (g : Bool) (d addr opd : Spec) (dbl : Bool) (s : State) : Host.Outcome State Fault Refusal :=
  aloneStream 3 g (.afor g d addr opd dbl) s
/-- AFXOR (R330): Atomic fetch-and-XOR. -/
def execAfxor (g : Bool) (d addr opd : Spec) (dbl : Bool) (s : State) : Host.Outcome State Fault Refusal :=
  aloneStream 3 g (.afxor g d addr opd dbl) s
/-- AXCHG (R330): Atomic exchange. -/
def execAxchg (g : Bool) (d addr opd : Spec) (dbl : Bool) (s : State) : Host.Outcome State Fault Refusal :=
  aloneStream 3 g (.axchg g d addr opd dbl) s
/-- ACAS (R330): Atomic compare-and-swap against the value in n[d]. -/
def execAcas (g : Bool) (d addr opd : Spec) (dbl : Bool) (s : State) : Host.Outcome State Fault Refusal :=
  aloneStream 3 g (.acas g d addr opd dbl) s
/-- FPUSH (R223): Push a 64-bit value into a FIFO bank. -/
def execFpush (g : Bool) (src : Spec) (fifo : BitVec 6) (s : State) : Host.Outcome State Fault Refusal :=
  aloneStream 3 g (.fpush g src fifo) s
/-- FPOP (R223): Pop the oldest FIFO entry into a named register. -/
def execFpop (g : Bool) (d : Spec) (fifo : BitVec 6) (s : State) : Host.Outcome State Fault Refusal :=
  aloneStream 3 g (.fpop g d fifo) s
/-- LDXS (R332): Read an exact-sum cell and round it to FP32. -/
def execLdxs (g : Bool) (d base : Spec) (sx : Bool) (off : BitVec 9) (s : State) : Host.Outcome State Fault Refusal :=
  aloneStream 3 g (.ldxs g d base sx off) s
/-- VADD (R150): Elementwise add. -/
def execVadd (g : Bool) (vd va vb : Spec) (ty : BitVec 4) (rm : BitVec 2) (s : State) : Host.Outcome State Fault Refusal :=
  aloneStream 4 g (.vadd g vd va vb ty rm) s
/-- VSUB (R150): Elementwise subtract. -/
def execVsub (g : Bool) (vd va vb : Spec) (ty : BitVec 4) (rm : BitVec 2) (s : State) : Host.Outcome State Fault Refusal :=
  aloneStream 4 g (.vsub g vd va vb ty rm) s
/-- VMUL (R150): Elementwise multiply. -/
def execVmul (g : Bool) (vd va vb : Spec) (ty : BitVec 4) (rm : BitVec 2) (s : State) : Host.Outcome State Fault Refusal :=
  aloneStream 4 g (.vmul g vd va vb ty rm) s
/-- VFMA (R150): Elementwise fused multiply-add into vd. -/
def execVfma (g : Bool) (vd va vb : Spec) (ty : BitVec 4) (rm : BitVec 2) (s : State) : Host.Outcome State Fault Refusal :=
  aloneStream 4 g (.vfma g vd va vb ty rm) s
/-- VMIN (R150): Elementwise minimum. -/
def execVmin (g : Bool) (vd va vb : Spec) (ty : BitVec 4) (s : State) : Host.Outcome State Fault Refusal :=
  aloneStream 4 g (.vmin g vd va vb ty) s
/-- VMAX (R150): Elementwise maximum. -/
def execVmax (g : Bool) (vd va vb : Spec) (ty : BitVec 4) (s : State) : Host.Outcome State Fault Refusal :=
  aloneStream 4 g (.vmax g vd va vb ty) s
/-- VABS (R150): Elementwise absolute value. -/
def execVabs (g : Bool) (vd va : Spec) (ty : BitVec 4) (rm : BitVec 2) (s : State) : Host.Outcome State Fault Refusal :=
  aloneStream 4 g (.vabs g vd va ty rm) s
/-- VNEG (R150): Elementwise negation. -/
def execVneg (g : Bool) (vd va : Spec) (ty : BitVec 4) (rm : BitVec 2) (s : State) : Host.Outcome State Fault Refusal :=
  aloneStream 4 g (.vneg g vd va ty rm) s
/-- VADDS (R150): Elementwise halved sum. -/
def execVadds (g : Bool) (vd va vb : Spec) (ty : BitVec 4) (rm : BitVec 2) (s : State) : Host.Outcome State Fault Refusal :=
  aloneStream 4 g (.vadds g vd va vb ty rm) s
/-- VSUBS (R150): Elementwise halved difference. -/
def execVsubs (g : Bool) (vd va vb : Spec) (ty : BitVec 4) (rm : BitVec 2) (s : State) : Host.Outcome State Fault Refusal :=
  aloneStream 4 g (.vsubs g vd va vb ty rm) s
/-- VMULH (R150): Elementwise high half of an integer product. -/
def execVmulh (g : Bool) (vd va vb : Spec) (ty : BitVec 4) (s : State) : Host.Outcome State Fault Refusal :=
  aloneStream 4 g (.vmulh g vd va vb ty) s
/-- VAND (R151): Bitwise AND of registers. -/
def execVand (g : Bool) (vd va vb : Spec) (ty : BitVec 4) (s : State) : Host.Outcome State Fault Refusal :=
  aloneStream 4 g (.vand g vd va vb ty) s
/-- VOR (R151): Bitwise OR of registers. -/
def execVor (g : Bool) (vd va vb : Spec) (ty : BitVec 4) (s : State) : Host.Outcome State Fault Refusal :=
  aloneStream 4 g (.vor g vd va vb ty) s
/-- VXOR (R151): Bitwise XOR of registers. -/
def execVxor (g : Bool) (vd va vb : Spec) (ty : BitVec 4) (s : State) : Host.Outcome State Fault Refusal :=
  aloneStream 4 g (.vxor g vd va vb ty) s
/-- VSHL (R151): Per-lane shift left. -/
def execVshl (g : Bool) (vd va vb : Spec) (ty : BitVec 4) (s : State) : Host.Outcome State Fault Refusal :=
  aloneStream 4 g (.vshl g vd va vb ty) s
/-- VSHR (R151): Per-lane logical shift right. -/
def execVshr (g : Bool) (vd va vb : Spec) (ty : BitVec 4) (s : State) : Host.Outcome State Fault Refusal :=
  aloneStream 4 g (.vshr g vd va vb ty) s
/-- VSAR (R151): Per-lane arithmetic shift right. -/
def execVsar (g : Bool) (vd va vb : Spec) (ty : BitVec 4) (s : State) : Host.Outcome State Fault Refusal :=
  aloneStream 4 g (.vsar g vd va vb ty) s
/-- VCMP (R152): Per-lane compare writing all ones or zeros. -/
def execVcmp (g : Bool) (vd va vb : Spec) (ty : BitVec 4) (cond : BitVec 2) (s : State) : Host.Outcome State Fault Refusal :=
  aloneStream 4 g (.vcmp g vd va vb ty cond) s
/-- VSEL (R153): Per-lane select by the sign bit of the old vd. -/
def execVsel (g : Bool) (vd va vb : Spec) (ty : BitVec 4) (s : State) : Host.Outcome State Fault Refusal :=
  aloneStream 4 g (.vsel g vd va vb ty) s
/-- VACS (R154): Add-compare-select on i16x2 lanes, writing VDEC. -/
def execVacs (g : Bool) (vd va vb : Spec) (s : State) : Host.Outcome State Fault Refusal :=
  aloneStream 4 g (.vacs g vd va vb) s
/-- VROTR (R156): Rotate columns within each row. -/
def execVrotr (g : Bool) (vd va n : Spec) (s : State) : Host.Outcome State Fault Refusal :=
  aloneStream 4 g (.vrotr g vd va n) s
/-- VROTC (R156): Rotate rows within each column. -/
def execVrotc (g : Bool) (vd va n : Spec) (s : State) : Host.Outcome State Fault Refusal :=
  aloneStream 4 g (.vrotc g vd va n) s
/-- VBCR (R156): Broadcast one row to all rows. -/
def execVbcr (g : Bool) (vd va n : Spec) (s : State) : Host.Outcome State Fault Refusal :=
  aloneStream 4 g (.vbcr g vd va n) s
/-- VBCC (R156): Broadcast one column to all columns. -/
def execVbcc (g : Bool) (vd va n : Spec) (s : State) : Host.Outcome State Fault Refusal :=
  aloneStream 4 g (.vbcc g vd va n) s
/-- VREDR (R161): Reduce each row by a fixed tree. -/
def execVredr (g : Bool) (vd va : Spec) (sat : Bool) (ty : BitVec 4) (kind : BitVec 2) (s : State) : Host.Outcome State Fault Refusal :=
  aloneStream 4 g (.vredr g vd va sat ty kind) s
/-- VREDC (R161): Reduce each column by a fixed tree. -/
def execVredc (g : Bool) (vd va : Spec) (sat : Bool) (ty : BitVec 4) (kind : BitVec 2) (s : State) : Host.Outcome State Fault Refusal :=
  aloneStream 4 g (.vredc g vd va sat ty kind) s
/-- VSHUF (R157): Permute lanes within each row by index. -/
def execVshuf (g : Bool) (vd va vb : Spec) (ty : BitVec 4) (s : State) : Host.Outcome State Fault Refusal :=
  aloneStream 4 g (.vshuf g vd va vb ty) s
/-- VTRN (R158): Transpose the four 16 × 16 blocks. -/
def execVtrn (g : Bool) (vd va : Spec) (s : State) : Host.Outcome State Fault Refusal :=
  aloneStream 4 g (.vtrn g vd va) s
/-- VMOV (R159): Copy a vector register. -/
def execVmov (g : Bool) (vd va : Spec) (s : State) : Host.Outcome State Fault Refusal :=
  aloneStream 4 g (.vmov g vd va) s
/-- VSPLAT (R159): Copy a scalar bit pattern into every lane. -/
def execVsplat (g : Bool) (vd src : Spec) (ty : BitVec 4) (s : State) : Host.Outcome State Fault Refusal :=
  aloneStream 4 g (.vsplat g vd src ty) s
/-- VINS (R160): Write one lane of vd from a scalar. -/
def execVins (g : Bool) (vd idx src : Spec) (ty : BitVec 4) (s : State) : Host.Outcome State Fault Refusal :=
  aloneStream 4 g (.vins g vd idx src ty) s
/-- VEXT (R160): Extract one lane into a named register. -/
def execVext (g : Bool) (d va idx : Spec) (ty : BitVec 4) (s : State) : Host.Outcome State Fault Refusal :=
  aloneStream 4 g (.vext g d va idx ty) s
/-- VIOTA (R159): Set each lane to its lane index. -/
def execViota (g : Bool) (vd : Spec) (ty : BitVec 4) (s : State) : Host.Outcome State Fault Refusal :=
  aloneStream 4 g (.viota g vd ty) s
/-- VCVT (R162): Convert lanes between types. -/
def execVcvt (g : Bool) (vd va : Spec) (dst ty : BitVec 4) (rm : BitVec 2) (s : State) : Host.Outcome State Fault Refusal :=
  aloneStream 4 g (.vcvt g vd va dst ty rm) s
/-- VDECMV (R155): Move 64 decision bits of VDEC into a named register. -/
def execVdecmv (g : Bool) (d row : Spec) (half : Bool) (s : State) : Host.Outcome State Fault Refusal :=
  aloneStream 4 g (.vdecmv g d row half) s
/-- VEXP2 (R166): Per-lane base-2 exponential by the reference algorithm. -/
def execVexp2 (g : Bool) (vd va : Spec) (s : State) : Host.Outcome State Fault Refusal :=
  aloneStream 4 g (.vexp2 g vd va) s
/-- VLOG2 (R167): Per-lane base-2 logarithm by the reference algorithm. -/
def execVlog2 (g : Bool) (vd va : Spec) (s : State) : Host.Outcome State Fault Refusal :=
  aloneStream 4 g (.vlog2 g vd va) s
/-- VRCP (R168): Per-lane reciprocal by the reference algorithm. -/
def execVrcp (g : Bool) (vd va : Spec) (s : State) : Host.Outcome State Fault Refusal :=
  aloneStream 4 g (.vrcp g vd va) s
/-- VRSQ (R169): Per-lane reciprocal square root by the reference algorithm. -/
def execVrsq (g : Bool) (vd va : Spec) (s : State) : Host.Outcome State Fault Refusal :=
  aloneStream 4 g (.vrsq g vd va) s
/-- MBEAT (R187): Queue a matrix beat with push, wload, wswap and out-action. -/
def execMbeat (g : Bool) (push : Bool) (kind : BitVec 2) (src : Spec) (out : BitVec 2) (bank : BitVec 3) (row : BitVec 7) (wload wswap : Bool) (s : State) : Host.Outcome State Fault Refusal :=
  aloneStream 5 g (.mbeat g push kind src out bank row wload wswap) s
/-- MWSEL (R188): Select a weight-buffer half, reset the row pointer and empty the other half. -/
def execMwsel (g : Bool) (h : Bool) (s : State) : Host.Outcome State Fault Refusal :=
  aloneStream 5 g (.mwsel g h) s
/-- MMODE (R189): Set the array's three formats when the pipeline is empty. -/
def execMmode (g : Bool) (afmt wfmt dfmt : BitVec 4) (s : State) : Host.Outcome State Fault Refusal :=
  aloneStream 5 g (.mmode g afmt wfmt dfmt) s
/-- AGET (R191): Read accumulator rows into a vector register, converting as cvt selects. -/
def execAget (g : Bool) (vd : Spec) (bank : BitVec 3) (row : BitVec 7) (cvt : BitVec 4) (rm : BitVec 2) (s : State) : Host.Outcome State Fault Refusal :=
  aloneStream 6 g (.aget g vd bank row cvt rm) s
/-- APUT (R191): Write eight accumulator rows from a vector register. -/
def execAput (g : Bool) (vd : Spec) (bank : BitVec 3) (row : BitVec 7) (cvt : BitVec 4) (s : State) : Host.Outcome State Fault Refusal :=
  aloneStream 6 g (.aput g vd bank row cvt) s
/-- APUTA (R191): Add a vector register into eight accumulator rows. -/
def execAputa (g : Bool) (vd : Spec) (bank : BitVec 3) (row : BitVec 7) (cvt : BitVec 4) (s : State) : Host.Outcome State Fault Refusal :=
  aloneStream 6 g (.aputa g vd bank row cvt) s
/-- ACLR (R191): Clear eight accumulator rows. -/
def execAclr (g : Bool) (bank : BitVec 3) (row : BitVec 7) (s : State) : Host.Outcome State Fault Refusal :=
  aloneStream 6 g (.aclr g bank row) s
/-- CPY (R251): Place a copy descriptor on a copy-engine channel. -/
def execCpy (g : Bool) (t : Tail) (desc : Spec) (ch : BitVec 4) (s : State) : Host.Outcome State Fault Refusal :=
  aloneCommand g (.cpy g t desc ch) s
/-- STAGE (R252): Add to the launch's stage counter in the cluster. -/
def execStage (g : Bool) (t : Tail) (inc : Spec) (s : State) : Host.Outcome State Fault Refusal :=
  aloneCommand g (.stage g t inc) s
/-- RINIT (R253): Set up a ring from a descriptor once no copy is bound to it. -/
def execRinit (g : Bool) (t : Tail) (desc cons : Spec) (ring : BitVec 5) (s : State) : Host.Outcome State Fault Refusal :=
  aloneCommand g (.rinit g t desc cons ring) s
/-- RAWAIT (R240): Wait for a filled ring slot and return its slot word. -/
def execRawait (g : Bool) (t : Tail) (d : Spec) (ring : BitVec 5) (s : State) : Host.Outcome State Fault Refusal :=
  aloneCommand g (.rawait g t d ring) s
/-- RREL (R240): Release a ring slot, freeing it when every consumer has released. -/
def execRrel (g : Bool) (t : Tail) (word : Spec) (ring : BitVec 5) (s : State) : Host.Outcome State Fault Refusal :=
  aloneCommand g (.rrel g t word ring) s
/-- LEASE (R275): Request an engine of a kind at a priority into a free lease slot. -/
def execLease (g : Bool) (t : Tail) (d : Spec) (kind : BitVec 3) (prio : BitVec 2) (s : State) : Host.Outcome State Fault Refusal :=
  aloneCommand g (.lease g t d kind prio) s
/-- LCMD (R276): Queue a command descriptor to a held lease. -/
def execLcmd (g : Bool) (t : Tail) (h desc : Spec) (s : State) : Host.Outcome State Fault Refusal :=
  aloneCommand g (.lcmd g t h desc) s
/-- UNLEASE (R277): End a lease after its commands, or free a lost slot. -/
def execUnlease (g : Bool) (t : Tail) (h : Spec) (s : State) : Host.Outcome State Fault Refusal :=
  aloneCommand g (.unlease g t h) s
/-- LWARM (R278): Register or withdraw a warm request for an engine kind. -/
def execLwarm (g : Bool) (t : Tail) (kind : BitVec 3) (keep : Bool) (s : State) : Host.Outcome State Fault Refusal :=
  aloneCommand g (.lwarm g t kind keep) s
/-- LAUNCH (R379): Add a launch record to a device queue. -/
def execLaunch (g : Bool) (t : Tail) (rec : Spec) (q : BitVec 7) (s : State) : Host.Outcome State Fault Refusal :=
  aloneCommand g (.launch g t rec q) s
/-- WSTR (R255): Hand a weight stream to a DCX lease to fill a weight-buffer half. -/
def execWstr (g : Bool) (t : Tail) (h sdesc : Spec) (half : Bool) (s : State) : Host.Outcome State Fault Refusal :=
  aloneCommand g (.wstr g t h sdesc half) s
/-- BANKCFG (R214): Switch a set of cluster banks to a new mode. -/
def execBankcfg (g : Bool) (t : Tail) (mask : Spec) (mode : BitVec 2) (s : State) : Host.Outcome State Fault Refusal :=
  aloneCommand g (.bankcfg g t mask mode) s
/-- TLOAD (R256): Load template entries into the context's window. -/
def execTload (g : Bool) (t : Tail) (src first : Spec) (count : BitVec 9) (s : State) : Host.Outcome State Fault Refusal :=
  aloneCommand g (.tload g t src first count) s
/-- PINWIN (R288): Pin a physical window into its slice. -/
def execPinwin (g : Bool) (t : Tail) (base size d : Spec) (s : State) : Host.Outcome State Fault Refusal :=
  aloneCommand g (.pinwin g t base size d) s
/-- UNPIN (R289): Release a pin named by its handle. -/
def execUnpin (g : Bool) (t : Tail) (h : Spec) (s : State) : Host.Outcome State Fault Refusal :=
  aloneCommand g (.unpin g t h) s
/-- SWAPPG (R293): Start a swap pair exchanging a far and a near granule. -/
def execSwappg (g : Bool) (t : Tail) (far near d : Spec) (s : State) : Host.Outcome State Fault Refusal :=
  aloneCommand g (.swappg g t far near d) s
/-- TLBINV (R307): Invalidate TLB and walk-cache entries by page, ASID or all. -/
def execTlbinv (g : Bool) (t : Tail) (va asid : Spec) (mode : BitVec 2) (s : State) : Host.Outcome State Fault Refusal :=
  aloneCommand g (.tlbinv g t va asid mode) s
/-- MAPWIN (R323): Replace a reduction window descriptor in every router of the domain. -/
def execMapwin (g : Bool) (t : Tail) (base size : Spec) (w : BitVec 4) (exact : Bool) (s : State) : Host.Outcome State Fault Refusal :=
  aloneCommand g (.mapwin g t base size w exact) s
/-- NOP_MEM (R44): No operation in S3, ending its stickiness. -/
def execNopMem (g : Bool) (s : State) : Host.Outcome State Fault Refusal := aloneNop 3 (.nopMem g) s
/-- NOP_VEC (R44): No operation in S4, ending its stickiness. -/
def execNopVec (g : Bool) (s : State) : Host.Outcome State Fault Refusal := aloneNop 4 (.nopVec g) s
/-- NOP_MX (R44): No operation in S5, ending its stickiness. -/
def execNopMx (g : Bool) (s : State) : Host.Outcome State Fault Refusal := aloneNop 5 (.nopMx g) s
/-- NOP_ACC (R44): No operation in S6, ending its stickiness. -/
def execNopAcc (g : Bool) (s : State) : Host.Outcome State Fault Refusal := aloneNop 6 (.nopAcc g) s
/-- NOP_ENG (R44): No operation in S7, ending its stickiness. -/
def execNopEng (g : Bool) (s : State) : Host.Outcome State Fault Refusal := aloneNop 7 (.nopEng g) s

end Sys2Proof.Machine
end

