-- ==== Sys2Proof/Machine/Dispatch.lean ====
section
/-!
DEFINITION. The meaning of every instruction: one arm per constructor.
-/

namespace Sys2Proof.Machine

def exec (i : Instr) (s : State) : Host.Outcome State Fault Refusal :=
  match i with
  | .fullBundle hdr words => Sys2Proof.Machine.execFullBundle hdr words s
  | .tcall index rc => Sys2Proof.Machine.execTcall index rc s
  | .contextSwitch core => Sys2Proof.Machine.execContextSwitch core s
  | .quantumExpiry core => Sys2Proof.Machine.execQuantumExpiry core s
  | .streamingEntryStart cx slot => Sys2Proof.Machine.execStreamingEntryStart cx slot s
  | .streamingWrite cx n => Sys2Proof.Machine.execStreamingWrite cx n s
  | .divideComplete core => Sys2Proof.Machine.execDivideComplete core s
  | .trapEntry cx => Sys2Proof.Machine.execTrapEntry cx s
  | .retirementComplete cx => Sys2Proof.Machine.execRetirementComplete cx s
  | .commandCompletion id => Sys2Proof.Machine.execCommandCompletion id s
  | .savebaseWrite v => Sys2Proof.Machine.execSavebaseWrite v s
  | .flagsWrite v => Sys2Proof.Machine.execFlagsWrite v s
  | .engfailWrite v => Sys2Proof.Machine.execEngfailWrite v s
  | .fpstatusWrite v => Sys2Proof.Machine.execFpstatusWrite v s
  | .pnWrite n v => Sys2Proof.Machine.execPnWrite n v s
  | .ewtableWrite v => Sys2Proof.Machine.execEwtableWrite v s
  | .registerWrite tgt v => Sys2Proof.Machine.execRegisterWrite tgt v s
  | .br g off => Sys2Proof.Machine.execBr g off s
  | .call g off => Sys2Proof.Machine.execCall g off s
  | .jmp g a => Sys2Proof.Machine.execJmp g a s
  | .ret g => Sys2Proof.Machine.execRet g s
  | .loop g a len => Sys2Proof.Machine.execLoop g a len s
  | .brx g u => Sys2Proof.Machine.execBrx g u s
  | .fencei g => Sys2Proof.Machine.execFencei g s
  | .waitf g mask => Sys2Proof.Machine.execWaitf g mask s
  | .peekf g mask => Sys2Proof.Machine.execPeekf g mask s
  | .setf g mask => Sys2Proof.Machine.execSetf g mask s
  | .clrf g mask => Sys2Proof.Machine.execClrf g mask s
  | .yield g => Sys2Proof.Machine.execYield g s
  | .exit g => Sys2Proof.Machine.execExit g s
  | .trap g n => Sys2Proof.Machine.execTrap g n s
  | .rft g => Sys2Proof.Machine.execRft g s
  | .mfs g sr d => Sys2Proof.Machine.execMfs g sr d s
  | .mts g sr a => Sys2Proof.Machine.execMts g sr a s
  | .bkpt g n => Sys2Proof.Machine.execBkpt g n s
  | .pwrreq g a => Sys2Proof.Machine.execPwrreq g a s
  | .await g n => Sys2Proof.Machine.execAwait g n s
  | .twait g a => Sys2Proof.Machine.execTwait g a s
  | .ckpt g => Sys2Proof.Machine.execCkpt g s
  | .nopCtl g => Sys2Proof.Machine.execNopCtl g s
  | .nopSa g => Sys2Proof.Machine.execNopSa g s
  | .nopSb g => Sys2Proof.Machine.execNopSb g s
  | .nopMem g => Sys2Proof.Machine.execNopMem g s
  | .nopVec g => Sys2Proof.Machine.execNopVec g s
  | .nopMx g => Sys2Proof.Machine.execNopMx g s
  | .nopAcc g => Sys2Proof.Machine.execNopAcc g s
  | .nopEng g => Sys2Proof.Machine.execNopEng g s
  | .add g d a b => Sys2Proof.Machine.execAdd g d a b s
  | .sub g d a b => Sys2Proof.Machine.execSub g d a b s
  | .addi g d a imm => Sys2Proof.Machine.execAddi g d a imm s
  | .mul g d a b => Sys2Proof.Machine.execMul g d a b s
  | .mulh g d a b => Sys2Proof.Machine.execMulh g d a b s
  | .mulhw g d a b => Sys2Proof.Machine.execMulhw g d a b s
  | .div g d a b => Sys2Proof.Machine.execDiv g d a b s
  | .divw g d a b => Sys2Proof.Machine.execDivw g d a b s
  | .rem g d a b => Sys2Proof.Machine.execRem g d a b s
  | .remw g d a b => Sys2Proof.Machine.execRemw g d a b s
  | .min g d a b => Sys2Proof.Machine.execMin g d a b s
  | .max g d a b => Sys2Proof.Machine.execMax g d a b s
  | .minw g d a b => Sys2Proof.Machine.execMinw g d a b s
  | .maxw g d a b => Sys2Proof.Machine.execMaxw g d a b s
  | .abs g d a => Sys2Proof.Machine.execAbs g d a s
  | .and g d a b => Sys2Proof.Machine.execAnd g d a b s
  | .or g d a b => Sys2Proof.Machine.execOr g d a b s
  | .xor g d a b => Sys2Proof.Machine.execXor g d a b s
  | .andn g d a b => Sys2Proof.Machine.execAndn g d a b s
  | .orn g d a b => Sys2Proof.Machine.execOrn g d a b s
  | .andi g d a imm => Sys2Proof.Machine.execAndi g d a imm s
  | .ori g d a imm => Sys2Proof.Machine.execOri g d a imm s
  | .xori g d a imm => Sys2Proof.Machine.execXori g d a imm s
  | .shl g d a b => Sys2Proof.Machine.execShl g d a b s
  | .shr g d a b => Sys2Proof.Machine.execShr g d a b s
  | .sar g d a b => Sys2Proof.Machine.execSar g d a b s
  | .rol g d a b => Sys2Proof.Machine.execRol g d a b s
  | .shli g d a f => Sys2Proof.Machine.execShli g d a f s
  | .shri g d a f => Sys2Proof.Machine.execShri g d a f s
  | .sari g d a f => Sys2Proof.Machine.execSari g d a f s
  | .roli g d a f => Sys2Proof.Machine.execRoli g d a f s
  | .ceq g d a b => Sys2Proof.Machine.execCeq g d a b s
  | .cne g d a b => Sys2Proof.Machine.execCne g d a b s
  | .clt g d a b => Sys2Proof.Machine.execClt g d a b s
  | .cle g d a b => Sys2Proof.Machine.execCle g d a b s
  | .cltw g d a b => Sys2Proof.Machine.execCltw g d a b s
  | .clew g d a b => Sys2Proof.Machine.execClew g d a b s
  | .ceqi g d a imm => Sys2Proof.Machine.execCeqi g d a imm s
  | .clti g d a imm => Sys2Proof.Machine.execClti g d a imm s
  | .clz g d a => Sys2Proof.Machine.execClz g d a s
  | .ctz g d a => Sys2Proof.Machine.execCtz g d a s
  | .popc g d a => Sys2Proof.Machine.execPopc g d a s
  | .brev g d a => Sys2Proof.Machine.execBrev g d a s
  | .bswap g d a => Sys2Proof.Machine.execBswap g d a s
  | .exts g d a len pos => Sys2Proof.Machine.execExts g d a len pos s
  | .extz g d a len pos => Sys2Proof.Machine.execExtz g d a len pos s
  | .ins g d a b c => Sys2Proof.Machine.execIns g d a b c s
  | .bperm g d a b c => Sys2Proof.Machine.execBperm g d a b c s
  | .bset g d a f => Sys2Proof.Machine.execBset g d a f s
  | .bclr g d a f => Sys2Proof.Machine.execBclr g d a f s
  | .btst g d a f => Sys2Proof.Machine.execBtst g d a f s
  | .bflip g d a f => Sys2Proof.Machine.execBflip g d a f s
  | .mov g d a => Sys2Proof.Machine.execMov g d a s
  | .movz g d h imm => Sys2Proof.Machine.execMovz g d h imm s
  | .movk g d h imm => Sys2Proof.Machine.execMovk g d h imm s
  | .sel g d a b c => Sys2Proof.Machine.execSel g d a b c s
  | .lea g d a b f => Sys2Proof.Machine.execLea g d a b f s
  | .fadd g d a b rm => Sys2Proof.Machine.execFadd g d a b rm s
  | .fsub g d a b rm => Sys2Proof.Machine.execFsub g d a b rm s
  | .fmul g d a b rm => Sys2Proof.Machine.execFmul g d a b rm s
  | .fma g d a b c => Sys2Proof.Machine.execFma g d a b c s
  | .fmin g d a b => Sys2Proof.Machine.execFmin g d a b s
  | .fmax g d a b => Sys2Proof.Machine.execFmax g d a b s
  | .fcmp g d a b cond => Sys2Proof.Machine.execFcmp g d a b cond s
  | .fcvtf g d a t rm => Sys2Proof.Machine.execFcvtf g d a t rm s
  | .fcvti g d a t rm => Sys2Proof.Machine.execFcvti g d a t rm s
  | .fabs g d a => Sys2Proof.Machine.execFabs g d a s
  | .fneg g d a => Sys2Proof.Machine.execFneg g d a s
  | .ld g d base size sx off => Sys2Proof.Machine.execLd g d base size sx off s
  | .st g src base size off => Sys2Proof.Machine.execSt g src base size off s
  | .lda g d base size sx scope => Sys2Proof.Machine.execLda g d base size sx scope s
  | .stl g src base size scope => Sys2Proof.Machine.execStl g src base size scope s
  | .ldfe g d base size sx off => Sys2Proof.Machine.execLdfe g d base size sx off s
  | .ldff g d base size sx off => Sys2Proof.Machine.execLdff g d base size sx off s
  | .stef g src base size off => Sys2Proof.Machine.execStef g src base size off s
  | .stff g src base size off => Sys2Proof.Machine.execStff g src base size off s
  | .feinit g cnt base st => Sys2Proof.Machine.execFeinit g cnt base st s
  | .vld g v base stride step => Sys2Proof.Machine.execVld g v base stride step s
  | .vst g v base stride step => Sys2Proof.Machine.execVst g v base stride step s
  | .vldw g v base stride step => Sys2Proof.Machine.execVldw g v base stride step s
  | .vstf g v base stride step => Sys2Proof.Machine.execVstf g v base stride step s
  | .ldnb g d base time size strict => Sys2Proof.Machine.execLdnb g d base time size strict s
  | .stt g src base time size strict => Sys2Proof.Machine.execStt g src base time size strict s
  | .waita g d addr opd dbl cond => Sys2Proof.Machine.execWaita g d addr opd dbl cond s
  | .fence g scope => Sys2Proof.Machine.execFence g scope s
  | .drain g scope => Sys2Proof.Machine.execDrain g scope s
  | .persist g scope => Sys2Proof.Machine.execPersist g scope s
  | .pref g hint base size off => Sys2Proof.Machine.execPref g hint base size off s
  | .cflush g base off => Sys2Proof.Machine.execCflush g base off s
  | .afadd g d addr opd dbl => Sys2Proof.Machine.execAfadd g d addr opd dbl s
  | .afaddf g d addr opd size => Sys2Proof.Machine.execAfaddf g d addr opd size s
  | .afmin g d addr opd dbl => Sys2Proof.Machine.execAfmin g d addr opd dbl s
  | .afmax g d addr opd dbl => Sys2Proof.Machine.execAfmax g d addr opd dbl s
  | .afand g d addr opd dbl => Sys2Proof.Machine.execAfand g d addr opd dbl s
  | .afor g d addr opd dbl => Sys2Proof.Machine.execAfor g d addr opd dbl s
  | .afxor g d addr opd dbl => Sys2Proof.Machine.execAfxor g d addr opd dbl s
  | .axchg g d addr opd dbl => Sys2Proof.Machine.execAxchg g d addr opd dbl s
  | .acas g d addr opd dbl => Sys2Proof.Machine.execAcas g d addr opd dbl s
  | .fpush g src fifo => Sys2Proof.Machine.execFpush g src fifo s
  | .fpop g d fifo => Sys2Proof.Machine.execFpop g d fifo s
  | .ldxs g d base sx off => Sys2Proof.Machine.execLdxs g d base sx off s
  | .vadd g vd va vb ty rm => Sys2Proof.Machine.execVadd g vd va vb ty rm s
  | .vsub g vd va vb ty rm => Sys2Proof.Machine.execVsub g vd va vb ty rm s
  | .vmul g vd va vb ty rm => Sys2Proof.Machine.execVmul g vd va vb ty rm s
  | .vfma g vd va vb ty rm => Sys2Proof.Machine.execVfma g vd va vb ty rm s
  | .vmin g vd va vb ty => Sys2Proof.Machine.execVmin g vd va vb ty s
  | .vmax g vd va vb ty => Sys2Proof.Machine.execVmax g vd va vb ty s
  | .vabs g vd va ty rm => Sys2Proof.Machine.execVabs g vd va ty rm s
  | .vneg g vd va ty rm => Sys2Proof.Machine.execVneg g vd va ty rm s
  | .vadds g vd va vb ty rm => Sys2Proof.Machine.execVadds g vd va vb ty rm s
  | .vsubs g vd va vb ty rm => Sys2Proof.Machine.execVsubs g vd va vb ty rm s
  | .vmulh g vd va vb ty => Sys2Proof.Machine.execVmulh g vd va vb ty s
  | .vand g vd va vb ty => Sys2Proof.Machine.execVand g vd va vb ty s
  | .vor g vd va vb ty => Sys2Proof.Machine.execVor g vd va vb ty s
  | .vxor g vd va vb ty => Sys2Proof.Machine.execVxor g vd va vb ty s
  | .vshl g vd va vb ty => Sys2Proof.Machine.execVshl g vd va vb ty s
  | .vshr g vd va vb ty => Sys2Proof.Machine.execVshr g vd va vb ty s
  | .vsar g vd va vb ty => Sys2Proof.Machine.execVsar g vd va vb ty s
  | .vcmp g vd va vb ty cond => Sys2Proof.Machine.execVcmp g vd va vb ty cond s
  | .vsel g vd va vb ty => Sys2Proof.Machine.execVsel g vd va vb ty s
  | .vacs g vd va vb => Sys2Proof.Machine.execVacs g vd va vb s
  | .vrotr g vd va n => Sys2Proof.Machine.execVrotr g vd va n s
  | .vrotc g vd va n => Sys2Proof.Machine.execVrotc g vd va n s
  | .vbcr g vd va n => Sys2Proof.Machine.execVbcr g vd va n s
  | .vbcc g vd va n => Sys2Proof.Machine.execVbcc g vd va n s
  | .vredr g vd va sat ty kind => Sys2Proof.Machine.execVredr g vd va sat ty kind s
  | .vredc g vd va sat ty kind => Sys2Proof.Machine.execVredc g vd va sat ty kind s
  | .vshuf g vd va vb ty => Sys2Proof.Machine.execVshuf g vd va vb ty s
  | .vtrn g vd va => Sys2Proof.Machine.execVtrn g vd va s
  | .vmov g vd va => Sys2Proof.Machine.execVmov g vd va s
  | .vsplat g vd src ty => Sys2Proof.Machine.execVsplat g vd src ty s
  | .vins g vd idx src ty => Sys2Proof.Machine.execVins g vd idx src ty s
  | .vext g d va idx ty => Sys2Proof.Machine.execVext g d va idx ty s
  | .viota g vd ty => Sys2Proof.Machine.execViota g vd ty s
  | .vcvt g vd va dst ty rm => Sys2Proof.Machine.execVcvt g vd va dst ty rm s
  | .vdecmv g d row half => Sys2Proof.Machine.execVdecmv g d row half s
  | .vexp2 g vd va => Sys2Proof.Machine.execVexp2 g vd va s
  | .vlog2 g vd va => Sys2Proof.Machine.execVlog2 g vd va s
  | .vrcp g vd va => Sys2Proof.Machine.execVrcp g vd va s
  | .vrsq g vd va => Sys2Proof.Machine.execVrsq g vd va s
  | .vectorFill cx r => Sys2Proof.Machine.execVectorFill cx r s
  | .vectorEarlyWriteback cx r => Sys2Proof.Machine.execVectorEarlyWriteback cx r s
  | .mbeat g push kind src out bank row wload wswap => Sys2Proof.Machine.execMbeat g push kind src out bank row wload wswap s
  | .mwsel g h => Sys2Proof.Machine.execMwsel g h s
  | .mmode g afmt wfmt dfmt => Sys2Proof.Machine.execMmode g afmt wfmt dfmt s
  | .beat cx => Sys2Proof.Machine.execBeat cx s
  | .kind1Fetch cx => Sys2Proof.Machine.execKind1Fetch cx s
  | .aget g vd bank row cvt rm => Sys2Proof.Machine.execAget g vd bank row cvt rm s
  | .aput g vd bank row cvt => Sys2Proof.Machine.execAput g vd bank row cvt s
  | .aputa g vd bank row cvt => Sys2Proof.Machine.execAputa g vd bank row cvt s
  | .aclr g bank row => Sys2Proof.Machine.execAclr g bank row s
  | .conditionedOpPerform cx slot => Sys2Proof.Machine.execConditionedOpPerform cx slot s
  | .cpy g t desc ch => Sys2Proof.Machine.execCpy g t desc ch s
  | .stage g t inc => Sys2Proof.Machine.execStage g t inc s
  | .rinit g t desc cons ring => Sys2Proof.Machine.execRinit g t desc cons ring s
  | .rawait g t d ring => Sys2Proof.Machine.execRawait g t d ring s
  | .rrel g t word ring => Sys2Proof.Machine.execRrel g t word ring s
  | .lease g t d kind prio => Sys2Proof.Machine.execLease g t d kind prio s
  | .lcmd g t h desc => Sys2Proof.Machine.execLcmd g t h desc s
  | .unlease g t h => Sys2Proof.Machine.execUnlease g t h s
  | .lwarm g t kind keep => Sys2Proof.Machine.execLwarm g t kind keep s
  | .launch g t rec q => Sys2Proof.Machine.execLaunch g t rec q s
  | .wstr g t h sdesc half => Sys2Proof.Machine.execWstr g t h sdesc half s
  | .bankcfg g t mask mode => Sys2Proof.Machine.execBankcfg g t mask mode s
  | .tload g t src first count => Sys2Proof.Machine.execTload g t src first count s
  | .pinwin g t base size d => Sys2Proof.Machine.execPinwin g t base size d s
  | .unpin g t h => Sys2Proof.Machine.execUnpin g t h s
  | .swappg g t far near d => Sys2Proof.Machine.execSwappg g t far near d s
  | .tlbinv g t va asid mode => Sys2Proof.Machine.execTlbinv g t va asid mode s
  | .mapwin g t base size w exact => Sys2Proof.Machine.execMapwin g t base size w exact s
  | .bankSwitchComplete cl => Sys2Proof.Machine.execBankSwitchComplete cl s
  | .copyBegin cl ch => Sys2Proof.Machine.execCopyBegin cl ch s
  | .ringSlotBind cl ch => Sys2Proof.Machine.execRingSlotBind cl ch s
  | .copyComplete cl ch => Sys2Proof.Machine.execCopyComplete cl ch s
  | .playbookEntryStart cl l => Sys2Proof.Machine.execPlaybookEntryStart cl l s
  | .rawaitReturn cx => Sys2Proof.Machine.execRawaitReturn cx s
  | .weightStreamWrite die eng => Sys2Proof.Machine.execWeightStreamWrite die eng s
  | .benchArrival die id => Sys2Proof.Machine.execBenchArrival die id s
  | .holdThresholdPassed die eng => Sys2Proof.Machine.execHoldThresholdPassed die eng s
  | .leaseGrant die eng => Sys2Proof.Machine.execLeaseGrant die eng s
  | .engineWakeEnd die eng => Sys2Proof.Machine.execEngineWakeEnd die eng s
  | .warmEngineSleep die eng => Sys2Proof.Machine.execWarmEngineSleep die eng s
  | .dcxDecode die eng => Sys2Proof.Machine.execDcxDecode die eng s
  | .srtSort die eng => Sys2Proof.Machine.execSrtSort die eng s
  | .gsxGather die eng => Sys2Proof.Machine.execGsxGather die eng s
  | .gsxScatter die eng => Sys2Proof.Machine.execGsxScatter die eng s
  | .smxSoftmax die eng => Sys2Proof.Machine.execSmxSoftmax die eng s
  | .hshCrc32c die eng => Sys2Proof.Machine.execHshCrc32c die eng s
  | .hshSha3256 die eng => Sys2Proof.Machine.execHshSha3256 die eng s
  | .redReduce die eng => Sys2Proof.Machine.execRedReduce die eng s
  | .engineCommandComplete die eng => Sys2Proof.Machine.execEngineCommandComplete die eng s
  | .sliceFill q line => Sys2Proof.Machine.execSliceFill q line s
  | .pinFadeTick q => Sys2Proof.Machine.execPinFadeTick q s
  | .remapCountUpdate q => Sys2Proof.Machine.execRemapCountUpdate q s
  | .swapLineExchange q r => Sys2Proof.Machine.execSwapLineExchange q r s
  | .pageWalk cx va kind => Sys2Proof.Machine.execPageWalk cx va kind s
  | .drainComplete cx => Sys2Proof.Machine.execDrainComplete cx s
  | .persistComplete cx => Sys2Proof.Machine.execPersistComplete cx s
  | .remoteAccessAtHome p => Sys2Proof.Machine.execRemoteAccessAtHome p s
  | .storeAcknowledgement p => Sys2Proof.Machine.execStoreAcknowledgement p s
  | .atomicReply p => Sys2Proof.Machine.execAtomicReply p s
  | .selectiveAck src dst base bits => Sys2Proof.Machine.execSelectiveAck src dst base bits s
  | .retransmitTimeout p => Sys2Proof.Machine.execRetransmitTimeout p s
  | .linkRetrain die port lanes => Sys2Proof.Machine.execLinkRetrain die port lanes s
  | .linkWidthChange die port lanes => Sys2Proof.Machine.execLinkWidthChange die port lanes s
  | .linkMarkedDown die port => Sys2Proof.Machine.execLinkMarkedDown die port s
  | .multicastEntryWrite die group ports => Sys2Proof.Machine.execMulticastEntryWrite die group ports s
  | .huddleArrival p => Sys2Proof.Machine.execHuddleArrival p s
  | .replySplit p => Sys2Proof.Machine.execReplySplit p s
  | .huddleCopyLoss die e rec => Sys2Proof.Machine.execHuddleCopyLoss die e rec s
  | .atomicUnknownTimeout p => Sys2Proof.Machine.execAtomicUnknownTimeout p s
  | .migrationCounterClear q => Sys2Proof.Machine.execMigrationCounterClear q s
  | .mtExchange die => Sys2Proof.Machine.execMtExchange die s
  | .disciplineLoss die => Sys2Proof.Machine.execDisciplineLoss die s
  | .disciplineRegain die => Sys2Proof.Machine.execDisciplineRegain die s
  | .transitAccept p => Sys2Proof.Machine.execTransitAccept p s
  | .transitStorePerform q => Sys2Proof.Machine.execTransitStorePerform q s
  | .ldnbDueRead q => Sys2Proof.Machine.execLdnbDueRead q s
  | .waitaReread cx => Sys2Proof.Machine.execWaitaReread cx s
  | .recordAtHead m q => Sys2Proof.Machine.execRecordAtHead m q s
  | .dependenceSatisfied m q j => Sys2Proof.Machine.execDependenceSatisfied m q j s
  | .schedulerPlacement m => Sys2Proof.Machine.execSchedulerPlacement m s
  | .ageingStep l => Sys2Proof.Machine.execAgeingStep l s
  | .stopRuleTimeout cx => Sys2Proof.Machine.execStopRuleTimeout cx s
  | .saveComplete l => Sys2Proof.Machine.execSaveComplete l s
  | .launchCompletion l => Sys2Proof.Machine.execLaunchCompletion l s
  | .watchdogExpiry l => Sys2Proof.Machine.execWatchdogExpiry l s
  | .queueEnable m q en => Sys2Proof.Machine.execQueueEnable m q en s
  | .tailDoorbell m q tail => Sys2Proof.Machine.execTailDoorbell m q tail s
  | .preemptWrite m q => Sys2Proof.Machine.execPreemptWrite m q s
  | .pmaskWrite m p v => Sys2Proof.Machine.execPmaskWrite m p v s
  | .currentLimiterTick cl sense => Sys2Proof.Machine.execCurrentLimiterTick cl sense s
  | .arbiterInterval cl => Sys2Proof.Machine.execArbiterInterval cl s
  | .moveComplete cl => Sys2Proof.Machine.execMoveComplete cl s
  | .powerMailboxWrite cl step => Sys2Proof.Machine.execPowerMailboxWrite cl step s
  | .thermalTrip die => Sys2Proof.Machine.execThermalTrip die s
  | .thermalTripClear die => Sys2Proof.Machine.execThermalTripClear die s
  | .groupAnnouncement cl step mtApply => Sys2Proof.Machine.execGroupAnnouncement cl step mtApply s
  | .groupStepApply cl => Sys2Proof.Machine.execGroupStepApply cl s
  | .hbmTemperatureRead q temp => Sys2Proof.Machine.execHbmTemperatureRead q temp s
  | .coolantLimit m c => Sys2Proof.Machine.execCoolantLimit m c s
  | .powerComparatorInterval m watts => Sys2Proof.Machine.execPowerComparatorInterval m watts s
  | .scratchWordError cl w => Sys2Proof.Machine.execScratchWordError cl w s
  | .tagArrayError cl w n => Sys2Proof.Machine.execTagArrayError cl w n s
  | .mediaError line => Sys2Proof.Machine.execMediaError line s
  | .registerFileError cx r => Sys2Proof.Machine.execRegisterFileError cx r s
  | .accumulatorRowError core row => Sys2Proof.Machine.execAccumulatorRowError core row s
  | .residueMismatch core => Sys2Proof.Machine.execResidueMismatch core s
  | .queueParityError cx slot => Sys2Proof.Machine.execQueueParityError cx slot s
  | .brownOut m volts => Sys2Proof.Machine.execBrownOut m volts s
  | .dieShed m => Sys2Proof.Machine.execDieShed m s
  | .dieRestore m => Sys2Proof.Machine.execDieRestore m s
  | .pwrHalt m cause => Sys2Proof.Machine.execPwrHalt m cause s
  | .restart m sealOk mt => Sys2Proof.Machine.execRestart m sealOk mt s
  | .reserveReady m => Sys2Proof.Machine.execReserveReady m s
  | .parkedRetry p => Sys2Proof.Machine.execParkedRetry p s
  | .parkedTimeout p => Sys2Proof.Machine.execParkedTimeout p s
  | .hostMemoryAccess m w off write data => Sys2Proof.Machine.execHostMemoryAccess m w off write data s
  | .cxlLinkDown m => Sys2Proof.Machine.execCxlLinkDown m s
  | .dmaWindowWrite m w hi v => Sys2Proof.Machine.execDmaWindowWrite m w hi v s
  | .pwrlimWrite m v => Sys2Proof.Machine.execPwrlimWrite m v s
  | .writeImage m off data => Sys2Proof.Machine.execWriteImage m off data s
  | .activate m sigs secVer imgVer => Sys2Proof.Machine.execActivate m sigs secVer imgVer s
  | .writeRecord m r => Sys2Proof.Machine.execWriteRecord m r s
  | .readLog m seq => Sys2Proof.Machine.execReadLog m seq s
  | .readLifetime m => Sys2Proof.Machine.execReadLifetime m s
  | .plainHalt core => Sys2Proof.Machine.execPlainHalt core s
  | .quiescedHalt core => Sys2Proof.Machine.execQuiescedHalt core s
  | .resume core => Sys2Proof.Machine.execResume core s
  | .clearRetirement core => Sys2Proof.Machine.execClearRetirement core s
  | .bringUp m mt => Sys2Proof.Machine.execBringUp m mt s
  | .capAndBoostWrite cl kind step => Sys2Proof.Machine.execCapAndBoostWrite cl kind step s
  | .externalReferenceChange present => Sys2Proof.Machine.execExternalReferenceChange present s
  | .cxlLinkTrain m lanes rate => Sys2Proof.Machine.execCxlLinkTrain m lanes rate s

end Sys2Proof.Machine
end

