-- ==== Sys2Proof/Machine/Step.lean ====
section
/-!
DEFINITION. One step of the machine: what is chosen (assumption log 2), its meaning, and the time it takes.
-/

namespace Sys2Proof.Machine

/-- The outcome of a chosen step, before time passes. -/
def State.act (s : State) : Choice → Host.Outcome State Fault Refusal
  | .issue cx => exec (s.fetch cx) (s.atHand cx)
  | .event e => e.run s
  | .input =>
    match s.nextInput with
    | some i => exec i { s with inputs := s.inputs.drop 1 }
    | none => .next { s with inputs := s.inputs.drop 1 }
  | .pass => .next s

/-- One step. An access of the hardware itself to memory that does not exist stops it (R281). -/
def step (s : State) : Host.Outcome State Fault Refusal :=
  match s.act s.choice with
  | .next s' => s'.advance.out
  | .fault r => .fault r
  | .refused r => .refused r

/-- The state with an instruction where the next step fetches it. -/
def State.withFetchWord (s : State) (nbits w : Nat) : State := s.placed (unitsOfTable nbits w)

end Sys2Proof.Machine
end

