-- ==== Sys2Proof/Safety.lean ====
section
/-!
DEFINITION. The terms that claims are stated in: what a context at hand reads, when its op runs, what a result does, what a
step leaves as it was, and the invariant of a safe run.
-/

namespace Sys2Proof.Machine

/-- The value of an operand specifier for the context at hand (R26). -/
abbrev State.opnd (s : State) (a : Spec) : Word := specVal s s.cur.cx a

/-- The context at hand. -/
abbrev State.here (s : State) : Ctx := s.ctx s.cur.cx

/-- An op of the context at hand runs: no operand is absent or poisoned, nothing else of R63 holds it, and the guard has not
turned it off. -/
abbrev State.runs (s : State) (g : Bool) (i : Instr) : Prop :=
  opHeld i s = false ∧ firstPoisoned s.here (srcSpecs i) = none ∧ (g && s.cur.off) = false

/-- An S0 op of the context at hand executes: it runs, its own condition does not hold it (R63, R80, R81), and no access to
absent memory has stopped the machine. -/
abbrev State.runs0 (s : State) (g : Bool) (i : Instr) : Prop := s.runs g i ∧ s0Waits i s = false ∧ s.bad = none

/-- A result pushed, written to its destination, its status bits set (R94, R108, R131). -/
def State.gives (s : State) (d : Spec) (v : Word) (st : Status) : State :=
  s.updCtx s.cur.cx fun c => ((c.push v).writeDest d v).orStatus st

/-- Where the op runs, it answers a next state that has its result: the value and the status that `f` names. -/
def Computes (i : Instr) (g : Bool) (d : Spec) (f : State → Word × Status) : Prop :=
  ∀ s : State, s.runs g i → exec i s = .next (s.gives d (f s).1 (f s).2)

/-- Where the op runs, it answers a next state that has as its result a value with the property `p`, and no status bit is set. -/
def Yields (i : Instr) (g : Bool) (d : Spec) (p : State → Word → Prop) : Prop :=
  ∀ s : State, s.runs g i → ∃ v, p s v ∧ exec i s = .next (s.gives d v stNone)

/-- An S1 or S2 op that computes (R94). -/
def isScalarOp (i : Instr) : Bool := (i.slots.contains 1 || i.slots.contains 2) && !isNop i

/-- The FP ops of S1 (R119), which may set `FPSTATUS`. -/
def isFloatOp : Instr → Bool
  | .fadd .. => true
  | .fsub .. => true
  | .fmul .. => true
  | .fma .. => true
  | .fmin .. => true
  | .fmax .. => true
  | .fcmp .. => true
  | .fcvtf .. => true
  | .fcvti .. => true
  | _ => false

/-- The guard bit of a parcel's instruction. -/
def gBitOf (i : Instr) : Bool := parcelG (encodeParcel i).1

/-- The first operand of an S1 or S2 op (R95): operand a, the old destination of `MOVK`, 0 for `MOVZ`. -/
def firstOperand (s : State) (i : Instr) : Word := ((srcSpecs i).head?.map s.opnd).getD 0

/-- Everything but one context is as it was: every other context, every other part of the domain, and so every byte of
memory. -/
def OnlyCtx (cx : Nat) (s t : State) : Prop :=
  t = { s with ctxs := t.ctxs } ∧ ∀ k, k ≠ cx → t.ctx k = s.ctx k

/-- Nothing of the context at hand is outstanding: its queues are empty, its streaming writes have taken effect, no request of
it is in flight, and it is in no guarded region; no access to absent memory has stopped the machine. -/
def State.calm (s : State) : Prop :=
  s.here.queues = [] ∧ s.here.outs = [] ∧ s.here.guard = none ∧ s.bad = none ∧ ∀ p ∈ s.net, p.2.cx ≠ s.cur.cx

/-- A streaming op of the context at hand issues (R67) with nothing outstanding before it: no operand is absent or poisoned
and the guard has not turned it off. -/
def State.streams (s : State) (slot : Nat) (g : Bool) (i : Instr) : Prop :=
  i.wf = true ∧ streamHeld slot i s = false ∧ firstPoisoned s.here (srcSpecs i) = none ∧ (g && s.cur.off) = false ∧ s.calm

/-- The context at hand after a repetition of a streaming op that leaves nothing outstanding: `f` is the op's own effect on it;
its slot's stickiness and cursors and the place in program order are those of R41–R44. -/
def State.streamed (s : State) (slot : Nat) (i : Instr) (f : Ctx → Ctx) : State :=
  s.updCtx s.cur.cx fun c =>
    { f c with
      sticky := if oneShot i then merase slot c.sticky else mput slot (parcelOf i) c.sticky
      cursors := s.stepCursors s.cur.cx slot i c.cursors
      ord := c.ord + 1 }

/-- A named register with the result of a streaming op in effect: its value, present, and poisoned or not (R69, R100). -/
def Ctx.takes (c : Ctx) (d : Spec) (v : Word) (poison : Bool) : Ctx :=
  let r := c.regs.put (namedIdx d) v
  c.setRegs { r with pois := if poison then r.pois ||| ((1 : BitVec 32) <<< namedIdx d) else r.pois }

/-- A vector register with the result of a streaming op in effect: its columns, present, valid and dirty, poisoned or not, and
the status bits set with it (R131, R140, R141, R144). -/
def Ctx.takesVec (c : Ctx) (vd : Spec) (v : Map W32) (poison : Bool) (st : Status) : Ctx :=
  { c.putVec vd.toNat v poison with vpres := c.vpres ||| ((1 : Word) <<< vd.toNat), fpstatus := c.fpstatus ||| st }

/-- The vector registers that an op reads hold valid copies without poison (R141, R144). -/
def State.vectorsReady (s : State) (i : Instr) : Prop :=
  ∀ v ∈ vReads i, s.here.vvalid.getLsbD v.toNat = true ∧ s.here.vpois.getLsbD v.toNat = false

/-- The values of the operands that an op captures at issue, in field order (R67). -/
def State.captured (s : State) (i : Instr) : List Word := (srcSpecs i).map s.opnd

/-- A streaming fault noted and not yet reported (R74): the op stands at the head of its queue, and its trap waits for the
end of the repetition. -/
def State.notes (s t : State) (slot : Nat) (tr : Trap) : Prop :=
  OnlyCtx s.cur.cx s t ∧ (∃ e, t.here.queue slot = [e] ∧ e.fault = true ∧ e.ord = s.here.ord) ∧
    t.here.sfault = s.here.sfault ++ [{ slot := slot, ord := s.here.ord, trap := { tr with slot := slot }, drop := false }] ∧
    t.here.phase = s.here.phase ∧ t.here.sys = s.here.sys ∧ t.here.v = s.here.v ∧ t.here.fpstatus = s.here.fpstatus ∧
    ∀ k, t.here.prog.get k = s.here.prog.get k ∧ t.here.shad.get k = s.here.shad.get k

/-- Where the S4 op issues with nothing outstanding and its registers ready, it answers a next state in which `vd` has columns
and the status bits are set that have the property `p`. -/
def VecYields (i : Instr) (g : Bool) (vd : Spec) (p : State → VReg → Status → Prop) : Prop :=
  ∀ s : State, s.streams 4 g i → s.vectorsReady i →
    ∃ v st, p s v st ∧ exec i s = .next (s.streamed 4 i fun c => c.takesVec vd v false st)

/-- Every lane of a register is that of `f`, and the status is that of all lanes together (R125, R139). -/
def LanesAre (ty : BitVec 4) (f : Nat → Nat × Status) (v : VReg) (st : Status) : Prop :=
  (∀ l < laneCount ty, v.lane ty l = (f l).1 % 2 ^ tyWidth ty) ∧
    ∀ b < 6, st.getLsbD b = true ↔ ∃ l < laneCount ty, (f l).2.getLsbD b = true

/-- An S4 op whose result is `f` lane by lane. -/
def LaneOp (i : Instr) (g : Bool) (vd : Spec) (ty : BitVec 4) (f : State → Nat → Nat × Status) : Prop :=
  VecYields i g vd fun s v st => LanesAre ty (f s) v st

/-- An S4 op whose result is `f` column by column, without status. -/
def ColumnOp (i : Instr) (g : Bool) (vd : Spec) (f : State → Nat → W32) : Prop :=
  VecYields i g vd fun s v st => st = stNone ∧ ∀ k < 1024, mget 0 k v = f s k

/-- The entry of a streaming op that issues now (R67). -/
abbrev State.entryNow (s : State) (slot : Nat) (i : Instr) : Entry := mkEntry s slot (parcelOf i) i false

/-- The op's entry stands at the head of its queue in a phase, and of memory and the context nothing else has changed than its
issue changes (R67, R69). -/
def State.standsAt (s t : State) (slot : Nat) (i : Instr) (ph : EntryPhase) : Prop :=
  (∃ e, t.here.queue slot = [e] ∧ e.phase = ph ∧ e.fault = false ∧ e.vals = s.captured i ∧ e.ord = s.here.ord) ∧
    t.mem = s.mem ∧ t.here.phase = s.here.phase ∧ t.here.sys = s.here.sys ∧ t.here.sfault = s.here.sfault ∧ t.here.v = s.here.v ∧
    t.here.ord = s.here.ord + 1 ∧ ∀ k, t.here.prog.get k = s.here.prog.get k ∧ t.here.shad.get k = s.here.shad.get k

/-- A destination that may be push only, which a streaming op leaves alone (R27, R330). -/
def Ctx.takesIf (c : Ctx) (d : Spec) (v : Word) : Ctx := if d = 0 then c else c.takes d v false

/-- The access of a piece stays on the die: no grant refuses it (R434), and no other die homes it (R317). -/
def State.reaches (s : State) (cx : Nat) (cached load : Bool) (p : Piece) : Prop :=
  s.refused cx (!load) p = false ∧ s.remotePiece cx cached load p = false

/-- Nothing that waits in the cluster's waiter table is to be chosen ahead of an op of the context at hand (R209, R213). -/
def State.unwaited (s : State) : Prop := ∀ w ∈ s.waiters (clusterOf s.cur.cx), w.holds = false

/-- An S7 command of the context at hand issues (R67) with nothing outstanding before it, and every token it consumes is
complete (R71). -/
def State.commands (s : State) (g : Bool) (i : Instr) (t : Tail) : Prop :=
  s.streams 7 g i ∧ tailFields i = some t ∧ ∀ k ∈ [t.c1, t.c2, t.c3], s.here.tok k = .complete

/-- The context at hand after an S7 command has started: its token is pending; `f` is what the start does to it besides. -/
def State.begun (s : State) (i : Instr) (t : Tail) (f : Ctx → Ctx) : State :=
  s.streamed 7 i fun c => f (c.makeToken t.prod s.here.ord)

/-- The entry of an S7 command that issues now, with what it notes of the tokens that it consumes (R71, R310). -/
abbrev State.cmdNow (s : State) (i : Instr) : Entry := s.here.captureTokens i (s.entryNow 7 i)

/-- An S7 command started and in progress under the next number (R71); `f` is what the start does to its context, and `h` what
it notes with the command. -/
def State.commanded (s : State) (i : Instr) (t : Tail) (f : Ctx → Ctx) (h : Command → Command) : State :=
  ((s.begun i t f).newCmd (h { cx := s.cur.cx, cl := clusterOf s.cur.cx, entry := s.cmdNow i })).1

/-- An S7 command that started and ended at once, its number spent (R71). -/
def State.endedAtOnce (s : State) (i : Instr) (t : Tail) (f : Ctx → Ctx) : State :=
  { s.begun i t f with cmds := merase s.nextCmd s.cmds, nextCmd := s.nextCmd + 1 }

/-- A command in progress ended, with what its end does to its context (R71). -/
def State.ended (s : State) (id : Nat) (c : Command) (f : Ctx → Ctx) : State :=
  { s with cmds := merase id s.cmds }.updCtx c.cx f

/-- An engine of a kind is about to run the command `id` at the head of its queue: its descriptor, read as `bs`, names function
`func` and keeps what R266 and R267 ask of every descriptor. -/
def State.engineRuns (s : State) (die eng kind func id : Nat) (c : Command) (s1 : State) (bs : List Byte) : Prop :=
  s.engHead die eng = some (id, c) ∧ c.isWstr = false ∧ engKind eng = kind ∧ c.begun = false ∧ c.fail = none ∧
    (∃ p, s.agentRead (s.cmdAgent c .scratch) c.descAddr1 128 = .ok (s1, bs, p)) ∧ bytesNum bs 0 1 = kind ∧ bytesNum bs 1 1 = func ∧
    bytesZero bs 2 8 = true ∧ bytesNum bs 8 8 % 8 = 0

/-- A command of an engine has run: its `RESULT`, poisoned or not, is noted, to be written when it completes (R264, R266). -/
def State.engineRan (s : State) (id : Nat) (bs : List Byte) (result : Word) (poison : Bool := false) : State :=
  s.updCmd id fun c => { c with begun := true, desc := bs, parked := none, result := some (result, poison) }

/-- The pending lease requests of a context have been withdrawn (R83, R265): each has left its bench and its lease slot, and its
command has failed as R92 and R261 say of a request withdrawn. -/
def State.leasesWithdrawn (s t : State) (cx : Nat) : Prop :=
  ∀ id c tl, s.cmd id = some c → c.cx = cx → c.area = none → c.play = none → c.isLease = true → c.entry.instr.bind tailFields = some tl →
    (∀ k < 96, ¬((s.engine (dieOf cx) k).granted = true ∧ (s.engine (dieOf cx) k).req = id)) →
    let slot := (c.bound.map fun b => b.1).getD 0
    t.cmd id = none ∧ (∀ b, id ∉ mget [] b (t.die (dieOf cx)).benches) ∧
      mget {} slot (t.ctx cx).leases = { serial := (mget {} slot (s.ctx cx).leases).serial } ∧
      (tl.prod ≠ 0 → mget 0 tl.prod.toNat (s.ctx cx).tokOf = c.entry.ord → (s.ctx cx).tok tl.prod = .pending →
        (t.ctx cx).tok tl.prod = .failed) ∧
      (tl.fen = true → (t.ctx cx).flags.getLsbD tl.fnum.toNat = true ∧ (t.ctx cx).engfail.getLsbD tl.fnum.toNat = true) ∧
      (t.ctx cx).engrec = true ∧ ((s.ctx cx).engrec = false → (t.ctx cx).engfail.extractLsb' 25 2 = 3)

/-- What a write of `SAVEBASE` with `v` leaves (R102, R145): each register that is valid and dirty stands at its place of the old save
area, no other byte of memory has changed, every slot is invalid, and `SAVEBASE` is `v` without its reserved bits. -/
def State.rebased (s t : State) (v : Word) : Prop :=
  let c := s.here
  let dirty := fun (r : Nat) => c.vvalid.getLsbD r = true ∧ c.vdirty.getLsbD r = true
  let key := fun (r : Nat) => areaKey c.savebase + 4096 * r
  t = { s with mem := t.mem, mpoison := t.mpoison, quads := t.quads, ctxs := t.ctxs } ∧ (∀ k, k ≠ s.cur.cx → t.ctx k = s.ctx k) ∧
    t.here = { c with vvalid := 0, vdirty := 0, savebase := v &&& ~~~0xFFFFF } ∧
    (∀ r < 64, dirty r → ∀ k < 1024, t.bytes (key r + 4 * k) 4 = bytesOfNat 4 (mget 0 k (mget [] r c.v)).toNat) ∧
    ∀ a, (∀ r < 64, dirty r → a < key r ∨ key r + 4096 ≤ a) → t.byte a = s.byte a

/-- The save area of the context at hand takes its dirty registers: it is populated, a host area is granted (R434), and no granule of it
has moved in the remap table (R290). -/
def State.areaTakes (s : State) : Prop :=
  ∀ r < 64, s.here.vvalid.getLsbD r = true → s.here.vdirty.getLsbD r = true →
    let key := areaKey s.here.savebase + 4096 * r
    populated key = true ∧ s.granted true key 4096 = true ∧ ∀ i < 4096, s.remapOff (key + i) = none

/-- The context at hand issues repetitions of a bundle of header `h` (R23, R63, R64): the guard register is present and not poisoned, it
is in no guarded region, no `DRAIN` is in progress, no stall is due (R391), the selector does not leave it (R65), and no access to absent
memory has stopped the machine. -/
def State.mayRun (s : State) (h : W32) : Prop :=
  s.mayIssue s.cur.cx = true ∧ s.mustSwitch (coreOf s.cur.cx) = false ∧ s.bad = none ∧ s.here.guard = none ∧ s.here.draining = false ∧
    s.here.regs.pres.getLsbD (h.extractLsb' 17 5).toNat = true ∧ s.here.regs.pois.getLsbD (h.extractLsb' 17 5).toNat = false ∧
    s.here.energy.stallDue (grantOf (s.core (coreOf s.cur.cx)).bfw (s.cluster (clusterOf s.cur.cx)).limit)
      ((s.core (coreOf s.cur.cx)).weight h) = false

/-- The context at hand issues bundles of header `h` that no guard governs (R23): no slot is sticky (R43) and it is at the first
repetition of a bundle. -/
def State.issues (s : State) (h : W32) : Prop :=
  s.mayRun h ∧ s.here.sticky = [] ∧ s.here.mid = false ∧ h.extractLsb' 16 12 = 0

/-- What one repetition of a bundle of header `h` counts for the context at hand (R45, R391): its weight, one issue, the quantum
running. -/
def State.counted (u : State) (h : W32) : State :=
  let k := coreOf u.cur.cx
  (u.updCtx u.cur.cx fun c =>
    { c with energy := c.energy.push ((u.core k).weight h) false, rcount := c.rcount + 1, skipS0 := false }).updCore k fun y =>
      if y.hasRun then y else { y with hasRun := true, quantum := u.millis (clusterOf u.cur.cx) }

/-- What follows a repetition of a bundle without an S0 op whose ops left `u` (R45, R79): what it counts, and the repetitions left,
for which the bundle stays decoded as `b` (R50), or the next bundle. -/
def State.repeated (u : State) (b : Decoded) (h : W32) (nxt left : Nat) : State :=
  (u.counted h).updCtx u.cur.cx fun c =>
    if left = 0 then c.fallThrough nxt else { c with mid := true, rcLeft := left - 1, decoded := some b }

end Sys2Proof.Machine
end

