-- ==== Sys2Proof/Certificates/Slice0/Obligations.lean ====
section
/-!
DEFINITION. The statements for the provers: what each instruction of the table does, when it does it, and what it leaves
alone; that the decoder reads what the encoder writes; that a step carries out the decoded instruction; what holds at reset
and at every step.
-/

open Sys2Proof Sys2Proof.Machine

/-- R109, R94, R99, R108: integer arithmetic pushes its result and writes its destination. -/
def Obligations.IntegerArithmetic : Prop :=
  ∀ (g : Bool) (d a b : Spec) (imm : BitVec 12),
    Computes (.add g d a b) g d (fun s => (s.opnd a + s.opnd b, stNone)) ∧
    Computes (.sub g d a b) g d (fun s => (s.opnd a - s.opnd b, stNone)) ∧
    Computes (.addi g d a imm) g d (fun s => (s.opnd a + imm.signExtend 64, stNone)) ∧
    Computes (.mul g d a b) g d (fun s => (BitVec.ofNat 64 ((s.opnd a).toNat * (s.opnd b).toNat), stNone)) ∧
    Computes (.mulh g d a b) g d (fun s => (BitVec.ofInt 64 ((s.opnd a).toInt * (s.opnd b).toInt / (2 : Int) ^ 64), stNone)) ∧
    Computes (.mulhw g d a b) g d (fun s => (BitVec.ofNat 64 ((s.opnd a).toNat * (s.opnd b).toNat / 2 ^ 64), stNone)) ∧
    Computes (.min g d a b) g d (fun s => (if (s.opnd a).toInt ≤ (s.opnd b).toInt then s.opnd a else s.opnd b, stNone)) ∧
    Computes (.max g d a b) g d (fun s => (if (s.opnd a).toInt ≥ (s.opnd b).toInt then s.opnd a else s.opnd b, stNone)) ∧
    Computes (.minw g d a b) g d (fun s => (if (s.opnd a).toNat ≤ (s.opnd b).toNat then s.opnd a else s.opnd b, stNone)) ∧
    Computes (.maxw g d a b) g d (fun s => (if (s.opnd a).toNat ≥ (s.opnd b).toNat then s.opnd a else s.opnd b, stNone)) ∧
    Computes (.abs g d a) g d (fun s => (if (s.opnd a).toInt < 0 then -(s.opnd a) else s.opnd a, stNone)) ∧
    encodeParcel (.add g d a b) = (pk g 0x01#7 (d ++ a ++ b ++ 0#6), 0) ∧
    encodeParcel (.sub g d a b) = (pk g 0x02#7 (d ++ a ++ b ++ 0#6), 0) ∧
    encodeParcel (.addi g d a imm) = (pk g 0x03#7 (d ++ a ++ imm), 0) ∧
    encodeParcel (.mul g d a b) = (pk g 0x04#7 (d ++ a ++ b ++ 0#6), 0) ∧
    encodeParcel (.mulh g d a b) = (pk g 0x05#7 (d ++ a ++ b ++ 0#6), 0) ∧
    encodeParcel (.mulhw g d a b) = (pk g 0x06#7 (d ++ a ++ b ++ 0#6), 0) ∧
    encodeParcel (.min g d a b) = (pk g 0x0B#7 (d ++ a ++ b ++ 0#6), 0) ∧
    encodeParcel (.max g d a b) = (pk g 0x0C#7 (d ++ a ++ b ++ 0#6), 0) ∧
    encodeParcel (.minw g d a b) = (pk g 0x0D#7 (d ++ a ++ b ++ 0#6), 0) ∧
    encodeParcel (.maxw g d a b) = (pk g 0x0E#7 (d ++ a ++ b ++ 0#6), 0) ∧
    encodeParcel (.abs g d a) = (pk g 0x0F#7 (d ++ a ++ 0#12), 0) ∧
    (∀ x : BitVec 6, x ≠ 0 → decodeParcel 1 (pk g 0x0F#7 (d ++ a ++ x ++ 0#6)) 0 = .error .illegalBundle) ∧
    encodeParcel (.addi false 19 19 (-8)) = (0x034D3FF8, 0) ∧ encodeParcel (.mulh false 0 17 18) = (0x05011480, 0)

/-- R111: logic, shifts and rotates, a shifted or rotated word given by its bits. -/
def Obligations.LogicAndShifts : Prop :=
  ∀ (g : Bool) (d a b : Spec) (imm : BitVec 12) (f : BitVec 6),
    Computes (.and g d a b) g d (fun s => (s.opnd a &&& s.opnd b, stNone)) ∧
    Computes (.or g d a b) g d (fun s => (s.opnd a ||| s.opnd b, stNone)) ∧
    Computes (.xor g d a b) g d (fun s => (s.opnd a ^^^ s.opnd b, stNone)) ∧
    Computes (.andn g d a b) g d (fun s => (s.opnd a &&& ~~~(s.opnd b), stNone)) ∧
    Computes (.orn g d a b) g d (fun s => (s.opnd a ||| ~~~(s.opnd b), stNone)) ∧
    Computes (.andi g d a imm) g d (fun s => (s.opnd a &&& imm.zeroExtend 64, stNone)) ∧
    Computes (.ori g d a imm) g d (fun s => (s.opnd a ||| imm.zeroExtend 64, stNone)) ∧
    Computes (.xori g d a imm) g d (fun s => (s.opnd a ^^^ imm.zeroExtend 64, stNone)) ∧
    Yields (.shl g d a b) g d (fun s v =>
      ∀ i < 64, v.getLsbD i = (decide ((s.opnd b).toNat % 64 ≤ i) && (s.opnd a).getLsbD (i - (s.opnd b).toNat % 64))) ∧
    Yields (.shr g d a b) g d (fun s v => ∀ i < 64, v.getLsbD i = (s.opnd a).getLsbD (i + (s.opnd b).toNat % 64)) ∧
    Yields (.sar g d a b) g d (fun s v => ∀ i < 64, v.getLsbD i = (s.opnd a).getLsbD (Nat.min (i + (s.opnd b).toNat % 64) 63)) ∧
    Yields (.rol g d a b) g d (fun s v => ∀ i < 64, v.getLsbD ((i + (s.opnd b).toNat) % 64) = (s.opnd a).getLsbD i) ∧
    Yields (.shli g d a f) g d (fun s v => ∀ i < 64, v.getLsbD i = (decide (f.toNat ≤ i) && (s.opnd a).getLsbD (i - f.toNat))) ∧
    Yields (.shri g d a f) g d (fun s v => ∀ i < 64, v.getLsbD i = (s.opnd a).getLsbD (i + f.toNat)) ∧
    Yields (.sari g d a f) g d (fun s v => ∀ i < 64, v.getLsbD i = (s.opnd a).getLsbD (Nat.min (i + f.toNat) 63)) ∧
    Yields (.roli g d a f) g d (fun s v => ∀ i < 64, v.getLsbD ((i + f.toNat) % 64) = (s.opnd a).getLsbD i) ∧
    encodeParcel (.and g d a b) = (pk g 0x10#7 (d ++ a ++ b ++ 0#6), 0) ∧
    encodeParcel (.or g d a b) = (pk g 0x11#7 (d ++ a ++ b ++ 0#6), 0) ∧
    encodeParcel (.xor g d a b) = (pk g 0x12#7 (d ++ a ++ b ++ 0#6), 0) ∧
    encodeParcel (.andn g d a b) = (pk g 0x13#7 (d ++ a ++ b ++ 0#6), 0) ∧
    encodeParcel (.orn g d a b) = (pk g 0x14#7 (d ++ a ++ b ++ 0#6), 0) ∧
    encodeParcel (.andi g d a imm) = (pk g 0x15#7 (d ++ a ++ imm), 0) ∧
    encodeParcel (.ori g d a imm) = (pk g 0x16#7 (d ++ a ++ imm), 0) ∧
    encodeParcel (.xori g d a imm) = (pk g 0x17#7 (d ++ a ++ imm), 0) ∧
    encodeParcel (.shl g d a b) = (pk g 0x18#7 (d ++ a ++ b ++ 0#6), 0) ∧
    encodeParcel (.shr g d a b) = (pk g 0x19#7 (d ++ a ++ b ++ 0#6), 0) ∧
    encodeParcel (.sar g d a b) = (pk g 0x1A#7 (d ++ a ++ b ++ 0#6), 0) ∧
    encodeParcel (.rol g d a b) = (pk g 0x1B#7 (d ++ a ++ b ++ 0#6), 0) ∧
    encodeParcel (.shli g d a f) = (pk g 0x1C#7 (d ++ a ++ 0#6 ++ f), 0) ∧
    encodeParcel (.shri g d a f) = (pk g 0x1D#7 (d ++ a ++ 0#6 ++ f), 0) ∧
    encodeParcel (.sari g d a f) = (pk g 0x1E#7 (d ++ a ++ 0#6 ++ f), 0) ∧
    encodeParcel (.roli g d a f) = (pk g 0x1F#7 (d ++ a ++ 0#6 ++ f), 0) ∧
    encodeParcel (.andi false 20 0 0xFF) = (0x155000FF, 0) ∧ encodeParcel (.shri false 0 17 12) = (0x1D01100C, 0)

/-- R112: a compare gives 1 where its condition holds and 0 elsewhere.
R113: bit counting and reordering. -/
def Obligations.ComparesAndBitCounting : Prop :=
  (∀ (g : Bool) (d a b : Spec) (imm : BitVec 12),
    Computes (.ceq g d a b) g d (fun s => (if s.opnd a = s.opnd b then 1 else 0, stNone)) ∧
    Computes (.cne g d a b) g d (fun s => (if s.opnd a ≠ s.opnd b then 1 else 0, stNone)) ∧
    Computes (.clt g d a b) g d (fun s => (if (s.opnd a).toInt < (s.opnd b).toInt then 1 else 0, stNone)) ∧
    Computes (.cle g d a b) g d (fun s => (if (s.opnd a).toInt ≤ (s.opnd b).toInt then 1 else 0, stNone)) ∧
    Computes (.cltw g d a b) g d (fun s => (if (s.opnd a).toNat < (s.opnd b).toNat then 1 else 0, stNone)) ∧
    Computes (.clew g d a b) g d (fun s => (if (s.opnd a).toNat ≤ (s.opnd b).toNat then 1 else 0, stNone)) ∧
    Computes (.ceqi g d a imm) g d (fun s => (if s.opnd a = imm.signExtend 64 then 1 else 0, stNone)) ∧
    Computes (.clti g d a imm) g d (fun s => (if (s.opnd a).toInt < imm.toInt then 1 else 0, stNone)) ∧
    encodeParcel (.ceq g d a b) = (pk g 0x20#7 (d ++ a ++ b ++ 0#6), 0) ∧
    encodeParcel (.cne g d a b) = (pk g 0x21#7 (d ++ a ++ b ++ 0#6), 0) ∧
    encodeParcel (.clt g d a b) = (pk g 0x22#7 (d ++ a ++ b ++ 0#6), 0) ∧
    encodeParcel (.cle g d a b) = (pk g 0x23#7 (d ++ a ++ b ++ 0#6), 0) ∧
    encodeParcel (.cltw g d a b) = (pk g 0x24#7 (d ++ a ++ b ++ 0#6), 0) ∧
    encodeParcel (.clew g d a b) = (pk g 0x25#7 (d ++ a ++ b ++ 0#6), 0) ∧
    encodeParcel (.ceqi g d a imm) = (pk g 0x26#7 (d ++ a ++ imm), 0) ∧
    encodeParcel (.clti g d a imm) = (pk g 0x27#7 (d ++ a ++ imm), 0) ∧
    encodeParcel (.clt false 0 17 18) = (0x22011480, 0)) ∧
  (∀ (g : Bool) (d a : Spec),
    Yields (.clz g d a) g d (fun s v => v.toNat ≤ 64 ∧ (∀ i < 64, 64 ≤ i + v.toNat → (s.opnd a).getLsbD i = false) ∧
      (v.toNat < 64 → (s.opnd a).getLsbD (63 - v.toNat) = true)) ∧
    Yields (.ctz g d a) g d (fun s v => v.toNat ≤ 64 ∧ (∀ i < v.toNat, (s.opnd a).getLsbD i = false) ∧
      (v.toNat < 64 → (s.opnd a).getLsbD v.toNat = true)) ∧
    Yields (.popc g d a) g d (fun s v => v.toNat = ((List.range 64).filter fun i => (s.opnd a).getLsbD i).length) ∧
    Yields (.brev g d a) g d (fun s v => ∀ i < 64, v.getLsbD i = (s.opnd a).getLsbD (63 - i)) ∧
    Yields (.bswap g d a) g d (fun s v => ∀ k < 8, v.extractLsb' (8 * k) 8 = (s.opnd a).extractLsb' (56 - 8 * k) 8) ∧
    encodeParcel (.clz g d a) = (pk g 0x28#7 (d ++ a ++ 0#12), 0) ∧
    encodeParcel (.ctz g d a) = (pk g 0x29#7 (d ++ a ++ 0#12), 0) ∧
    encodeParcel (.popc g d a) = (pk g 0x2A#7 (d ++ a ++ 0#12), 0) ∧
    encodeParcel (.brev g d a) = (pk g 0x2B#7 (d ++ a ++ 0#12), 0) ∧
    encodeParcel (.bswap g d a) = (pk g 0x2C#7 (d ++ a ++ 0#12), 0) ∧
    encodeParcel (.popc false 0 17) = (0x2A011000, 0))

/-- R114–R117: fields, inserts, byte permutation and single bits by their bits; `INS` and `BPERM` with an operand c that R115
or R116 excludes take `OPERAND_RANGE`, precise, with c in `TRAPINFO1` (R98).
R118: moves and selects. `MOVK` reads and rewrites its destination. -/
def Obligations.FieldsAndMoves : Prop :=
  (∀ (g : Bool) (d a b c : Spec) (len pos f : BitVec 6),
    (0 < len.toNat → pos.toNat + len.toNat ≤ 64 →
      Yields (.extz g d a len pos) g d (fun s v =>
        ∀ i < 64, v.getLsbD i = (decide (i < len.toNat) && (s.opnd a).getLsbD (pos.toNat + i))) ∧
      Yields (.exts g d a len pos) g d (fun s v =>
        ∀ i < 64, v.getLsbD i = (s.opnd a).getLsbD (pos.toNat + Nat.min i (len.toNat - 1)))) ∧
    (∀ s : State, s.runs g (.ins g d a b c) →
      let z := (s.opnd c).toNat
      let p := z % 64
      let n := z / 64 % 64
      (n = 0 ∨ 64 < p + n ∨ 4096 ≤ z →
        exec (.ins g d a b c) s = .next (s.takePrecise { cause := 0x04, slot := s.cur.slot, info1 := s.opnd c })) ∧
      (0 < n → p + n ≤ 64 → z < 4096 →
        ∃ v : Word, (∀ i < 64, v.getLsbD i =
            if p ≤ i ∧ i < p + n then (s.opnd b).getLsbD (i - p) else (s.opnd a).getLsbD i) ∧
          exec (.ins g d a b c) s = .next (s.gives d v stNone))) ∧
    (∀ s : State, s.runs g (.bperm g d a b c) →
      let z := (s.opnd c).toNat
      let sel := fun k => z / 2 ^ (5 * k) % 8
      let fill := fun k => z / 2 ^ (5 * k) / 8 % 4
      let src := fun k => if k < 4 then (s.opnd a).extractLsb' (8 * k) 8 else (s.opnd b).extractLsb' (8 * (k - 4)) 8
      (2 ^ 20 ≤ z ∨ (∃ k < 4, fill k = 3) →
        exec (.bperm g d a b c) s = .next (s.takePrecise { cause := 0x04, slot := s.cur.slot, info1 := s.opnd c })) ∧
      (z < 2 ^ 20 → (∀ k < 4, fill k ≠ 3) →
        ∃ v : Word, v.toNat < 2 ^ 32 ∧
          (∀ k < 4, v.extractLsb' (8 * k) 8 =
            if fill k = 0 then src (sel k)
            else if fill k = 2 ∧ (src (sel k)).getLsbD 7 = true then 0xFF else 0) ∧
          exec (.bperm g d a b c) s = .next (s.gives d v stNone))) ∧
    Yields (.bset g d a f) g d (fun s v => ∀ i < 64, v.getLsbD i = (decide (i = f.toNat) || (s.opnd a).getLsbD i)) ∧
    Yields (.bclr g d a f) g d (fun s v => ∀ i < 64, v.getLsbD i = (!decide (i = f.toNat) && (s.opnd a).getLsbD i)) ∧
    Yields (.btst g d a f) g d (fun s v => v = if (s.opnd a).getLsbD f.toNat then 1 else 0) ∧
    Yields (.bflip g d a f) g d (fun s v => ∀ i < 64, v.getLsbD i = (decide (i = f.toNat) != (s.opnd a).getLsbD i))) ∧
  (∀ (g : Bool) (d a b c : Spec) (h : BitVec 2) (imm : BitVec 16) (f : BitVec 6),
    Computes (.mov g d a) g d (fun s => (s.opnd a, stNone)) ∧
    Computes (.movz g d h imm) g d (fun _ => (BitVec.ofNat 64 (imm.toNat * 2 ^ (16 * h.toNat)), stNone)) ∧
    Yields (.movk g d h imm) g d (fun s v =>
      ∀ i < 64, v.getLsbD i = if i / 16 = h.toNat then imm.getLsbD (i % 16) else (s.opnd d).getLsbD i) ∧
    Computes (.sel g d a b c) g d (fun s => (if s.opnd c ≠ 0 then s.opnd a else s.opnd b, stNone)) ∧
    Computes (.lea g d a b f) g d (fun s => (s.opnd a + BitVec.ofNat 64 ((s.opnd b).toNat * 2 ^ f.toNat), stNone)))

/-- R119–R121: FP32 values in bits 31:0, the result rounded once, bits 63:32 zero, the status bits set; `FABS` and `FNEG` act
on bit 31 but of a NaN, and set no status. -/
def Obligations.ScalarFloat : Prop :=
  ∀ (g : Bool) (d a b c : Spec) (rm t : BitVec 2) (cond : BitVec 3),
    let lo := fun (s : State) (x : Spec) => (s.opnd x).toNat % 2 ^ 32
    let f32 := fun (p : Nat × Status) => (BitVec.ofNat 64 p.1, p.2)
    Computes (.fadd g d a b rm) g d (fun s => f32 (fp32.add (rmOf rm) (lo s a) (lo s b))) ∧
    Computes (.fsub g d a b rm) g d (fun s => f32 (fp32.sub (rmOf rm) (lo s a) (lo s b))) ∧
    Computes (.fmul g d a b rm) g d (fun s => f32 (fp32.mul (rmOf rm) (lo s a) (lo s b))) ∧
    Computes (.fma g d a b c) g d (fun s => f32 (fp32.fma .rne (lo s a) (lo s b) (lo s c))) ∧
    Computes (.fmin g d a b) g d (fun s => f32 (fp32.min (lo s a) (lo s b))) ∧
    Computes (.fmax g d a b) g d (fun s => f32 (fp32.max (lo s a) (lo s b))) ∧
    Computes (.fcmp g d a b cond) g d (fun s =>
      (if (fp32.cmp cond (lo s a) (lo s b)).1 then 1 else 0, (fp32.cmp cond (lo s a) (lo s b)).2)) ∧
    Computes (.fcvtf g d a t rm) g d (fun s =>
      let w := if t.getLsbD 1 then 32 else 64
      f32 (fp32.ofInt (rmOf rm) (readInt (!t.getLsbD 0) w (s.opnd a).toNat))) ∧
    Computes (.fcvti g d a t rm) g d (fun s =>
      let w := if t.getLsbD 1 then 32 else 64
      let p := (fp32.decode (lo s a)).toInt (rmOf rm) (!t.getLsbD 0) w
      (BitVec.ofInt 64 p.1, p.2)) ∧
    Yields (.fabs g d a) g d (fun s v =>
      v = if (fp32.decode (lo s a)).isNan then 0x7FC00000 else (s.opnd a).extractLsb' 0 31 |>.setWidth 64) ∧
    Yields (.fneg g d a) g d (fun s v =>
      v = if (fp32.decode (lo s a)).isNan then 0x7FC00000 else ((s.opnd a).extractLsb' 0 32).setWidth 64 ^^^ 0x80000000)

/-- R122, R127, R129, R130 for FP32, BF16 and FP16: an exact value is rounded once, to the neighbour that the mode names, with
overflow, underflow and inexactness in the status, and a zero keeps the sign given; a sum, a difference, a product and a fused
multiply-add of finite values deliver their exact result rounded so. -/
def Obligations.RoundsOnce : Prop :=
  ∀ f ∈ [fp32, bf16, fp16],
    let at_ := fun (n : Bool) (m : Nat) (e lo : Int) => (if n then -1 else 1 : Int) * ((m * 2 ^ (e - lo).toNat : Nat) : Int)
    let zeroed := fun (rm : Rm) (a b : Bool) => if a = b then a else decide (rm = .rdn)
    (∀ (rm : Rm) (neg : Bool) (m : Nat) (e : Int),
      let p := f.round rm neg m e
      let x := dyOf neg m e
      let mag := dyOf false m e
      let dist := fun (a b : Dy) => let d := a.add b.neg; (⟨d.m.natAbs, d.e⟩ : Dy)
      let away := (rm = .rdn ∧ neg = true) ∨ (rm = .rup ∧ neg = false)
      let emin : Int := 1 - f.bias
      let large := (rm = .rne ∧ (Dy.mk (2 ^ (f.mb + 2) - 1) (f.bias - f.mb - 1)).le mag = true) ∨
        (away ∧ (Dy.mk (2 ^ (f.mb + 1) - 1) (f.bias - f.mb)).lt mag = true) ∨ (rm ≠ .rne ∧ ¬away ∧ (Dy.mk 1 (f.bias + 1)).le mag = true)
      let tiny := (rm = .rne ∧ mag.lt ⟨2 ^ (f.mb + 2) - 1, emin - f.mb - 2⟩ = true) ∨
        (away ∧ mag.le ⟨2 ^ (f.mb + 1) - 1, emin - f.mb - 1⟩ = true) ∨ (rm ≠ .rne ∧ ¬away ∧ mag.lt ⟨1, emin⟩ = true)
      p.1 < 2 ^ f.width ∧ (m = 0 → p = (if neg then 2 ^ (f.width - 1) else 0, stNone)) ∧
      (large → p.2 = stOF ||| stIX ∧ (rm = .rne ∨ away → f.decode p.1 = .inf neg)) ∧
      (¬large ∨ (rm ≠ .rne ∧ ¬away) → ∃ m' e', f.decode p.1 = .fin neg m' e' ∧
        let r := dyOf neg m' e'
        let exact := r.le x = true ∧ x.le r = true
        (¬large → (p.2.getLsbD 4 = true ↔ ¬exact) ∧ (p.2.getLsbD 3 = true ↔ ¬exact ∧ tiny) ∧ p.2 &&& (stIV ||| stDZ ||| stOF ||| stSAT) = 0) ∧
        ∀ y n k j, y < 2 ^ f.width → f.decode y = .fin n k j →
          let z := dyOf n k j
          let below := r.le x = true ∧ (z.le x = true → z.le r = true)
          let above := x.le r = true ∧ (x.le z = true → r.le z = true)
          (rm = .rdn → below) ∧ (rm = .rup → above) ∧ (rm = .rtz → if neg then above else below) ∧
          (rm = .rne → (dist x r).le (dist x z) = true ∧
            ((dist x z).le (dist x r) = true → ¬(r.le z = true ∧ z.le r = true) → p.1 % 2 = 0)))) ∧
    ∀ (rm : Rm) (x y z : Nat) n m e n' m' e', f.decode x = .fin n m e → f.decode y = .fin n' m' e' →
      (∃ N M E, f.add rm x y = f.round rm N M E ∧ (M = 0 → N = zeroed rm n n') ∧
        ∀ lo, lo ≤ E → lo ≤ e → lo ≤ e' → at_ N M E lo = at_ n m e lo + at_ n' m' e' lo) ∧
      (∃ N M E, f.sub rm x y = f.round rm N M E ∧ (M = 0 → N = zeroed rm n (!n')) ∧
        ∀ lo, lo ≤ E → lo ≤ e → lo ≤ e' → at_ N M E lo = at_ n m e lo - at_ n' m' e' lo) ∧
      (∃ N M E, f.mul rm x y = f.round rm N M E ∧ N = (n != n') ∧
        ∀ lo, lo ≤ E → lo ≤ e + e' → at_ N M E lo = at_ (n != n') (m * m') (e + e') lo) ∧
      ∀ k l j, f.decode z = .fin k l j → ∃ N M E, f.fma rm x y z = f.round rm N M E ∧ (M = 0 → N = zeroed rm (n != n') k) ∧
        ∀ lo, lo ≤ E → lo ≤ e + e' → lo ≤ j → at_ N M E lo = at_ (n != n') (m * m') (e + e') lo + at_ k l j lo

/-- R94, R99, R27: a push moves every entry one place older and discards the sixteenth; a destination specifier of 0 writes
nothing more, and one of 16–47 writes the register, makes it present and clears its poison, and leaves every other register. -/
def Obligations.PushAndWrite : Prop :=
  ∀ (c : Ctx) (d : Spec) (v : Word) (st : Status), c.regs.q.length = 16 →
    let c' := ((c.push v).writeDest d v).orStatus st
    c'.regs.q.length = 16 ∧ c'.regs.q.getD 0 0 = v ∧ (∀ k < 15, c'.regs.q.getD (k + 1) 0 = c.regs.q.getD k 0) ∧
    c'.fpstatus = c.fpstatus ||| st ∧
    (d = 0 → c'.regs.n = c.regs.n ∧ c'.regs.pres = c.regs.pres ∧ c'.regs.pois = c.regs.pois) ∧
    (isNamed d = true →
      c'.regs.get (d.toNat - 16) = v ∧ c'.regs.pres.getLsbD (d.toNat - 16) = true ∧ c'.regs.pois.getLsbD (d.toNat - 16) = false ∧
      ∀ k, k ≠ d.toNat - 16 → c'.regs.get k = c.regs.get k ∧ c'.regs.pres.getLsbD k = c.regs.pres.getLsbD k ∧
        c'.regs.pois.getLsbD k = c.regs.pois.getLsbD k) ∧
    c' = { c with prog := c'.prog, shad := c'.shad, fpstatus := c'.fpstatus } ∧
    (if c.sys then c'.prog = c.prog else c'.shad = c.shad)

/-- The frame of every S1 and S2 op but a divide (R94, R98, R99): where it does not trap, nothing changes but the context at
hand, and of that only the register set of its level and `FPSTATUS`; of the named registers only its destination.
R95, R100: an S1 or S2 op that the guard turns off pushes its first operand and does nothing else; a poisoned operand traps
`POISON_USE` even so, with its specifier in `DETAIL`. -/
def Obligations.ScalarFrameAndPoison : Prop :=
  (∀ (i : Instr) (s t : State), isScalarOp i = true → isDivide i = false → exec i s = .next t →
    (∃ tr, t = s.takePrecise tr) ∨
    (OnlyCtx s.cur.cx s t ∧
      t.here = { s.here with prog := t.here.prog, shad := t.here.shad, fpstatus := t.here.fpstatus } ∧
      (if s.here.sys then t.here.prog = s.here.prog else t.here.shad = s.here.shad) ∧
      (∀ k, (∀ d, nWrite i = some d → k ≠ d.toNat - 16) → t.here.regs.get k = s.here.regs.get k) ∧
      (isFloatOp i = false → t.here.fpstatus = s.here.fpstatus) ∧
      ∀ a, t.byte a = s.byte a)) ∧
  ((∀ (i : Instr) (s : State), isScalarOp i = true → opHeld i s = false →
    (∀ sp, firstPoisoned s.here (srcSpecs i) = some sp →
      exec i s = .next (s.takePrecise { cause := 0x0B, slot := s.cur.slot, detail := sp.toNat })) ∧
    (firstPoisoned s.here (srcSpecs i) = none → s.cur.off = true → gBitOf i = true →
      exec i s = .next (s.updCtx s.cur.cx fun c => c.push (firstOperand s i)))) ∧
  ∀ (i : Instr) (s : State), i.slots = [0] → gBitOf i = true → s.cur.off = true → exec i s = .next s)

/-- R110, R97: a divide takes the core's divider with its quotient or remainder to come, and the context's registers are as
they were; `DIVIDE_COMPLETE` then pushes it, writes the destination and frees the divider. Division rounds towards zero, by
zero gives all ones, and the most negative number by −1 gives itself. -/
def Obligations.Divides : Prop :=
  ∀ (g : Bool) (d a b : Spec) (s : State),
    let k := coreOf s.cur.cx
    let starts := fun (i : Instr) (v : Word) =>
      s.runs g i → isDest d = true → s.here.regs.q.length = 16 →
        ∃ t, exec i s = .next t ∧ (t.core k).divider.isSome = true ∧ t.here.regs = s.here.regs ∧
          t = { s with ctxs := t.ctxs, cores := t.cores } ∧
          ∃ t', exec (.divideComplete k) t = .next t' ∧ (t'.core k).divider = none ∧
            t'.here.regs = (s.gives d v stNone).here.regs
    let x := s.opnd a
    let y := s.opnd b
    starts (.div g d a b) (if y = 0 then BitVec.allOnes 64 else BitVec.ofInt 64 (x.toInt.tdiv y.toInt)) ∧
    starts (.rem g d a b) (if y = 0 then x else BitVec.ofInt 64 (x.toInt.tmod y.toInt)) ∧
    starts (.divw g d a b) (if y = 0 then BitVec.allOnes 64 else BitVec.ofNat 64 (x.toNat / y.toNat)) ∧
    starts (.remw g d a b) (if y = 0 then x else BitVec.ofNat 64 (x.toNat % y.toNat)) ∧
    encodeParcel (.div g d a b) = (pk g 0x07#7 (d ++ a ++ b ++ 0#6), 0) ∧
    encodeParcel (.divw g d a b) = (pk g 0x08#7 (d ++ a ++ b ++ 0#6), 0) ∧
    encodeParcel (.rem g d a b) = (pk g 0x09#7 (d ++ a ++ b ++ 0#6), 0) ∧
    encodeParcel (.remw g d a b) = (pk g 0x0A#7 (d ++ a ++ b ++ 0#6), 0) ∧
    (∀ i ∈ [.div g d a b, .divw g d a b, .rem g d a b, (.remw g d a b : Instr)], decodeParcel 2 (encodeParcel i).1 0 = .error .illegalBundle) ∧
    encodeParcel (.div false 0 17 18) = (0x07011480, 0)

/-- R78, R17: a transfer sets the program counter, in the bank (`BR`, `CALL`, `JMP`, `RET`) or to the other bank (`BRX`); one
that would leave the bank traps. A taken `BR`, `JMP` or `RET` pops the loops whose body does not hold its target, `CALL` pops
none and links `n31` (with a unit past the bank's end written as assumption log 80 says), `BRX` empties the stack (R79). -/
def Obligations.Branches : Prop :=
  ∀ (g : Bool) (off : BitVec 24) (a : Spec) (u : BitVec 14) (s : State),
    let bank := pcBank s.cur.pc
    let rel : Int := pcIdx s.cur.pc + off.toInt
    let goes := fun (i : Instr) (pc : Nat) (loops : List LoopEntry) (c : Ctx) =>
      ∃ t, exec i s = .next t ∧ OnlyCtx s.cur.cx s t ∧ t.here = { c with pc := pc, loops := loops, mid := false, rcLeft := 0 }
    let left := fun (pc : Nat) => s.here.loops.dropWhile fun e => !(decide (e.start ≤ pc) && decide (pc < e.stop))
    let traps := fun (i : Instr) (cause : Nat) (v : Word) =>
      exec i s = .next (s.takePrecise { cause := cause, slot := 0, info1 := v })
    (s.runs0 g (.br g off) →
      (0 ≤ rel ∧ rel < 16384 → goes (.br g off) (mkPc bank rel.toNat) (left (mkPc bank rel.toNat)) s.here) ∧
      (¬(0 ≤ rel ∧ rel < 16384) → traps (.br g off) 0x02 0)) ∧
    (s.runs0 g (.call g off) →
      (0 ≤ rel ∧ rel < 16384 →
        goes (.call g off) (mkPc bank rel.toNat) s.here.loops
          (s.here.setRegs (s.here.regs.put 31 (BitVec.ofNat 64 (archPc s.cur.nxt))))) ∧
      (¬(0 ≤ rel ∧ rel < 16384) → traps (.call g off) 0x02 0)) ∧
    (s.runs0 g (.jmp g a) →
      ((s.opnd a).toNat < 2 ^ 15 ∧ (s.opnd a).toNat / 2 ^ 14 = bank →
        goes (.jmp g a) (mkPc bank ((s.opnd a).toNat % 2 ^ 14)) (left (mkPc bank ((s.opnd a).toNat % 2 ^ 14))) s.here) ∧
      (¬((s.opnd a).toNat < 2 ^ 15 ∧ (s.opnd a).toNat / 2 ^ 14 = bank) → traps (.jmp g a) 0x04 (s.opnd a))) ∧
    (s.runs0 g (.ret g) →
      ((s.opnd 47).toNat < 2 ^ 15 ∧ (s.opnd 47).toNat / 2 ^ 14 = bank →
        goes (.ret g) (mkPc bank ((s.opnd 47).toNat % 2 ^ 14)) (left (mkPc bank ((s.opnd 47).toNat % 2 ^ 14))) s.here) ∧
      (¬((s.opnd 47).toNat < 2 ^ 15 ∧ (s.opnd 47).toNat / 2 ^ 14 = bank) → traps (.ret g) 0x04 (s.opnd 47))) ∧
    (s.runs0 g (.brx g u) → goes (.brx g u) (mkPc (1 - bank) u.toNat) [] s.here)

/-- R79: `LOOP` pushes an entry whose body starts at the next unit, or skips the body when its count is 0; a count of 2^32 or
more, or a third loop, traps `OPERAND_RANGE`; a body past the bank's end is illegal. At the end of a bundle with no taken
transfer the innermost loop that ends there goes back while its count is above 1, and is popped otherwise. -/
def Obligations.Loops : Prop :=
  (∀ (g : Bool) (a : Spec) (len : BitVec 12) (s : State), s.runs0 g (.loop g a len) →
    let v := s.opnd a
    let stop := s.cur.nxt + len.toNat
    (pcIdx s.cur.nxt + len.toNat ≤ 16384 →
      (v.toNat < 2 ^ 32 ∧ s.here.loops.length < 2 →
        (v.toNat ≠ 0 → ∃ t, exec (.loop g a len) s = .next t ∧ OnlyCtx s.cur.cx s t ∧
          t.here = { s.here with
            loops := ⟨s.cur.nxt, stop, pcBank s.cur.pc, v.toNat⟩ :: s.here.loops, pc := s.cur.nxt, mid := false, rcLeft := 0 }) ∧
        (v.toNat = 0 → ∃ t, exec (.loop g a len) s = .next t ∧ OnlyCtx s.cur.cx s t ∧ t.here = s.here.fallThrough stop)) ∧
      (¬(v.toNat < 2 ^ 32 ∧ s.here.loops.length < 2) →
        exec (.loop g a len) s = .next (s.takePrecise { cause := 0x04, slot := 0, info1 := v }))) ∧
    (16384 < pcIdx s.cur.nxt + len.toNat →
      exec (.loop g a len) s = .next (s.takePrecise { cause := 0x02, slot := 0, info1 := 0 }))) ∧
  (∀ (c : Ctx) (nxt : Nat) (e : LoopEntry) (es : List LoopEntry), c.loops = e :: es →
    (e.stop = nxt → 1 < e.count →
      c.fallThrough nxt = { c with pc := e.start, loops := { e with count := e.count - 1 } :: es, mid := false, rcLeft := 0 }) ∧
    (e.stop = nxt → e.count ≤ 1 → c.fallThrough nxt = { c with loops := es }.fallThrough nxt) ∧
    (e.stop ≠ nxt → c.fallThrough nxt = { c with pc := nxt, mid := false, rcLeft := 0 })) ∧
  ∀ (c : Ctx) (nxt : Nat), c.loops = [] → c.fallThrough nxt = { c with pc := nxt, mid := false, rcLeft := 0 }

/-- R80: `WAITF` and `PEEKF` hold until every masked flag is set; a masked failure bit then traps `ENGINE_FAIL`; otherwise
`WAITF` clears the flags and `PEEKF` leaves them, and the SCM lines written by the commands of those flags become covered by a
`PERSIST` (R310). `SETF` sets flags, `CLRF` clears them. Nothing else changes. -/
def Obligations.FlagOps : Prop :=
  ∀ (g : Bool) (mask : BitVec 16) (s : State), s.bad = none →
    let failed := s.here.engfail.setWidth 16 &&& mask
    let becomes := fun (i : Instr) (f : BitVec 16) =>
      ∃ t, exec i s = .next t ∧ OnlyCtx s.cur.cx s t ∧ t.here = { s.here with flags := f }
    let waits := fun (i : Instr) (f : BitVec 16) =>
      ∃ t, exec i s = .next t ∧ OnlyCtx s.cur.cx s t ∧
        t.here = { s.here with flags := f, unpersisted := t.here.unpersisted, flagScm := t.here.flagScm } ∧
        (∀ l, l ∈ t.here.unpersisted ↔ l ∈ s.here.unpersisted ∨ ∃ p ∈ s.here.flagScm, mask.getLsbD p.1 = true ∧ l ∈ p.2) ∧
        ∀ p, p ∈ t.here.flagScm ↔ p ∈ s.here.flagScm ∧ mask.getLsbD p.1 = false
    (s.runs g (.waitf g mask) →
      (s.here.flags &&& mask ≠ mask → exec (.waitf g mask) s = .next s) ∧
      (s.here.flags &&& mask = mask → failed ≠ 0 →
        ∃ tr : Trap, tr.cause = 0x0F ∧ tr.slot = 0 ∧ exec (.waitf g mask) s = .next (s.takePrecise tr)) ∧
      (s.here.flags &&& mask = mask → failed = 0 → waits (.waitf g mask) (s.here.flags &&& ~~~mask))) ∧
    (s.runs g (.peekf g mask) →
      (s.here.flags &&& mask ≠ mask → exec (.peekf g mask) s = .next s) ∧
      (s.here.flags &&& mask = mask → failed ≠ 0 →
        ∃ tr : Trap, tr.cause = 0x0F ∧ tr.slot = 0 ∧ exec (.peekf g mask) s = .next (s.takePrecise tr)) ∧
      (s.here.flags &&& mask = mask → failed = 0 → waits (.peekf g mask) s.here.flags)) ∧
    (s.runs g (.setf g mask) → becomes (.setf g mask) (s.here.flags ||| mask)) ∧
    (s.runs g (.clrf g mask) → becomes (.clrf g mask) (s.here.flags &&& ~~~mask))

/-- R81, R82, R86, R87, R25, R44: `AWAIT`, `TWAIT` and, outside guarded launches, `CKPT` end their holds without any other
effect; `FENCEI` and the `NOP`s of S0–S2 change nothing; a `NOP` of a streaming slot ends
its stickiness; `YIELD` ends the quantum of the core's running context; `PWRREQ` at system
level writes a step of 0–23 to the cluster's mailbox, unless the management controller writes it in the same cycle (R396), and
traps on any other operand, and at program level it traps `PRIVILEGE`.
R83, R265: `EXIT` ends the context's issue, begins its retirement and withdraws its pending lease requests. With no command of it in
progress nothing else changes. -/
def Obligations.WaitsAndExits : Prop :=
  (∀ (g : Bool) (n : BitVec 4) (a : Spec) (s : State), s.bad = none →
    (s.runs g (.await g n) → s.here.awc ≤ n.toNat → exec (.await g n) s = .next s) ∧
    (s.runs g (.twait g a) → (s.opnd a).toNat ≤ s.mt (dieOf s.cur.cx) → exec (.twait g a) s = .next s) ∧
    (s.runs g (.ckpt g) → s.here.queuesEmpty = true → s.here.guard = none → exec (.ckpt g) s = .next s) ∧
    (s.runs g (.fencei g) → exec (.fencei g) s = .next s) ∧
    exec (.nopCtl g) s = .next s ∧ exec (.nopSa g) s = .next s ∧ exec (.nopSb g) s = .next s ∧
    (∀ k ∈ [3, 4, 5, 6, 7], ∀ i ∈ [Instr.nopMem g, .nopVec g, .nopMx g, .nopAcc g, .nopEng g], i.slots = [k] →
      ∃ t, exec i s = .next t ∧ OnlyCtx s.cur.cx s t ∧
        t.here = { s.here with sticky := merase k s.here.sticky, ord := s.here.ord + 1 }) ∧
    (s.runs g (.yield g) →
      exec (.yield g) s = .next (s.updCore (coreOf s.cur.cx) fun k => { k with quantumEnded := true })) ∧
    (s.runs g (.pwrreq g a) →
      (s.here.sys = true → (s.opnd a).toNat ≤ 23 →
        (s.cluster (clusterOf s.cur.cx)).mgmtAt = some (s.cycleOf (clusterOf s.cur.cx)) → exec (.pwrreq g a) s = .next s) ∧
      (s.here.sys = true → (s.opnd a).toNat ≤ 23 →
        (s.cluster (clusterOf s.cur.cx)).mgmtAt ≠ some (s.cycleOf (clusterOf s.cur.cx)) → exec (.pwrreq g a) s = .next (s.updCluster (clusterOf s.cur.cx) fun k =>
          { k with mailbox := some (BitVec.ofNat 5 (s.opnd a).toNat) })) ∧
      (s.here.sys = true → 23 < (s.opnd a).toNat →
        exec (.pwrreq g a) s = .next (s.takePrecise { cause := 0x04, slot := 0, info1 := s.opnd a })) ∧
      (s.here.sys = false → exec (.pwrreq g a) s = .next (s.takePrecise { cause := 0x05, slot := 0 })))) ∧
  (∀ (g : Bool) (s : State), s.runs0 g (.exit g) →
    ∃ t, exec (.exit g) s = .next t ∧ t.here.phase = .retiring ∧ t.mem = s.mem ∧ (∀ k, k ≠ s.cur.cx → t.ctx k = s.ctx k) ∧
      t.here.prog = s.here.prog ∧ t.here.shad = s.here.shad ∧ t.here.fpstatus = s.here.fpstatus ∧ t.here.v = s.here.v ∧
      s.leasesWithdrawn t s.cur.cx ∧
      ((∀ p ∈ s.cmds, p.2.cx ≠ s.cur.cx) → OnlyCtx s.cur.cx s t ∧ t.here = { s.here with phase := .retiring }))

/-- R75, R76, R89–R91: what a trap does. A context that may trap saves the cause, the level, the place to resume and the frame,
clears its stickiness and its loop stack, goes to system level and to the handler's address; a context at system level, or
without a handler, stops with its queues discarded, and its launch is to complete with status FAULT. That `STREAM` names any held
entry is assumption log 26's, a place past a bank's end 80's, a `TRAP` that ends a loop's body 79's.
R84: `TRAP` takes `SOFTWARE` with its number in `DETAIL` and the next bundle to resume at; `BKPT` takes `BREAKPOINT` at its
bundle, or halts the core when its debug unit is armed, as soon as a divide in progress on it is done (R97); `RFT` at program level traps `PRIVILEGE`. -/
def Obligations.Traps : Prop :=
  (∀ (s : State) (cx : Nat) (tr : Trap) (tpc rep rpc left : Nat) (mid stream drop : Bool),
    let c := s.ctx cx
    let t := s.takeTrap cx tr tpc rep rpc left mid stream drop
    let d := t.ctx cx
    (c.sys = false → c.trapvec.getLsbD 15 = true →
      d.trapcause.extractLsb' 0 8 = BitVec.ofNat 8 tr.cause ∧ d.trapcause.getLsbD 8 = false ∧
      d.trapcause.extractLsb' 9 7 = BitVec.ofNat 7 left ∧ d.trapcause.getLsbD 17 = drop ∧ d.trapcause.getLsbD 18 = false ∧
      d.trapcause.getLsbD 19 = (c.phase == .retiring) ∧ d.trapcause.getLsbD 20 = mid ∧
      d.trapcause.extractLsb' 21 15 = BitVec.ofNat 15 (archPc rpc) ∧ (stream = true → d.trapcause.getLsbD 16 = true) ∧
      d.trappc = BitVec.ofNat 64 (archPc tpc) ∧
      d.info0 = BitVec.ofNat 64 (tr.slot % 8 + rep % 128 * 2 ^ 3 + tr.detail % 2 ^ 48 * 2 ^ 16) ∧ d.info1 = tr.info1 ∧
      d.frame = { sticky := c.sticky, cursors := c.cursors, loops := c.loops } ∧ d.sticky = [] ∧ d.loops = [] ∧
      d.sys = true ∧ d.phase = .running ∧ archPc d.pc = (c.trapvec.extractLsb' 0 15).toNat ∧
      d.prog = c.prog ∧ d.shad = c.shad ∧ d.flags = c.flags ∧ d.fpstatus = c.fpstatus ∧ d.v = c.v ∧ t.mem = s.mem) ∧
    (c.sys = true ∨ c.trapvec.getLsbD 15 = false →
      d.phase = .free ∧ d.queues = [] ∧ t.mem = s.mem ∧
      ∀ l, c.launch = some l → (mget {} l s.launches).stop = none → (mget {} l t.launches).stop = some 2)) ∧
  (∀ (g : Bool) (n : BitVec 8) (s : State), s.bad = none → s.here.sys = false → s.here.trapvec.getLsbD 15 = true →
    (s.runs g (.trap g n) → ∃ t, exec (.trap g n) s = .next t ∧ t.here.sys = true ∧
      t.here.trapcause.extractLsb' 0 8 = 0x12 ∧ t.here.trapcause.getLsbD 20 = false ∧ t.here.info0 = BitVec.ofNat 64 (n.toNat * 2 ^ 16 + s.cur.rep % 128 * 8) ∧
      t.here.trapcause.extractLsb' 21 15 = BitVec.ofNat 15 (archPc s.cur.nxt) ∧
      archPc t.here.pc = (s.here.trapvec.extractLsb' 0 15).toNat) ∧
    (s.runs g (.bkpt g n) →
      ((s.core (coreOf s.cur.cx)).armed = false → ∃ t, exec (.bkpt g n) s = .next t ∧ t.here.sys = true ∧
        t.here.trapcause.extractLsb' 0 8 = 0x13 ∧ t.here.trapcause.getLsbD 20 = true ∧
        t.here.trapcause.extractLsb' 9 7 = BitVec.ofNat 7 s.cur.left ∧
        t.here.info0 = BitVec.ofNat 64 (n.toNat * 2 ^ 16 + s.cur.rep % 128 * 8) ∧
        t.here.trapcause.extractLsb' 21 15 = BitVec.ofNat 15 (archPc s.cur.pc) ∧
        archPc t.here.pc = (s.here.trapvec.extractLsb' 0 15).toNat) ∧
      ((s.core (coreOf s.cur.cx)).armed = true →
        ∃ t, exec (.bkpt g n) s = .next t ∧
          (t.core (coreOf s.cur.cx)).halt = (if (s.core (coreOf s.cur.cx)).divider.isSome then .pending else .plain) ∧
          t = { s with ctxs := t.ctxs, cores := t.cores, net := t.net, quads := t.quads } ∧ t.here.pc = s.here.pc ∧
          t.here.phase = s.here.phase ∧ t.here.sys = s.here.sys ∧ t.here.prog = s.here.prog ∧ t.here.shad = s.here.shad)) ∧
    (s.runs g (.rft g) → exec (.rft g) s = .next (s.takePrecise { cause := 0x05, slot := 0 })))

/-- R84, R83: `RFT` restores the frame and the level, returns held entries to the heads of their queues where `STREAM` is set (the
faulting one discarded where `DROP` is), and resumes at `RPC` with `MID` and `RCLEFT`, or resumes retirement where `EXITED` is
set, when the handler's own pending lease requests are withdrawn. -/
def Obligations.ReturnFromTrap : Prop :=
  ∀ (g : Bool) (s : State), s.runs0 g (.rft g) → s.here.sys = true →
    ∃ t, exec (.rft g) s = .next t ∧ t.mem = s.mem ∧ (∀ k, k ≠ s.cur.cx → t.ctx k = s.ctx k) ∧
      let c := s.here
      let d := t.here
      let retires := c.trapcause.getLsbD 19 = true ∨ c.phase = .retiring
      d.sticky = c.frame.sticky ∧ d.cursors = c.frame.cursors ∧ d.loops = c.frame.loops ∧ d.sys = c.trapcause.getLsbD 8 ∧
      (∀ k, (d.prog.get k, d.shad.get k) = (c.prog.get k, c.shad.get k)) ∧ d.prog.q = c.prog.q ∧ d.shad.q = c.shad.q ∧
      d.fpstatus = c.fpstatus ∧ d.v = c.v ∧
      (c.trapcause.getLsbD 19 = true → d.phase = .retiring) ∧
      (c.trapcause.getLsbD 19 = false →
        d.phase = c.phase ∧ archPc d.pc = (c.trapcause.extractLsb' 21 15).toNat ∧ d.mid = c.trapcause.getLsbD 20 ∧
        (d.mid = true → d.rcLeft = (c.trapcause.extractLsb' 9 7).toNat) ∧ d.skipS0 = c.trapcause.getLsbD 18) ∧
      (retires → s.leasesWithdrawn t s.cur.cx) ∧
      (¬retires ∨ (∀ p ∈ s.cmds, p.2.cx ≠ s.cur.cx) → OnlyCtx s.cur.cx s t ∧ d.flags = c.flags ∧ d.engfail = c.engfail ∧
        (c.trapcause.getLsbD 16 = false → d.queues = c.queues ∧ d.held = c.held) ∧
        (c.trapcause.getLsbD 16 = true → d.held = [] ∧ ∀ k ∈ [3, 4, 5, 6, 7],
          d.queue k = ((c.held.filter fun e => e.slot == k && !(c.trapcause.getLsbD 17 && e.fault)).map fun e =>
            { e with fault := false, phase := .queued }) ++ c.queue k))

/-- R85, R88: `MFS` writes the register it names to its destination and nothing else; the program-level registers trap
`PRIVILEGE` at program level. -/
def Obligations.ReadSystemRegister : Prop :=
  ∀ (g : Bool) (sr : BitVec 12) (d : Spec) (s : State), s.runs0 g (.mfs g sr d) → isNamed d = true →
    let pn := decide (0x100 ≤ sr.toNat ∧ sr.toNat ≤ 0x12F)
    (s.here.sys = false → pn = true → exec (.mfs g sr d) s = .next (s.takePrecise { cause := 0x05, slot := 0 })) ∧
    (s.here.sys = true ∨ pn = false →
      ∃ v, exec (.mfs g sr d) s = .next (s.updCtx s.cur.cx fun c => c.setRegs (c.regs.put (d.toNat - 16) v)) ∧
        (pn = true → v = if sr.toNat < 0x120 then s.here.prog.get (sr.toNat - 0x100) else s.here.prog.q.getD (sr.toNat - 0x120) 0) ∧
        (sr = 0x000 → v = BitVec.ofNat 64 s.cur.cx) ∧ (sr = 0x001 → v = s.here.launchid) ∧
        (sr = 0x002 → v = s.here.trapvec.setWidth 64) ∧ (sr = 0x003 → v = s.here.trapcause) ∧ (sr = 0x004 → v = s.here.trappc) ∧
        (sr = 0x005 → v = s.here.info0) ∧ (sr = 0x006 → v = s.here.info1) ∧ (sr = 0x007 → v = s.here.savebase) ∧
        (sr = 0x009 → v = s.here.accbanks) ∧ (sr = 0x00A → v = s.here.engfail) ∧ (sr = 0x00B → v = s.here.flags.setWidth 64) ∧
        (sr = 0x00C → v = s.here.fpstatus.setWidth 64) ∧ (sr = 0x011 → v = (s.core (coreOf s.cur.cx)).ewtable) ∧
        (sr = 0x020 → v = BitVec.ofNat 64 (s.mt (dieOf s.cur.cx))) ∧ (sr = 0x021 → v = (s.die (dieOf s.cur.cx)).mtskew) ∧
        (sr = 0x022 → v = s.opnd 61) ∧ (sr = 0x030 → v = s.here.pageroot) ∧ (sr = 0x031 → v = s.here.asid) ∧
        (sr = 0x041 → v = s.here.res) ∧
        (sr = 0x008 → v.extractLsb' 0 9 = BitVec.ofNat 9 s.here.tbase ∧ v.extractLsb' 9 2 = s.here.tsize ∧
          v.getLsbD 11 = s.here.tshared ∧ v.extractLsb' 12 52 = 0) ∧
        (sr = 0x010 →
          let b := (s.core (coreOf s.cur.cx)).bfw
          let k := s.cluster (clusterOf s.cur.cx)
          (∀ a e, k.move = some (a, e) → a < 32) →
          v.extractLsb' 0 9 = BitVec.ofNat 9 (b.toNat * (8 - k.limit.toNat) / 8) ∧ v.extractLsb' 9 9 = b ∧ v.extractLsb' 18 3 = k.limit ∧
            v.extractLsb' 21 11 = 0 ∧ (k.move = none → v.extractLsb' 32 5 = k.step ∧ v.getLsbD 37 = false) ∧
            (∀ a e, k.move = some (a, e) → v.extractLsb' 32 5 = BitVec.ofNat 5 a ∧ v.getLsbD 37 = true) ∧
            v.extractLsb' 38 2 = 0 ∧ v.extractLsb' 40 24 = s.here.stalls) ∧
        (sr = 0x023 → v.extractLsb' 0 32 = s.here.rcount ∧ v.extractLsb' 32 2 = s.here.rrun ∧ v.extractLsb' 34 30 = 0) ∧
        (sr = 0x040 → v.extractLsb' 32 32 = 0 ∧
          ∀ l, s.here.launch = some l →
            ((s.launch l).wdog = none → v = 0xFFFFFFFF) ∧
            ∀ ns, (s.launch l).wdog = some ns → ns ≤ 1000 * (2 ^ 32 - 1) → 1000 * v.toNat < ns + 1000 ∧ ns ≤ 1000 * v.toNat))

/-- R85, R88–R93, R102, R145, R389: `MTS` writes a register field by field; a register privileged for writing, `PN` and `PQ` trap at
program level; a read-only register and reserved bits ignore the write. `REGISTER_WRITE` to a system register has the same
effect. -/
def Obligations.WriteSystemRegister : Prop :=
  ∀ (g : Bool) (sr : BitVec 12) (a : Spec) (s : State),
    let k := sr.toNat
    let priv := decide ((2 ≤ k ∧ k ≤ 7) ∨ k = 0x11 ∨ k = 0x30 ∨ k = 0x31 ∨ (0x100 ≤ k ∧ k ≤ 0x12F))
    (s.runs0 g (.mts g sr a) → priv = true → s.here.sys = false →
      exec (.mts g sr a) s = .next (s.takePrecise { cause := 0x05, slot := 0 })) ∧
    ∀ (i : Instr) (v : Word), (i = .mts g sr a ∧ v = s.opnd a ∧ s.runs0 g i ∧ (priv = false ∨ s.here.sys = true)) ∨
        (i = .registerWrite (.sys sr) v ∧ s.bad = none) →
      let becomes := fun (f : Ctx → Ctx) => exec i s = .next (s.updCtx s.cur.cx f)
      (sr = 0x002 → becomes fun c => { c with trapvec := v.setWidth 16 }) ∧
      (sr = 0x003 → becomes fun c => { c with trapcause := v &&& 0xFFFFFFFFF }) ∧
      (sr = 0x004 → becomes fun c => { c with trappc := v &&& 0x7FFF }) ∧
      (sr = 0x005 → becomes fun c => { c with info0 := v &&& ~~~0xFC00 }) ∧
      (sr = 0x006 → becomes fun c => { c with info1 := v }) ∧
      (sr = 0x00A → becomes fun c => c.writeEngfail v) ∧
      (sr = 0x00B → becomes fun c => { c with flags := v.setWidth 16 }) ∧
      (sr = 0x00C → becomes fun c => { c with fpstatus := v.setWidth 6 }) ∧
      (sr = 0x007 →
        (cornerOf (v.extractLsb' 52 12).toNat = cornerOf (dieOf s.cur.cx) → s.areaTakes → ∃ t, exec i s = .next t ∧ s.rebased t v) ∧
        (cornerOf (v.extractLsb' 52 12).toNat ≠ cornerOf (dieOf s.cur.cx) →
          exec i s = .next (s.takePrecise { cause := 0x04, slot := 0, info1 := v }))) ∧
      (sr = 0x011 → exec i s = .next (s.updCore (coreOf s.cur.cx) fun x => { x with ewtable := v })) ∧
      (sr = 0x030 → becomes fun c => { c with pageroot := v &&& 0xFFFFFFFFFF001 }) ∧
      (sr = 0x031 → becomes fun c => { c with asid := v &&& 0xFFFF }) ∧
      (0x100 ≤ k → k < 0x120 → becomes fun c => { c with prog := c.prog.put (k - 0x100) v }) ∧
      (0x120 ≤ k → k < 0x130 → becomes fun c => { c with prog := { c.prog with q := c.prog.q.set (k - 0x120) v } }) ∧
      (k ∈ [0x000, 0x001, 0x008, 0x009, 0x010, 0x020, 0x021, 0x022, 0x023, 0x040, 0x041] → becomes fun c => c)

/-- R92, R93, R102, R131, R145, R85, R389, R10, R432: the register writes that have a row of their own, for the context at hand, and writes
to the module register block, which reach its registers as their own rows do. -/
def Obligations.RegisterWriteRows : Prop :=
  ∀ (v : Word) (i : BitVec 5) (s : State),
    exec (.flagsWrite v) s = .next (s.updCtx s.cur.cx fun c => { c with flags := v.setWidth 16 }) ∧
    exec (.fpstatusWrite v) s = .next (s.updCtx s.cur.cx fun c => { c with fpstatus := v.setWidth 6 }) ∧
    exec (.ewtableWrite v) s = .next (s.updCore (coreOf s.cur.cx) fun k => { k with ewtable := v }) ∧
    exec (.pnWrite i v) s = .next (s.updCtx s.cur.cx fun c => { c with prog := c.prog.put i.toNat v }) ∧
    (∃ t, exec (.engfailWrite v) s = .next t ∧ OnlyCtx s.cur.cx s t ∧
      t.here.engfail.extractLsb' 0 16 = s.here.engfail.extractLsb' 0 16 &&& ~~~(v.extractLsb' 0 16) ∧
      t.here.engfail.extractLsb' 16 48 = s.here.engfail.extractLsb' 16 48 ∧ t.here.flags = s.here.flags) ∧
    (s.bad = none → cornerOf (v.extractLsb' 52 12).toNat = cornerOf (dieOf s.cur.cx) → s.areaTakes →
      ∃ t, exec (.savebaseWrite v) s = .next t ∧ s.rebased t v) ∧
    (cornerOf (v.extractLsb' 52 12).toNat ≠ cornerOf (dieOf s.cur.cx) →
      exec (.savebaseWrite v) s = .next (s.takePrecise { cause := 0x04, slot := 0, info1 := v })) ∧
    ∀ m off, s.bad = none →
      let host := fun (off : Nat) => exec (.registerWrite (.bar0 true m off) v) s
      ((s.mod m).cxlUp = false → host off = .next s) ∧
      ((s.mod m).cxlUp = true → host 0x4100 = exec (.pwrlimWrite m v) s ∧
        (∀ w < 16, host (0x4200 + 16 * w) = exec (.dmaWindowWrite m w false v) s ∧
          host (0x4208 + 16 * w) = exec (.dmaWindowWrite m w true v) s)) ∧
      (0x4100 ≤ off → exec (.registerWrite (.bar0 false m off) v) s = .next s)

/-- R126: integer arithmetic wraps, keeping the low bits of the exact result, or saturates to the nearer bound and sets `SAT`. -/
def Obligations.IntegerDelivery : Prop :=
  ∀ (ty : BitVec 4) (sat : Bool) (x : Int), tyInt ty = true →
    let w := tyWidth ty
    let lo : Int := if tySigned ty then -2 ^ (w - 1) else 0
    let hi : Int := if tySigned ty then 2 ^ (w - 1) - 1 else 2 ^ w - 1
    let p := deliverInt ty sat x
    p.1 < 2 ^ w ∧
    (sat = false → ((p.1 : Int) - x) % 2 ^ w = 0 ∧ p.2 = stNone) ∧
    (sat = true → lo ≤ x → x ≤ hi → laneInt ty p.1 = x ∧ p.2 = stNone) ∧
    (sat = true → x < lo → laneInt ty p.1 = lo ∧ p.2 = stSAT) ∧
    (sat = true → hi < x → laneInt ty p.1 = hi ∧ p.2 = stSAT)

/-- R150, R139–R141: elementwise arithmetic, each lane from the same lanes of the operands; a float lane is rounded once, an
integer lane is delivered by R126. -/
def Obligations.VectorArithmetic : Prop :=
  ∀ (g : Bool) (vd va vb : Spec) (ty : BitVec 4) (rm : BitVec 2),
    let A := fun (s : State) (l : Nat) => (s.here.vreg va).lane ty l
    let B := fun (s : State) (l : Nat) => (s.here.vreg vb).lane ty l
    let D := fun (s : State) (l : Nat) => (s.here.vreg vd).lane ty l
    let I := laneInt ty
    let sat := rm.getLsbD 0
    let w := tyWidth ty
    let by_ := fun (ff : Fmt → Nat × Status) (x : Int) (sat : Bool) =>
      match tyFmt ty with
      | some f => ff f
      | none => deliverInt ty sat x
    LaneOp (.vadd g vd va vb ty rm) g vd ty (fun s l => by_ (fun f => f.add (rmOf rm) (A s l) (B s l)) (I (A s l) + I (B s l)) sat) ∧
    LaneOp (.vsub g vd va vb ty rm) g vd ty (fun s l => by_ (fun f => f.sub (rmOf rm) (A s l) (B s l)) (I (A s l) - I (B s l)) sat) ∧
    LaneOp (.vmul g vd va vb ty rm) g vd ty (fun s l => by_ (fun f => f.mul (rmOf rm) (A s l) (B s l)) (I (A s l) * I (B s l)) sat) ∧
    LaneOp (.vfma g vd va vb ty rm) g vd ty
      (fun s l => by_ (fun f => f.fma (rmOf rm) (A s l) (B s l) (D s l)) (I (A s l) * I (B s l) + I (D s l)) sat) ∧
    LaneOp (.vmin g vd va vb ty) g vd ty (fun s l => by_ (fun f => f.min (A s l) (B s l)) (min (I (A s l)) (I (B s l))) false) ∧
    LaneOp (.vmax g vd va vb ty) g vd ty (fun s l => by_ (fun f => f.max (A s l) (B s l)) (max (I (A s l)) (I (B s l))) false) ∧
    LaneOp (.vabs g vd va ty rm) g vd ty (fun s l => by_ (fun f => (f.abs (A s l), stNone)) (I (A s l)).natAbs sat) ∧
    LaneOp (.vneg g vd va ty rm) g vd ty (fun s l => by_ (fun f => (f.negate (A s l), stNone)) (-I (A s l)) sat) ∧
    LaneOp (.vadds g vd va vb ty rm) g vd ty
      (fun s l => by_ (fun f => f.addHalf (rmOf rm) (A s l) (B s l)) ((I (A s l) + I (B s l)) / 2) false) ∧
    LaneOp (.vsubs g vd va vb ty rm) g vd ty
      (fun s l => by_ (fun f => f.subHalf (rmOf rm) (A s l) (B s l)) ((I (A s l) - I (B s l)) / 2) false) ∧
    LaneOp (.vmulh g vd va vb ty) g vd ty
      (fun s l => (((I (A s l) * I (B s l) / 2 ^ w) % 2 ^ w).toNat, stNone))

/-- R151–R154: logic on whole columns; shifts, compares and selects by lane; `VACS` with its 2,048 decision bits.
R155–R160: the ops that move columns and lanes, by row and column; `VDECMV`, `VEXT` and `VINS` with an operand out of range
note a streaming fault `OPERAND_RANGE` with the operand in `TRAPINFO1`. -/
def Obligations.VectorLogicAndMoves : Prop :=
  (∀ (g : Bool) (vd va vb : Spec) (ty : BitVec 4) (cond : BitVec 2),
    let A := fun (s : State) (l : Nat) => (s.here.vreg va).lane ty l
    let B := fun (s : State) (l : Nat) => (s.here.vreg vb).lane ty l
    let D := fun (s : State) (l : Nat) => (s.here.vreg vd).lane ty l
    let w := tyWidth ty
    let ones := fun (b : Bool) => if b then 2 ^ w - 1 else 0
    let a16 := fun (s : State) (l : Nat) => readInt true 16 ((s.here.vreg va).lane 5 l)
    let b16 := fun (s : State) (l : Nat) => readInt true 16 ((s.here.vreg vb).lane 5 l)
    ColumnOp (.vand g vd va vb ty) g vd (fun s k => mget 0 k (s.here.vreg va) &&& mget 0 k (s.here.vreg vb)) ∧
    ColumnOp (.vor g vd va vb ty) g vd (fun s k => mget 0 k (s.here.vreg va) ||| mget 0 k (s.here.vreg vb)) ∧
    ColumnOp (.vxor g vd va vb ty) g vd (fun s k => mget 0 k (s.here.vreg va) ^^^ mget 0 k (s.here.vreg vb)) ∧
    LaneOp (.vshl g vd va vb ty) g vd ty (fun s l => (A s l * 2 ^ B s l % 2 ^ w, stNone)) ∧
    LaneOp (.vshr g vd va vb ty) g vd ty (fun s l => (A s l / 2 ^ B s l, stNone)) ∧
    LaneOp (.vsar g vd va vb ty) g vd ty (fun s l => ((readInt true w (A s l) / 2 ^ B s l % 2 ^ w).toNat, stNone)) ∧
    LaneOp (.vcmp g vd va vb ty cond) g vd ty (fun s l =>
      match tyFmt ty with
      | some f => (ones (f.cmp (cond.setWidth 3) (A s l) (B s l)).1, (f.cmp (cond.setWidth 3) (A s l) (B s l)).2)
      | none =>
        let a := laneInt ty (A s l)
        let b := laneInt ty (B s l)
        (ones (if cond = 0 then a == b else if cond = 1 then a != b else if cond = 2 then a < b else a ≤ b), stNone)) ∧
    LaneOp (.vsel g vd va vb ty) g vd ty (fun s l => (if (D s l).testBit (w - 1) then A s l else B s l, stNone)) ∧
    (∀ s : State, s.streams 4 g (.vacs g vd va vb) → s.vectorsReady (.vacs g vd va vb) →
      ∃ (v : VReg) (dec : BitVec 2048),
        (∀ l < 2048, readInt true 16 (v.lane 5 l) = min (a16 s l) (b16 s l) ∧ dec.getLsbD l = decide (b16 s l < a16 s l)) ∧
        exec (.vacs g vd va vb) s = .next (s.streamed 4 (.vacs g vd va vb) fun c =>
          { c.takesVec vd v false stNone with vdec := dec }))) ∧
  (∀ (g : Bool) (vd va vb d n x y : Spec) (ty : BitVec 4) (half : Bool),
    let col := fun (s : State) (v : Spec) (i j : Nat) => (s.here.vreg v).col i j
    let P := 64 * lanesPerCol ty
    let w := tyWidth ty
    let range := fun (i : Instr) (s : State) (v : Word) => ∃ t, exec i s = .next t ∧ s.notes t 4 { cause := 0x04, slot := 4, info1 := v }
    ColumnOp (.vrotr g vd va n) g vd (fun s k => col s va (k / 64) ((k % 64 + (64 - (s.opnd n).toNat % 64)) % 64)) ∧
    ColumnOp (.vrotc g vd va n) g vd (fun s k => col s va ((k / 64 + (16 - (s.opnd n).toNat % 16)) % 16) (k % 64)) ∧
    ColumnOp (.vbcr g vd va n) g vd (fun s k => col s va ((s.opnd n).toNat % 16) (k % 64)) ∧
    ColumnOp (.vbcc g vd va n) g vd (fun s k => col s va (k / 64) ((s.opnd n).toNat % 64)) ∧
    ColumnOp (.vtrn g vd va) g vd (fun s k => col s va (k % 64 % 16) (16 * (k % 64 / 16) + k / 64)) ∧
    ColumnOp (.vmov g vd va) g vd (fun s k => mget 0 k (s.here.vreg va)) ∧
    LaneOp (.vshuf g vd va vb ty) g vd ty
      (fun s l => ((s.here.vreg va).lane ty (l / P * P + (s.here.vreg vb).lane ty l % P), stNone)) ∧
    LaneOp (.vsplat g vd x ty) g vd ty (fun s _ => ((s.opnd x).toNat, stNone)) ∧
    LaneOp (.viota g vd ty) g vd ty (fun _ l => (if ty = 0 then (fp32.ofInt .rne l).1 else l, stNone)) ∧
    (∀ s : State, s.streams 4 g (.vins g vd x y ty) → s.vectorsReady (.vins g vd x y ty) →
      (laneCount ty ≤ (s.opnd x).toNat → range (.vins g vd x y ty) s (s.opnd x)) ∧
      ((s.opnd x).toNat < laneCount ty → ∃ v,
        LanesAre ty (fun l => (if l = (s.opnd x).toNat then (s.opnd y).toNat else (s.here.vreg vd).lane ty l, stNone)) v stNone ∧
        exec (.vins g vd x y ty) s = .next (s.streamed 4 (.vins g vd x y ty) fun c => c.takesVec vd v false stNone))) ∧
    (∀ s : State, s.streams 4 g (.vext g d va x ty) → s.vectorsReady (.vext g d va x ty) →
      (laneCount ty ≤ (s.opnd x).toNat → range (.vext g d va x ty) s (s.opnd x)) ∧
      ((s.opnd x).toNat < laneCount ty →
        let l := (s.here.vreg va).lane ty (s.opnd x).toNat
        exec (.vext g d va x ty) s = .next (s.streamed 4 (.vext g d va x ty) fun c =>
          c.takes d (BitVec.ofInt 64 (if tySigned ty ∧ 2 ^ (w - 1) ≤ l then (l : Int) - 2 ^ w else l)) false))) ∧
    (∀ s : State, s.streams 4 g (.vdecmv g d x half) →
      (16 ≤ (s.opnd x).toNat → range (.vdecmv g d x half) s (s.opnd x)) ∧
      ((s.opnd x).toNat < 16 →
        exec (.vdecmv g d x half) s = .next (s.streamed 4 (.vdecmv g d x half) fun c =>
          c.takes d (c.vdec.extractLsb' (128 * (s.opnd x).toNat + 64 * half.toNat) 64) false))))

/-- R161–R163, R135: reductions by the fixed tree, conversions by the rule of the two types. -/
def Obligations.VectorReduceAndConvert : Prop :=
  ∀ (g sat : Bool) (vd va : Spec) (ty dst : BitVec 4) (kind rm : BitVec 2),
    let N := lanesPerCol ty
    let A := fun (s : State) (l : Nat) => (s.here.vreg va).lane ty l
    let op : Nat → Nat → Nat × Status := fun a b =>
      if kind = 0 then
        match tyFmt ty with
        | some f => f.add .rne a b
        | none => deliverInt ty sat (laneInt ty a + laneInt ty b)
      else if kind = 1 then
        match tyFmt ty with
        | some f => f.max a b
        | none => deliverInt ty false (max (laneInt ty a) (laneInt ty b))
      else
        match tyFmt ty with
        | some f => f.min a b
        | none => deliverInt ty false (min (laneInt ty a) (laneInt ty b))
    LaneOp (.vredr g vd va sat ty kind) g vd ty (fun s l =>
      reduceTree op 6 ((List.range 64).map fun j => (A s ((l / N / 64 * 64 + j) * N + l % N), stNone))) ∧
    LaneOp (.vredc g vd va sat ty kind) g vd ty (fun s l =>
      reduceTree op 4 ((List.range 16).map fun i => (A s ((64 * i + l / N % 64) * N + l % N), stNone))) ∧
    LaneOp (.vcvt g vd va dst ty rm) g vd dst (fun s l =>
      if laneCount ty ≤ l then (0, stNone)
      else
        match tyFmt ty, tyFmt dst with
        | some f, some h => convert f h (rmOf rm) (A s l)
        | none, some h => h.ofInt (rmOf rm) (laneInt ty (A s l))
        | some f, none =>
          let p := (f.decode (A s l)).toInt (rmOf rm) (tySigned dst) (tyWidth dst)
          ((p.1 % 2 ^ tyWidth dst).toNat, p.2)
        | none, none => deliverInt dst (rm.getLsbD 0) (laneInt ty (A s l)))

/-- R164–R169: the function ops apply their algorithms to every f32 lane; and the results that R165 and R166 state outright:
a NaN gives the canonical NaN with `IV` where it is signaling, infinities, zeros and negative operands, a `VEXP2` out of
range, and the exact powers of two. -/
def Obligations.VectorFunctions : Prop :=
  (∀ (g : Bool) (vd va : Spec),
    LaneOp (.vexp2 g vd va) g vd 0 (fun s l => laneExp2 ((s.here.vreg va).lane 0 l)) ∧
    LaneOp (.vlog2 g vd va) g vd 0 (fun s l => laneLog2 ((s.here.vreg va).lane 0 l)) ∧
    LaneOp (.vrcp g vd va) g vd 0 (fun s l => laneRcp ((s.here.vreg va).lane 0 l)) ∧
    LaneOp (.vrsq g vd va) g vd 0 (fun s l => laneRsq ((s.here.vreg va).lane 0 l))) ∧
  (∀ x < 2 ^ 32, 0x7F800000 < x % 2 ^ 31 →
    let r := (0x7FC00000, if x % 2 ^ 23 < 2 ^ 22 then stIV else stNone)
    laneExp2 x = r ∧ laneLog2 x = r ∧ laneRcp x = r ∧ laneRsq x = r) ∧
  laneExp2 0x7F800000 = (0x7F800000, stNone) ∧ laneExp2 0xFF800000 = (0, stNone) ∧
  laneExp2 0 = (0x3F800000, stNone) ∧ laneExp2 0x80000000 = (0x3F800000, stNone) ∧
  (∀ x, 0x43000000 ≤ x → x < 0x7F800000 → laneExp2 x = (0x7F800000, stOF ||| stIX)) ∧
  (∀ x, 0xC3200000 < x → x < 0xFF800000 → laneExp2 x = (0, stUF ||| stIX)) ∧
  laneLog2 0x7F800000 = (0x7F800000, stNone) ∧ laneLog2 0 = (0xFF800000, stDZ) ∧ laneLog2 0x80000000 = (0xFF800000, stDZ) ∧
  laneRcp 0x7F800000 = (0, stNone) ∧ laneRcp 0xFF800000 = (0x80000000, stNone) ∧
  laneRcp 0 = (0x7F800000, stDZ) ∧ laneRcp 0x80000000 = (0xFF800000, stDZ) ∧
  laneRsq 0x7F800000 = (0, stNone) ∧ laneRsq 0 = (0x7F800000, stDZ) ∧ laneRsq 0x80000000 = (0xFF800000, stDZ) ∧
  (∀ x, 0x80000000 < x → x ≤ 0xFF800000 → laneLog2 x = (0x7FC00000, stIV) ∧ laneRsq x = (0x7FC00000, stIV)) ∧
  (∀ x, 0 < x → x < 0x7F800000 → laneRcp (x + 0x80000000) = ((laneRcp x).1 + 0x80000000, (laneRcp x).2)) ∧
  (∀ n : Int, -149 ≤ n → n ≤ 127 → laneExp2 (fp32.ofInt .rne n).1 =
    (if -126 ≤ n then (n + 127).toNat * 2 ^ 23 else 2 ^ (n + 149).toNat, stNone)) ∧
  ∀ k < 254, 0 < k → laneRcp (k * 2 ^ 23) = ((254 - k) * 2 ^ 23, stNone) ∧ laneLog2 (k * 2 ^ 23) = fp32.ofInt .rne ((k : Int) - 127)

/-- R67, R63, R100, R24, R41–R44, R69: what issue of a streaming op of S3–S6 does. Held, it changes nothing; with a poisoned
operand it traps; turned off by the guard, it steps its cursor and sets or ends its stickiness; otherwise its entry joins its
queue with the operand values as they stand, its destination is no longer present, and nothing else changes. -/
def Obligations.StreamingIssue : Prop :=
  ∀ (slot : Nat) (g : Bool) (i : Instr) (s : State), slot ∈ [3, 4, 5, 6] → i.slots = [slot] → gBitOf i = g → isNop i = false →
    let u := s.issueAlone slot i
    let e := s.entryNow slot i
    ((g && s.cur.off) = true → exec i s = .next (s.streamed slot i id)) ∧
    ((g && s.cur.off) = false → streamHeld slot i s = true → exec i s = .next s) ∧
    ((g && s.cur.off) = false → streamHeld slot i s = false →
      (∀ sp, firstPoisoned s.here (srcSpecs i) = some sp →
        exec i s = .next (s.takePrecise { cause := 0x0B, slot := slot, detail := sp.toNat })) ∧
      (firstPoisoned s.here (srcSpecs i) = none →
        exec i s = ((u.startHead s.cur.cx slot false).landed).out ∧ OnlyCtx s.cur.cx s u ∧
        u.here.queue slot = s.here.queue slot ++ [e] ∧ (∀ k, k ≠ slot → u.here.queue k = s.here.queue k) ∧
        e.vals = s.captured i ∧ e.rep = s.cur.rep ∧ e.pc = s.cur.pc ∧ e.sys = s.here.sys ∧
        (slot = 3 → e.cur = s.here.cursors.s3) ∧ (slot = 6 → e.cur = s.here.cursors.s6) ∧
        (slot = 5 → e.cur = s.here.cursors.s5s ∧ e.cur2 = s.here.cursors.s5d) ∧
        (∀ d, nWrite i = some d → u.here.regs.pres = s.here.regs.pres &&& ~~~((1 : BitVec 32) <<< namedIdx d)) ∧
        (∀ v, vWrite i = some v → u.here.vpres = s.here.vpres &&& ~~~((1 : Word) <<< v.toNat)) ∧
        (∀ k, u.here.prog.get k = s.here.prog.get k ∧ u.here.shad.get k = s.here.shad.get k) ∧ u.here.v = s.here.v ∧
        u.here.phase = s.here.phase ∧ u.here.sys = s.here.sys ∧ u.here.pc = s.here.pc ∧ u.here.loops = s.here.loops ∧
        u.here.flags = s.here.flags ∧ u.here.fpstatus = s.here.fpstatus))

/-- R202, R217–R220, R222, R223, R332, R349: the loads. Each reads the bytes of the place its address names and writes them to its
destination; a misaligned address, and one that names no place, is noted as a streaming fault. `LDFE`, `LDFF` and `VLDW` wait
for FULL words and `FPOP` for an entry, and perform where nothing that waits is chosen first (R209); `LDFE` leaves its word EMPTY and `FPOP` removes the entry. -/
def Obligations.Loads : Prop :=
  ∀ (g sx : Bool) (d base stride v : Spec) (size : BitVec 2) (off : BitVec 9) (st : BitVec 6) (scope : BitVec 3) (b : Spec)
    (s s1 s2 : State) (p : Piece) (ps : List Piece) (bs : List Byte) (x : Bool) (o key : Nat) (mode : BitVec 2),
    let cx := s.cur.cx
    let cl := clusterOf cx
    let k := s.cluster cl
    let n := 2 ^ size.toNat
    let a := effAddr (s.opnd base) off n s.here.cursors.s3
    let ld := Instr.ld g d base size sx off
    let tagged := fun (i : Instr) (empty : Bool) =>
      s.streams 3 g i → s.unwaited → a % n = 0 → windowOff a = some o → k.scratchOk s.here.launch o n = true → k.switchingIn o n = false →
        (k.wordFull (o / 8) = true →
          exec i s = .next ((if empty then s.updCluster cl fun k => k.setFull (o / 8) 1 false else s).streamed 3 i fun c =>
            c.takes d (loadValue (k.scratchBytes o n) sx) (k.scratchPois o n))) ∧
        (k.wordFull (o / 8) = false → ∃ t, exec i s = .next t ∧ s.standsAt t 3 i (.parked s.tick))
    (s.streams 3 g ld → a % n ≠ 0 → ∃ t, exec ld s = .next t ∧ s.notes t 3 { cause := 0x06, slot := 3, info1 := BitVec.ofNat 64 a }) ∧
    (∀ tr, s.streams 3 g ld → a % n = 0 → s.bankWait cx a n = false → s.planScalar cx (s.entryNow 3 ld) .plain .read a n = .error (s1, tr) →
      ∃ t, exec ld s = .next t ∧ s1.notes t 3 tr) ∧
    (s.streams 3 g ld → a % n = 0 → s.bankWait cx a n = false → s.planScalar cx (s.entryNow 3 ld) .plain .read a n = .ok (s1, p) → (∀ b, p.place ≠ .fifo b 0) →
      s1.reaches cx true true p → s1.readPiece cx true p = some (s2, bs, x) →
      exec ld s = .next (s2.streamed 3 ld fun c => c.takes d (loadValue bs sx) x)) ∧
    (∀ q, s.streams 3 g ld → s.unwaited → a % n = 0 → s.planScalar cx (s.entryNow 3 ld) .plain .read a n = .ok (s, { place := .fifo q 0, len := n }) →
      k.switching.getLsbD q = false →
      (∀ y rest, k.fifo q = y :: rest →
        exec ld s = .next ((s.updCluster cl fun k => k.setFifo q rest).streamed 3 ld fun c => c.takes d y.1 y.2)) ∧
      (k.fifo q = [] → ∃ t, exec ld s = .next t ∧ s.standsAt t 3 ld (.parked s.tick))) ∧
    tagged (.ldfe g d base size sx off) true ∧ tagged (.ldff g d base size sx off) false ∧
    (let i := Instr.lda g d base size sx scope
     let a := wrap64 ((s.opnd base).toNat + s.here.cursors.s3)
     s.streams 3 g i → a % n = 0 → s.planScalar cx (s.entryNow 3 i) .memOnly .read a n = .ok (s1, p) → p.place = .mem key mode →
       let p' : Piece := { p with place := .mem key (if mode = 2 then 1 else mode) }
       (s1.bypass cx false p).reaches cx false true p' → (s1.bypass cx false p).readPiece cx false p' = some (s2, bs, false) →
       let t := if 3 ≤ scope.toNat then s2.dropClean cl else s2
       let t := if 6 ≤ scope.toNat then t.updDie (dieOf cx) fun y => { y with epoch := y.epoch + 1 } else t
       exec i s = .next (t.streamed 3 i fun c => c.takes d (loadValue bs sx) false)) ∧
    (let i := Instr.ldxs g d base sx off
     let a := effAddr (s.opnd base) off 4 s.here.cursors.s3
     s.streams 3 g i → a % 64 = 0 → s.planScalar cx (s.entryNow 3 i) .memOnly .read a 64 = .ok (s1, p) → p.place = .mem key mode →
       let p' : Piece := { p with place := .mem key (if mode = 2 then 1 else mode) }
       (∃ w, (s1.die (dieOf cx)).windowOf key = some w ∧ w.exact = true) →
       (s1.bypass cx false p).reaches cx false true p' → (s1.bypass cx false p).readPiece cx false p' = some (s2, bs, x) →
       exec i s = .next (s2.streamed 3 i fun c => c.takes d (BitVec.ofNat 64 (cellOfBytes bs).read) x)) ∧
    (let i := Instr.vld g v base stride st
     s.streams 3 g i → s.tileWait cx (s.entryNow 3 i) (s.opnd base) (s.opnd stride) = false →
     (s.planTile cx (s.entryNow 3 i) .tile .read (s.opnd base) (s.opnd stride) = .ok (s1, ps) →
       (∀ p ∈ ps, s1.reaches cx true true p) → s1.readPieces cx true ps = some (s2, bs, x) →
       exec i s = .next (s2.streamed 3 i fun c => c.takesVec v (tileOfBytes bs) x stNone)) ∧
     (∀ tr, s.planTile cx (s.entryNow 3 i) .tile .read (s.opnd base) (s.opnd stride) = .error (s1, tr) →
       ∃ t, exec i s = .next t ∧ s1.notes t 3 tr)) ∧
    (let i := Instr.vldw g v base stride st
     s.streams 3 g i → s.unwaited → s.tileWait cx (s.entryNow 3 i) (s.opnd base) (s.opnd stride) = false →
       s.planTile cx (s.entryNow 3 i) .scratchOnly .read (s.opnd base) (s.opnd stride) = .ok (s1, ps) →
       ((∀ p ∈ ps, ∀ o, p.place = .scratch o → k.allFull (o / 8) 32 = true) → s1.readPieces cx false ps = some (s2, bs, x) →
         exec i s = .next (s2.streamed 3 i fun c => c.takesVec v (tileOfBytes bs) x stNone)) ∧
       ((∃ p ∈ ps, ∃ o, p.place = .scratch o ∧ k.allFull (o / 8) 32 = false) →
         ∃ t, exec i s = .next t ∧ s.standsAt t 3 i (.parked s.tick))) ∧
    (let i := Instr.fpop g d b
     s.streams 3 g i → s.unwaited → k.modeFor s.here.launch b.toNat = 3 → k.switching.getLsbD b.toNat = false →
       (∀ y rest, k.fifo b.toNat = y :: rest →
         exec i s = .next ((s.updCluster cl fun k => k.setFifo b.toNat rest).streamed 3 i fun c => c.takes d y.1 y.2)) ∧
       (k.fifo b.toNat = [] → ∃ t, exec i s = .next t ∧ s.standsAt t 3 i (.parked s.tick)))

/-- R202, R208, R217–R223, R350, R352: the stores. Each writes its bytes to the place its address names, and no register changes;
`STEF`, `STFF` and `VSTF` leave their words FULL, `STEF` waits for an EMPTY word, `FPUSH` for room, each where nothing that waits is chosen first (R209), and `FEINIT` sets the tags
of a run of words. -/
def Obligations.Stores : Prop :=
  ∀ (g fill : Bool) (src base stride v : Spec) (size : BitVec 2) (off : BitVec 9) (st : BitVec 6) (scope : BitVec 3) (b : Spec)
    (s s1 s2 : State) (p : Piece) (ps : List Piece) (o key : Nat) (mode : BitVec 2),
    let cx := s.cur.cx
    let cl := clusterOf cx
    let k := s.cluster cl
    let n := 2 ^ size.toNat
    let a := effAddr (s.opnd base) off n s.here.cursors.s3
    let bs := bytesOfWord n (s.opnd src)
    let noting := fun (ps : List Piece) (c : Ctx) => { c with unpersisted := c.unpersisted ++ scmLines ps }
    let str := Instr.st g src base size off
    let tagged := fun (i : Instr) (cond : Bool) =>
      s.streams 3 g i → s.unwaited → a % n = 0 → windowOff a = some o → k.scratchOk s.here.launch o n = true → k.switchingIn o n = false →
        ((cond && k.wordFull (o / 8)) = false →
          exec i s = .next ((s.updCluster cl fun k => (k.scratchWrite o bs false).setFull (o / 8) 1 true).streamed 3 i id)) ∧
        ((cond && k.wordFull (o / 8)) = true → ∃ t, exec i s = .next t ∧ s.standsAt t 3 i (.parked s.tick))
    (s.streams 3 g str → a % n ≠ 0 →
      ∃ t, exec str s = .next t ∧ s.notes t 3 { cause := 0x06, slot := 3, info1 := BitVec.ofNat 64 a } ∧ t.mem = s.mem) ∧
    (∀ tr, s.streams 3 g str → a % n = 0 → s.bankWait cx a n = false → s.planScalar cx (s.entryNow 3 str) .plain .write a n = .error (s1, tr) →
      ∃ t, exec str s = .next t ∧ s1.notes t 3 tr ∧ t.mem = s.mem) ∧
    (s.streams 3 g str → a % n = 0 → s.bankWait cx a n = false → s.planScalar cx (s.entryNow 3 str) .plain .write a n = .ok (s1, p) → (∀ b o, p.place ≠ .fifo b o) →
      s1.reaches cx true false p → s1.writePiece cx true p bs false = some s2 →
      exec str s = .next (s2.streamed 3 str (noting [p]))) ∧
    (∀ q x, s.streams 3 g str → s.unwaited → a % n = 0 → s.planScalar cx (s.entryNow 3 str) .plain .write a n = .ok (s, { place := .fifo q x, len := n }) →
      k.switching.getLsbD q = false →
      ((k.fifo q).length < 32768 →
        exec str s = .next ((s.updCluster cl fun k => k.setFifo q (k.fifo q ++ [(s.opnd src, false)])).streamed 3 str id)) ∧
      (32768 ≤ (k.fifo q).length → ∃ t, exec str s = .next t ∧ s.standsAt t 3 str (.parked s.tick))) ∧
    tagged (.stef g src base size off) true ∧ tagged (.stff g src base size off) false ∧
    (let i := Instr.stl g src base size scope
     let a := wrap64 ((s.opnd base).toNat + s.here.cursors.s3)
     s.streams 3 g i → a % n = 0 → s.planScalar cx (s.entryNow 3 i) .memOnly .write a n = .ok (s1, p) → p.place = .mem key mode →
       let u := (if 3 ≤ scope.toNat then s1.writeBackAll cl else s1).bypass cx false p
       u.reaches cx false false p → u.writePiece cx false p bs false = some s2 →
       exec i s = .next (s2.streamed 3 i (noting [p]))) ∧
    (let i := Instr.vst g v base stride st
     s.streams 3 g i → s.here.vvalid.getLsbD v.toNat = true →
       s.tileWait cx (s.entryNow 3 i) (s.opnd base) (s.opnd stride) = false →
       s.planTile cx (s.entryNow 3 i) .tile .write (s.opnd base) (s.opnd stride) = .ok (s1, ps) →
       (∀ p ∈ ps, s1.reaches cx true false p) →
       s1.storeParts cx (s.entryNow 3 i) true (s.here.vpois.getLsbD v.toNat) (wholeLines ps) ps (bytesOfTile (s.here.vreg v)) = some s2 →
       exec i s = .next (s2.streamed 3 i (noting ps))) ∧
    (let i := Instr.vstf g v base stride st
     s.streams 3 g i → s.here.vvalid.getLsbD v.toNat = true →
       s.tileWait cx (s.entryNow 3 i) (s.opnd base) (s.opnd stride) = false →
       s.planTile cx (s.entryNow 3 i) .scratchOnly .write (s.opnd base) (s.opnd stride) = .ok (s1, ps) →
       s1.writePieces cx false (s.here.vpois.getLsbD v.toNat) ps (bytesOfTile (s.here.vreg v)) = some s2 →
       exec i s = .next ((s2.updCluster cl fun k =>
         (scratchOffs ps).foldl (fun k o => k.setFull (o / 8) 32 true) k).streamed 3 i id)) ∧
    (let i := Instr.fpush g src b
     let l := k.fifo b.toNat
     s.streams 3 g i → s.unwaited → k.modeFor s.here.launch b.toNat = 3 → k.switching.getLsbD b.toNat = false →
       (l.length < 32768 →
         exec i s = .next ((s.updCluster cl fun k => k.setFifo b.toNat (l ++ [(s.opnd src, false)])).streamed 3 i id)) ∧
       (32768 ≤ l.length → ∃ t, exec i s = .next t ∧ s.standsAt t 3 i (.parked s.tick))) ∧
    (let i := Instr.feinit g src base fill
     let a := wrap64 ((s.opnd base).toNat + s.here.cursors.s3)
     let cnt := (s.opnd src).toNat
     s.streams 3 g i →
       (cnt = 0 → exec i s = .next (s.streamed 3 i id)) ∧
       (0 < cnt → a % 8 ≠ 0 → ∃ t, exec i s = .next t ∧ s.notes t 3 { cause := 0x06, slot := 3, info1 := BitVec.ofNat 64 a }) ∧
       (0 < cnt → a % 8 = 0 → windowOff a = some o → o < 0x800000 → k.scratchOk s.here.launch o (8 * cnt) = true →
         k.switchingIn o (8 * cnt) = false →
         exec i s = .next ((s.updCluster cl fun k => k.setFull (o / 8) cnt fill).streamed 3 i id)))

/-- R330, R329, R321: an atomic homed on the die itself, outside every window, returns the old value and leaves the new one, and
touches no other byte; on a poisoned line it notes `POISON_ATOMIC` and writes nothing. -/
def Obligations.Atomics : Prop :=
  ∀ (g dbl : Bool) (d addr opd : Spec) (s s1 s2 : State) (p : Piece) (bs : List Byte) (key : Nat) (mode : BitVec 2) (x : Bool),
    let cx := s.cur.cx
    let n := if dbl then 8 else 4
    let w := 8 * n
    let y := (s.opnd opd).toNat % 2 ^ w
    let sgn := fun (z : Nat) => readInt true w z
    let old := natOfBytes bs
    let does := fun (i : Instr) (new : Option Nat) =>
      let a := (s.opnd addr).toNat
      s.streams 3 g i → a % n = 0 → s.planScalar cx (s.entryNow 3 i) .memOnly .both a n = .ok (s1, p) → p.place = .mem key mode →
        isHost key = false → homeDie key = dieOf cx → (s1.die (dieOf cx)).windowOf key = none →
        let u := s1.bypass cx true p
        (if mode = 3 then u.countMigration key (dieOf cx) else u).homeRead key n = some (s2, bs, x) →
          (x = false →
            exec i s = .next ((match new with
              | none => s2
              | some z => s2.homeWrite key (bytesOfNat n z) false).streamed 3 i fun c => c.takesIf d (BitVec.ofNat 64 old))) ∧
          (x = true → ∃ t, exec i s = .next t ∧ t.mem = s2.mem ∧
            t.here.sfault = s.here.sfault ++ [{ slot := 3, ord := s.here.ord, trap := { cause := 0x0C, slot := 3, info1 := s.opnd addr }, drop := false }])
    does (.afadd g d addr opd dbl) (some ((old + y) % 2 ^ w)) ∧
    does (.afmin g d addr opd dbl) (if sgn y < sgn old then some y else none) ∧
    does (.afmax g d addr opd dbl) (if sgn old < sgn y then some y else none) ∧
    does (.afand g d addr opd dbl) (some (old &&& y)) ∧
    does (.afor g d addr opd dbl) (some (old ||| y)) ∧
    does (.afxor g d addr opd dbl) (some (old ^^^ y)) ∧
    does (.axchg g d addr opd dbl) (some y) ∧
    does (.acas g d addr opd dbl) (if old = (s.opnd d).toNat % 2 ^ w then some y else none)

/-- R312, R314, R317, R331, R357–R360: the requests that leave for their home. `LD` and `ST` send one where the home is another die
and no local copy or owned line serves; `AFADDF` sends its operand as an exact partial cell, `ST` and `STT` their bytes, `LD` and
`LDNB` nothing, each numbered in its flow; a strict `STT` waits for its answer. The destination is not present meanwhile. -/
def Obligations.RequestsSent : Prop :=
  ∀ (g strict sx : Bool) (d src base time : Spec) (size : BitVec 2) (off : BitVec 9) (s s1 : State) (p : Piece) (key : Nat)
    (mode : BitVec 2),
    let cx := s.cur.cx
    let die := dieOf cx
    let n := 2 ^ size.toNat
    let b := effAddr (s.opnd base) off n s.here.cursors.s3
    let a := wrap64 ((s.opnd base).toNat + s.here.cursors.s3)
    let u := s1.bypass cx true p
    let sent := fun (m : State) (i : Instr) (kind : PktKind) (t : State) (x : Packet) =>
      exec i s = .next t ∧ t.pkt s.nextPkt = some x ∧ t.nextPkt = s.nextPkt + 1 ∧ t.mem = m.mem ∧ x.cx = cx ∧ x.die = die ∧
        x.home = homeDie key ∧ x.kind = kind ∧ x.pieces = [p] ∧ x.stage = .going ∧ x.entry.vals = s.captured i ∧
        x.seq = (mget {} (flowId (homeDie key) kind) (s.die die).flows).next ∧ (∀ k, t.here.prog.get k = s.here.prog.get k ∧ t.here.shad.get k = s.here.shad.get k) ∧
        (∀ e, nWrite i = some e → t.here.regs.pres.getLsbD (namedIdx e) = false)
    (∀ kind, (mget {} (flowId (homeDie key) kind) (s.die die).flows).unacked.length < 512) → p.place = .mem key mode → isHost key = false →
    (∀ id, s.nextPkt ≤ id → s.pkt id = none) →
    (let i := Instr.ld g d base size sx off
     s.streams 3 g i → b % n = 0 → s.planScalar cx (s.entryNow 3 i) .plain .read b n = .ok (s1, p) →
       s1.remotePiece cx true true p = true →
       ∃ t x, sent s1 i .load t x ∧ x.bytes = [] ∧ x.entry.instr = some i ∧ t.here.queue 3 = []) ∧
    (let i := Instr.st g src base size off
     s.streams 3 g i → b % n = 0 → s.planScalar cx (s.entryNow 3 i) .plain .write b n = .ok (s1, p) →
       s1.remotePiece cx true false p = true →
       ∃ t x, sent s1 i .store t x ∧ x.bytes = bytesOfWord n (s.opnd src) ∧ x.poison = false ∧ t.here.queue 3 = [] ∧
         t.here.unpersisted = s.here.unpersisted ++ scmLines [p]) ∧
    (let i := Instr.stt g src base time size strict
     s.streams 3 g i → a % n = 0 → s.planScalar cx (s.entryNow 3 i) .memOnly .write a n = .ok (s1, p) →
       (strict = true → (s.die die).mtskew.getLsbD 0 = false →
         ∃ t, exec i s = .next t ∧ s1.notes t 3 { cause := 0x19, slot := 3, info1 := BitVec.ofNat 64 a }) ∧
       (strict = false ∨ (s.die die).mtskew.getLsbD 0 = true → ∃ t x, sent u i .transit t x ∧ x.bytes = bytesOfWord n (s.opnd src) ∧
         (strict = false → t.here.queue 3 = []) ∧
         (strict = true → ∃ e, t.here.queue 3 = [e] ∧ e.phase = .sent s.nextPkt))) ∧
    (let i := Instr.ldnb g d base time size strict
     s.streams 3 g i → a % n = 0 → s.planScalar cx (s.entryNow 3 i) .memOnly .read a n = .ok (s1, p) →
       (strict = true → (s.die die).mtskew.getLsbD 0 = false →
         ∃ t, exec i s = .next t ∧ s1.notes t 3 { cause := 0x19, slot := 3, info1 := BitVec.ofNat 64 a }) ∧
       (strict = false ∨ (s.die die).mtskew.getLsbD 0 = true → ∃ t x, sent u i .transit t x ∧ x.bytes = [] ∧ t.here.queue 3 = [])) ∧
    (let i := Instr.afaddf g d base time size
     let a := (s.opnd base).toNat
     s.streams 3 g i → a % 64 = 0 → s.planScalar cx (s.entryNow 3 i) .memOnly .both a 64 = .ok (s1, p) →
       (∃ w, (s.die die).windowOf key = some w ∧ w.exact = true) →
       ∃ t x, sent u i .atomic t x ∧ x.windowed = true ∧ x.cell = partialOf size (s.opnd time).toNat ∧ t.here.queue 3 = [])

/-- R362, R363: `WAITA` on memory of its own die returns the observed value once its condition holds, and watches the location
until then. -/
def Obligations.WaitOnMemory : Prop :=
  ∀ (g dbl : Bool) (d addr opd : Spec) (cond : BitVec 4) (s s1 s2 : State) (p : Piece) (bs : List Byte) (key : Nat) (mode : BitVec 2),
    let cx := s.cur.cx
    let n := if dbl then 8 else 4
    let w := 8 * n
    let i := Instr.waita g d addr opd dbl cond
    let a := wrap64 ((s.opnd addr).toNat + s.here.cursors.s3)
    let o := natOfBytes bs
    let e := (s.opnd opd).toNat % 2 ^ w
    let holds : Prop :=
      (cond = 0 ∧ o = e) ∨ (cond = 1 ∧ o ≠ e) ∨ (cond = 2 ∧ o < e) ∨ (cond = 3 ∧ e ≤ o) ∨
      (cond = 4 ∧ readInt true w o < readInt true w e) ∨ (cond = 5 ∧ readInt true w e ≤ readInt true w o) ∨
      (cond = 6 ∧ (o + 2 ^ w - e) % 2 ^ w < 2 ^ (w - 1)) ∨ (cond = 7 ∧ 2 ^ (w - 1) ≤ (o + 2 ^ w - e) % 2 ^ w) ∨
      (cond = 8 ∧ o &&& e ≠ 0) ∨ (cond = 9 ∧ o &&& e = 0)
    s.streams 3 g i → a % n = 0 → s.planScalar cx (s.entryNow 3 i) .memOnly .read a n = .ok (s1, p) → p.place = .mem key mode →
      let p' : Piece := { p with place := .mem key (if mode = 2 then 1 else mode) }
      (s1.bypass cx false p).reaches cx false true p' → (s1.bypass cx false p).readPiece cx false p' = some (s2, bs, false) →
      (holds → exec i s = .next (s2.streamed 3 i fun c => c.takesIf d (BitVec.ofNat 64 o))) ∧
      (¬holds → ∃ t, exec i s = .next t ∧ t.mem = s2.mem ∧ ∃ q, t.here.queue 3 = [q] ∧ q.phase = .watching)

/-- R224, R309, R310, R347, R348: the ordering ops with nothing outstanding before them: `FENCE` and `DRAIN` end at once, a wide
scope writing the cluster cache back; `PERSIST` ends when no SCM line waits, and otherwise at `PERSIST_COMPLETE`; `CFLUSH` writes
back and invalidates its line, and notes `ALIGN` for an address that is no multiple of 8; `PREF` changes no register and never traps. -/
def Obligations.OrderingAndHints : Prop :=
  ∀ (g hint : Bool) (base : Spec) (size : BitVec 2) (off : BitVec 9) (scope : BitVec 3) (s s1 : State) (p : Piece) (key : Nat)
    (mode : BitVec 2),
    let cx := s.cur.cx
    let cl := clusterOf cx
    let wide := fun (s : State) => if 3 ≤ scope.toNat then s.writeBackAll cl else s
    (s.streams 3 g (.fence g scope) → exec (.fence g scope) s = .next ((wide s).streamed 3 (.fence g scope) id)) ∧
    (s.streams 3 g (.drain g scope) → exec (.drain g scope) s = .next ((wide s).streamed 3 (.drain g scope) id)) ∧
    (s.streams 3 g (.persist g scope) →
      (s.here.unpersisted = [] → exec (.persist g scope) s = .next ((wide s).streamed 3 (.persist g scope) id)) ∧
      (s.here.unpersisted ≠ [] → s.here.frozen = false → ∃ t, exec (.persist g scope) s = .next t ∧ (∃ e, t.here.queue 3 = [e]) ∧
        ∃ t', exec (.persistComplete cx) t = .next t' ∧ t'.here.queue 3 = [] ∧ t'.here.unpersisted = [])) ∧
    (let i := Instr.cflush g base off
     let a := effAddr (s.opnd base) off 8 s.here.cursors.s3
     s.streams 3 g i →
       (a % 8 ≠ 0 → ∃ t, exec i s = .next t ∧ s.notes t 3 { cause := 0x06, slot := 3, info1 := BitVec.ofNat 64 a }) ∧
       (a % 8 = 0 → s.planScalar cx (s.entryNow 3 i) .memOnly .read a 8 = .ok (s1, p) → p.place = .mem key mode →
         exec i s = .next ((s1.flushCached cl key).streamed 3 i id))) ∧
    (let i := Instr.pref g hint base size off
     s.streams 3 g i → ∃ t, exec i s = .next t ∧ t.here = (s.streamed 3 i id).here ∧
       ((s.cluster cl).ways s.here.launch = [] → ∀ a, t.byte a = s.byte a))

/-- R173, R178, R180, R182, R187: an `MBEAT` waits in its queue and its `BEAT` moves the array by one: the pipeline loses its oldest
entry and gains the column sums of the A vector with the active plane, or a bubble; the emerging row goes to its row of the
accumulator bank by the out-action; every other row and everything else stays. A context without the array takes `MATRIX_BUSY`,
and a push with a poisoned active plane `POISON_USE`, without a beat. One that is to read a register whose slot is invalid waits
for its fill (R144). -/
def Obligations.MatrixBeat : Prop :=
  ∀ (g push wload wswap : Bool) (kind out : BitVec 2) (src : Spec) (bank : BitVec 3) (row : BitVec 7) (s : State),
    let i := Instr.mbeat g push kind src out bank row wload wswap
    let cx := s.cur.cx
    let k := s.core (coreOf cx)
    let a1 := if wload then k.arr.wload else k.arr
    let a := if wswap then a1.wswap else a1
    let r := ((row.toNat + s.here.cursors.s5d) % 128).toNat
    let c := s.here.cursors.s5s
    s.streams 5 g i → s.here.frozen = false →
    (∃ t, exec i s = .next t ∧ s.standsAt t 5 i .queued) ∧
    ((∀ v ∈ vReads i, s.here.vvalid.getLsbD v.toNat = true) → ∃ t, exec i s = .next t ∧ s.standsAt t 5 i .queued ∧ OnlyCtx cx s t ∧
      (s.here.holder = false → ∃ t', exec (.beat cx) t = .next t' ∧ s.notes t' 5 { cause := 0x18, slot := 5, info1 := 0 }) ∧
      (let beats := fun (u : State) (v : Option (List Byte)) =>
        (push = true → a.activePois = true →
          ∃ t' v, exec (.beat cx) u = .next t' ∧ s.notes t' 5 { cause := 0x0B, slot := 5, info1 := v }) ∧
        (push = false ∨ a.activePois = false →
          let entry := v.map fun v => { vals := columnSums (if kind = 2 then k.arr.dfmt else k.arr.afmt) a.wfmt v a.active, poison := false : PipeRow }
          let old := (k.arr.pipe.head?).join
          ∃ k', exec (.beat cx) u = .next ((s.streamed 5 i id).setCore (coreOf cx) k') ∧
            k' = { k with arr := { a with pipe := k.arr.pipe.drop 1 ++ [entry] }, acc := k'.acc, accPois := k'.accPois, beatRow := k'.beatRow } ∧
            (∀ b x, b ≠ bank.toNat ∨ x % 128 ≠ r → k'.accRow b x = k.accRow b x ∧ k'.accPoisoned b x = k.accPoisoned b x) ∧
            (out = 1 → k'.accRow bank.toNat r = ((old.map PipeRow.vals).getD accZero) ∧
              k'.accPoisoned bank.toNat r = ((old.map PipeRow.poison).getD false)) ∧
            (∀ x, out = 2 → old = some x →
              k'.accRow bank.toNat r = accAddRow (matInt k.arr.afmt) (k.accRow bank.toNat r) x.vals ∧
              k'.accPoisoned bank.toNat r = (k.accPoisoned bank.toNat r || x.poison)) ∧
            (out = 0 ∨ (out = 2 ∧ old = none) → k'.acc = k.acc ∧ k'.accPois = k.accPois))
      s.here.holder = true → (wload = true → k.arr.halfFull = true) →
        (push = false → beats t none) ∧
        (push = true → kind = 0 → s.vectorsReady i →
          beats t (some (((bytesOfTile (s.here.vreg src)).drop (c % 4096).toNat).take (matPitch k.arr.afmt)))) ∧
        (push = true → kind = 2 →
          let b := (src.extractLsb' 3 3).toNat
          let x := (c % 65536).toNat
          let n := matK k.arr.dfmt
          matInt k.arr.afmt = false → k.accValuesPoisoned b x n = false → beats t (some (downConvert k.arr.dfmt (k.accValues b x n)))) ∧
        (push = true → kind = 1 →
          let x := wrap64 ((s.opnd src).toNat + c)
          let n := matPitch k.arr.afmt
          let l := s.cluster (clusterOf cx)
          ∀ o, s.unwaited → x % 64 = 0 → windowOff x = some o → l.scratchOk s.here.launch o n = true → l.switchingIn o n = false →
            l.allFull (o / 8) (n / 8) = true → l.scratchPois o n = false →
            ∃ u, exec (.kind1Fetch cx) t = .next u ∧ OnlyCtx cx t u ∧ beats u (some (l.scratchBytes o n)))))

/-- R177, R187: a wload copies the plane row at the pointer of the selected half into the shadow plane and steps the pointer; a
wswap exchanges the planes with their poison. A poisoned row poisons the shadow plane until 128 wloads of clean rows from row 0
on have passed.
R173, R188, R189: `MWSEL` selects a half, sets the pointer to 0 and the other half EMPTY; `MMODE` sets the formats of an array
whose pipeline is empty and otherwise takes `MATRIX_BUSY` with 1; either takes it with 0 in a context without the array. -/
def Obligations.WeightPlanesAndControl : Prop :=
  (∀ (a : MatArray),
    let p := a.p.toNat
    let w := a.wload
    let bad := a.halfPois.contains p
    w.shadow.row p = a.half.row p ∧ (∀ n, n ≠ p → w.shadow.row n = a.shadow.row n) ∧ w.p.toNat = (p + 1) % 128 ∧
      w = { a with shadow := w.shadow, p := w.p, shadowPois := w.shadowPois, clean := w.clean } ∧
      (bad = true → w.shadowPois = true ∧ w.clean = false) ∧
      (bad = false → p = 0 → w.clean = true ∧ w.shadowPois = a.shadowPois) ∧
      (bad = false → 0 < p → p < 127 → w.clean = a.clean ∧ w.shadowPois = a.shadowPois) ∧
      (bad = false → p = 127 → a.clean = true → w.clean = false ∧ w.shadowPois = false) ∧
      (bad = false → p = 127 → a.clean = false → w.clean = false ∧ w.shadowPois = a.shadowPois) ∧
      a.wswap = { a with active := a.shadow, shadow := a.active, activePois := a.shadowPois, shadowPois := a.activePois, clean := false } ∧
      (∀ poison : Bool, (List.replicate 128 ()).foldl (fun (x : MatArray) _ => x.wload)
        { a with p := 0, shadowPois := poison, poisRows0 := [], poisRows1 := [] } =
          { a with
            p := 0, poisRows0 := [], poisRows1 := [], shadowPois := false, clean := false
            shadow := ((List.replicate 128 ()).foldl (fun (x : MatArray) _ => x.wload)
              { a with p := 0, shadowPois := poison, poisRows0 := [], poisRows1 := [] }).shadow })) ∧
  (∀ (g h : Bool) (fa fw fd : BitVec 4) (s : State),
    let k := s.core (coreOf s.cur.cx)
    let sel := Instr.mwsel g h
    let mode := Instr.mmode g fa fw fd
    let does := fun (i : Instr) (a : MatArray) => exec i s = .next ((s.streamed 5 i id).setCore (coreOf s.cur.cx) { k with arr := a })
    let busy := fun (i : Instr) (n : Word) => ∃ t, exec i s = .next t ∧ s.notes t 5 { cause := 0x18, slot := 5, info1 := n }
    (s.streams 5 g sel →
      (s.here.holder = false → busy sel 0) ∧
      (s.here.holder = true →
        does sel { k.arr with sel := h, p := 0, clean := false, full0 := (!h && k.arr.full0), full1 := (h && k.arr.full1) })) ∧
    (s.streams 5 g mode →
      (s.here.holder = false → busy mode 0) ∧
      (s.here.holder = true → (∃ x ∈ k.arr.pipe, x ≠ none) → busy mode 1) ∧
      (s.here.holder = true → (∀ x ∈ k.arr.pipe, x = none) → does mode { k.arr with afmt := fa, wfmt := fw, dfmt := fd })))

/-- R134, R136, R179: a column of the integer group is the exact sum of products modulo 2^32; one of a float group is that of the
decoded elements, each scaled by the byte of its block where the format has scales (a scale of 0xFF makes a NaN): without a NaN or an
infinity the exact sum of the exact products rounded once, to nearest even, +0 for an exact zero; a NaN product, a 0 × ∞ product, or
infinities of both signs give the canonical NaN, and otherwise an infinity gives itself. -/
def Obligations.MatrixColumns : Prop :=
  (∀ (fa fw : BitVec 4) (vec : List Byte) (plane : Plane) (n : Nat), n < 128 → matInt fa = true → matInt fw = true → vec.length = 128 →
    ((plane.row n).w).length = 128 →
    (columnSums fa fw vec plane).getD n 0 = BitVec.ofInt 32 (((List.range 128).map fun k =>
      readInt (fa == 2) 8 (vec.getD k 0).toNat * readInt (fw == 2) 8 ((plane.row n).w.getD k 0).toNat).sum)) ∧
  (∀ (as ws : List Fv), as.length = ws.length → (∀ x ∈ as ++ ws, ∃ s m e, x = Fv.fin s m e) →
    ∃ d : Dy, columnFloat as ws = BitVec.ofNat 32 (fp32.roundDy .rne false d).1 ∧
      ∀ E : Int, (∀ p ∈ as.zip ws, ∀ s m e s' m' e', p.1 = .fin s m e → p.2 = .fin s' m' e' → E ≤ e + e') →
        E ≤ d.e → d.at E = ((as.zip ws).map fun p => match p.1, p.2 with
          | .fin s m e, .fin s' m' e' => (if s != s' then -1 else 1) * (m * m' * 2 ^ (e + e' - E).toNat : Nat)
          | _, _ => 0).sum) ∧
  (∀ (as ws : List Fv),
    let noNumber := fun (p : Fv × Fv) => p.1.isNan = true ∨ p.2.isNan = true ∨
      (∃ s t e, (p.1 = .inf s ∧ p.2 = .fin t 0 e) ∨ (p.2 = .inf s ∧ p.1 = .fin t 0 e))
    let infinite := fun (b : Bool) (p : Fv × Fv) => ¬noNumber p ∧ (∃ s, p.1 = .inf s ∨ p.2 = .inf s) ∧ (p.1.isNeg != p.2.isNeg) = b
    ((∃ p ∈ as.zip ws, noNumber p) ∨ ((∃ p ∈ as.zip ws, infinite true p) ∧ ∃ p ∈ as.zip ws, infinite false p) →
      columnFloat as ws = 0x7FC00000) ∧
    ∀ b, (∀ p ∈ as.zip ws, ¬noNumber p ∧ ¬infinite (!b) p) → (∃ p ∈ as.zip ws, infinite b p) →
      columnFloat as ws = if b then 0xFF800000 else 0x7F800000) ∧
  ∀ (fa fw : BitVec 4) (ga gw : Fmt) (vec : List Byte) (plane : Plane) (n : Nat), n < 128 → matFmt fa = some ga → matFmt fw = some gw →
    let size := matK fa * matWidth fa / 8
    let value := fun (g : Fmt) (mx : Bool) (x : Nat) (scale : Byte) =>
      if mx && scale == 0xFF then Fv.nan false
      else match g.decode x with
        | .fin s m e => .fin s m (if mx then e + scale.toNat - 127 else e)
        | v => v
    ∃ as ws : List Fv, (columnSums fa fw vec plane).getD n 0 = columnFloat as ws ∧ as.length = matK fa ∧ ws.length = matK fw ∧
      (∀ k < matK fa, as[k]? =
        some (value ga (matMx fa) (natOfBytes (vec.take size) / 2 ^ (matWidth fa * k) % 2 ^ matWidth fa) (vec.getD (size + k / 32) 0))) ∧
      ∀ k < matK fw, ws[k]? = some (value gw (matMx fw) (natOfBytes (plane.row n).w / 2 ^ (matWidth fw * k) % 2 ^ matWidth fw)
        ((plane.row n).sc.getD (k / 32) 0))

/-- R190–R192: the S6 ops move eight rows, or sixteen, from the base row the cursor gives: `AGET` into a vector register, as they
stand or converted, poisoned if a row was; `APUT`, `APUTA` and `ACLR` into the bank, with the poison each leaves. No other row
changes. -/
def Obligations.Accumulators : Prop :=
  ∀ (g : Bool) (v : Spec) (bank : BitVec 3) (row : BitVec 7) (cvt : BitVec 4) (rm : BitVec 2) (s : State),
    let cx := s.cur.cx
    let k := s.core (coreOf cx)
    let base := ((row.toNat + s.here.cursors.s6) % 128).toNat
    let b := bank.toNat
    let cell := fun (n c : Nat) => (k.accRow b (base + n)).getD c 0
    let col := fun (n c : Nat) => mget 0 (128 * n + c) (s.here.vreg v)
    let vp := s.here.vpois.getLsbD v.toNat
    let writes := fun (i : Instr) (vals : Core → Nat → AccRow) (pois : Nat → Bool) => ∃ k' : Core,
      exec i s = .next ((s.streamed 6 i id).setCore (coreOf cx) k') ∧ k' = { k with acc := k'.acc, accPois := k'.accPois } ∧
        (∀ n < 8, k'.accRow b (base + n) = vals k n ∧ k'.accPoisoned b (base + n) = pois n) ∧
        ∀ y x, y ≠ b ∨ (∀ n < 8, x % 128 ≠ (base + n) % 128) →
          k'.accRow y x = k.accRow y x ∧ k'.accPoisoned y x = k.accPoisoned y x
    (let i := Instr.aget g v bank row cvt rm
     s.streams 6 g i → ∃ (w : VReg) (st : Status),
       exec i s = .next (s.streamed 6 i fun c =>
         c.takesVec v w ((List.range (if cvt.toNat < 3 then 8 else 16)).any fun n => k.accPoisoned b (base + n)) st) ∧
       (cvt.toNat < 3 → st = stNone ∧ ∀ n < 8, ∀ c < 128, mget 0 (128 * n + c) w = cell n c) ∧
       (cvt = 3 ∨ cvt = 4 →
         LanesAre 5 (fun l => convert fp32 (if cvt = 3 then bf16 else fp16) (rmOf rm) (cell (l / 128) (l % 128)).toNat) w st) ∧
       (cvt = 5 ∨ cvt = 6 →
         LanesAre 5 (fun l => deliverInt (if cvt = 5 then 5 else 6) (rm.getLsbD 0) (readInt (cvt == 5) 32 (cell (l / 128) (l % 128)).toNat)) w st)) ∧
    (let i := Instr.aput g v bank row cvt
     s.streams 6 g i → s.here.vvalid.getLsbD v.toNat = true →
       writes i (fun _ n => (List.range 128).map (col n)) (fun _ => vp)) ∧
    (let i := Instr.aputa g v bank row cvt
     s.streams 6 g i → s.here.vvalid.getLsbD v.toNat = true → (∀ n < 8, (k.accRow b (base + n)).length = 128) →
       writes i (fun _ n => (List.range 128).map fun c =>
           if cvt = 0 then BitVec.ofNat 32 (fp32.add .rne (cell n c).toNat (col n c).toNat).1 else cell n c + col n c)
         (fun n => k.accPoisoned b (base + n) || vp)) ∧
    (let i := Instr.aclr g bank row
     s.streams 6 g i → writes i (fun _ _ => List.replicate 128 0) (fun _ => false))

/-- R205, R208, R210: a write to scratch writes its bytes and no other byte; the words it writes whole take the poison of the data, a
word it writes in part keeps its poison and gains that of the data, and no other word changes its poison; no tag changes. The XOR of a parity byte with its bytes of the eight banks
of its group stays as it is. -/
def Obligations.ScratchWrite : Prop :=
  ∀ (k : Cluster) (off : Nat) (bs : List Byte) (poison : Bool),
    let n := bs.length
    let k' := k.scratchWrite off bs poison
    let xor := fun (k : Cluster) (o : Nat) =>
      ((List.range 8).map fun b => mget 0 (o / 512 * 512 + 64 * b + o % 64) k.scratch).foldl (· ^^^ ·) (mget 0 (parityOff o) k.parity)
    k'.scratchBytes off n = bs ∧ (∀ o, o < off ∨ off + n ≤ o → mget 0 o k'.scratch = mget 0 o k.scratch) ∧
      (∀ w, off ≤ 8 * w → 8 * w + 8 ≤ off + n → mget false w k'.wpois = poison) ∧
      (∀ w, 8 * w < off + n → off < 8 * w + 8 → ¬(off ≤ 8 * w ∧ 8 * w + 8 ≤ off + n) → 0 < n →
        mget false w k'.wpois = (mget false w k.wpois || poison)) ∧
      (∀ w, 8 * w + 8 ≤ off ∨ off + n ≤ 8 * w → mget false w k'.wpois = mget false w k.wpois) ∧
      k' = { k with scratch := k'.scratch, parity := k'.parity, wpois := k'.wpois, werr := k'.werr } ∧
      (off + n ≤ 2 ^ 23 → ∀ o < 2 ^ 23, xor k' o = xor k o) ∧
      (∀ w m b x, (k.setFull w m b).wordFull x = if w ≤ x ∧ x < w + m then b else k.wordFull x)

/-- R308, R284, R317: a write at a home writes its bytes and no other byte of memory; poisoned data poison the line, clean data
clear its poison only where they cover the line, and no other line's poison changes. A read of what was written, in whole, then
gives it. -/
def Obligations.HomeWrite : Prop :=
  ∀ (s : State) (key : Nat) (bs : List Byte) (poison : Bool), s.remapOff key = none → 0 < bs.length → key % 128 + bs.length ≤ 128 →
    let t := s.homeWrite key bs poison
    t.bytes key bs.length = bs ∧ (∀ a, a < key ∨ key + bs.length ≤ a → t.byte a = s.byte a) ∧
      t.linePois key = (poison || (s.linePois key && bs.length != 128)) ∧
      (∀ a, lineOf a ≠ lineOf key → t.linePois a = s.linePois a) ∧
      t = { s with mem := t.mem, mpoison := t.mpoison, quads := t.quads } ∧
      ((∀ i < bs.length, s.remapOff (key + i) = none) →
        ∃ u x, t.homeRead key bs.length = some (u, bs, x) ∧ u.mem = t.mem ∧ (x = true → t.linePois key = true))

/-- R294, R298–R301, R303: translation. An address past 2^57 or without a valid root faults at levels 7 and 4; a leaf that does
not grant the access faults `PERM`; a leaf that does gives its frame with the low bits of the address, and is marked accessed,
and dirty by a write, in memory. A translation fault changes nothing but what the walk's reads of table entries leave in the slices,
as every walk does. `PAGE_WALK` does the same for an address that no TLB
holds.
R298, R302: the walk, a level at a time: the entry at the level's index of the table decides. Not valid, it faults
`NOTPRESENT` at that level; a legal table entry leads one level down; a leaf that is legal ends the walk; anything else faults
`RESERVED` at that level. Each entry read is an access at its home (R282, R286). -/
def Obligations.AddressTranslation : Prop :=
  (∀ (s : State) (sp : Space) (kind : AccKind) (va : Nat),
    let detail := fun (lvl : Nat) => lvl + kind.code * 8 + (if sp.prog then 32 else 0)
    let fault := fun (u : State) (cause lvl : Nat) => s.xlate sp kind va =
      .error (u, { cause := cause, slot := 3, detail := detail lvl, info1 := BitVec.ofNat 64 va })
    let miss := s.tlbHit sp va = none
    (2 ^ 57 ≤ va → fault s 0x09 7) ∧
    (va < 2 ^ 57 → sp.root.getLsbD 0 = false → fault s 0x07 4) ∧
    (va < 2 ^ 57 → sp.root.getLsbD 0 = true → ∀ t, s.tlbHit sp va = some t → (kind = .read ∨ t.leaf.getLsbD 6 = true) →
      (leafGrants sp kind t.leaf = false → fault s 0x08 t.lvl) ∧
      (leafGrants sp kind t.leaf = true →
        ∃ u, s.xlate sp kind va = .ok (u, { key := keyOf (leafPeer t.leaf) (leafFrame t.leaf / 2 ^ t.bits * 2 ^ t.bits + va % 2 ^ t.bits), mode := leafMode t.leaf }) ∧
          u.mem = s.mem ∧ u.ctxs = s.ctxs)) ∧
    (∀ v r, s.walk sp kind va = (v, r) → v = { s with quads := v.quads }) ∧
    (miss → ∀ v w, s.walk sp kind va = (v, .ok w) →
      w.leaf.getLsbD 0 = true ∧ w.leaf.getLsbD 1 = true ∧ w.lvl < 3 ∧
      (leafGrants sp kind w.leaf = false → fault v 0x08 w.lvl) ∧
      (leafGrants sp kind w.leaf = true → s.remapOff w.key = none → w.key % 8 = 0 → (keyPa w.key) < 2 ^ 48 →
        ∃ u x, s.xlate sp kind va = .ok (u, x) ∧ x.mode = leafMode w.leaf ∧
          x.key = keyOf (leafPeer w.leaf) (leafFrame w.leaf / 2 ^ leafBits w.leaf w.lvl * 2 ^ leafBits w.leaf w.lvl + va % 2 ^ leafBits w.leaf w.lvl) ∧
          u.ctxs = s.ctxs ∧ (∀ a, a < w.key ∨ w.key + 8 ≤ a → u.byte a = s.byte a) ∧
          (w.leaf ||| (if kind = .read then 0x20 else 0x60) ≠ w.leaf →
            wordOfBytes (u.bytes w.key 8) = w.leaf ||| (if kind = .read then 0x20 else 0x60)))) ∧
    (miss → ∀ v e, s.walk sp kind va = (v, .error e) → s.xlate sp kind va = .error (v, e)) ∧
    (∀ cx x kd, let q := s.ctx cx
      let z := q.space cx q.sys
      (∀ v e, s.walk z (accKindOf kd) (BitVec.toNat x) = (v, .error e) → exec (.pageWalk cx x kd) s = .next v) ∧
      (∀ v w, s.walk z (accKindOf kd) (BitVec.toNat x) = (v, .ok w) → leafGrants z (accKindOf kd) w.leaf = true →
        ∃ t, exec (.pageWalk cx x kd) s = .next t ∧ t.ctxs = s.ctxs ∧
          (t.core (coreOf cx)).tlb.head? = some (tlbOf z x.toNat (w.leaf ||| needBits (accKindOf kd)) w.lvl) ∧
          (t.cluster (clusterOf cx)).tlb.head? = some (tlbOf z x.toNat (w.leaf ||| needBits (accKindOf kd)) w.lvl)))) ∧
  (∀ (s : State) (sp : Space) (kind : AccKind) (va lvl table : Nat) (seen : List WalkEntry),
    let key := keyOf sp.die (table + 8 * (va / 2 ^ (12 + 9 * lvl) % 512))
    let e := wordOfBytes (s.homeBytes key 8)
    let walk := fun (lvl table : Nat) (up : Bool) (seen : List WalkEntry) => s.walkFrom sp kind va (lvl + 1) table up seen
    let v := (s.walkRead key).1
    let fault := fun (cause extra : Nat) => walk lvl table false seen =
      (v, .error { cause := cause, slot := 3, detail := lvl + kind.code * 8 + (if sp.prog then 32 else 0) + extra, info1 := BitVec.ofNat 64 va })
    (s.linePois key = true → fault 0x0B 64) ∧
    (s.linePois key = false →
      (e.getLsbD 0 = false → fault 0x07 0) ∧
      (e.getLsbD 0 = true → e.getLsbD 1 = false → tableOk e lvl = false → fault 0x09 0) ∧
      (e.getLsbD 0 = true → e.getLsbD 1 = false → tableOk e lvl = true → ∃ seen', ∀ n, lvl = n + 1 →
        walk lvl table false seen = v.walkFrom sp kind va (n + 1) ((e.toNat / 2 ^ 12 % 2 ^ 40) * 4096) false seen') ∧
      (e.getLsbD 0 = true → e.getLsbD 1 = true → (leafOk sp.die e lvl && !s.inHibernation e lvl) = false → fault 0x09 0) ∧
      (e.getLsbD 0 = true → e.getLsbD 1 = true → (leafOk sp.die e lvl && !s.inHibernation e lvl) = true →
        walk lvl table false seen = (v, .ok { leaf := e, lvl := lvl, key := key, tables := seen }))))

/-- R249, R214, R225, R237, R240, R251–R254, R256: `CPY`, `STAGE`, `RINIT`, `RAWAIT`, `RREL`, `TLOAD` and `BANKCFG` at their start, where nothing is
outstanding and their tokens are complete. `CPY` joins its channel, and waits while 16 copies stand there; `STAGE` adds to the launch's stage
counter; `RAWAIT` gives the word of a ring's ready slot, and watches a ring that is empty or already waited for; `RREL` releases the slot, and with
the last consumer frees it; `BANKCFG` joins the queue of switches. Each is then a command in progress with its token pending. An operand that is
misaligned is noted as a streaming fault `ALIGN`, and one out of range as `OPERAND_RANGE`. When `STAGE` and `RREL` act is assumption log 59's. -/
def Obligations.CopyRingAndBankCommands : Prop :=
  ∀ (g : Bool) (t : Tail) (a b d : Spec) (ch : BitVec 4) (ring : BitVec 5) (mode : BitVec 2) (count : BitVec 9) (s : State),
    let cx := s.cur.cx
    let cl := clusterOf cx
    let k := s.cluster cl
    let x := s.opnd a
    let y := s.opnd b
    let at_ := ringAt s.here.launch ring.toNat
    let r := k.ring at_
    let faults := fun (i : Instr) (cause : Nat) (v : Word) => ∃ u, exec i s = .next u ∧ s.notes u 7 { cause := cause, slot := 7, info1 := v }
    (let i := Instr.cpy g t a ch
     s.commands g i t →
      (x.toNat % 256 ≠ 0 → faults i 0x06 x) ∧
      (x.toNat % 256 = 0 → (k.chan ch.toNat).length < 16 →
        exec i s = .next ((s.updCluster cl fun k => k.setChan ch.toNat (k.chan ch.toNat ++ [s.nextCmd])).commanded i t id id)) ∧
      (x.toNat % 256 = 0 → 16 ≤ (k.chan ch.toNat).length → ∃ u, exec i s = .next u ∧ s.standsAt u 7 i .queued)) ∧
    (let i := Instr.stage g t a
     let l := s.here.launch.getD 0
     let p := mget ({} : Play) l k.plays
     s.commands g i t →
      (0xFFFF < x.toNat ∨ 2 ^ 32 ≤ p.stage + x.toNat → faults i 0x04 x) ∧
      (x.toNat ≤ 0xFFFF → p.stage + x.toNat < 2 ^ 32 →
        exec i s = .next ((s.updCluster cl fun k =>
          { k with plays := mput l { p with stage := p.stage + x.toNat } k.plays }).commanded i t id id))) ∧
    (let i := Instr.rinit g t a b ring
     s.commands g i t →
      (x.toNat % 32 ≠ 0 → faults i 0x06 x) ∧
      (x.toNat % 32 = 0 → y.toNat = 0 ∨ 32 < y.toNat → faults i 0x04 y) ∧
      (x.toNat % 32 = 0 → 1 ≤ y.toNat → y.toNat ≤ 32 → exec i s = .next (s.commanded i t id id))) ∧
    (let i := Instr.rawait g t d ring
     let mark := mget 0 ring.toNat s.here.marks
     let done := mark.getLsbD 31 = true ∧ mark.extractLsb' 0 24 = r.gen ++ r.rp.setWidth 8
     s.commands g i t →
      (r.valid = false → faults i 0x04 (ring.setWidth 64)) ∧
      (r.valid = true → 0 < r.filled.toNat → ¬done →
        exec i s = .next (s.begun i t fun c => (c.commandEnds t s.here.ord (s.cmdNow i).scm none).takes d
          (BitVec.ofNat 64 (r.rp.toNat + 2 ^ 8 * r.gen.toNat + (if r.fail.getLsbD r.rp.toNat then 2 ^ 24 else 0))) false)) ∧
      (r.valid = true → r.filled.toNat = 0 ∨ done → ∃ u, exec i s = .next u ∧ s.standsAt u 7 i .watching)) ∧
    (let i := Instr.rrel g t a ring
     let w := r.rp.toNat + 2 ^ 8 * r.gen.toNat
     let mark := mget 0 ring.toNat s.here.marks
     let ok := r.valid = true ∧ x.toNat < 2 ^ 25 ∧ x.toNat % 2 ^ 24 = w ∧ ¬(mark.getLsbD 31 = true ∧ (mark.extractLsb' 0 24).toNat = w)
     s.commands g i t →
      (¬ok → faults i 0x04 x) ∧
      (ok →
        let rp := (r.rp.toNat + 1) % r.nslot.toNat
        let r' : Ring :=
          if r.relcnt.toNat + 1 = r.cons.toNat then
            { r with
              fail := r.fail &&& ~~~((1 : Word) <<< r.rp.toNat), relcnt := 0, filled := r.filled - 1, rp := BitVec.ofNat 6 rp
              gen := if rp = 0 then r.gen + 1 else r.gen }
          else { r with relcnt := r.relcnt + 1 }
        exec i s = .next ((s.updCluster cl fun k => k.setRing at_ r').commanded i t
          (fun c => { c with marks := mset 0 ring.toNat (BitVec.ofNat 32 (2 ^ 31 + w)) c.marks }) id))) ∧
    (let i := Instr.tload g t a b count
     s.commands g i t →
      (x.toNat % 32 ≠ 0 → faults i 0x06 x) ∧
      (x.toNat % 32 = 0 → 64 * 2 ^ s.here.tsize.toNat < y.toNat + (count.toNat + 1) → faults i 0x04 y) ∧
      (x.toNat % 32 = 0 → y.toNat + (count.toNat + 1) ≤ 64 * 2 ^ s.here.tsize.toNat → exec i s = .next (s.commanded i t id id))) ∧
    (let i := Instr.bankcfg g t a mode
     let named := fun (n : Nat) => x.getLsbD n = true
     let ok := x.toNat < 2 ^ 32 ∧ ∀ n < 32, named n → k.owns s.here.launch n = true
     s.commands g i t →
      (¬ok → faults i 0x04 x) ∧
      (ok → ∃ u m, exec i s = .next ((u : State).commanded i t id id) ∧
        u = s.updCluster cl (fun k => { k with bankq := k.bankq ++ [s.nextCmd], switching := m }) ∧
        (k.bankq = [] → ∀ n < 32, m.getLsbD n = true ↔ named n ∧ k.mode n ≠ mode.toNat) ∧ (k.bankq ≠ [] → m = k.switching)))

/-- R274–R278, R255: `LEASE`, `LCMD`, `UNLEASE`, `LWARM` and `WSTR` at their start, where nothing is outstanding and their tokens are complete. `LEASE`
takes the lowest free slot, pending, and is sent to the benches; `LCMD` and `WSTR` join the queue of the engine that their handle names, and wait
while it holds four (assumption log 52); `UNLEASE` frees its slot at once and warms its engine, but waits
while commands of the lease are left (assumption log 121); `LWARM` adds the context to those that hold a kind warm, or removes it. An operand
that names no lease, a misaligned address and a lost lease are noted as streaming faults by `LCMD`; `WSTR` without a lease, on an engine of another
kind or without the array fails at once. -/
def Obligations.EngineCommands : Prop :=
  ∀ (g keep half : Bool) (t : Tail) (a b d : Spec) (kind : BitVec 3) (prio : BitVec 2) (s : State) (n : Nat) (l : LeaseSlot),
    let cx := s.cur.cx
    let die := dieOf cx
    let x := s.opnd a
    let y := s.opnd b
    let faults := fun (i : Instr) (cause detail : Nat) (v : Word) =>
      ∃ u, exec i s = .next u ∧ s.notes u 7 { cause := cause, slot := 7, detail := detail, info1 := v }
    let eng := 16 * (x.toNat / 16 % 8) + x.toNat % 16
    let e := s.engine die eng
    let queued := fun (i : Instr) =>
      (e.queue.length < 4 → exec i s = .next ((s.setEngine die eng { e with queue := e.queue ++ [s.nextCmd] }).commanded i t id id)) ∧
      (4 ≤ e.queue.length → ∃ u, exec i s = .next u ∧ s.standsAt u 7 i .queued)
    (let i := Instr.lease g t d kind prio
     let free := fun (k : Nat) => (mget ({} : LeaseSlot) k s.here.leases).st = .free
     s.commands g i t →
      ((∀ k < 8, ¬free k) → faults i 0x04 0 (kind.setWidth 64)) ∧
      (n < 8 → free n → (∀ k < n, ¬free k) → s.here.phase ≠ .retiring → ∃ u, exec i s = .next u ∧
        (∃ q, u.here.queue 7 = [q] ∧ q.phase = .sent s.nextCmd) ∧
        u.cmd s.nextCmd = some { cx := cx, cl := clusterOf cx, entry := s.cmdNow i, since := s.now, bound := some (n, 0, 0) } ∧
        u.here.leases = mput n { st := .pending, kind := kind, prio := prio, serial := (mget ({} : LeaseSlot) n s.here.leases).serial + 1 } s.here.leases ∧
        u.here.regs.pres.getLsbD (namedIdx d) = false ∧ u.mem = s.mem ∧ u.dies = s.dies) ∧
      (n < 8 → free n → (∀ k < n, ¬free k) → s.here.phase = .retiring → ∃ u, exec i s = .next u ∧ u.here.queue 7 = [] ∧
        u.cmd s.nextCmd = none ∧ (mget {} n u.here.leases).st = .free ∧ (t.prod ≠ 0 → u.here.tok t.prod = .failed) ∧
        u.here.regs.get (namedIdx d) = s.here.regs.get (namedIdx d) ∧ u.mem = s.mem ∧ u.dies = s.dies)) ∧
    (let i := Instr.lcmd g t a b
     s.commands g i t →
      (s.here.namedSlot x = none → faults i 0x04 0 x) ∧
      (s.here.namedSlot x = some (n, l) →
        (l.st = .lost → faults i 0x0F l.why.toNat x) ∧
        (l.st = .held → y.toNat % 128 ≠ 0 → faults i 0x06 0 y) ∧
        (l.st = .held → y.toNat % 128 = 0 → queued i))) ∧
    (let i := Instr.unlease g t a
     s.commands g i t →
      (s.here.namedSlot x = none → faults i 0x04 0 x) ∧
      (s.here.namedSlot x = some (n, l) →
        (l.st = .lost → exec i s = .next (s.commanded i t (fun c => c.setLease n fun l => { serial := l.serial }) id)) ∧
        (l.st = .held → e.queue = [] →
          exec i s = .next (((s.commanded i t (fun c => c.setLease n fun l => { serial := l.serial }) id).setEngine die eng
            { st := .warm, since := s.now }).arbiter die)) ∧
        (l.st = .held → e.queue ≠ [] → ∃ u, exec i s = .next u ∧ s.standsAt u 7 i .queued))) ∧
    (let i := Instr.lwarm g t kind keep
     s.commands g i t →
      let others := (mget [] kind.toNat (s.die die).warmReqs).filter (· != cx)
      let asked := s.updDie die fun d => { d with warmReqs := mset [] kind.toNat (if keep then others ++ [cx] else others) d.warmReqs }
      exec i s = .next ((asked.commanded i t id id).arbiter die)) ∧
    (let i := Instr.wstr g t a b half
     let fails := fun (why : Nat) => exec i s = .next (s.endedAtOnce i t fun c => c.commandEnds t s.here.ord (s.cmdNow i).scm (some (0, why)))
     s.commands g i t →
      (y.toNat % 64 ≠ 0 → faults i 0x06 0 y) ∧
      (y.toNat % 64 = 0 → s.here.namedSlot x = none ∨ s.here.accbanks.getLsbD 8 = false ∨ x.toNat / 16 % 8 ≠ 0 → fails 2) ∧
      (y.toNat % 64 = 0 → s.here.accbanks.getLsbD 8 = true → x.toNat / 16 % 8 = 0 → s.here.namedSlot x = some (n, l) →
        (l.st = .lost → fails l.why.toNat) ∧ (l.st = .held → queued i)))

/-- R287–R289, R293, R307, R323, R379: `PINWIN`, `UNPIN`, `SWAPPG`, `TLBINV`, `MAPWIN` and `LAUNCH` at their start, where nothing is outstanding and
their tokens are complete. Each checks its operands in the spec's order: a misaligned one is noted as `ALIGN`, one out of range as `OPERAND_RANGE`.
`PINWIN` takes the lowest free descriptor of its quadrant and gives its handle, or all ones where there is none; `UNPIN` frees the descriptor that its
handle names; `SWAPPG` takes the lowest free record, or gives all ones; `TLBINV` removes the entries it covers from every TLB and walk cache of the
module, and no other (that it does so at its start is assumption log 59's); `MAPWIN` sets the window in dies of the domain; `LAUNCH` adds its record
to an enabled queue that accepts it, waits for a slot, or fails. -/
def Obligations.MemoryCommands : Prop :=
  ∀ (g exact : Bool) (t : Tail) (a b d : Spec) (q : BitVec 7) (w : BitVec 4) (mode : BitVec 2) (s s1 : State) (n : Nat) (bs : List Byte),
    let cx := s.cur.cx
    let die := dieOf cx
    let x := s.opnd a
    let y := s.opnd b
    let faults := fun (i : Instr) (cause : Nat) (v : Word) => ∃ u, exec i s = .next u ∧ s.notes u 7 { cause := cause, slot := 7, info1 := v }
    (let i := Instr.pinwin g t a b d
     let dd := x.toNat / 2 ^ 52
     let pa := x.toNat % 2 ^ 52
     let key := keyOf dd pa
     let bytes := y.toNat % 2 ^ 29
     let f := y.toNat / 2 ^ 32 % 256
     let sizeOk := bytes % 65536 = 0 ∧ 65536 ≤ bytes ∧ bytes ≤ 2 ^ 28 ∧ 0 < f ∧ y.toNat / 2 ^ 29 % 8 = 0 ∧ y.toNat / 2 ^ 40 = 0
     let r := regionOf pa
     let baseOk := cornerOf dd = cornerOf die ∧ (r = .near ∨ r = .far ∨ (r = .scm ∧ dd = cornerOf dd)) ∧
       regionOf (keyPa (key + bytes - 1)) = r ∧ homeQuad (key + bytes - 1) = homeQuad key
     let z := s.quad (homeQuad key)
     let pin := fun (k : Nat) => mget ({} : Pin) k z.pins
     let clear := (∀ p ∈ z.pins, p.2.valid = true → key + bytes ≤ p.2.base ∨ p.2.base + p.2.size ≤ key) ∧ z.pinnedBytes + bytes ≤ 2 ^ 28
     let h := BitVec.ofNat 64 (n + homeQuad key % 4 * 2 ^ 5 + homeQuad key / 4 * 2 ^ 8 + ((pin n).serial.toNat + 1) % 2 ^ 16 * 2 ^ 32)
     s.commands g i t →
      (x.toNat % 65536 ≠ 0 → faults i 0x06 x) ∧
      (x.toNat % 65536 = 0 → ¬sizeOk → faults i 0x04 y) ∧
      (x.toNat % 65536 = 0 → sizeOk → ¬baseOk → faults i 0x04 x) ∧
      (x.toNat % 65536 = 0 → sizeOk → baseOk → ¬clear ∨ (∀ k < 32, (pin k).valid = true) →
        exec i s = .next (s.commanded i t (fun c => c.takes d (BitVec.allOnes 64) false) id)) ∧
      (x.toNat % 65536 = 0 → sizeOk → baseOk → clear → n < 32 → (pin n).valid = false → (∀ k < n, (pin k).valid = true) →
        let new : Pin :=
          { valid := true, base := key, size := bytes, serial := (pin n).serial + 1, count := BitVec.ofNat 8 f, reload := BitVec.ofNat 8 f
            touched := false }
        exec i s = .next ((s.updQuad (homeQuad key) fun z => { z with pins := mput n new z.pins }).commanded i t (fun c => c.takes d h false)
          fun c => { c with bound := some (homeQuad key, n, ((pin n).serial + 1).toNat) }))) ∧
    (let i := Instr.unpin g t a
     let dd := x.toNat / 2 ^ 8 % 4096
     let ok := x.toNat / 2 ^ 7 % 2 = 0 ∧ x.toNat / 2 ^ 20 % 4096 = 0 ∧ x.toNat / 2 ^ 48 = 0 ∧ cornerOf dd = cornerOf die
     let z := 4 * dd + x.toNat / 32 % 4
     let p := mget ({} : Pin) (x.toNat % 32) (s.quad z).pins
     s.commands g i t →
      (¬ok → faults i 0x04 x) ∧
      (ok → p.valid = true → p.serial.toNat = x.toNat / 2 ^ 32 % 2 ^ 16 →
        exec i s = .next ((s.updQuad z fun q => { q with pins := mput (x.toNat % 32) { p with valid := false } q.pins }).commanded i t id id)) ∧
      (ok → p.valid = false ∨ p.serial.toNat ≠ x.toNat / 2 ^ 32 % 2 ^ 16 → exec i s = .next (s.commanded i t id id))) ∧
    (let i := Instr.swappg g t a b d
     let fk := keyOf die x.toNat
     let nk := keyOf die y.toNat
     let ok := regionOf x.toNat = .far ∧ regionOf y.toNat = .near ∧ homeQuad fk = homeQuad nk
     let z := s.quad (homeQuad fk)
     let used := fun (k : Nat) => ∃ e ∈ z.swaps, e.1 = k
     let active := ∃ e ∈ z.swaps, e.2.far = fk ∨ e.2.near = nk
     s.commands g i t →
      (x.toNat % 65536 ≠ 0 → faults i 0x06 x) ∧
      (x.toNat % 65536 = 0 → y.toNat % 65536 ≠ 0 → faults i 0x06 y) ∧
      (x.toNat % 65536 = 0 → y.toNat % 65536 = 0 → ¬ok → faults i 0x04 x) ∧
      (x.toNat % 65536 = 0 → y.toNat % 65536 = 0 → ok → active ∨ (∀ k < 64, used k) →
        exec i s = .next (s.commanded i t (fun c => c.takes d (BitVec.allOnes 64) false) fun c => { c with begun := true })) ∧
      (x.toNat % 65536 = 0 → y.toNat % 65536 = 0 → ok → ¬active → n < 64 → ¬used n → (∀ k < n, used k) →
        let new : SwapRec := { far := fk, near := nk, done := 0, cmd := s.nextCmd }
        exec i s = .next ((s.updQuad (homeQuad fk) fun z => { z with swaps := mput n new z.swaps }).commanded i t
          (fun c => c.takes d (BitVec.ofNat 64 (n + homeQuad fk % 4 * 2 ^ 6 + die * 2 ^ 8)) false) id))) ∧
    (let i := Instr.tlbinv g t a b mode
     s.commands g i t →
      (mode = 0 → 2 ^ 57 ≤ x.toNat → faults i 0x04 x) ∧
      (mode ≠ 2 → (mode = 0 → x.toNat < 2 ^ 57) → 0xFFFF < y.toNat → faults i 0x04 y) ∧
      ((mode = 0 → x.toNat < 2 ^ 57) → (mode ≠ 2 → y.toNat ≤ 0xFFFF) → ∃ u : State,
        exec i s = .next (u.commanded i t id fun c => { c with bound := some (s.nextPkt, s.tick, 0) }) ∧
        u = { s with cores := u.cores, clusters := u.clusters, quads := u.quads } ∧
        (∀ k, u.core k = { s.core k with tlb := (u.core k).tlb }) ∧ (∀ k, u.cluster k = { s.cluster k with tlb := (u.cluster k).tlb }) ∧
        (∀ k, u.quad k = { s.quad k with walk := (u.quad k).walk }) ∧
        let gone := fun (asid : BitVec 16) (covers : Prop) => mode.toNat = 2 ∨ mode.toNat = 3 ∨ (asid = y.setWidth 16 ∧ (mode.toNat = 1 ∨ covers))
        (∀ k, ∀ e, e ∈ (u.core k).tlb ↔ e ∈ (s.core k).tlb ∧
          ¬(cornerOf (k / 64) = cornerOf die ∧ gone e.asid (e.lo ≤ x.toNat ∧ x.toNat < e.lo + 2 ^ e.bits))) ∧
        (∀ k, ∀ e, e ∈ (u.cluster k).tlb ↔ e ∈ (s.cluster k).tlb ∧
          ¬(cornerOf (k / 8) = cornerOf die ∧ gone e.asid (e.lo ≤ x.toNat ∧ x.toNat < e.lo + 2 ^ e.bits))) ∧
        (∀ k, ∀ e, e ∈ (u.quad k).walk ↔ e ∈ (s.quad k).walk ∧
          ¬(cornerOf (k / 4) = cornerOf die ∧ gone e.asid (e.idx = vaPath x.toNat e.lvl))))) ∧
    (let i := Instr.mapwin g t a b w exact
     let dd := x.toNat / 2 ^ 52
     let pa := x.toNat % 2 ^ 52
     let size := y.toNat
     let key := keyOf dd pa
     let r : RWindow := { base := key, size := size, exact := exact }
     let ok := size ≤ 2 ^ 36 ∧ dd ∈ s.domainDies ∧ (0 < size →
       (regionOf pa = .near ∨ regionOf pa = .far) ∧ regionOf (keyPa (key + size - 1)) = regionOf pa ∧ keyDie (key + size - 1) = dd ∧
       ∀ z ∈ (s.die die).windows, z.1 ≠ w.toNat → key + size ≤ z.2.base ∨ z.2.base + z.2.size ≤ key)
     s.commands g i t →
      (x.toNat % 65536 ≠ 0 ∨ size % 65536 ≠ 0 → faults i 0x06 x) ∧
      (x.toNat % 65536 = 0 → size % 65536 = 0 → ¬ok → faults i 0x04 x) ∧
      (x.toNat % 65536 = 0 → size % 65536 = 0 → ok → ∃ u : State, exec i s = .next (u.commanded i t id id) ∧
        u = { s with dies := u.dies } ∧ ∀ k, u.die k = s.die k ∨ (k ∈ s.domainDies ∧ u.die k = (s.die k).setWindow w.toNat r))) ∧
    (let i := Instr.launch g t a q
     let m := modOf die
     let ag : Agent := { cl := clusterOf cx, l := s.here.launch, sp := { (s.cmdNow i).space cx with core := none, cl := clusterOf cx }, win := .scratch }
     let z := s.writeBackAll (clusterOf cx)
     let h := s1.queueOf m q.toNat
     let accepts := h.en = true ∧ h.devok = true ∧ h.asid = s.here.asid.setWidth 16
     s.commands g i t →
      (x.toNat % 256 ≠ 0 → ∃ u, exec i s = .next u ∧ z.notes u 7 { cause := 0x06, slot := 7, info1 := x }) ∧
      (∀ w, x.toNat % 256 = 0 → z.agentRead ag x.toNat 256 = .error (.fault w) → (w.getD z).bad = none →
        exec i s = .next ((w.getD z).endedAtOnce i t fun c => c.commandEnds t s.here.ord (s.cmdNow i).scm (some (7, 2)))) ∧
      (x.toNat % 256 = 0 → z.agentRead ag x.toNat 256 = .error .parked →
        ∃ u, exec i s = .next u ∧ ∃ e, u.here.queue 7 = [e] ∧ e.phase = .parked s.now) ∧
      (∀ p, x.toNat % 256 = 0 → z.agentRead ag x.toNat 256 = .ok (s1, bs, p) →
        (p = true ∨ ¬accepts ∨ (0 < h.free ∧ s1.granted true (h.slotKey h.tail) 256 = false) →
          exec i s = .next (s1.endedAtOnce i t fun c => c.commandEnds t s.here.ord (s.cmdNow i).scm (some (7, 2)))) ∧
        (p = false → accepts → 0 < h.free → s1.granted true (h.slotKey h.tail) 256 = true → populated (h.slotKey h.tail) = true →
          exec i s = .next (((s1.hwPut (h.slotKey h.tail) bs).setHwQueue m q.toNat { h with tail := h.tail + 1 }).endedAtOnce i t
            fun c => c.commandEnds t s.here.ord (s.cmdNow i).scm none)) ∧
        (p = false → accepts → h.free = 0 → ∃ u, exec i s = .next u ∧ ∃ e, u.here.queue 7 = [e] ∧ e.phase = .fetched bs)))

/-- R24, R71, R92, R214, R237, R256, R277, R288, R307, R323: how commands end. A guarded-off command completes its token; one that consumes a pending
token waits; one that consumes a failed token fails, with its token failed, its flag and failure bit set, the first failure recorded and its
destination as it was. Ending a command completes or fails its token and sets its flag. `COMMAND_COMPLETION` ends `STAGE`, `RREL`, `LWARM`,
`UNPIN` and `UNLEASE`; `RINIT` with its ring set up from its descriptor, or failed and the ring invalid; `TLOAD` with the templates in place; `PINWIN` with its lines filled; `TLBINV` once every earlier access has ended; `MAPWIN` with the
window in every die of the domain; and a `SWAPPG` that took no record. What acts at the start and what at the end is assumption log 59's. -/
def Obligations.CommandsEnd : Prop :=
  (∀ (g : Bool) (i : Instr) (t : Tail) (s : State), i.wf = true → tailFields i = some t → gBitOf i = g → (g && s.cur.off) = true →
    exec i s = .next (s.streamed 7 i fun c => c.completeToken t.prod)) ∧
  (∀ (g : Bool) (i : Instr) (t : Tail) (s : State), i.wf = true → tailFields i = some t → gBitOf i = g → streamHeld 7 i s = false →
    firstPoisoned s.here (srcSpecs i) = none → s.calm →
    let ks := [t.c1, t.c2, t.c3]
    ((g && s.cur.off) = false → (∃ k ∈ ks, s.here.tok k = .pending) → ∃ u, exec i s = .next u ∧ s.standsAt u 7 i .queued) ∧
    ((g && s.cur.off) = false → (∀ k ∈ ks, s.here.tok k ≠ .pending) → (∃ k ∈ ks, s.here.tok k = .failed) →
      ∃ u, exec i s = .next u ∧ u.here.queue 7 = [] ∧ (t.prod ≠ 0 → u.here.tok t.prod = .failed) ∧
        (t.fen = true → u.here.flags = s.here.flags ||| (1 : BitVec 16) <<< t.fnum.toNat ∧ u.here.engfail.getLsbD t.fnum.toNat = true) ∧
        (s.here.engrec = false → (u.here.engfail.extractLsb' 16 6) = t.prod ∧ u.here.engfail.extractLsb' 25 2 = 1) ∧ u.here.engrec = true ∧
        (∀ d, nWrite i = some d → u.here.regs.get (namedIdx d) = s.here.regs.get (namedIdx d) ∧ u.here.regs.pres.getLsbD (namedIdx d) = true) ∧
        u.cmds = s.cmds ∧ u.mem = s.mem ∧ u.clusters = s.clusters ∧ u.dies = s.dies)) ∧
  (∀ (c : Ctx) (t : Tail) (ord : Nat), t.prod ≠ 0 → mget 0 t.prod.toNat c.tokOf = ord → c.tok t.prod = .pending →
    (c.commandDone t ord).tok t.prod = .complete ∧ (c.commandFailed t ord 7 2).tok t.prod = .failed ∧
    (t.fen = true → (c.commandDone t ord).flags = c.flags ||| (1 : BitVec 16) <<< t.fnum.toNat)) ∧
  ∀ (s s1 : State) (id : Nat) (c : Command) (i : Instr) (t : Tail) (bs : List Byte) (p : Bool),
    s.cmd id = some c → c.play = none → c.area = none → c.entry.instr = some i → tailFields i = some t →
    let out := exec (.commandCompletion id) s
    let ends := fun (fail : Option (Nat × Nat)) (x : Ctx) => x.commandEnds t c.entry.ord (c.scm ++ c.entry.scm) fail
    let done := fun (u : State) => out = .next (u.ended id c (ends none))
    let failed := fun (u : State) => out = .next (u.ended id c (ends (some (7, 2))))
    (∀ g a, i = .stage g t a → done s) ∧ (∀ g a r, i = .rrel g t a r → done s) ∧ (∀ g k w, i = .lwarm g t k w → done s) ∧
    (∀ g a, i = .unpin g t a → done s) ∧ (∀ g a, i = .unlease g t a → done s) ∧
    (∀ g a b d, i = .swappg g t a b d → (c.begun = true → done s) ∧ (c.begun = false → out = .next s)) ∧
    (∀ g a b ring, i = .rinit g t a b ring →
      let h := ringAt (s.cmdAgent c .rings).l ring.toNat
      let num := fun (off n : Nat) => natOfBytes ((bs.drop off).take n)
      let ok := num 0 8 % 64 = 0 ∧ num 8 4 % 64 = 0 ∧ 64 ≤ num 8 4 ∧ num 8 4 ≤ 2 ^ 23 ∧ 0 < num 12 4 ∧ 1 ≤ num 16 1 ∧ num 16 1 ≤ 64 ∧
        (∀ z ∈ bs.drop 17, z = 0) ∧ num 0 8 + num 16 1 * num 8 4 ≤ 2 ^ 23
      let off := fun (u : State) => u.updCluster c.cl fun k => k.setRing h { k.ring h with valid := false }
      (s.ringBound c.cl h = true → out = .next s) ∧
      (∀ w, s.ringBound c.cl h = false → s.agentRead (s.cmdAgent c .rings) (c.entry.val 0).toNat 32 = .error (.fault w) →
        failed (off (w.getD s))) ∧
      (s.ringBound c.cl h = false → s.agentRead (s.cmdAgent c .rings) (c.entry.val 0).toNat 32 = .ok (s1, bs, p) →
        (¬ok → failed (off s1)) ∧
        (ok → done (s1.updCluster c.cl fun k => k.setRing h
          { nslot := BitVec.ofNat 7 (num 16 1), cons := (c.entry.val 1).setWidth 6, valid := true, base := BitVec.ofNat 23 (num 0 8)
            slotsz := BitVec.ofNat 32 (num 8 4), target := BitVec.ofNat 32 (num 12 4), gen := (k.ring h).gen + 1 })))) ∧
    (∀ g a b n, i = .tload g t a b n → s.bad = none →
      (∀ w, s.agentRead (s.cmdAgent c .scratch) (c.entry.val 0).toNat (32 * (n.toNat + 1)) = .error (.fault w) → (w.getD s).bad = none →
        failed (w.getD s)) ∧
      (s.agentRead (s.cmdAgent c .scratch) (c.entry.val 0).toNat (32 * (n.toNat + 1)) = .ok (s1, bs, p) → s1.bad = none →
        done (s1.updCore (coreOf c.cx) fun k => k.putTmpl ((s1.ctx c.cx).tbase + (c.entry.val 1).toNat) bs (n.toNat + 1)))) ∧
    (∀ g a b d q n ser, i = .pinwin g t a b d → c.bound = some (q, n, ser) →
      let w := mget ({} : Pin) n (s.quad q).pins
      w.valid = true → w.serial.toNat = ser → done (State.fillLines w.base (w.size / 128) s)) ∧
    (∀ g a b mode, i = .tlbinv g t a b mode → (∀ x ∈ s.net, ¬(x.1 < (c.bound.map fun b => b.1).getD 0)) → (∀ x ∈ s.ctxs, x.2.held409 = []) → done s) ∧
    (∀ g a b w exact, i = .mapwin g t a b w exact → ∃ u : State, done u ∧ u = { s with dies := u.dies } ∧
      ∀ d, u.die d = if d ∈ s.domainDies then (s.die d).setWindow w.toNat (mapwinOf c.entry exact) else s.die d)

/-- R18–R25, R41, R43, R45, R50, R53, R94, R98: bundles. A bundle of an S1 and an S2 op gives both results from the operands as they
were before, S1's first; a bundle of one streaming op, there or remembered in its slot, guarded or not, does at each repetition what that
op does alone, from a cursor of zero at the first one where it is there; so does a bundle of one S0 op, whose transfer, alone or beside a
streaming op, follows the other slots; a template does what a bundle of its words does; the bundle goes on with the next one, or with
its next repetition. -/
def Obligations.Bundles : Prop :=
  ∀ (hdr : W32) (rc : BitVec 6) (index : BitVec 9) (s : State),
    let cx := s.cur.cx
    let k := s.core (coreOf cx)
    let n := (hdr.extractLsb' 8 7).toNat
    let at_ := fun (units left : Nat) => { s with cur := { cx := cx, pc := s.here.pc, nxt := s.here.pc + units, off := (s.here.regs.get 0).getLsbD 0 == false, slot := 0, rep := 0, left := left } }
    let entry : BitVec 256 := mget 0 (s.here.tbase + index.toNat) k.tmpl
    let word := fun (m : Nat) => entry.extractLsb' (32 * m) 32
    let called := index.toNat < s.here.tmplEntries ∧ word 0 = hdr ∧ word 7 = 0 ∧ (∀ m, 1 ≤ m → m ≤ 6 → hdr.getLsbD m = false → word m = 0) ∧
      n = 0 ∧ hdr.getLsbD 15 = false
    let left := if s.here.mid then s.here.rcLeft else n
    let off := (s.here.regs.get (hdr.extractLsb' 17 5).toNat).getLsbD (hdr.extractLsb' 22 6).toNat == hdr.getLsbD 16
    let now := fun (units : Nat) =>
      { s with cur := { cx := cx, pc := s.here.pc, nxt := s.here.pc + units, off := off, slot := 0, rep := n - left, left := left } }
    let zero := fun (slot : Nat) (c : Ctx) => { c with cursors :=
      { s3 := if slot = 3 then 0 else c.cursors.s3, s5s := if slot = 5 then 0 else c.cursors.s5s
        s5d := if slot = 5 then 0 else c.cursors.s5d, s6 := if slot = 6 then 0 else c.cursors.s6 } }
    let words := fun (slot : Nat) (i : Instr) => if slot = 7 then [(encodeParcel i).1, (encodeParcel i).2] else [(encodeParcel i).1]
    let streaming := fun (slot : Nat) (i : Instr) => 3 ≤ slot ∧ slot ≤ 7 ∧ i.wf = true ∧ i.slots.contains slot = true ∧ isNop i = false ∧
      ((off = true ∧ gBitOf i = true) ∨ (streamHeld slot i s = false ∧ firstPoisoned s.here (srcSpecs i) = none))
    let begins := fun (slot : Nat) (i : Instr) (there : Bool) (units : Nat) =>
      ((now units).updCtx cx fun c => if there = true ∧ n ≤ left then zero slot c else c).issueAlone slot i
    (s.mayRun hdr → ∀ (i : Instr) (slot : Nat) (there : Bool) (ws : List W32), streaming slot i → s.decodeTrap cx (fullBundleOf hdr ws) = none →
      (there = true ∧ hdr.extractLsb' 0 8 = BitVec.ofNat 8 (2 ^ slot) ∧ ws = words slot i ∧ ∀ p ∈ s.here.sticky, p.1 = slot) ∨
        (there = false ∧ hdr.extractLsb' 0 8 = 0 ∧ ws = [] ∧ s.here.sticky = [(slot, parcelOf i)]) →
      let units := 2 + 2 * ws.length
      exec (.fullBundle hdr ws) s = .next ((begins slot i there units).repeated ⟨.fullBundle hdr ws, 0⟩ hdr (s.here.pc + units) left)) ∧
    (s.mayRun hdr → s.here.sticky = [] → s.here.skipS0 = false → ∀ (i : Instr), i.wf = true → i.slots = [0] → isNop i = false →
      let ws := [(encodeParcel i).1]
      let nxt := s.here.pc + 4
      let ordered := fun (t : State) => t.updCtx cx fun c => { c with ord := c.ord + 1 }
      s.decodeTrap cx (fullBundleOf hdr ws) = none →
      (hdr.extractLsb' 0 8 = 1 → off = true → gBitOf i = true →
        exec (.fullBundle hdr ws) s = .next ((ordered (now 4)).repeated ⟨.fullBundle hdr ws, 0⟩ hdr nxt left)) ∧
      (hdr.extractLsb' 0 8 = 1 → (now 4).runs0 (gBitOf i) i → ∀ t, exec i (now 4) = .next t → t.here.sys = s.here.sys → t.here.phase = .running →
        ((∃ g, (∃ m, i = .waitf g m ∨ i = .peekf g m ∨ i = .setf g m ∨ i = .clrf g m) ∨ (∃ r d, i = .mfs g r d) ∨ (∃ k, i = .await g k) ∨
            ∃ a, i = .twait g a ∨ i = .pwrreq g a) →
          exec (.fullBundle hdr ws) s = .next ((ordered t).repeated ⟨.fullBundle hdr ws, 0⟩ hdr nxt left)) ∧
        (left = 0 → (∃ g, (∃ k, i = .br g k ∨ i = .call g k) ∨ (∃ a, i = .jmp g a) ∨ i = .ret g ∨ (∃ u, i = .brx g u) ∨ ∃ a k, i = .loop g a k) →
          exec (.fullBundle hdr ws) s = .next ((ordered t).counted hdr))) ∧
      (∀ (j : Instr) (slot : Nat), streaming slot j → left = 0 → (∃ k, i = .br false k) ∨ (∃ u, i = .brx false u) →
        hdr.extractLsb' 0 8 = BitVec.ofNat 8 (2 ^ slot + 1) → s.decodeTrap cx (fullBundleOf hdr (ws ++ words slot j)) = none →
        ∃ t, exec i (begins slot j true (4 + 2 * (words slot j).length)) = .next t ∧
          exec (.fullBundle hdr (ws ++ words slot j)) s = .next (t.counted hdr))) ∧
    (s.issues hdr →
    (∀ (i j : Instr) (d e : Spec) (f g : State → Word × Status),
      let s' := at_ 6 n
      i.wf = true → j.wf = true → i.slots.contains 1 = true → j.slots.contains 2 = true → isNop i = false → isNop j = false →
      gBitOf i = false → gBitOf j = false → isDivide i = false → isDivide j = false → clash i j = false →
      Computes i false d f → Computes j false e g → s'.runs false i → s'.runs false j → hdr.extractLsb' 0 8 = 6 →
      pcIdx s.here.pc + 6 ≤ 16384 →
      let done := fun (s' : State) => (s'.gives d (f s').1 (f s').2).gives e (g s').1 (g s').2
      exec (.fullBundle hdr [(encodeParcel i).1, (encodeParcel j).1]) s =
        .next (((done s').updCtx cx fun c => { c with ord := c.ord + 1 }).repeated ⟨.fullBundle hdr [(encodeParcel i).1, (encodeParcel j).1], 0⟩ hdr (s.here.pc + 6) n)) ∧
    (∀ (i : Instr) (slot : Nat),
      3 ≤ slot → slot ≤ 7 → i.wf = true → i.slots.contains slot = true → isNop i = false → gBitOf i = false →
      s.unallotted cx i = none → (privileged i = false ∨ s.here.sys = true) →
      hdr.extractLsb' 0 8 = BitVec.ofNat 8 (2 ^ slot) → firstPoisoned s.here (srcSpecs i) = none → streamHeld slot i s = false →
      (∀ d, (s.core (coreOf cx)).divider = some d → d.cx ≠ cx) →
      let start := fun (s' : State) => (s'.updCtx cx fun c =>
        { c with cursors :=
          { s3 := if slot = 3 then 0 else c.cursors.s3, s5s := if slot = 5 then 0 else c.cursors.s5s
            s5d := if slot = 5 then 0 else c.cursors.s5d, s6 := if slot = 6 then 0 else c.cursors.s6 } }).issueAlone slot i
      let ws := if slot = 7 then [(encodeParcel i).1, (encodeParcel i).2] else [(encodeParcel i).1]
      let units := 2 + 2 * ws.length
      (pcIdx s.here.pc + units ≤ 16384 →
        exec (.fullBundle hdr ws) s = .next ((start (at_ units n)).repeated ⟨.fullBundle hdr ws, 0⟩ hdr (s.here.pc + units) n)) ∧
      (called → slot ≤ 6 → word slot = (encodeParcel i).1 → pcIdx s.here.pc + 1 ≤ 16384 →
        exec (.tcall index rc) s = .next ((start (at_ 1 rc.toNat)).repeated ⟨.tcall index rc, entry⟩ hdr (s.here.pc + 1) rc.toNat))) ∧
    (s.here.tmplEntries ≤ index.toNat → pcIdx s.here.pc + 1 ≤ 16384 →
      exec (.tcall index rc) s = .next ((at_ 1 rc.toNat).takePrecise { cause := 0x04, slot := 0, detail := 1, info1 := index.setWidth 64 })) ∧
    (hdr.extractLsb' 0 8 = 0 → pcIdx s.here.pc + 2 ≤ 16384 →
      exec (.fullBundle hdr []) s = .next (((at_ 2 n).updCtx cx fun c => { c with ord := c.ord + 1 }).repeated ⟨.fullBundle hdr [], 0⟩ hdr (s.here.pc + 2) n)))

/-- R23, R52, R53, R63, R100: a bundle that names no guarded slot with a guard is illegal; while an operand is absent or a queue full, a
bundle issues nothing, nor does any bundle while its guard register is absent; a poisoned guard register traps (with slot 0: assumption
log 83).
R64, R65, R391: the selector goes to the next ready context in turn once the running one cannot issue, or its quantum of 1,024
cycles (or a `YIELD`) has ended it and no stall of its next repetition is in progress; it stays otherwise, and while it is to go the
running context issues nothing. -/
def Obligations.HoldsAndSelection : Prop :=
  (∀ (hdr : W32) (s : State) (i : Instr) (slot : Nat),
    let cx := s.cur.cx
    s.mayIssue cx = true → s.mustSwitch (coreOf cx) = false → s.bad = none → s.here.guard = none → s.here.sticky = [] → s.here.mid = false →
    (hdr.extractLsb' 0 8 = 0 → hdr.extractLsb' 16 12 ≠ 0 → pcIdx s.here.pc + 2 ≤ 16384 → ∃ cur,
      exec (.fullBundle hdr []) s = .next ({ s with cur := cur }.takePrecise { cause := 0x02, slot := 0, detail := 1 }) ∧ cur.cx = cx ∧
        cur.pc = s.here.pc ∧ cur.rep = 0) ∧
    (3 ≤ slot → slot ≤ 6 → i.wf = true → i.slots.contains slot = true → isNop i = false → gBitOf i = false → s.unallotted cx i = none →
      (privileged i = false ∨ s.here.sys = true) → hdr.extractLsb' 0 8 = BitVec.ofNat 8 (2 ^ slot) → hdr.extractLsb' 16 12 = 0 →
      pcIdx s.here.pc + 4 ≤ 16384 → streamHeld slot i s = true →
      exec (.fullBundle hdr [(encodeParcel i).1]) s = .next s) ∧
    (let gn := (hdr.extractLsb' 17 5).toNat
     let e := s.here.energy.stallDue (grantOf (s.core (coreOf cx)).bfw (s.cluster (clusterOf cx)).limit) ((s.core (coreOf cx)).weight hdr)
     (∀ ws, s.here.regs.pres.getLsbD gn = false → s.decodeTrap cx (fullBundleOf hdr ws) = none → exec (.fullBundle hdr ws) s = .next s) ∧
      (s.here.regs.pres.getLsbD gn = true → s.here.regs.pois.getLsbD gn = true → hdr.extractLsb' 0 8 = 0 → hdr.extractLsb' 16 12 = 0 → pcIdx s.here.pc + 2 ≤ 16384 → s.here.draining = false → e = false → ∃ cur,
        exec (.fullBundle hdr []) s = .next ({ s with cur := cur }.takePrecise { cause := 0x0B, slot := 0, detail := 16 }) ∧ cur.cx = cx ∧
          cur.pc = s.here.pc ∧ cur.rep = 0))) ∧
  (∀ (core : Nat) (s : State),
    let k := s.core core
    let cxOf := fun (d : Nat) => 4 * core + (k.running + d) % 4
    let run := 4 * core + k.running
    let ended := k.quantumEnded = true ∨ (k.hasRun = true ∧ k.quantum + 1024000 ≤ s.millis (clusterOf (4 * core)))
    let stalled := (s.ctx run).energy.stalls.head? = some true
    (∀ d, 1 ≤ d → d ≤ 3 → s.ready run = false ∨ (ended ∧ ¬ stalled) → s.ready (cxOf d) = true →
      (∀ e, 1 ≤ e → e < d → s.ready (cxOf e) = false) →
      exec (.contextSwitch core) s = .next (s.setCore core { k with running := (k.running + d) % 4, hasRun := false, quantumEnded := false }) ∧
        (ended → ¬ stalled → coreOf s.cur.cx = core → s.bad = none → ∀ hdr ws, exec (.fullBundle hdr ws) s = .next s)) ∧
    (s.ready run = true → ¬ ended ∨ stalled → exec (.contextSwitch core) s = .next s) ∧
    ((∀ d, 1 ≤ d → d ≤ 3 → s.ready (cxOf d) = false) → exec (.contextSwitch core) s = .next s) ∧
    (ended → exec (.quantumExpiry core) s = .next (s.setCore core { k with quantumEnded := true })) ∧
    (¬ ended → exec (.quantumExpiry core) s = .next s))

/-- R68, R69, R74, R75, R83, R144, R145, R209, R310, R348: the events of the streaming queues. An op issued alone is its issue, then its start, then the
writes that are due. `STREAMING_ENTRY_START` starts a `VMOV` at the head of S4, which
waits while its destination may not be written yet, and asks for the fill of a source whose slot is invalid. `STREAMING_WRITE` puts a result into a named register or a vector
register, with its presence, poison, status and `VDEC` together, and nothing else. `VECTOR_FILL` reads the slot of the register asked for first, and no other, and
`VECTOR_EARLY_WRITEBACK` writes it, and no other byte of memory. `CONDITIONED_OP_PERFORM` performs `FPOP` and `FPUSH` in turn, and `LDFE` once its
word is FULL. `DRAIN_COMPLETE` ends a `DRAIN` when nothing before it is outstanding. `TRAP_ENTRY` takes a noted streaming fault: cause, place,
information and frame saved, system level, the handler's address. `RETIREMENT_COMPLETE` frees a context that has retired, its array at reset and its
engines warm (assumption log 26 on what a trap holds, 80 on a place past a bank's end). -/
def Obligations.StreamingEvents : Prop :=
  (∀ (slot : Nat) (g : Bool) (i : Instr) (s : State), 3 ≤ slot → slot ≤ 7 → i.slots.contains slot = true → gBitOf i = g →
    s.streams slot g i → s.here.frozen = false → (s.core (coreOf s.cur.cx)).halt = .none → (slot = 7 → s.mayStart7 s.cur.cx = true) →
    ∃ u, exec (.streamingEntryStart s.cur.cx slot) (s.issueAlone slot i) = .next u ∧ exec i s = u.landed.out) ∧
  ∀ (s : State) (cx n : Nat) (o : Out) (v : OutVal) (e : Entry) (es : List Entry),
    let c := s.ctx cx
    let core := coreOf cx
    let cl := clusterOf cx
    let k := s.cluster cl
    let head := fun (slot : Nat) (i : Instr) (ph : EntryPhase) =>
      c.queue slot = e :: es ∧ (∀ x ∈ es, x.ord ≠ e.ord) ∧ e.slot = slot ∧ e.instr = some i ∧ e.phase = ph ∧ e.fault = false ∧ c.frozen = false ∧
        c.guard = none
    (∀ g vd va, head 4 (.vmov g vd va) .queued → (s.core core).halt = .none → c.vReady e.ord va = true →
      (c.vvalid.getLsbD va.toNat = true → c.vWritable e (.vmov g vd va) = true → c.vpois.getLsbD va.toNat = false →
        exec (.streamingEntryStart cx 4) s =
          .next (s.updCtx cx fun c => (c.setOut e.ord 4 { word := 0, vec := mget [] va.toNat c.v, status := stNone }).setQueue 4 es)) ∧
      (c.vvalid.getLsbD va.toNat = true → c.vWritable e (.vmov g vd va) = false → exec (.streamingEntryStart cx 4) s = .next s) ∧
      (c.vvalid.getLsbD va.toNat = false → (s.core core).fillq = [] →
        exec (.streamingEntryStart cx 4) s = .next (s.updCore core fun k => { k with fillq := [(cx, 4, e.ord)] }) ∧
          (s.updCore core fun k => { k with fillq := [(cx, 4, e.ord)] }).nextFill core = some (cx, va.toNat))) ∧
    (c.outs[n]? = some o → o.val = some v → v.keep = false → (∀ x ∈ c.outs, x.dst = o.dst → ¬(x.ord < o.ord ∨ (x.ord = o.ord ∧ x.slot < o.slot))) →
      c.guard = none →
      let last := ∀ x ∈ c.outs, x ≠ o → x.dst ≠ o.dst
      (∀ sys d, d < 32 → o.dst = .n sys d → ∃ u, exec (.streamingWrite cx n) s = .next u ∧ OnlyCtx cx s u ∧
        let r := (u.ctx cx).set sys
        r.get d = v.word ∧ (∀ m, m ≠ d → r.get m = (c.set sys).get m) ∧ r.q = (c.set sys).q ∧ r.pois.getLsbD d = v.poison ∧
          (r.pres.getLsbD d = true ↔ last) ∧ (u.ctx cx).outs = c.outs.filter (fun x => x != o) ∧
          (u.ctx cx).fpstatus = c.fpstatus ||| v.status ∧ (u.ctx cx).vdec = v.vdec.getD c.vdec ∧ (u.ctx cx).v = c.v ∧ (u.ctx cx).set (!sys) = c.set (!sys)) ∧
      (∀ d, d < 64 → o.dst = .v d →
        (∀ slot ∈ [3, 4, 5, 6], ∀ x ∈ c.queue slot, x.ord ≤ o.ord → ∀ i, x.instr = some i → ∀ y ∈ vReads i, y.toNat ≠ d) →
        ∃ u, exec (.streamingWrite cx n) s = .next u ∧ OnlyCtx cx s u ∧
          mget [] d (u.ctx cx).v = v.vec ∧ (∀ m, m ≠ d → mget [] m (u.ctx cx).v = mget [] m c.v) ∧ (u.ctx cx).vvalid.getLsbD d = true ∧
          (u.ctx cx).vdirty.getLsbD d = true ∧ (u.ctx cx).vpois.getLsbD d = v.poison ∧
          (u.ctx cx).vpres.getLsbD d = (c.vpres.getLsbD d || decide last) ∧ (u.ctx cx).outs = c.outs.filter (fun x => x != o) ∧
          (u.ctx cx).fpstatus = c.fpstatus ||| v.status ∧ (u.ctx cx).vdec = v.vdec.getD c.vdec ∧ (u.ctx cx).prog = c.prog ∧ (u.ctx cx).shad = c.shad)) ∧
    (let key := areaKey c.savebase + 4096 * n
     n < 64 → populated key = true →
      (s.nextFill core = some (cx, n) → s.granted false key 4096 = true → ∃ u, exec (.vectorFill cx n) s = .next u ∧
        u = { s with ctxs := u.ctxs, quads := u.quads, mods := u.mods } ∧ (∀ k, k ≠ cx → u.ctx k = s.ctx k) ∧
        u.ctx cx = { c with
          v := mset [] n (tileOfBytes (s.homeBytes key 4096)) c.v, vvalid := c.vvalid ||| ((1 : Word) <<< n)
          vdirty := c.vdirty &&& ~~~((1 : Word) <<< n) }) ∧
      (s.nextFill core ≠ some (cx, n) → exec (.vectorFill cx n) s = .next s) ∧
      (c.vvalid.getLsbD n = true → c.vdirty.getLsbD n = true → s.bad = none → s.granted true key 4096 = true →
        (∀ i < 4096, s.remapOff (key + i) = none) →
        ∃ u, exec (.vectorEarlyWriteback cx n) s = .next u ∧ u.ctx cx = { c with vdirty := c.vdirty &&& ~~~((1 : Word) <<< n) } ∧
          (∀ k < 1024, u.bytes (key + 4 * k) 4 = bytesOfNat 4 (mget 0 k (mget [] n c.v)).toNat) ∧
          (∀ a, a < key ∨ key + 4096 ≤ a → u.byte a = s.byte a) ∧ u = { s with mem := u.mem, mpoison := u.mpoison, ctxs := u.ctxs, quads := u.quads })) ∧
    (∀ g d b x p rest t, head 3 (.fpop g d b) (.parked t) → s.chosenFirst cl t (parkedWords (s.core core) e) = false → k.modeFor c.launch b.toNat = 3 →
      k.switching.getLsbD b.toNat = false → k.fifo b.toNat = (x, p) :: rest →
      exec (.conditionedOpPerform cx 3) s = .next ((s.updCluster cl fun k => k.setFifo b.toNat rest).updCtx cx fun c =>
        (c.setOut e.ord 3 { word := x, poison := p }).setQueue 3 es)) ∧
    (∀ g src b t, head 3 (.fpush g src b) (.parked t) → s.chosenFirst cl t (parkedWords (s.core core) e) = false → k.modeFor c.launch b.toNat = 3 →
      k.switching.getLsbD b.toNat = false → (k.fifo b.toNat).length < fifoMax →
      exec (.conditionedOpPerform cx 3) s = .next ((s.updCluster cl fun k => k.setFifo b.toNat (k.fifo b.toNat ++ [(e.val 0, false)])).updCtx cx
        fun c => c.setQueue 3 es)) ∧
    (∀ g d base size sx off t, head 3 (.ldfe g d base size sx off) (.parked t) → s.chosenFirst cl t (parkedWords (s.core core) e) = false →
      let a := effAddr (e.val 0) off (2 ^ size.toNat) e.cur
      ∀ q, a % 2 ^ size.toNat = 0 → windowOff a = some q → k.scratchOk c.launch q (2 ^ size.toNat) = true →
        k.switchingIn q (2 ^ size.toNat) = false →
        (k.wordFull (q / 8) = true →
          exec (.conditionedOpPerform cx 3) s = .next ((s.updCluster cl fun k => k.setFull (q / 8) 1 false).updCtx cx fun c =>
            (c.setOut e.ord 3
              { word := loadValue (k.scratchBytes q (2 ^ size.toNat)) sx, poison := k.scratchPois q (2 ^ size.toNat) }).setQueue 3 es)) ∧
        (k.wordFull (q / 8) = false → exec (.conditionedOpPerform cx 3) s = .next s)) ∧
    (∀ g scope, head 3 (.drain g scope) .queued →
      let z := if 3 ≤ scope.toNat then s.writeBackAll cl else s
      (z.drained cx e.ord = true → exec (.drainComplete cx) s = .next (z.updCtx cx fun c => c.setQueue 3 es)) ∧
      (z.drained cx e.ord = false → exec (.drainComplete cx) s = .next s)) ∧
    (∀ f : SFault, c.sfault = [f] → c.phase = .running → (s.core core).halt = .none → (∀ d, (s.core core).divider = some d → d.cx ≠ cx) →
      (∀ o ∈ c.outs, o.ord = f.ord → o.slot = f.slot → o.val = none) →
      (c.queue f.slot).find? (fun x => x.ord = f.ord) = some e → c.sys = false → c.trapvec.getLsbD 15 = true →
      ∃ u, exec (.trapEntry cx) s = .next u ∧ (u.ctx cx).sys = true ∧ (u.ctx cx).phase = .running ∧ (u.ctx cx).sfault = [] ∧
        (u.ctx cx).pc = pcOfArch (c.trapvec.extractLsb' 0 15).toNat ∧ (u.ctx cx).trappc = BitVec.ofNat 64 (archPc e.pc) ∧
        (u.ctx cx).info0 = info0Of f.trap.slot e.rep f.trap.detail ∧ (u.ctx cx).info1 = f.trap.info1 ∧
        (u.ctx cx).trapcause = trapcauseOf f.trap.cause false true f.drop false c.mid (if c.mid then c.rcLeft else 0) (archPc c.pc) ∧
        (u.ctx cx).sticky = [] ∧ (u.ctx cx).loops = [] ∧ (u.ctx cx).frame = { sticky := c.sticky, cursors := c.cursors, loops := c.loops } ∧
        (u.ctx cx).prog = c.prog ∧ (u.ctx cx).shad = c.shad ∧ u.mem = s.mem ∧ ∀ j, j ≠ cx → u.ctx j = s.ctx j) ∧
    (s.retired cx = true → c.guard = none → (∀ b, mget [] b (s.die (dieOf cx)).benches = []) →
      ∃ u, exec (.retirementComplete cx) s = .next u ∧ (u.ctx cx).phase = .free ∧ u.mem = s.mem ∧ u.clusters = s.clusters ∧
        ((u.core core).arr = if c.accbanks.getLsbD 8 then {} else (s.core core).arr) ∧ (∀ j, j ≠ cx → u.ctx j = s.ctx j) ∧
        ∀ x, x < 96 → (s.engine (dieOf cx) x).st = .leased → (s.engine (dieOf cx) x).cx = cx → (s.engine (dieOf cx) x).area = none → (u.engine (dieOf cx) x).st = .warm) ∧
    (s.retired cx = false → exec (.retirementComplete cx) s = .next s)

/-- R71, R214, R215, R225–R234, R239, R240, R242–R244, R254: the events of banks, of the copy engine, of rings and of playbooks. A command's end completes
or fails its token. `BANK_SWITCH_COMPLETE` gives the banks switched their mode, empty, takes their contents out of their
parity banks, and changes no other bank. `COPY_BEGIN` reads the descriptor at
the head of a channel, and fails one that is malformed or cannot be read. `RING_SLOT_BIND` books a slot's bytes, waits for room, and fails what a slot
cannot hold. `COPY_COMPLETE` of a copy of one dimension without conversion reads and writes its elements in index order with literal strides
(assumption log 22, 55), a word of scratch that it has written whole losing its poison, and credits its ring; the last credit fills a slot. `PLAYBOOK_ENTRY_START` starts the next entry once its stage has come and
its channel has room. `RAWAIT_RETURN` gives the word of a slot that is ready, and waits for one otherwise. -/
def Obligations.CopyEvents : Prop :=
  ∀ (s s1 : State) (cl ch id : Nat) (ids : List Nat) (c : Command) (bs : List Byte) (p : Bool) (t : Tail),
    let k := s.cluster cl
    (s.cmd id = some c → c.play = none → c.area = none → c.entry.instr.bind tailFields = some t → s.endCmd id none =
      s.ended id c (fun x => x.commandEnds t c.entry.ord (c.scm ++ c.entry.scm) none) ∧
      ∀ kind why, s.endCmd id (some (kind, why)) = s.ended id c fun x => x.commandEnds t c.entry.ord (c.scm ++ c.entry.scm) (some (kind, why))) ∧
    (∀ (x : Ctx) (ord : Nat), (x.commandEnds t ord [] none).tokens = (x.commandDone t ord).tokens ∧
      (x.commandEnds t ord [] none).flags = (x.commandDone t ord).flags ∧
      ∀ kind why, (x.commandEnds t ord [] (some (kind, why))).tokens = (x.commandFailed t ord kind why).tokens ∧
        (x.commandEnds t ord [] (some (kind, why))).flags = (x.commandFailed t ord kind why).flags ∧
        (x.commandEnds t ord [] (some (kind, why))).engfail = (x.commandFailed t ord kind why).engfail) ∧
    (∀ g a mode, k.bankq = [id] → s.cmd id = some c → c.entry.instr = some (.bankcfg g t a mode) → c.play = none → c.area = none →
      (∀ l ∈ k.cache, k.switching.getLsbD l.way = false) →
      ∃ k', exec (.bankSwitchComplete cl) s = .next ((s.setCluster cl k').endCmd id none) ∧ k'.bankq = [] ∧ k'.switching = 0 ∧
        k'.cache = k.cache ∧ k'.owners = k.owners ∧ k'.rings = k.rings ∧
        (∀ b < 32, k'.mode b = if k.switching.getLsbD b then mode.toNat else k.mode b) ∧
        (mwf (0 : Byte) k.scratch = true → ∀ o, k.switching.getLsbD (bankOfOff o) = true →
          (∀ q, q ≠ o → parityOff q = parityOff o → k.switching.getLsbD (bankOfOff q) = true → mget 0 q k.scratch = 0) →
          mget 0 (parityOff o) k'.parity = mget 0 (parityOff o) k.parity ^^^ mget 0 o k.scratch) ∧
        ∀ b < 32, ∀ o, bankOfOff o = b → if k.switching.getLsbD b then k'.scratchBytes o 1 = [0] ∧ k'.wordFull (o / 8) = false ∧ k'.fifo b = []
          else k'.scratchBytes o 1 = k.scratchBytes o 1 ∧ k'.wordFull (o / 8) = k.wordFull (o / 8) ∧ k'.fifo b = k.fifo b) ∧
    (k.chan ch = id :: ids → s.cmd id = some c →
      let a := s.cmdAgent c (s.copyWin c)
      let failed := fun (u : State) => (u.updCluster cl fun k => k.setChan ch ((k.chan ch).drop 1)).endCmd id (some (7, 2))
      let ends := fun (u : State) => (u.updCluster cl fun k => k.setChan ch ((k.chan ch).drop 1)).endCmd id none
      (c.begun = false → c.play = none →
        (∀ w, s.agentRead a (c.entry.val 0).toNat 256 = .error (.fault w) → exec (.copyBegin cl ch) s = .next (failed (w.getD s))) ∧
        (s.agentRead a (c.entry.val 0).toNat 256 = .ok (s1, bs, p) →
          (parseCopy bs = none → exec (.copyBegin cl ch) s = .next (failed s1)) ∧
          ∀ d, parseCopy bs = some d →
            d.src = natOfBytes (bs.take 8) ∧ d.dst = natOfBytes ((bs.drop 8).take 8) ∧
            d.dims.length = bytesNum bs 16 8 / 4 % 16 ∧ d.esize = 2 ^ (bytesNum bs 16 8 % 4) ∧
            ((∀ h, d.ring = some h → ∃ l, a.l = some l ∧ h < (s.launch l).rings) →
              exec (.copyBegin cl ch) s = .next (s1.setCmd id { c with begun := true, desc := bs, parked := none })) ∧
            (∀ h, d.ring = some h → (∀ l, a.l = some l → (s.launch l).rings ≤ h) → exec (.copyBegin cl ch) s = .next (failed s1)))) ∧
      (∀ d h, c.begun = true → c.bound = none → parseCopy c.desc = some d → d.ring = some h →
        let r := k.ring (ringAt (s.cmdAgent c .rings).l h)
        let h := ringAt (s.cmdAgent c .rings).l h
        (r.valid = true → d.credit ≤ r.target.toNat → r.filled.toNat < r.nslot.toNat → r.booked.toNat + d.credit ≤ r.target.toNat →
          exec (.ringSlotBind cl ch) s = .next ((s.updCluster cl fun k => k.setRing h { r with booked := r.booked + BitVec.ofNat 32 d.credit }).setCmd id
            { c with bound := some (h, d.credit, r.wp.toNat) })) ∧
        (r.valid = true → r.target.toNat < d.credit → exec (.ringSlotBind cl ch) s = .next (failed s)) ∧
        (r.valid = false ∨ (d.credit ≤ r.target.toNat ∧ (r.nslot.toNat ≤ r.filled.toNat ∨ r.target.toNat < r.booked.toNat + d.credit)) →
          exec (.ringSlotBind cl ch) s = .next s)) ∧
      (∀ (d : CopyDesc) (x : CopyDim) (f : Nat → State), c.begun = true → parseCopy c.desc = some d → d.dims = [x] → d.conv = 0 → c.moved = 0 →
        let from_ := fun (i : Nat) => wrap64 (d.src + i * x.ss)
        let goal := fun (i : Nat) => d.dst + (i : Int) * x.ds
        f 0 = s →
        (d.ring = none → c.bound = none → (∀ i < x.count, from_ i % d.esize = 0 ∧ portOf (from_ i) = none ∧ wrap64 (goal i) % d.esize = 0 ∧ portOf (wrap64 (goal i)) = none ∧
            ∃ u v bs p, (f i).agentRead a (from_ i) d.esize = .ok (u, bs, p) ∧ u.agentWrite a (wrap64 (goal i)) bs p d.setfull = .ok v ∧
              f (i + 1) = v.coverWords a (wrap64 (goal i)) bs.length p) →
          exec (.copyComplete cl ch) s = .next (ends (f x.count))) ∧
        (∀ n h cr w, d.ring = some n → c.bound = some (h, cr, w) →
          let base := (k.ring h).base.toNat + w * (k.ring h).slotsz.toNat
          (∀ i < x.count, from_ i % d.esize = 0 ∧ portOf (from_ i) = none ∧ wrap64 (base + goal i) % d.esize = 0 ∧ 0 ≤ goal i ∧
            goal i + d.esize ≤ (k.ring h).slotsz.toNat ∧
            ∃ u v bs p, (f i).agentRead a (from_ i) d.esize = .ok (u, bs, p) ∧ bs.length = d.esize ∧
              u.agentWrite a (windowBase + base + (goal i).toNat) bs p d.setfull = .ok v ∧
              f (i + 1) = v.coverWords a (windowBase + base + (goal i).toNat) bs.length p) →
          exec (.copyComplete cl ch) s =
            .next (ends ((f x.count).updCluster cl fun k => k.setRing h ((k.ring h).credit cr false))))) ∧
      (∀ (r : Ring) (cr : Nat) (failed : Bool), 0 < r.nslot.toNat →
        let n := r.arrive.toNat + cr
        let bad := if failed then r.fail ||| (1 : Word) <<< r.wp.toNat else r.fail
        n < 2 ^ 32 →
        (n = r.target.toNat → r.credit cr failed =
          { r with fail := bad, filled := r.filled + 1, wp := BitVec.ofNat 6 ((r.wp.toNat + 1) % r.nslot.toNat), arrive := 0, booked := 0 }) ∧
        (n ≠ r.target.toNat → r.credit cr failed = { r with fail := bad, arrive := BitVec.ofNat 32 n }))) ∧
    (∀ l, let x := s.launch l
      let y := mget ({} : Play) l k.plays
      let a : Agent :=
        { cl := cl, l := some l, sp := { core := none, cl := cl, root := x.root, asid := x.asid, prog := true }, win := .scratch }
      x.st = .bound → s.quiescing cl l = false → x.clusterList.contains cl = true → y.again = [] → y.next < x.pbCount cl →
      (∀ w, s.agentRead a (x.num 0x38 8 + 0x20 + 16 * y.next) 16 = .error (.fault w) → ∃ u, exec (.playbookEntryStart cl l) s = .next u ∧
        (u.launch l).pbfail = true ∧ (mget ({} : Play) l (u.cluster cl).plays).next = y.next + 1 ∧ u.cmds = (w.getD s).cmds ∧
        u.mem = (w.getD s).mem) ∧
      (s.agentRead a (x.num 0x38 8 + 0x20 + 16 * y.next) 16 = .ok (s1, bs, p) →
        let ch := bytesNum bs 12 4 % 16
        (bytesNum bs 8 4 ≤ y.stage → (k.chan ch).length < 16 → ∃ u, exec (.playbookEntryStart cl l) s = .next u ∧
          (u.cluster cl).chan ch = (s1.cluster cl).chan ch ++ [s1.nextCmd] ∧ (mget ({} : Play) l (u.cluster cl).plays).next = y.next + 1 ∧
          (∃ c, u.cmd s1.nextCmd = some c ∧ c.cl = cl ∧ c.play = some (l, y.next) ∧ c.desc = bs ∧ c.begun = false) ∧ u.mem = s1.mem) ∧
        (y.stage < bytesNum bs 8 4 ∨ 16 ≤ (k.chan ch).length → exec (.playbookEntryStart cl l) s = .next s))) ∧
    (∀ cx g d ring e rest, (s.ctx cx).frozen = false → (s.ctx cx).queue 7 = e :: rest → e.phase = .watching → e.instr = some (.rawait g t d ring) →
      let r := (s.cluster (clusterOf cx)).ring (ringAt (s.ctx cx).launch ring.toNat)
      let m := mget 0 ring.toNat (s.ctx cx).marks
      let word := r.rp.toNat + 2 ^ 8 * r.gen.toNat
      let ready := r.valid = true ∧ 0 < r.filled.toNat ∧ ¬(m.getLsbD 31 = true ∧ (m.extractLsb' 0 24).toNat = word)
      (ready → exec (.rawaitReturn cx) s = .next (s.updCtx cx fun c =>
        ((c.setOut e.ord e.slot { word := BitVec.ofNat 64 (word + if r.fail.getLsbD r.rp.toNat then 2 ^ 24 else 0) }).commandEnds t e.ord e.scm none).setQueue 7 rest)) ∧
      (¬ready → exec (.rawaitReturn cx) s = .next s))

/-- R255, R262–R265, R275, R278: the events of benches, leases and engines. `BENCH_ARRIVAL`, 16 ns after the request left, reserves the lowest warm engine of the kind, ready after 64
ns, or wakes the lowest one asleep within the budget, ready after 2,048 ns, or lets the request wait. `HOLD_THRESHOLD_PASSED` takes an engine from a
holder of lower priority after 8,192 ns, whose lease is lost; the engine aborts for 32 ns first (assumption log 51). `LEASE_GRANT` gives the handle once the engine is ready, and holds the lease.
`ENGINE_WAKE_END` makes a woken engine warm; `WARM_ENGINE_SLEEP` puts one to sleep after 50,000 ns, unless its kind is held warm.
`WEIGHT_STREAM_WRITE` waits while its half is FULL, and otherwise writes the rows of the stream, their scales and poison, to that half, and makes it
FULL; nothing else of the array changes. -/
def Obligations.LeaseEvents : Prop :=
  ∀ (s : State) (die eng id : Nat) (c : Command) (t : Tail),
    let x := s.engine die eng
    let idle := ∀ b, mget [] b (s.die die).benches = []
    (∀ g d kind prio, s.cmd id = some c → c.entry.instr = some (.lease g t d kind prio) → kind.toNat < 6 → dieOf c.cx = die → c.area = none →
      c.begun = false → c.since + 16 ≤ s.now →
      s.cmds.filter (fun e => e.2.isLease && !e.2.begun && dieOf e.2.cx = die && e.2.since ≤ c.since) = [(id, c)] → idle →
      let gone := ((s.ctx c.cx).queue 7).filter fun e => e.ord != c.entry.ord
      (∀ n, n < 16 → (s.engine die (16 * kind.toNat + n)).st = .warm → (∀ m < n, (s.engine die (16 * kind.toNat + m)).st ≠ .warm) →
        ∃ u, exec (.benchArrival die id) s = .next u ∧ (u.ctx c.cx).queue 7 = gone ∧ (∀ b, mget [] b (u.die die).benches = []) ∧
          let y := u.engine die (16 * kind.toNat + n)
          y.st = .reserved ∧ y.req = id ∧ y.ready = s.now + 64 ∧ y.cx = c.cx ∧ y.prio = prio.toNat) ∧
      (∀ n, n < 16 → (∀ m < 16, (s.engine die (16 * kind.toNat + m)).st ≠ .warm) → (s.die die).awake < (s.die die).budget →
        (s.engine die (16 * kind.toNat + n)).st = .asleep → (∀ m < n, (s.engine die (16 * kind.toNat + m)).st ≠ .asleep) →
        ∃ u, exec (.benchArrival die id) s = .next u ∧ (u.ctx c.cx).queue 7 = gone ∧
          let y := u.engine die (16 * kind.toNat + n)
          y.st = .reserved ∧ y.req = id ∧ y.ready = s.now + 2048 ∧ y.cx = c.cx ∧ y.prio = prio.toNat) ∧
      ((∀ m < 16, (s.engine die (16 * kind.toNat + m)).st ≠ .warm ∧ (s.engine die (16 * kind.toNat + m)).st ≠ .asleep) →
        (∀ m < 16, (s.engine die (16 * kind.toNat + m)).st = .leased →
          prio.toNat ≤ (s.engine die (16 * kind.toNat + m)).prio ∨ s.now < (s.engine die (16 * kind.toNat + m)).since + 8192) →
        ∃ u, exec (.benchArrival die id) s = .next u ∧ (u.ctx c.cx).queue 7 = gone ∧ mget [] kind.toNat (u.die die).benches = [id])) ∧
    (s.cmd id = some c → s.now < c.since + 16 → exec (.benchArrival die id) s = .next s) ∧
    (∀ g d kind prio, x.st = .leased → x.since + 8192 ≤ s.now → x.area = none → kind.toNat = eng / 16 → kind.toNat < 6 →
      mget [] kind.toNat (s.die die).benches = [id] → (∀ b, b ≠ kind.toNat → mget [] b (s.die die).benches = []) → s.cmd id = some c →
      c.entry.instr = some (.lease g t d kind prio) → x.prio < prio.toNat → x.queue = [] →
      (∀ m < 16, m ≠ eng % 16 → let y := s.engine die (16 * kind.toNat + m)
        y.st ≠ .warm ∧ y.st ≠ .asleep ∧ (y.st = .leased → prio.toNat ≤ y.prio ∨ s.now < y.since + 8192)) →
      ∃ u, exec (.holdThresholdPassed die eng) s = .next u ∧
        let y := u.engine die eng
        y.st = .aborting ∧ y.since = s.now ∧ (∀ t, (Engine.abortEnds t y).st = if s.now + 32 ≤ t then .reserved else .aborting) ∧
          y.req = id ∧ y.ready = s.now + 96 ∧ y.cx = c.cx ∧
          (mget ({} : LeaseSlot) x.slot (u.ctx x.cx).leases).st = .lost ∧ (mget ({} : LeaseSlot) x.slot (u.ctx x.cx).leases).why = 0) ∧
    (s.cmd x.req = some c → c.area = none → x.st = .reserved →
      let h := BitVec.ofNat 32 (eng % 16 + 2 ^ 4 * (eng / 16) + 2 ^ 8 * x.slot + 2 ^ 16 * (mget ({} : LeaseSlot) x.slot (s.ctx c.cx).leases).serial.toNat)
      (x.ready ≤ s.now → exec (.leaseGrant die eng) s = .next
        (((s.updCtx c.cx fun y => (y.setLease x.slot fun l => { l with st := .held, handle := h }).setOut c.entry.ord 7 { word := h.setWidth 64 }).endCmd
          x.req none).setEngine die eng { x with st := .leased, since := s.now })) ∧
      (s.now < x.ready → exec (.leaseGrant die eng) s = .next s)) ∧
    (x.st = .aborting → exec (.leaseGrant die eng) s = .next s) ∧
    (idle → x.st = .waking → x.ready ≤ s.now → ∃ u, exec (.engineWakeEnd die eng) s = .next u ∧ u = { s with dies := u.dies } ∧
      (u.engine die eng).st = .warm ∧ (u.engine die eng).since = s.now) ∧
    (idle → x.st = .warm → x.since + 50000 ≤ s.now → (s.die die).heldWarm (eng / 16) = false →
      ∃ u, exec (.warmEngineSleep die eng) s = .next u ∧ u = { s with dies := u.dies } ∧ u.engine die eng = {}) ∧
    (x.st = .warm → s.now < x.since + 50000 ∨ (s.die die).heldWarm (eng / 16) = true → exec (.warmEngineSleep die eng) s = .next s) ∧
    (∀ g a b h s1 rows len early, s.engHead die eng = some (id, c) → c.entry.instr = some (.wstr g t a b h) → c.area = none →
      s.earlierWstr id c = false → c.entry.ckpt = false →
      let a := s.cmdAgent c .scratch
      s.readStream { a with sp := { a.sp with prog := true } } (c.entry.val 1).toNat = .ok (s1, some rows, len, early) → rows.length = 128 →
      let arr := (s.core (coreOf c.cx)).arr
      ((if h then arr.full1 else arr.full0) = true → exec (.weightStreamWrite die eng) s = .next s) ∧
      ((if h then arr.full1 else arr.full0) = false → ∃ arr' : MatArray,
        let s2 := s1.updCore (coreOf c.cx) fun y => { y with arr := arr' }
        exec (.weightStreamWrite die eng) s =
          .next ((s2.setEngine die eng { s2.engine die eng with queue := (s2.engine die eng).queue.drop 1 }).endCmd id none) ∧
        (let old := (s1.core (coreOf c.cx)).arr
         let half := if h then arr'.wb1 else arr'.wb0
         arr' = (if h then { old with wb1 := arr'.wb1, poisRows1 := arr'.poisRows1, full1 := true }
           else { old with wb0 := arr'.wb0, poisRows0 := arr'.poisRows0, full0 := true }) ∧
         ∀ n < 128, (half.row n).w = (rows.getD n (([], false), ([], false))).1.1 ∧ (half.row n).sc = (rows.getD n (([], false), ([], false))).2.1 ∧
           ((if h then arr'.poisRows1 else arr'.poisRows0).contains n =
             ((rows.getD n (([], false), ([], false))).1.2 || (rows.getD n (([], false), ([], false))).2.2)))))

/-- R246, R247, R264, R266–R273, R427: what the engines do. A plain stream is its 128 rows in order; a sparse one's values go where its mask has a 1;
a reduction of integers adds them modulo their size. DCX writes the rows of a stream and then their scales; SRT writes its keys in a stable order,
and their numbers where asked; GSX gathers and scatters elements by index, an index past the limit giving zeros, or nothing for a scatter; SMX writes
the softmax of one row by the algorithms of the vector unit, NaNs for a row with a NaN, +∞ or only −∞; HSH writes the CRC-32C or SHA3-256 of its
bytes. Each notes its `RESULT`. RED joins its group, and fails where a member of its tag has failed or differs; with the last member to join, every
member's result is written and noted.
`ENGINE_COMMAND_COMPLETE` writes the `RESULT` where asked and ends the command; a failed command, or one of another kind, ends as failed. Which outputs
poison reaches, that RED rounds once and how groups are told apart are assumption log 53, 54, 58's. -/
def Obligations.EngineFunctions : Prop :=
  (∀ l : List (Byte × Bool), l.length = 16384 → ∃ rows, decodeStream 0 false l = some rows ∧ rows.length = 128 ∧
    ∀ n < 128, let r := rows.getD n (([], false), ([], false))
      r.1.1 = ((l.drop (128 * n)).take 128).map Prod.fst ∧ r.1.2 = ((l.drop (128 * n)).take 128).any Prod.snd ∧ r.2 = (List.replicate 8 0, false)) ∧
  (∀ (bits : List Bool) (vs : List Nat), bits.count true = vs.length →
    (expandMask bits vs).length = bits.length ∧
    ∀ n < bits.length, (expandMask bits vs).getD n 0 = if bits.getD n false then vs.getD ((bits.take n).count true) 0 else 0) ∧
  (∀ (t : Nat) (xs : List Nat), t = 3 ∨ t = 4 → xs ≠ [] → (∀ x ∈ xs, x < 2 ^ (8 * redSize t)) →
    redElem t 0 false xs = xs.sum % 2 ^ (8 * redSize t)) ∧
  ∀ (s s1 s2 : State) (die eng id : Nat) (c : Command) (bs : List Byte) (f : Nat → State),
    let a := s.cmdAgent c .scratch
    let num := bytesNum bs
    let src := num 0x10 8
    let dst := num 0x18 8
    let runs := fun (kind func : Nat) => s.engineRuns die eng kind func id c s1 bs
    (∀ rows len early, runs 0 0 → src % 64 = 0 → dst % 64 = 0 → bytesZero bs 0x20 0x80 = true →
      s1.readStream a src = .ok (s2, some rows, len, early) → f 0 = s2 →
      let row := fun (n : Nat) => rows.getD n (([], false), ([], false))
      (∀ i < 128, (f i).agentWrite a ((dst + i * 128) % 2 ^ 64) (row i).1.1 (row i).1.2 false = .ok (f (i + 1))) →
      (∀ i < 128, (f (128 + i)).agentWrite a ((dst + 16384 + i * 8) % 2 ^ 64) (row i).2.1 (row i).2.2 false = .ok (f (128 + i + 1))) →
      exec (.dcxDecode die eng) s = .next ((f 256).engineRan id bs (BitVec.ofNat 64 len))) ∧
    (∀ keys, runs 1 0 →
      let idx := num 0x20 8
      let n := num 0x28 4
      let k := num 0x2C 4
      let t := num 0x30 1
      let z := keySize t
      let rank := fun (i : Nat) => (keyRank t (keys.getD i (0, false)).1).1
      1 ≤ n → n ≤ 2 ^ 24 → k ≤ n → t ≤ 8 → num 0x31 1 ≤ 1 → bytesZero bs 0x32 0x80 = true → src % z = 0 → dst % z = 0 → idx % 4 = 0 →
      State.agentArray a src z 0 n s1 = .ok (s2, keys) →
      ∃ order : List Nat, order.Perm (List.range n) ∧
        order.Pairwise (fun i j => if num 0x31 1 = 1 then rank j < rank i ∨ (rank i = rank j ∧ i < j) else rank i < rank j ∨ (rank i = rank j ∧ i < j)) ∧
        let m := if k = 0 then n else k
        let p := keys.any Prod.snd
        (f 0 = s2 →
          (∀ i < m, ∃ u, (f i).agentWrite a ((dst + i * z) % 2 ^ 64) (bytesOfNat z (keys.getD (order.getD i 0) (0, false)).1) p false = .ok u ∧
            (idx = 0 → f (i + 1) = u) ∧ (idx ≠ 0 → u.agentWrite a ((idx + i * 4) % 2 ^ 64) (bytesOfNat 4 (order.getD i 0)) p false = .ok (f (i + 1)))) →
          exec (.srtSort die eng) s =
            .next ((f m).engineRan id bs (BitVec.ofNat 64 (keys.filter fun p => (keyRank t p.1).2).length) p))) ∧
    (∀ ix (scatter : Bool), runs 2 scatter.toNat →
      let idx := num 0x20 8
      let n := num 0x28 4
      let z := num 0x2C 4
      let iz := num 0x30 1
      let limit := num 0x38 8
      let al := if z < 8 then z else 8
      1 ≤ n → n ≤ 2 ^ 24 → (z = 1 ∨ z = 2 ∨ z = 4 ∨ (z % 8 = 0 ∧ 8 ≤ z ∧ z ≤ 4096)) → iz = 4 ∨ iz = 8 → bytesZero bs 0x31 0x38 = true →
      bytesZero bs 0x40 0x80 = true → src % al = 0 → dst % al = 0 → idx % iz = 0 → State.agentArray a idx iz 0 n s1 = .ok (s2, ix) →
      f 0 = s2 →
      (∀ i < n, let j := (ix.getD i (0, false)).1
        let p := (ix.getD i (0, false)).2
        (limit ≤ j → (if scatter then f (i + 1) = f i
          else (f i).agentWrite a ((dst + i * z) % 2 ^ 64) (List.replicate z 0) p false = .ok (f (i + 1)))) ∧
        (j < limit → ∃ u x q, (f i).agentRead a ((src + (if scatter then i else j) * z) % 2 ^ 64) z = .ok (u, x, q) ∧
          u.agentWrite a ((dst + (if scatter then j else i) * z) % 2 ^ 64) x (p || q) false = .ok (f (i + 1)))) →
      exec (if scatter then .gsxScatter die eng else .gsxGather die eng) s =
        .next ((f n).engineRan id bs (BitVec.ofNat 64 (ix.filter fun p => limit ≤ p.1).length) (ix.any Prod.snd))) ∧
    (∀ xs, runs 3 0 →
      let n := num 0x2C 4
      let scale := num 0x40 4
      let it := num 0x44 1
      let ot := num 0x45 1
      let zi := if it = 0 then 4 else 2
      let zo := if ot = 0 then 4 else 2
      let fmt := if ot = 0 then fp32 else bf16
      num 0x28 4 = 1 → 1 ≤ n → n ≤ 65536 → it = 0 ∨ it = 3 → ot = 0 ∨ ot = 3 → 0x00800000 ≤ scale → scale < 0x7F800000 → num 0x20 8 = 0 →
      bytesZero bs 0x46 0x80 = true → src % zi = 0 → bytesInt bs 0x30 8 % zi = 0 → dst % zo = 0 → bytesInt bs 0x38 8 % zo = 0 →
      State.agentArray a (wrap64 src) zi 0 n s1 = .ok (s2, xs) → f 0 = s2 →
      let vs := xs.map fun x => if it = 0 then x.1 else x.1 * 65536
      let bad := (∃ x ∈ vs, (fp32.decode x).isNan = true ∨ x = fp32.inf false) ∨ ∀ x ∈ vs, x = fp32.inf true
      let top := (vs.drop 1).foldl (fun m x => (fp32.max m x).1) (vs.headD 0)
      let ys := vs.map fun x => (laneExp2 (fp32.mul .rne (fp32.sub .rne x top).1 scale).1).1
      let lv := if n ≤ 1 then 0 else Nat.log2 (n - 1) + 1
      let sum := sumTree (lv + 1) (ys ++ List.replicate (2 ^ lv - n) 0)
      (∀ i < n, (∀ y, (bad → y = fmt.nan) → (¬bad → y = if ys.getD i 0 % 2 ^ 31 = 0 then 0 else divRound fmt (f32 (ys.getD i 0)) (f32 sum)) →
        (f i).agentWrite a ((wrap64 dst + i * zo) % 2 ^ 64) (bytesOfNat zo y) (xs.any Prod.snd) false = .ok (f (i + 1)))) →
      (bad → exec (.smxSoftmax die eng) s = .next ((f n).engineRan id bs 1 (xs.any Prod.snd))) ∧
        (¬bad → exec (.smxSoftmax die eng) s = .next ((f n).engineRan id bs 0 (xs.any Prod.snd)))) ∧
    (∀ data p u,
      let len := num 0x18 8
      let dst := num 0x20 8
      len ≤ 2 ^ 40 → bytesZero bs 0x2C 0x80 = true → s1.agentRead a src len = .ok (s2, data, p) →
      (runs 4 0 → dst % 4 = 0 → s2.agentWrite a dst (bytesOfNat 4 (crc32c (BitVec.ofNat 32 (num 0x28 4)) data).toNat) p false = .ok u →
        exec (.hshCrc32c die eng) s = .next (u.engineRan id bs (BitVec.ofNat 64 len))) ∧
      (runs 4 1 → dst % 32 = 0 → num 0x28 4 = 0 → s2.agentWrite a dst (sha3 data) p false = .ok u →
        exec (.hshSha3256 die eng) s = .next (u.engineRan id bs (BitVec.ofNat 64 len)))) ∧
    (∀ ms p, runs 5 0 → c.result = none → redOk bs = true → s1.agentRead a (num 0x28 8) (2 * num 0x34 2) = .ok (s2, ms, p) →
      let all := bs ++ ms
      let s3 := s2.setCmd id { c with begun := true, desc := all, parked := none }
      let g := bytesNum all 0x34 2
      let joined := s3.redJoined all
      let member := fun (r : Nat) => joined.find? fun m => bytesNum m.2.2.2.desc 0x36 2 == r && m.1 == bytesNum all (0x80 + 2 * r) 2
      (∀ s4, s3.takeFailed (redTag all) die = some s4 → exec (.redReduce die eng) s = .next (s4.updCmd id fun c => { c with fail := some 2 })) ∧
      (s3.takeFailed (redTag all) die = none → (∃ m ∈ joined, redKey m.2.2.2.desc ≠ redKey all) →
        exec (.redReduce die eng) s = .next ((s3.failMembers id die all).updCmd id fun c => { c with fail := some 2 })) ∧
      (s3.takeFailed (redTag all) die = none → (∀ m ∈ joined, redKey m.2.2.2.desc = redKey all) →
      ((∃ r < g, member r = none) → exec (.redReduce die eng) s = .next s3) ∧
      ∀ group : List (Nat × Nat × Nat × Command), group.length = g → (∀ r < g, member r = group[r]?) →
        ∀ u, s3.reduceAll group all = .ok u → ∃ v, exec (.redReduce die eng) s = .next v ∧ v.mem = u.mem ∧
          ∀ m ∈ group, v.cmd m.2.2.1 = (u.cmd m.2.2.1).map fun x => { x with result := some (BitVec.ofNat 64 g, false) })) ∧
    (s.engHead die eng = some (id, c) → c.isWstr = false →
      let ends := fun (u : State) => (u.setEngine die eng { u.engine die eng with queue := (u.engine die eng).queue.drop 1 }).endCmd id none
      (∀ r, c.fail = none → c.result = some r →
        (bytesNum c.desc 8 8 = 0 ∨ engKind eng = 5 → exec (.engineCommandComplete die eng) s = .next (ends s)) ∧
        (bytesNum c.desc 8 8 ≠ 0 → engKind eng ≠ 5 → s.agentWrite a (bytesNum c.desc 8 8) (bytesOfWord 8 r.1) r.2 false = .ok s1 →
          exec (.engineCommandComplete die eng) s = .next (ends s1))) ∧
      (c.fail.isSome = true → exec (.engineCommandComplete die eng) s = .next (s.endEng die eng id (some 2))) ∧
      (∀ p, c.fail = none → c.result = none → c.begun = false → s.agentRead a c.descAddr1 128 = .ok (s1, bs, p) →
        bytesNum bs 0 1 ≠ eng / 16 → exec (.engineCommandComplete die eng) s = .next (s1.endEng die eng id (some 2))))

/-- R210, R284, R286, R291–R293, R308, R319: what happens in memory on its own. `SLICE_FILL` makes a line present, in a set with room without
touching another line, in a full one in place of one that no pin protects; a dirty line stays marked. `PIN_FADE_TICK` reloads
the count of a pin that was touched and lowers that of one that was not, freeing it at 0, unless the die is shed. `REMAP_COUNT_UPDATE` ages the count
of every granule of its quadrant and adds its samples (their rotation is assumption log 46's). `SWAP_LINE_EXCHANGE` counts a line, and with the last
exchanges the media of the two granules, counts at 0, and ends the command; memory reads as before. `MIGRATION_COUNTER_CLEAR` clears the counters. An
error in a word of scratch poisons that word, one in a tag array sets the words FULL and poisoned, and a media error poisons a line, and nothing
else. -/
def Obligations.MemoryEvents : Prop :=
  ∀ (s : State) (q n line cl w r : Nat),
    let z := s.quad q
    let die := q / 4
    let d := s.die die
    let k := s.cluster cl
    (homeQuad line = q → isHost line = false →
      (s.present line = true → exec (.sliceFill q line) s = .next s) ∧
      (s.present line = false → ∃ u, exec (.sliceFill q line) s = .next u ∧ u.mem = s.mem ∧ u.mpoison = s.mpoison ∧
        mget [] (lineOf line) (u.quad q).wq = [] ∧ (∀ l, lineOf l ≠ lineOf line → u.present l = true → s.present l = true) ∧
        (∀ l, s.present l = true → z.pinned (lineOf l) = true → u.present l = true) ∧
        ((z.inSet line).length < 16 → u.present line = true ∧ (∀ l, lineOf l ≠ lineOf line → u.present l = s.present l) ∧
          mget false (lineOf line) (u.quad q).present = !(mget [] (lineOf line) z.wq).isEmpty) ∧
        (16 ≤ (z.inSet line).length → (∃ k ∈ z.inSet line, z.pinned k = false) → u.present line = true))) ∧
    (d.shed = true → exec (.pinFadeTick q) s = .next s) ∧
    (d.shed = false → ∃ pins t, exec (.pinFadeTick q) s = .next (s.setQuad q { z with pins := pins, fadeAt := t }) ∧
      ∀ i, let p := mget ({} : Pin) i z.pins
        (p.valid = false → mget ({} : Pin) i pins = p) ∧
        (p.valid = true → p.touched = true → mget ({} : Pin) i pins = { p with count := p.reload, touched := false }) ∧
        (p.valid = true → p.touched = false → mget ({} : Pin) i pins = { p with count := p.count - 1, valid := decide (p.count ≠ 1) })) ∧
    (∃ u, exec (.remapCountUpdate q) s = .next u ∧ u.mem = s.mem ∧ (u.quad q).samples = [] ∧
      ∀ g, let x := d.remapOf g
        ((u.die die).remapOf g).mg = x.mg ∧
        (granuleQuad g ≠ q % 4 → (u.die die).remapOf g = x) ∧
        (granuleQuad g = q % 4 →
          ((u.die die).remapOf g).count.toNat = min 0xFFFF (x.count.toNat - x.count.toNat / 8 + mget 0 g z.samples))) ∧
    (∀ x : SwapRec, z.swaps.find? (fun e => e.1 == r) = some (r, x) →
      (x.done + 1 < 512 → ∃ u, exec (.swapLineExchange q r) s = .next u ∧ (u.quad q).swaps = mput r { x with done := x.done + 1 } z.swaps ∧
        u.mem = s.mem ∧ u.dies = s.dies ∧ u.cmds = s.cmds) ∧
      (∀ f g, x.done + 1 = 512 → granuleOf x.far = some f → granuleOf x.near = some g → f ≠ g →
        ∃ u : State, exec (.swapLineExchange q r) s = .next (u.endCmd x.cmd none) ∧ u.mem = s.mem ∧ u.cmds = s.cmds ∧ u.ctxs = s.ctxs ∧
          (u.quad q).swaps = merase r z.swaps ∧
          (u.die die).remapOf f = { mg := (d.remapOf g).mg, count := 0 } ∧ (u.die die).remapOf g = { mg := (d.remapOf f).mg, count := 0 } ∧
          ∀ h, h ≠ f → h ≠ g → (u.die die).remapOf h = d.remapOf h)) ∧
    exec (.migrationCounterClear q) s = .next (s.setQuad q { z with migs := [], migAt := s.mt die / 1000000 }) ∧
    (k.mode (bankOfOff (8 * w)) = 1 → w < 2 ^ 20 → ∃ k', exec (.scratchWordError cl w) s = .next (s.setCluster cl k') ∧
      k'.scratchPois (8 * w) 8 = true ∧ (∀ v, v ≠ w → k'.scratchPois (8 * v) 8 = k.scratchPois (8 * v) 8) ∧
      k'.scratch = k.scratch ∧ k'.full = k.full ∧ k'.modes = k.modes ∧ k'.fifos = k.fifos) ∧
    ((∀ i < n, k.mode (bankOfOff (8 * (w + i))) = 1 ∧ w + i < 2 ^ 20) → ∃ k', exec (.tagArrayError cl w n) s = .next (s.setCluster cl k') ∧
      (∀ v, (w ≤ v ∧ v < w + n → k'.wordFull v = true ∧ k'.scratchPois (8 * v) 8 = true) ∧
        (v < w ∨ w + n ≤ v → k'.wordFull v = k.wordFull v ∧ k'.scratchPois (8 * v) 8 = k.scratchPois (8 * v) 8)) ∧
      k'.scratch = k.scratch ∧ k'.modes = k.modes ∧ k'.fifos = k.fifos) ∧
    (∃ u, exec (.mediaError line) s = .next u ∧ u.linePois line = true ∧ (∀ l, lineOf l ≠ lineOf line → u.linePois l = s.linePois l) ∧
      u = { s with mpoison := u.mpoison })

/-- R313, R314, R317, R330, R358–R363, R429, R430: requests at their home. `REMOTE_ACCESS_AT_HOME` parks at a shed die; otherwise a load answers with its
bytes, a tile's packet adds its part to what is gathered, a store writes them, and an integer atomic outside a window leaves the sum and answers with the old value. `STORE_ACKNOWLEDGEMENT` ends a store,
and a timed store with a trap where it came late or `MTSKEW` was invalid. `ATOMIC_REPLY` gives the old value, or traps on a poisoned line.
`ATOMIC_UNKNOWN_TIMEOUT` traps 32 µs after custody was lost; `RETRANSMIT_TIMEOUT` sends again after 16 µs; `PARKED_TIMEOUT` traps after 50 ms, and
`PARKED_RETRY` tries again once the die is back. `TRANSIT_ACCEPT` performs a late timed store, accepts an early one, serves one that is due at once unless a load has been served
in that nanosecond already, and waits for room;
`TRANSIT_STORE_PERFORM` and `LDNB_DUE_READ` perform those that are due, stores first. `WAITA_REREAD` reads the location again and ends the wait when the
condition holds; at a shed home it reads nothing. A streaming fault keeps its op at the head of its queue. Requests as packets are assumption log 33, 36, 37 and 39's. -/
def Obligations.RequestEvents : Prop :=
  ∀ (s s1 : State) (p q n key : Nat) (x : Packet) (g : Bool) (bs : List Byte) (b : Bool) (mode : BitVec 2),
    let home := s.die x.home
    let c := s.ctx x.cx
    let e := x.entry
    let drop := fun (c : Ctx) => c.setQueue e.slot ((c.queue e.slot).filter fun y => y.ord != e.ord)
    let answered := fun (u : State) (w : Word) (b : Bool) => (u.updCtx x.cx fun c => drop (c.setOut e.ord e.slot { word := w, poison := b })).endPkt p
    let traps := fun (u : State) (cause detail : Nat) (a : Nat) (gone : Bool) =>
      u.streamFault x.cx e { cause := cause, slot := 3, detail := detail, info1 := BitVec.ofNat 64 a } gone
    let heads := match c.queue e.slot with
      | y :: _ => y.ord = e.ord ∧ y.phase = .sent p
      | [] => False
    s.pkt p = some x →
    ((s.endPkt p).mem = s.mem ∧ (s.endPkt p).ctxs = s.ctxs ∧ ∀ j, j ≠ p → (s.endPkt p).pkt j = s.pkt j) ∧
    (∀ (tr : Trap) (gone : Bool), let f := s.streamFault x.cx e tr gone
      OnlyCtx x.cx s f ∧ (f.ctx x.cx).queue e.slot = { e with fault := true } :: (c.queue e.slot).filter (fun y => y.ord != e.ord) ∧
        (f.ctx x.cx).sfault = c.sfault ++ [{ slot := e.slot, ord := e.ord, trap := { tr with slot := e.slot }, drop := gone }] ∧
        (f.ctx x.cx).outs = c.outs ∧ (f.ctx x.cx).prog = c.prog ∧ (f.ctx x.cx).v = c.v) ∧
    (x.stage = .going → x.windowed = false → s.behindInFlow p x = false → x.kind ≠ .transit →
      (home.shed = true → exec (.remoteAccessAtHome p) s = .next (s.setPkt p { x with stage := .parked s.now })) ∧
      (∀ d base size sx off, home.shed = false → x.kind = .load → e.instr = some (.ld g d base size sx off) → c.guard = none →
        x.gather = none → s.readPieces x.cx true x.pieces = some (s1, bs, b) → s1.ctx x.cx = c →
        exec (.remoteAccessAtHome p) s = .next (answered s1 (loadValue bs sx) b)) ∧
      (∀ vd base stride off n o y, home.shed = false → x.kind = .load → e.instr = some (.vld g vd base stride off) → c.guard = none →
        x.gather = some (n, o) → s.readPieces x.cx true x.pieces = some (s1, bs, b) → s1.ctx x.cx = c →
        s1.gathers.find? (fun j => j.1 == n) = some (n, y) → y.cx = x.cx → y.entry = e →
        let parts := mput o bs y.parts
        (y.left ≠ 1 → exec (.remoteAccessAtHome p) s = .next ({ s1 with
          gathers := mput n { y with left := y.left - 1, parts := parts, poison := y.poison || b } s1.gathers }.endPkt p)) ∧
        (y.left = 1 → exec (.remoteAccessAtHome p) s = .next (({ s1 with gathers := merase n s1.gathers }.updCtx x.cx fun c =>
          drop (c.setOut e.ord e.slot { vec := tileOfBytes (parts.flatMap Prod.snd), poison := y.poison || b })).endPkt p))) ∧
      (∀ src base size off, home.shed = false → x.kind = .store → e.instr = some (.st g src base size off) →
        s.writePieces x.cx true x.poison x.pieces x.bytes = some s1 →
        (x.whole = false → exec (.remoteAccessAtHome p) s = .next (s1.setPkt p { x with stage := .performed })) ∧
        (∀ q, x.whole = true → x.pieces = [q] →
          exec (.remoteAccessAtHome p) s = .next ((s1.cleanLine x.cx true q).setPkt p { x with stage := .performed }))) ∧
      (∀ d addr opd dbl len old, home.shed = false → x.kind = .atomic → e.instr = some (.afadd g d addr opd dbl) → x.leads = [] → mode ≠ 3 →
        x.pieces = [{ place := .mem key mode, len := len }] → s.homeRead key (if dbl then 8 else 4) = some (s1, bs, false) →
        old = natOfBytes bs →
        exec (.remoteAccessAtHome p) s = .next
          ((s1.homeWrite key (bytesOfNat bs.length ((old + (x.sum % (2 : Int) ^ (8 * bs.length)).toNat) % 2 ^ (8 * bs.length))) false).setPkt p
            { x with stage := .performed, reply := BitVec.ofNat 64 old, replyPoison := false }))) ∧
    (x.kind = .store → x.stage = .performed → exec (.storeAcknowledgement p) s = .next (s.endPkt p)) ∧
    (x.kind = .transit → x.stage = .accepted → x.bytes ≠ [] →
      (heads → x.invalid = false → x.late = 0 → exec (.storeAcknowledgement p) s = .next (s.updCtx x.cx drop)) ∧
      (¬heads → exec (.storeAcknowledgement p) s = .next s)) ∧
    (x.kind = .transit → x.stage = .performed → heads → let u := s.endPkt p
      (x.invalid = false → x.late = 0 → exec (.storeAcknowledgement p) s = .next (u.updCtx x.cx drop)) ∧
      (∀ src base t size strict, e.instr = some (.stt g src base t size strict) → x.late < 2 ^ 48 → let a := entryAddr e (.stt g src base t size strict)
        (x.invalid = true → exec (.storeAcknowledgement p) s = .next (traps u 0x19 x.late a true)) ∧
        (x.invalid = false → x.late ≠ 0 → exec (.storeAcknowledgement p) s = .next (traps u 0x0E x.late a true)))) ∧
    (x.kind = .atomic → x.stage = .performed → x.leads = [] → x.lost = false →
      (x.replyPoison = false →
        exec (.atomicReply p) s = .next ((s.updCtx x.cx fun c => c.setOut e.ord e.slot { word := x.reply }).endPkt p)) ∧
      (∀ d addr opd dbl, x.replyPoison = true → e.instr = some (.afadd g d addr opd dbl) →
        exec (.atomicReply p) s = .next ((traps (s.updCtx x.cx fun c => c.setOut e.ord e.slot { keep := true }) 0x0C 0 (e.val 0).toNat false).endPkt p))) ∧
    (x.custody = none → x.lost = false → exec (.atomicUnknownTimeout p) s = .next s) ∧
    (∀ t d addr opd dbl, x.kind = .atomic → x.stage = .merged → x.custody = some t → t + 32000 ≤ s.now → e.instr = some (.afadd g d addr opd dbl) →
      exec (.atomicUnknownTimeout p) s = .next ((traps (s.updCtx x.cx fun c => c.setOut e.ord e.slot { keep := true }) 0x10 0 (e.val 0).toNat true).endPkt p)) ∧
    (x.acked = false → x.custody = none →
      (x.sentAt + 16000 ≤ s.now → exec (.retransmitTimeout p) s = .next (s.setPkt p { x with sentAt := s.now })) ∧
      (s.now < x.sentAt + 16000 → exec (.retransmitTimeout p) s = .next s)) ∧
    (∀ t, x.stage = .parked t →
      (s.now < t + 50000000 → exec (.parkedTimeout p) s = .next s) ∧
      (∀ d base size sx off, t + 50000000 ≤ s.now → x.gather = none → e.instr = some (.ld g d base size sx off) →
        exec (.parkedTimeout p) s = .next ((traps s 0x0A 0 (entryAddr e (.ld g d base size sx off)) false).endPkt p)) ∧
      (home.shed = true → exec (.parkedRetry p) s = .next s) ∧
      (∀ src base size off, home.shed = false → s.behindInFlow p x = false → x.kind = .store → x.whole = false → e.instr = some (.st g src base size off) →
        s.writePieces x.cx true x.poison x.pieces x.bytes = some s1 →
        exec (.parkedRetry p) s = .next (s1.setPkt p { x with stage := .performed }))) ∧
    (∀ src base tm size strict len, x.kind = .transit → x.stage = .going → e.instr = some (.stt g src base tm size strict) → x.bytes ≠ [] →
      x.pieces = [{ place := .mem key mode, len := len }] → s.behindInFlow p x = false → home.shed = false →
      let t := (e.val 2).toNat
      let now := s.mt x.home
      let invalid := strict && !home.mtskew.getLsbD 0
      (t < now → exec (.transitAccept p) s = .next ((s.homeWrite key x.bytes false).setPkt p
        { x with stage := .performed, late := if strict then now - t else 0, invalid := invalid })) ∧
      (now ≤ t → (s.quad (homeQuad key)).transit.length < 256 → homeQuad key / 4 = x.home →
        (∀ u ∈ (s.quad (homeQuad key)).transit, now < u.time) →
        let new : Transit := { pkt := p, store := true, time := t, key := key, bytes := x.bytes }
        let v := (s.updQuad (homeQuad key) fun y => { y with transit := y.transit ++ [new] }).setPkt p { x with stage := .accepted, invalid := invalid }
        (now < t → exec (.transitAccept p) s = .next v) ∧
        (t = now → (s.quad (homeQuad key)).readAt ≠ some now → exec (.transitAccept p) s = .next (v.transitServe (homeQuad key) new)) ∧
        (t = now → (s.quad (homeQuad key)).readAt = some now → exec (.transitAccept p) s = .next s)) ∧
      (now ≤ t → 256 ≤ (s.quad (homeQuad key)).transit.length → exec (.transitAccept p) s = .next s)) ∧
    (∀ t : Transit, (s.die (q / 4)).shed = false → t ∈ (s.quad q).transit → t.pkt = p → t.time ≤ s.mt (q / 4) → t.key = key →
      (∀ u ∈ (s.quad q).transit, u.pkt = p → u = t) →
      (∀ u ∈ (s.quad q).transit, u ≠ t → u.time ≤ s.mt (q / 4) → t.time < u.time ∨ (t.time = u.time ∧ t.store = true ∧ u.store = false)) →
      (t.store = true →
        let u := (s.updQuad q fun y => { y with transit := y.transit.filter fun u => u.pkt != p }).homeWrite key t.bytes false
        exec (.transitStorePerform q) s = .next (s.transitServe q t) ∧
        (heads → exec (.transitStorePerform q) s = .next (u.setPkt p { x with stage := .performed })) ∧
        (¬heads → exec (.transitStorePerform q) s = .next (u.endPkt p))) ∧
      (∀ d base tm size strict mode, t.store = false → e.instr = some (.ldnb g d base tm size strict) → c.guard = none →
        x.pieces = [{ place := .mem key mode, len := n }] → x.invalid = false →
        (s.updQuad q fun y => { y with transit := y.transit.filter fun u => u.pkt != p }).homeRead key n = some (s1, bs, b) →
        let read := (s1.updCtx x.cx fun c => c.setOut e.ord e.slot { word := loadValue bs false, poison := b }).endPkt p
        (heads → exec (.ldnbDueRead q) s = .next (read.updCtx x.cx drop)) ∧ (¬heads → exec (.ldnbDueRead q) s = .next read))) ∧
    (∀ y ys d addr expd dbl cond, c.frozen = false → c.guard = none → c.queue 3 = y :: ys → y.slot = 3 → (∀ v ∈ ys, v.ord ≠ y.ord) → y.phase = .watching →
      y.instr = some (.waita g d addr expd dbl cond) →
      let w := if dbl then 8 else 4
      ∀ pc, s.planScalar x.cx y .memOnly .read (wrap64 ((y.val 0).toNat + y.cur)) w = .ok (s1, pc) → (s1.homeShed pc = true → exec (.waitaReread x.cx) s = .next s) ∧
        (s1.homeShed pc = false → s1.refused x.cx false pc = false → ∀ u, (s1.bypass x.cx false pc).homeReadPiece x.cx pc = some (u, bs, false) → u.ctx x.cx = c →
          let holds := waitaHolds cond (8 * w) (natOfBytes bs) ((y.val 1).toNat % 2 ^ (8 * w)) = true
          (holds → exec (.waitaReread x.cx) s = .next (u.updCtx x.cx fun c =>
            (if d = 0 then c else c.setOut y.ord 3 { word := loadValue bs false }).setQueue 3 ys)) ∧
          (¬holds → exec (.waitaReread x.cx) s = .next (u.updCtx x.cx fun c => c.setQueue 3 ({ y with phase := .watching } :: ys)))))

/-- R311, R313, R315, R316, R324–R328, R331, R335–R337, R437: links, merged requests and meridian time. A log record goes in front of the log, with its
die's time and the next number (the codes are assumption log 40's). A link retrains, changes width, and goes down after a retrain has failed for 1
ms; a request takes the minimal way, or the detour round a link that is down; a multicast entry is written at one die as a new version, or waits while
the oldest version is in use; a selective acknowledgement covers the requests it names, and forgets those that are done. A request in a window that arrives at a router opens
an entry, joins the first open one of another port for the same cell and op as merged, or goes on where that is full; a lead that answers splits its reply, each merged request getting the value
before its own operand, or lost where its copies are. Lost copies are counted down. `MT_EXCHANGE` aims a die's offset within 2 ns of the reachable
grandmaster's (where is free, assumption log 18), the grandmaster's own at the reference, if there is one, to which it is slewed at most 100 ppm, and writes `MTSKEW`; a die off by more than 10 ns, or without an
exchange for 10 ms, loses discipline, which clears `MTSKEW.VALID` and counts; 1 ms within 10 ns regains it; the reference input shows in every die (its time is the event's). The paths are assumption log 38's. -/
def Obligations.FabricEvents : Prop :=
  ∀ (s : State) (die port lanes p : Nat) (x : Packet),
    let d := s.die die
    (∀ code data, ∃ rest, (s.post die code data).mods = mput (modOf die)
        { s.mod (modOf die) with log := { mt := BitVec.ofNat 64 (s.mt die), code := code, die := BitVec.ofNat 16 die, seq := (s.mod (modOf die)).logSeq
                                          data := logData data } :: rest
                                 logSeq := (s.mod (modOf die)).logSeq + 1 } s.mods ∧
      rest.length < 1048576 ∧ rest <+: (s.mod (modOf die)).log ∧ s.post die code data = { s with mods := (s.post die code data).mods }) ∧
    (port < 6 → lanes = 8 ∨ lanes = 4 ∨ lanes = 2 →
      (∃ mods, exec (.linkRetrain die port lanes) s =
        .next ({ s with mods := mods }.updDie die fun d => d.setLink port { up := true, lanes := lanes, retrain := s.now + 2000 })) ∧
      exec (.linkWidthChange die port lanes) s = .next (s.updDie die fun d => d.setLink port { d.link port with lanes := lanes })) ∧
    (port < 6 → exec (.linkRetrain die port 0) s =
      .next (s.updDie die fun d => d.setLink port { d.link port with failing := some ((d.link port).failing.getD s.now) })) ∧
    (port < 6 →
      (∀ t, (d.link port).failing = some t → t + 1000000 ≤ s.now → exec (.linkMarkedDown die port) s =
        .next ((s.updDie die fun d => d.setLink port { d.link port with up := false }).post die .linkDown [port])) ∧
      ((d.link port).failing = none ∨ (∃ t, (d.link port).failing = some t ∧ s.now < t + 1000000) → exec (.linkMarkedDown die port) s = .next s)) ∧
    (∀ to_ k up, die ≠ to_ → s.minimal die to_ = some (k, up) →
      (s.linkUp die k up = true → s.linkCarries die k up = true →
        s.nextHop die to_ [] = some ((s.neighbour die k up).1, (s.neighbour die k up).2.2, [])) ∧
      (s.linkUp die k up = true → s.linkCarries die k up = false → s.nextHop die to_ [] = none) ∧
      (s.linkUp die k up = false → ∀ a b c, s.detour die k up = some [a, b, c] → s.linkUp die a.1 a.2 = true → s.linkCarries die a.1 a.2 = true →
        s.nextHop die to_ [] = some ((s.neighbour die a.1 a.2).1, (s.neighbour die a.1 a.2).2.2, [b, c]))) ∧
    (∀ group ports, group < 256 → ∃ u, exec (.multicastEntryWrite die group ports) s = .next u ∧ u = { s with dies := u.dies } ∧
      (∀ h, h ≠ group → mget [] h (u.die die).multicast = mget [] h d.multicast) ∧ (∀ k, k ≠ die → u.die k = s.die k) ∧
      let l := mget [] group d.multicast
      let waits := (∃ new old, l = [new, old] ∧ s.castUsed group old.1 = true) ∨ ∃ w ∈ d.castWait, w.1 = group
      (waits → mget [] group (u.die die).multicast = l ∧ (u.die die).castWait = d.castWait ++ [(group, ports)]) ∧
      (¬waits → (∃ ver, mget [] group (u.die die).multicast = (ver, ports) :: l.take 1 ∧ ∀ o ∈ l.take 1, ver = o.1 + 1) ∧
        (u.die die).castWait = d.castWait)) ∧
    (∀ dst base (bits : BitVec 64), mrising s.net = true → ∃ u, exec (.selectiveAck die dst base bits) s = .next u ∧ u.mem = s.mem ∧ u.ctxs = s.ctxs ∧
      ∀ j y, s.pkt j = some y →
        let covered := y.die = die ∧ flowId y.home y.kind = dst ∧ y.stage ≠ .going ∧
          ∃ k < 64, bits.getLsbD k = true ∧ (base + k) % 65536 = y.seq.toNat
        (covered → u.pkt j = if y.stage = .done then none else some { y with acked := true }) ∧
        (¬covered → ¬(y.acked = true ∧ y.stage = .done) → u.pkt j = some y)) ∧
    (∀ e h (k : Nat), d.huddle.find? (fun y => y.1 == e) = some (e, h) →
      exec (.huddleCopyLoss die e none) s = .next (s.updDie die fun y => { y with huddle := mput e { h with copies := h.copies - 1 } y.huddle }) ∧
      ∃ recs, exec (.huddleCopyLoss die e (some k)) s = .next (s.updDie die fun y => { y with huddle := mput e { h with recs := recs } y.huddle }) ∧
        recs.length = h.recs.length ∧ ∀ j r, h.recs[j]? = some r → recs[j]? = some (if j = k then { r with copies := r.copies - 1 } else r)) ∧
    (let merges := fun (h : HudEntry) => h.isOpen = true ∧ h.port ≠ x.port ∧ ∃ y, s.pkt h.lead = some y ∧ x.pieces.map Piece.key = y.pieces.map Piece.key ∧
        ∃ g e a b g' e' a' b' dbl f, (x.entry.instr = some (.afadd g e a b dbl) ∧ y.entry.instr = some (.afadd g' e' a' b' dbl)) ∨
          (x.entry.instr = some (.afaddf g e a b f) ∧ y.entry.instr = some (.afaddf g' e' a' b' f))
      let first := s.openEntry die x
      (first = none ↔ ∀ r ∈ d.huddle, ¬merges r.2) ∧
        ∀ r, first = some r → merges r.2 ∧ ∃ before after, d.huddle = before ++ r :: after ∧ ∀ q ∈ before, ¬merges q.2) ∧
    (s.pkt p = some x → x.windowed = true → x.stage = .going →
      (x.arrived = false → x.place = die →
        let y := { x with arrived := true }
        (s.openEntry die y = none → ∀ e, e < 1024 → d.huddle.find? (fun h => h.1 == e) = none →
          (∀ f < e, d.huddle.find? (fun h => h.1 == f) ≠ none) →
          let new : HudEntry := { lead := p, port := x.port, isOpen := true, sum := x.sum, cell := x.cell, recs := [], copies := 2 }
          exec (.huddleArrival p) s =
            .next ((s.updDie die fun z => { z with huddle := mput e new z.huddle }).setPkt p { y with leads := (die, e) :: x.leads })) ∧
        (∀ e h g dd addr opd dbl f (pre : Int), s.openEntry die y = some (e, h) → h.recs.length < 7 →
          (x.entry.instr = some (.afadd g dd addr opd dbl) ∧ pre = h.sum) ∨ (x.entry.instr = some (.afaddf g dd addr opd f) ∧ pre = h.cell.n) →
          let joined := { h with
            recs := h.recs ++ [{ pkt := p, port := x.port, pre := pre, copies := 2 }], sum := h.sum + x.sum, cell := h.cell.add x.cell }
          exec (.huddleArrival p) s =
            .next ((s.updDie die fun z => { z with huddle := mput e joined z.huddle }).setPkt p { y with stage := .merged, custody := some s.now })) ∧
        (∀ e h, s.openEntry die y = some (e, h) → 7 ≤ h.recs.length → exec (.huddleArrival p) s = .next (s.setPkt p y))) ∧
      (∀ next port way e, x.arrived = true → s.nextHop x.place x.home x.way = some (next, port, way) → x.leads = [] →
        let y := { x with place := next, port := port, way := way, arrived := true }
        s.openEntry next y = none → e < 1024 → (s.die next).huddle.find? (fun h => h.1 == e) = none →
        (∀ f < e, (s.die next).huddle.find? (fun h => h.1 == f) ≠ none) →
        let new : HudEntry := { lead := p, port := port, isOpen := true, sum := x.sum, cell := x.cell, recs := [], copies := 2 }
        exec (.huddleArrival p) s =
          .next ((s.updDie next fun z => { z with huddle := mput e new z.huddle }).setPkt p { y with leads := [(next, e)] }))) ∧
    (∀ e rest h r y, s.pkt p = some x → x.stage = .performed → x.leads = (die, e) :: rest → x.lost = false →
      d.huddle.find? (fun h => h.1 == e) = some (e, h) → 0 < h.copies → h.recs = [r] → s.pkt r.pkt = some y → r.pkt ≠ p →
      (y.stage = .done → exec (.replySplit p) s = .next ((s.setPkt p { x with leads := rest, lost := false }).updDie die
        fun z => { z with huddle := merase e z.huddle })) ∧
      (y.stage ≠ .done → 0 < r.copies → exec (.replySplit p) s = .next (((s.setPkt r.pkt
        { y with stage := .performed, reply := splitReply y x.reply r.pre, replyPoison := x.replyPoison }).setPkt p { x with leads := rest, lost := false }).updDie die
          fun z => { z with huddle := merase e z.huddle })) ∧
      (y.stage ≠ .done → r.copies = 0 → exec (.replySplit p) s = .next (((s.setPkt r.pkt { y with lost := true }).setPkt p { x with leads := rest, lost := false }).updDie die
        fun z => { z with huddle := merase e z.huddle }))) ∧
    (∀ (v : Word) (pre : Int) g dd addr opd, (x.entry.instr = some (.afadd g dd addr opd true) → splitReply x v pre = v + BitVec.ofInt 64 pre) ∧
      (x.entry.instr = some (.afadd g dd addr opd false) → splitReply x v pre = ((v.setWidth 32 : BitVec 32) + BitVec.ofInt 32 pre).setWidth 64)) ∧
    (let cur := d.ofs s.now
     (s.exchanges die = false → exec (.mtExchange die) s = .next s) ∧
      (s.exchanges die = true → s.grandmaster die = none → exec (.mtExchange die) s = .next (s.updDie die fun d =>
        { d with exchAt := s.now / 62500, mtMin := s.mt die, mtOfs := cur, mtAim := cur, mtAt := s.now })) ∧
      (∀ gm, s.exchanges die = true → s.grandmaster die = some gm →
        let g := (s.die gm).ofs s.now
        ∃ aim w within u, exec (.mtExchange die) s = .next u ∧
          u = (s.updDie die fun d =>
            { d with exchAt := s.now / 62500, mtMin := s.mt die, mtOfs := cur, mtAt := s.now, mtAim := aim, within := within, mtskew := w }) ∧
          u.mt die = s.mt die ∧ (die = gm → s.extRef = none → aim = cur) ∧
          (∀ r, die = gm → s.extRef = some r → d.mtskew.getLsbD 0 = false ∨ s.skewOk die cur r = true → aim = r) ∧ (d.mtskew.getLsbD 0 = false → die ≠ gm → |aim - g| ≤ 2) ∧
          (aim = cur ∨ ((die ≠ gm → |aim - g| ≤ 2) ∧ (d.mtskew.getLsbD 0 = true → s.skewOk die cur aim = true))) ∧
          (within.isSome = true ↔ |cur - g| ≤ 10) ∧ (∀ t, d.within = some t → within.isSome = true → within = some t) ∧
          (d.within = none → within.isSome = true → within = some s.now) ∧
          w.getLsbD 0 = d.mtskew.getLsbD 0 ∧ w.getLsbD 1 = s.extRef.isSome ∧ w.getLsbD 2 = decide (die = gm) ∧ (w.extractLsb' 8 12).toNat = gm % 4096 ∧
          w.extractLsb' 48 16 = d.mtskew.extractLsb' 48 16 ∧
          (|cur - g| < 4096 → (w.extractLsb' 32 16).toInt = 8 * (cur - g)))) ∧
    (∀ n, d.mtAt ≤ s.now → let t := { s with now := s.now + n }
      s.mt die ≤ t.mt die ∧ t.mt die ≤ s.mt die + n + n / 10000 + 1) ∧
    (let lost := 80 < (d.mtskew.extractLsb' 32 16).toInt.natAbs ∨ 62500 * d.exchAt + 10000000 ≤ s.now
     (d.mtskew.getLsbD 0 = true → lost → ∃ w, exec (.disciplineLoss die) s =
          .next ((s.updDie die fun d => { d with within := none, mtskew := w }).post die .disciplineLoss []) ∧
        w.getLsbD 0 = false ∧ w.extractLsb' 1 47 = d.mtskew.extractLsb' 1 47 ∧
        (w.extractLsb' 48 16).toNat = min 65535 ((d.mtskew.extractLsb' 48 16).toNat + 1)) ∧
      (d.mtskew.getLsbD 0 = false ∨ ¬lost → exec (.disciplineLoss die) s = .next s) ∧
      (¬lost → (∃ t, d.within = some t ∧ t + 1000000 ≤ s.now) → s.skewOk die d.mtOfs d.mtAim = true →
        exec (.disciplineRegain die) s = .next (s.updDie die fun d => { d with mtskew := d.mtskew ||| 1 })) ∧
      (lost ∨ (∀ t, d.within = some t → s.now < t + 1000000) ∨ s.skewOk die d.mtOfs d.mtAim = false → exec (.disciplineRegain die) s = .next s)) ∧
    (∀ ref : Option Nat, ∃ u, exec (.externalReferenceChange ref) s = .next u ∧
      u = { s with extRef := ref.map fun t => (t : Int) - s.now, dies := u.dies } ∧
      ∀ k ∈ s.dies.map Prod.fst, ∃ w, u.die k = { s.die k with mtskew := w } ∧ w.getLsbD 1 = ref.isSome ∧ ∀ b, b ≠ 1 → w.getLsbD b = (s.die k).mtskew.getLsbD b)

/-- R364–R381, R384, R443, R456: queues and launches. `RECORD_AT_HEAD` lists the record at the head of an enabled queue, a candidate without dependences, or
rejects a malformed one; `DEPENDENCE_SATISFIED` marks a dependence whose masked word is as wanted. `SCHEDULER_PLACEMENT` goes through what waits in the order of
priority and queue, and binds the first candidate that has a position at the lowest that fits (its cores free, not retired, its die not shed, its
banks not taken), `HEAD` passing the record: every context of its cores runs from the entry with the state of R369; no other core
changes. Ageing raises a waiting launch's priority every 2 ms of meridian time, and what waits is tried again; 20 µs after a pre-emption a context is frozen; `SAVE_COMPLETE` begins the
save of the contexts that have stopped, then frees them and keeps their registers; `LAUNCH_COMPLETION` frees contexts, banks and the slot, `EMT` written
before `ESTAT`, and a slot whose event cannot be written waits up to 50 ms. `WATCHDOG_EXPIRY` stops the launch with
TIMEOUT and the others of its partition with RESET, their contexts and words emptied, its clusters at step 18, touches no launch outside it, and
nothing is placed in the partition until that is done; a launch whose contexts have all ended is not among the others. `QUEUE_ENABLE`
(of a module that has come up), `TAIL_DOORBELL`, `PREEMPT_WRITE` and `PMASK_WRITE` write their registers where the spec lets them; a refused doorbell (`EN` = 0 among the grounds) or mask is logged. What the
spec leaves open here is assumption log 20, 40, 64–66's. -/
def Obligations.SchedulerEvents : Prop :=
  ∀ (s s1 : State) (m q id j : Nat) (l : Launch) (pos : List Nat) (bs : List Byte) (v : Word),
    let y := s.mod m
    let x := s.queueOf m q
    let up := y.ready = true ∧ y.recovery = false ∧ y.power = .up
    let listed := mrising s.launches = true ∧ s.launches.find? (fun p => p.1 == id) = some (id, l)
    (up → x.en = true → x.atHead = none → x.head ≠ x.tail → populated (x.slotKey x.head) = true →
      let n := (m * 128 + q) * 2 ^ 32 + x.head.toNat
      let key := x.slotKey x.head
      let granted := s.granted false key 256
      let read := s.hwGet key 256
      let image := if granted then read.2 else []
      let num := bytesNum image
      let deps := (List.range 4).map fun j => decide (num (0x60 + 24 * j) 8 = 0)
      let new : Launch :=
        { m := m, q := q, seq := x.head, image := image, root := x.root, asid := x.asid, part := x.part.toNat, qdie := x.qdie.toNat, since := s.modMt m
          deps := deps, wdog := if num 0x24 4 = 0 then none else some (num 0x24 4 * 1000)
          st := if deps.all (· = true) then .candidate else .waiting }
      let u := { (if granted then read.1 else s).setHwQueue m q { x with atHead := some n } with launches := mput n new s.launches }
      (granted = true → image = s.homeBytes key 256 ∧ read.1.mem = s.mem ∧ read.1.ctxs = s.ctxs) ∧
      (granted = true → u.badRecord new = none → exec (.recordAtHead m q) s = .next u) ∧
      (∀ d, (granted = true ∧ u.badRecord new = some d) ∨ (granted = false ∧ d = 6) → exec (.recordAtHead m q) s =
        .next ({ u with launches := mput n { new with stop := some 5, detail := d, reserve := [] } u.launches }.setHwQueue m q
          { x with head := x.head + 1, atHead := none })) ∧
      (granted = true → num 0x08 4 % 2 = 1 → u.badRecord new = some 1)) ∧
    (listed → x.atHead = some id → l.st = .waiting → l.stop = none → l.deps.getD j true = false →
      s.dispRead (l.space (8 * l.qdie)) (lineParts 9 (l.num (0x60 + 24 * j) 8) 8) = some (.ok (s1, bs)) →
      let mask := l.num (0x60 + 24 * j + 8) 8
      let want := l.num (0x60 + 24 * j + 16) 8
      (natOfBytes bs &&& mask = want → s1.launch id = l → ∃ u, exec (.dependenceSatisfied m q j) s = .next u ∧
        u = { s1 with launches := u.launches } ∧ (u.launch id).deps = l.deps.set j true ∧
        ((u.launch id).st = if (l.deps.set j true).all (· = true) then .candidate else .waiting) ∧
        ((u.launch id).since = if (l.deps.set j true).all (· = true) then s1.modMt m else l.since) ∧
        ∀ k, k ≠ id → u.launch k = s1.launch k) ∧
      (natOfBytes bs &&& mask ≠ want → exec (.dependenceSatisfied m q j) s = .next s1)) ∧
    (up → s.waitOrder m = [] → s.bad = none → exec (.schedulerPlacement m) s = .next s) ∧
    (∀ w, w ∈ s.waitOrder m ↔ w ∈ s.launches ∧ w.2.m = m ∧ w.2.stop = none ∧ s.resetting m w.2.part = false ∧
      ((w.2.st = .candidate ∧ (s.queueOf m w.2.q).en = true) ∨ w.2.st = .saved)) ∧
    (s.waitOrder m).Pairwise (fun a b => s.effPrio b.2 ≤ s.effPrio a.2 ∧
      (s.effPrio a.2 = s.effPrio b.2 → (a.2.q + 127 - y.lastQueue) % 128 ≤ (b.2.q + 127 - y.lastQueue) % 128)) ∧
    (∀ pos, s.place? id l [] = some pos ↔ ∃ i : Nat, (s.positions l)[i]? = some pos ∧ s.fits id l [] pos = true ∧
      ∀ (h : Nat) p, h < i → (s.positions l)[h]? = some p → s.fits id l [] p = false) ∧
    (∀ pos, s.fits id l [] pos = true ↔
      (∀ k ∈ pos, (s.core k).retired = false ∧ localIndex (k / 64) ∉ (s.mod l.m).shed ∧
        ∀ w ∈ s.launches, w.1 ≠ id → k ∉ w.2.reserve ∧ (w.2.st = .bound ∨ w.2.st = .preempting → k ∉ w.2.cores)) ∧
      (l.st ≠ .saved ∨ l.flag 1 = true ∨ pos = l.cores) ∧
      ∀ k ∈ pos, ∀ b ∈ l.owned, ∀ o, (s.cluster (k / 8)).owners.find? (fun o => o.1 == b) = some o → o.2 = id) ∧
    (l.perQuad = 1 → l.perDie = 1 → l.cores = [] → s.positions l =
      (((List.range 64).map fun c => 8 * dieAt l.m (c / 8) + c % 8).filter fun c => (mget (0 : Word) l.part (s.mod l.m).pmask).getLsbD (moduleRank c)).flatMap
        fun c => (List.range (8 / l.perCluster)).map fun i => (List.range l.perCluster).map fun h => 8 * c + i * l.perCluster + h) ∧
    (let l1 := { l with cores := pos, reserve := [], st := .bound, placed := s.now }
     ∀ imgs before after, up → s.waitOrder m = before ++ (id, l) :: after →
      (∀ w ∈ before, s.place? w.1 w.2 [] = none ∧ (s.victims w.2 = [] ∨ s.awaitsCores w.1 w.2 = true)) → l.m = m → l.q = q → s.place? id l [] = some pos → pos.Nodup → l.st = .candidate → l.flag 2 = false →
      State.readImages l1 l1.dieList s = some (.ok (s1, imgs)) → (s.schedule m).bad = none →
      ∃ u, exec (.schedulerPlacement m) s = .next u ∧ (u.launch id).st = .bound ∧ (u.launch id).cores = pos ∧ (u.launch id).stop = l.stop ∧
        (u.queueOf m q).head = (s1.queueOf m q).head + 1 ∧ (u.queueOf m q).atHead = none ∧ (u.mod m).lastQueue = q ∧
        (∀ r k, pos[r]? = some k → ∀ h < l.perCore, let c := u.ctx (4 * k + h)
          c.phase = .running ∧ c.launch = some id ∧ c.pc = pcOfArch (l.num 0x0C 2 % 2 ^ 15) ∧ c.sys = l.flag 4 ∧
            c.trapvec = BitVec.ofNat 16 (l.num 0x0E 2) ∧ c.savebase = BitVec.ofNat 64 (l.num 0x40 8 + 2 ^ 20 * (r * l.perCore + h)) ∧
            c.args = BitVec.ofNat 64 (l.num 0x30 8) ∧ c.pageroot = l.root ∧ c.asid = l.asid.setWidth 64 ∧
            c.launchid = BitVec.ofNat 64 (l.q % 128 + l.seq.toNat * 2 ^ 7) ∧ c.prog = RegSet.init ∧ c.shad = RegSet.init ∧ c.flags = 0 ∧
            c.queues = [] ∧ c.loops = [] ∧ c.guard = none) ∧
        ∀ k, k ∉ pos → u.core k = s1.core k) ∧
    (listed → l.stop = none → l.st = .saved → l.aged < (s.modMt l.m - l.since) / 2000000 → s.resetting l.m l.part = false → (s.mod l.m).ready = false →
      s.bad = none → exec (.ageingStep id) s = .next (s.updLaunch id fun x => { x with aged := (s.modMt l.m - l.since) / 2000000 })) ∧
    (listed → (id, l) ∈ s.waitOrder l.m →
      (l.aged < (s.modMt l.m - l.since) / 2000000 → exec (.ageingStep id) s =
        exec (.schedulerPlacement l.m) (s.updLaunch id fun x => { x with aged := (s.modMt l.m - l.since) / 2000000 })) ∧
      ((s.modMt l.m - l.since) / 2000000 ≤ l.aged → exec (.ageingStep id) s = .next s)) ∧
    (s.effPrio l = min 7 (l.num 0x1E 1 % 8 + (s.modMt l.m - l.since) / 2000000)) ∧
    ((∃ z ∈ s.launches, z.2.m = m ∧ z.2.part = j ∧ (z.2.stop = some 3 ∨ z.2.stop = some 4)) → ∀ w ∈ s.waitOrder m, w.2.part ≠ j) ∧
    (listed → (s.ctx j).launch = some id → l.st = .preempting →
      (l.since + 20000 ≤ s.modMt l.m → (s.ctx j).closing = false → (s.ctx j).releasing = false →
        exec (.stopRuleTimeout j) s = .next (s.updCtx j fun c => { c with frozen := true })) ∧
      (s.modMt l.m < l.since + 20000 ∨ (s.ctx j).closing = true ∨ (s.ctx j).releasing = true → exec (.stopRuleTimeout j) s = .next s)) ∧
    (listed → l.st = .preempting → l.stop = none → s.boundTo id ≠ [] → (∀ cx ∈ s.boundTo id, s.stopped cx = true) →
      (∃ cx ∈ s.boundTo id, (s.ctx cx).moving = false) → ∃ u, exec (.saveComplete id) s = .next u ∧ u = { s with ctxs := u.ctxs } ∧
        (∀ cx ∈ s.boundTo id, (s.ctx cx).moving = false →
          u.ctx cx = { s.ctx cx with phase := .saving ((s.ctx cx).phase == .retiring), frozen := true }) ∧
        ∀ cx, cx ∉ s.boundTo id → u.ctx cx = s.ctx cx) ∧
    (listed → l.st = .bound → l.stop = none → s.boundTo id ≠ [] → ∃ u, exec (.saveComplete id) s = .next u ∧
      u = { s with ctxs := u.ctxs, mods := u.mods } ∧
      (u.mod l.m = { s.mod l.m with image := (s.mod l.m).image.filter fun im => !(im.launches.any fun p => p.1 = id) }) ∧
      (∀ cx ∈ s.boundTo id, u.ctx cx = match (s.ctx cx).phase with
        | .saving r => { s.ctx cx with phase := if r then .retiring else .running, frozen := false }
        | _ => s.ctx cx) ∧
      ∀ cx, cx ∉ s.boundTo id → u.ctx cx = s.ctx cx) ∧
    (listed → l.st = .preempting → l.stop = none → s.boundTo id ≠ [] → (∀ cx ∈ s.boundTo id, s.stopped cx = true ∧ (s.ctx cx).moving = true) →
      (∀ k ∈ l.cores, ((s.saveLaunch id l).core k).retired = false) → (s.saveLaunch id l).bad = none →
      ∃ u, exec (.saveComplete id) s = .next u ∧ (u.launch id).st = .saved ∧ (u.launch id).since = l.since ∧
        (∀ cx ∈ l.contexts, u.ctx cx = if cx ∈ s.boundTo id then { leftTag := some (s.ctx cx).savebase, vvalid := (s.ctx cx).vvalid } else {}) ∧
        ∀ r cx, l.contexts[r]? = some cx → cx ∈ s.boundTo id → (s.ctx cx).closing = false → (s.ctx cx).outs = [] →
          let c := s.ctx cx
          let k := mget ({} : Ctx) r (u.launch id).saved
          k.prog = c.prog ∧ k.shad = c.shad ∧ k.pc = c.pc ∧ k.mid = c.mid ∧ k.rcLeft = c.rcLeft ∧ k.sys = c.sys ∧ k.flags = c.flags ∧
            k.fpstatus = c.fpstatus ∧ k.engfail = c.engfail ∧ k.loops = c.loops ∧ k.trapvec = c.trapvec ∧ k.trapcause = c.trapcause ∧
            k.savebase = c.savebase ∧ k.vpres = c.vpres ∧ k.vpois = c.vpois ∧ k.v = [] ∧ k.vvalid = 0) ∧
    (listed → l.stop = none → l.st = .bound → s.boundTo id = [] → l.saved = [] → s.quiet id l = true → s.replays id l = false → s.bad = none → l.num 0x58 8 = 0 →
      ∃ u, exec (.launchCompletion id) s = .next u ∧ u.launches = merase id s.launches ∧ (∀ cx ∈ l.contexts, u.ctx cx = {}) ∧
        (∀ cl ∈ l.clusterList, ∀ b < 32, (∃ o ∈ (s.cluster cl).owners, o.1 = b ∧ o.2 = id) → (u.cluster cl).mode b = 0) ∧
        (∀ cl ∈ l.clusterList, ∀ o ∈ (u.cluster cl).owners, o.2 ≠ id) ∧
        (let z := s.queueOf l.m l.q
         z.oldest = l.seq → z.done = [] → z.oldest ≠ z.tail →
          (u.queueOf l.m l.q).oldest = z.oldest + 1 ∧ (u.queueOf l.m l.q).done = [])) ∧
    (listed → l.stop = none → l.st = .bound → (s.boundTo id ≠ [] ∨ s.quiet id l = false ∨ s.replays id l = true) →
      exec (.launchCompletion id) s = .next s) ∧
    (∀ st t, listed → l.st = .ended st t → s.bad = none →
      (l.num 0x58 8 = 0 → exec (.launchCompletion id) s = .next (s.freeSlot id l)) ∧
      (s.writeEvent l st = none → s.now < t + 50000000 → exec (.launchCompletion id) s = .next s)) ∧
    (l.num 0x58 8 ≠ 0 → ∀ t, s.xlate (l.space l.doneCluster) .write (l.num 0x58 8) = .ok (s1, t) → isHost t.key = false →
      (s1.die (homeDie t.key)).shed = false → ∀ st, s.writeEvent l st =
        some ((s1.homeWrite (t.key + 8) (bytesOfNat 8 (s.mt (l.doneCluster / 8))) false).homeWrite t.key (bytesOfWord 8 (l.estat st)) false, true)) ∧
    (∀ st, st < 256 → l.q < 128 → l.detail < 16 → (l.estat st).extractLsb' 0 8 = BitVec.ofNat 8 st ∧ (l.estat st).getLsbD 8 = l.pbfail ∧
      ((l.estat st).extractLsb' 12 4).toNat = l.detail ∧ ((l.estat st).extractLsb' 16 7).toNat = l.q ∧ (l.estat st).extractLsb' 32 32 = l.seq) ∧
    (listed → l.holdsCores = true → l.stop = none → l.wdog = some 0 → s.bad = none → (∀ cl, (s.cluster cl).almanac = none) →
      ∃ u, exec (.watchdogExpiry id) s = .next u ∧ (u.launch id).stop = some 3 ∧ u.mem = s.mem ∧
        (∀ k z, s.launches.find? (fun p => p.1 == k) = some (k, z) → k ≠ id →
          let hit := z.m = l.m ∧ z.part = l.part ∧
            (((z.st = .bound ∨ z.st = .preempting) ∧ s.boundTo k ≠ []) ∨ (z.st = .saved ∧ z.saved ≠ []))
          (hit → (u.launch k).stop = z.stop.or (some 4)) ∧ (¬hit → u.launch k = z)) ∧
        (∀ cx, cx ∈ s.boundTo id → (u.ctx cx).phase = .free ∧ (u.ctx cx).queues = []) ∧
        ∀ cl, modOf (cl / 8) = l.m → (mget (0 : Word) l.part (s.mod l.m).pmask).getLsbD (moduleRank cl) = true →
          (u.cluster cl).full = [] ∧ (cl ∈ s.clusters.map Prod.fst → (u.cluster cl).step = 18 ∧ (u.cluster cl).move = none)) ∧
    (listed → l.holdsCores = false ∨ l.stop ≠ none ∨ l.wdog ≠ some 0 → exec (.watchdogExpiry id) s = .next s) ∧
    (∀ en : Bool, (en = false ∨ ((s.mod m).ready = true ∧ 1 ≤ x.log2.toNat ∧ x.log2.toNat ≤ 12) → exec (.queueEnable m q en) s = .next (s.setHwQueue m q { x with en := en })) ∧
      (en = true → (s.mod m).ready = false ∨ x.log2.toNat = 0 ∨ 12 < x.log2.toNat → exec (.queueEnable m q en) s = .next s)) ∧
    (∀ tail : BitVec 32,
      let free := 2 ^ x.log2.toNat - (x.tail - x.oldest).toNat
      ((tail - x.tail).toNat ≤ free → x.devok = false → x.en = true → exec (.tailDoorbell m q tail) s = .next (s.setHwQueue m q { x with tail := tail })) ∧
      (free < (tail - x.tail).toNat ∨ x.devok = true ∨ x.en = false → exec (.tailDoorbell m q tail) s = .next (s.post m .tailIgnored [q, tail.toNat]))) ∧
    (listed → s.launches.filter (fun p => p.2.m = m && p.2.q = q && p.2.flag 0) = [(id, l)] → l.st = .bound → l.stop = none →
      (∀ cx ∈ s.boundTo id, (s.ctx cx).guard = none) → (∀ e ∈ s.cmds, e.2.play = none) →
      exec (.preemptWrite m q) s = .next (s.updLaunch id fun x => { x with st := .preempting, since := s.modMt l.m, aged := 0 })) ∧
    (j < 16 → (∀ z ∈ y.queues, z.2.en = true → z.2.part.toNat ≠ j) → (∀ z ∈ s.launches, z.2.m = m → z.2.part ≠ j) →
      ((∀ e ∈ y.pmask, e.1 ≠ j → e.2 &&& v = 0) → exec (.pmaskWrite m j v) s = .next (s.setMod m { y with pmask := mset 0 j v y.pmask })) ∧
      ((∃ e ∈ y.pmask, e.1 ≠ j ∧ e.2 &&& v ≠ 0) → exec (.pmaskWrite m j v) s = .next (s.post m .maskConflict [j, v.toNat])))

/-- R141, R179, R192, R393–R403, R413, R435: power and errors. The current limiter moves by one step, 0–7, once a microsecond; `ARBITER_INTERVAL` takes the least of the caps
and the request and starts a move, 1,200 ns within a group of eight steps and 6,000 ns across, and `MOVE_COMPLETE` ends it (the order within the
interval is assumption log 67's); the almanac records a change at the next of its 1,024 entries. Groups announce steps, and apply each at its time. The
mailbox, caps, boost and awake budget take values in range, and nothing while the management processor resets or the recovery loader runs. A thermal trip moves every cluster of
the die to step 0, and its end is logged; HBM temperature sets the refresh rate with 2 °C of hysteresis; the power comparator lowers the current
caps, once an interval; hot coolant lowers the thermal caps to 7, and keeps a write from raising them;
coolant past its critical limit leads to a power-fail halt. A move to a higher step keeps the cycle counter and adds to the time spent at its
voltage. Outside a guarded launch an error in a vector register poisons it, one in an accumulator row or a
residue mismatch poisons the row (assumption log 68), and one in a queue stops the launch with FAULT. -/
def Obligations.PowerEvents : Prop :=
  ∀ (s : State) (cl die m n : Nat) (step : BitVec 5),
    let k := s.cluster cl
    let d := s.die (cl / 8)
    let set := fun (f : Cluster → Cluster) => s.updCluster cl f
    let managed := (s.mod (modOf (cl / 8))).fwReset ≤ s.now ∧ (s.mod (modOf (cl / 8))).recovery = false
    let t := step.toNat
    let ns := fun (a b : Nat) => if a / 8 = b / 8 then 1200 else 6000
    (∀ sense, s.mt (cl / 8) / 1000 ≤ k.limAt ∨ s.powered (cl / 8) = false → exec (.currentLimiterTick cl sense) s = .next s) ∧
    (∀ sense, k.limAt < s.mt (cl / 8) / 1000 → s.powered (cl / 8) = true → ∃ l b, exec (.currentLimiterTick cl sense) s =
        .next (set fun k => { k with limit := l, limited := b, limAt := s.mt (cl / 8) / 1000 }) ∧
      (sense = .above → l.toNat = min 7 (k.limit.toNat + 1)) ∧ (sense = .within → l = k.limit) ∧ (sense = .below → l.toNat = k.limit.toNat - 1) ∧
      (b = true ↔ k.limited = true ∨ l ≠ 0 ∨ k.limit ≠ 0)) ∧
    (s.powered (cl / 8) = false → exec (.arbiterInterval cl) s = .next s) ∧
    (s.powered (cl / 8) = true → s.groupOf (cl / 8) = none → d.tripped = false → s.wantedBudget (cl / 8) = d.budget → k.move = none → s.bad = none → k.almanac = none →
      let cap := if k.limited = true ∨ k.limit ≠ 0 then k.currentCap - 1 else k.currentCap
      let want := max k.requested k.boost
      let goal := min (min k.thermalCap cap) want
      ∃ u, exec (.arbiterInterval cl) s = .next u ∧ u = s.setCluster cl (u.cluster cl) ∧
        (u.cluster cl).currentCap = cap ∧ (u.cluster cl).limited = false ∧ (u.cluster cl).arbAt = s.mt (cl / 8) / 10000 ∧ (u.cluster cl).step = k.step ∧
        (goal = k.step.toNat → (u.cluster cl).move = none) ∧
        (goal ≠ k.step.toNat → (u.cluster cl).move = some (goal, s.now + ns k.step.toNat goal))) ∧
    (∀ a e, k.move = some (a, e) → a < 32 → k.almanac = none → s.bad = none →
      (e ≤ s.now → a ≤ k.step.toNat →
        exec (.moveComplete cl) s = .next (set fun k => { k with move := none, step := BitVec.ofNat 5 a })) ∧
      (e ≤ s.now → k.step.toNat < a → ∃ u, exec (.moveComplete cl) s = .next u ∧
        u = set (fun k => { k with move := none, step := BitVec.ofNat 5 a, cyc := 1000 * s.cycleOf cl, cycAt := s.now, ratioNs := (u.cluster cl).ratioNs }) ∧
        u.cycleOf cl = s.cycleOf cl ∧
        ∀ r, mget 0 r (u.cluster cl).ratioNs = mget 0 r k.ratioNs + if r = k.step.toNat / 8 then s.now - k.cycAt else 0) ∧
      (s.now < e → exec (.moveComplete cl) s = .next s)) ∧
    (∀ base cause, k.almanac = some base → populated (base + 16 * (k.almSeq % 1024)) = true → populated (base + 16 * (k.almSeq % 1024) + 8) = true →
      s.granted true (base + 16 * (k.almSeq % 1024)) 8 = true → s.granted true (base + 16 * (k.almSeq % 1024) + 8) 8 = true →
      base % 16 = 0 → ∃ u, s.almanac cl n cause = u ∧ (u.cluster cl).almSeq = k.almSeq + 1 ∧
        (s.remapOff (base + 16 * (k.almSeq % 1024)) = none → s.remapOff (base + 16 * (k.almSeq % 1024) + 8) = none →
          u.bytes (base + 16 * (k.almSeq % 1024)) 16 =
            bytesOfNat 8 (s.mt (cl / 8)) ++ bytesOfNat 8 (n % 32 + cause % 8 * 2 ^ 5 + k.almSeq % 2 ^ 32 * 2 ^ 32))) ∧
    (∀ a, k.announced.find? (fun a => decide (a.2 ≤ s.mt (cl / 8))) = some a → s.bad = none → k.almanac = none →
      (k.move = none → ∃ u, exec (.groupStepApply cl) s = .next u ∧ u = s.setCluster cl (u.cluster cl) ∧
        (u.cluster cl).groupStep = a.1 ∧ (u.cluster cl).announced = k.announced.erase a ∧
        (d.tripped = true ∨ a.1 = k.step.toNat → (u.cluster cl).move = none) ∧
        (d.tripped = false → a.1 ≠ k.step.toNat → (u.cluster cl).move = some (a.1, s.now + ns k.step.toNat a.1))) ∧
      (k.move ≠ none → exec (.groupStepApply cl) s = .next s)) ∧
    ((∀ a ∈ k.announced, s.mt (cl / 8) < a.2) → exec (.groupStepApply cl) s = .next s) ∧
    (∀ at_, d.mtskew.getLsbD 0 = true → s.mt (cl / 8) ≤ at_ →
      (∃ u, exec (.groupAnnouncement cl step at_) s = .next u ∧ u = { s with clusters := u.clusters, groups := u.groups, dies := u.dies } ∧
        u.cluster cl = { k with announced := k.announced ++ [(t, at_)] }) ∧
      (s.groupOf (cl / 8) = none → exec (.groupAnnouncement cl step at_) s = .next (set fun k => { k with announced := k.announced ++ [(t, at_)] }))) ∧
    (∀ at_, d.mtskew.getLsbD 0 = false ∨ at_ < s.mt (cl / 8) → k.almanac = none → s.bad = none → k.move = none → d.tripped = false →
      ∃ u, exec (.groupAnnouncement cl step at_) s = .next u ∧ (u.cluster cl).groupStep = t ∧ (u.cluster cl).announced = k.announced ∧
        (t ≠ k.step.toNat → (u.cluster cl).move = some (t, s.now + ns k.step.toNat t)) ∧
        ((u.mod (modOf (cl / 8))).log.head?.map LogRec.code) = some .groupLate) ∧
    (managed →
      (t ≤ 23 → exec (.powerMailboxWrite cl step) s = .next (set fun k => { k with mailbox := some step, mgmtAt := some (s.cycleOf cl) })) ∧
      (t ≤ 24 → exec (.capAndBoostWrite cl .awake step) s = .next (s.updDie (cl / 8) fun d => { d with wconf := t })) ∧
      (t ≤ 23 → exec (.capAndBoostWrite cl .boost step) s = .next (set fun k => { k with boost := t })) ∧
      (t ≤ 23 → exec (.capAndBoostWrite cl .thermal step) s = .next (set fun k =>
        { k with thermalCap := min t (if (s.mod (modOf (cl / 8))).coolant = .normal then 23 else 7) })) ∧
      (t ≤ 23 → exec (.capAndBoostWrite cl .group step) s = .next (set fun k => { k with groupCap := t })) ∧
      (t ≤ 23 → (s.mod (modOf (cl / 8))).pwrTrip = false ∨ t ≤ k.currentCap →
        exec (.capAndBoostWrite cl .current step) s = .next (set fun k => { k with currentCap := t })) ∧
      ((s.mod (modOf (cl / 8))).pwrTrip = true → k.currentCap < t → exec (.capAndBoostWrite cl .current step) s = .next s)) ∧
    (s.now < (s.mod (modOf (cl / 8))).fwReset ∨ (s.mod (modOf (cl / 8))).recovery = true → exec (.powerMailboxWrite cl step) s = .next s ∧ ∀ kind, exec (.capAndBoostWrite cl kind step) s = .next s) ∧
    ((∀ c ∈ dieClusters die, (s.cluster c).almanac = none) → s.bad = none →
      ∃ u, exec (.thermalTrip die) s = .next u ∧ (u.die die).tripped = true ∧ u.mem = s.mem ∧
        ∀ c ∈ dieClusters die, (((s.cluster c).step = 0 ∧ (s.cluster c).move = none) → u.cluster c = s.cluster c) ∧
          (¬((s.cluster c).step = 0 ∧ (s.cluster c).move = none) →
            (u.cluster c).move = some (0, s.now + ns (s.cluster c).step.toNat 0) ∧ (u.cluster c).step = (s.cluster c).step)) ∧
    ((s.die die).tripped = true →
      exec (.thermalTripClear die) s = .next ((s.updDie die fun d => { d with tripped := false }).post die .thermalClear [])) ∧
    ((s.die die).tripped = false → exec (.thermalTripClear die) s = .next s) ∧
    (∀ temp : Int,
      let row := if temp ≤ 85 then 0 else if temp ≤ 95 then 1 else if temp ≤ 105 then 2 else 3
      ∃ r, exec (.hbmTemperatureRead n temp) s = .next (s.updQuad n fun x => { x with refresh := r }) ∧
        ((s.quad n).refresh ≤ row → r = row) ∧
        (row < (s.quad n).refresh → r ≤ (s.quad n).refresh ∧
          (∀ j < (s.quad n).refresh, (temp ≤ 85 + 10 * (j : Int) - 2 ∧ ∀ i < j, ¬temp ≤ 85 + 10 * (i : Int) - 2) → r = j) ∧
          ((∀ j < (s.quad n).refresh, ¬temp ≤ 85 + 10 * (j : Int) - 2) → r = (s.quad n).refresh))) ∧
    (s.powered m = true → (s.mod m).pwrAt < s.modMt m / 10000 → (s.mod m).pwrlim < n → ∃ u, exec (.powerComparatorInterval m n) s = .next u ∧
      (u.mod m).pwrTrip = true ∧ (u.mod m).pwrPower = n ∧ ∀ c ∈ moduleClusters m, (u.cluster c).currentCap = (s.cluster c).currentCap - 1) ∧
    (s.powered m = true → (s.mod m).pwrAt < s.modMt m / 10000 → n ≤ (s.mod m).pwrlim → exec (.powerComparatorInterval m n) s =
      .next (s.updMod m fun x => { x with pwrTrip := false, pwrPower := n, pwrAt := s.modMt m / 10000 })) ∧
    (s.modMt m / 10000 ≤ (s.mod m).pwrAt → exec (.powerComparatorInterval m n) s = .next s) ∧
    (∀ (inlet : Int) flow, inlet ≤ 600 → 60 ≤ flow → exec (.coolantLimit m ⟨inlet, flow⟩) s = .next (s.updMod m fun x => { x with coolant := .normal })) ∧
    (∀ (inlet : Int) flow, 600 < inlet ∨ flow < 60 → inlet ≤ 650 → 40 ≤ flow → ∃ u, exec (.coolantLimit m ⟨inlet, flow⟩) s = .next u ∧ (u.mod m).coolant = .hot ∧
      ∀ c ∈ moduleClusters m, (u.cluster c).thermalCap = min (s.cluster c).thermalCap 7) ∧
    (∀ (inlet : Int) flow, 650 < inlet ∨ flow < 40 → ∃ low : State, exec (.coolantLimit m ⟨inlet, flow⟩) s = exec (.pwrHalt m .coolant) low ∧
      low = { s with mods := low.mods, clusters := low.clusters } ∧ (∀ j, low.mod j = if j = m then { s.mod m with coolant := .critical } else s.mod j) ∧
      ∀ c ∈ moduleClusters m, low.cluster c = { s.cluster c with thermalCap := min (s.cluster c).thermalCap 7 }) ∧
    (∀ cx r, r < 64 → (s.ctx cx).vvalid.getLsbD r = true → (s.ctx cx).guard = none →
      exec (.registerFileError cx r) s = .next (s.updCtx cx fun c => { c with vpois := c.vpois ||| ((1 : Word) <<< r) })) ∧
    ((∀ h < 4, (s.ctx (4 * n + h)).guard = none) →
      (∀ row, row < 1024 → exec (.accumulatorRowError n row) s = .next (s.updCore n fun k => { k with accPois := mset false row true k.accPois })) ∧
      (∀ row, (s.core n).beatRow = some row →
        exec (.residueMismatch n) s = .next (s.updCore n fun k => { k with accPois := mset false row true k.accPois })) ∧
      ((s.core n).beatRow = none → exec (.residueMismatch n) s = .next s)) ∧
    (∀ cx slot l, (s.ctx cx).queue slot ≠ [] → (s.ctx cx).guard = none → (s.ctx cx).launch = some l →
      ∃ u, exec (.queueParityError cx slot) s = .next u ∧ (u.launch l).stop = (s.launch l).stop.or (some 2) ∧ (u.ctx cx).phase = .free ∧
        (u.ctx cx).queues = [] ∧ u.mem = s.mem)

/-- R87, R406, R409, R410, R413, R414: a checkpoint ends a rerun or commits it, releases held stores in order, and takes the snapshot once
what its bundle issued is done; an error detected in a guarded context undoes its region: registers, flags and queues stand as at its
checkpoint, and the region runs again. -/
def Obligations.CheckpointAndRollback : Prop :=
  (∀ (b : Bool) (s : State) (g : Guard), s.runs0 b (.ckpt b) → s.here.guard = some g → g.err = none →
    let c := s.here
    let cx := s.cur.cx
    let open_ := fun (hold : List HeldStore) => s.updCtx cx fun c =>
      { c with rrun := 0, guard := some { g with runs := [], hold := hold, released := true, committing := g.committing || c.rrun != 0 } }
    let taken := fun (w t : State) => (∃ y, t.ctx cx = { w.ctx cx with rcount := 0, rrun := 0, guard := some { snap := y } } ∧ y.pc = c.pc ∧ y.mid = c.mid ∧
        y.rcLeft = c.rcLeft ∧ y.prog = c.prog ∧ y.shad = c.shad ∧ y.v = c.v ∧ y.vpres = c.vpres ∧ y.vpois = c.vpois ∧ y.flags = c.flags ∧
        y.fpstatus = c.fpstatus ∧ y.engfail = c.engfail ∧ y.loops = c.loops ∧ y.cursors = c.cursors ∧ y.sticky = c.sticky ∧ y.sys = c.sys ∧
        ∀ row, c.accbanks.getLsbD (row / 128) = true → row < 1024 → mget [] row y.acc = mget [] row (s.core (coreOf cx)).acc) ∧
      t = { w with ctxs := t.ctxs, cores := t.cores } ∧ (∀ k, k ≠ cx → t.ctx k = w.ctx k) ∧
      ∀ k, t.core k = if k = coreOf cx then { w.core k with contain := (w.core k).contain.filter (· != cx) } else w.core k
    let plain := (∀ n < 48, c.vvalid.getLsbD n = true) ∧ c.accbanks.getLsbD 8 = false
    (c.rrun = 0 ∨ (c.rrun ≠ 1 ∧ g.runs = [(c.rcount.toNat, g.sig)]) →
      (g.hold = [] → (open_ []).ckptDone cx = true → plain → ∃ t, exec (.ckpt b) s = .next t ∧ taken (open_ []) t) ∧
      (g.hold = [] → (open_ []).ckptDone cx = false → exec (.ckpt b) s = .next (open_ [])) ∧
      ∀ h, g.hold = [h] →
        ((open_ []).releaseStore cx h = none → exec (.ckpt b) s = .next (open_ [h])) ∧
        ∀ u, (open_ []).releaseStore cx h = some u → u.bad = none → u.here.holdEmpty = true →
          (u.ckptDone cx = false → exec (.ckpt b) s = .next u) ∧
          (u.ckptDone cx = true → (∀ n < 48, u.here.vvalid.getLsbD n = true) → u.here.accbanks.getLsbD 8 = false →
            ∃ t y, exec (.ckpt b) s = .next t ∧ t.mem = u.mem ∧ t.net = u.net ∧ t.here.guard = some { snap := y })) ∧
    (c.rrun = 1 → c.accbanks.getLsbD 8 = false → g.wstr = [] → ∃ t, exec (.ckpt b) s = .next t ∧ t.here.rrun = 2 ∧ t.here.pc = g.snap.pc ∧
      t.here.prog = g.snap.prog ∧ t.here.rcount = 0 ∧ t.mem = s.mem ∧ ∃ g', t.here.guard = some g' ∧ g'.runs = [(c.rcount.toNat, g.sig)]) ∧
    (c.rrun ≠ 0 → c.rrun ≠ 1 → g.runs ≠ [(c.rcount.toNat, g.sig)] → (∀ cx, ∀ h, (s.ctx cx).guard = some h → h.closing = false ∧ (s.ctx cx).accbanks.getLsbD 8 = false) →
      ∃ t, exec (.ckpt b) s = .next t ∧ (t.core (coreOf cx)).retired = true)) ∧
  (∀ (s : State) (hdr : W32) (ws : List W32) (g : Guard), s.here.guard = some g → g.closing = true → g.err = none → s.mayIssue s.cur.cx = true →
    s.mustSwitch (coreOf s.cur.cx) = false → s.bad = none →
    (s.ckptDone s.cur.cx = false → exec (.fullBundle hdr ws) s = .next s) ∧
    (s.ckptDone s.cur.cx = true → (∀ n < 48, s.here.vvalid.getLsbD n = true) → s.here.accbanks.getLsbD 8 = false →
      ∃ t y, exec (.fullBundle hdr ws) s = .next t ∧ t.here = { s.here with rcount := 0, rrun := 0, guard := some { snap := y } } ∧
        y.pc = s.here.pc ∧ y.prog = s.here.prog ∧ y.v = s.here.v ∧ y.flags = s.here.flags)) ∧
  ∀ (s : State) (cx r : Nat) (g : Guard),
    let c := s.ctx cx
    let x := g.snap
    c.guard = some g → g.closing = false → g.released = false → c.rrun = 0 → g.wstr = [] → s.bad = none → s.containing cx = false →
    (c.accbanks.getLsbD 8 = true → populated (c.imageKey + 0x30000) = true ∧ s.granted false (c.imageKey + 0x30000) 0x21440 = true) → r < 64 → c.vvalid.getLsbD r = true → ∃ u, exec (.registerFileError cx r) s = .next u ∧
      let d := u.ctx cx
      d.pc = x.pc ∧ d.mid = x.mid ∧ d.rcLeft = x.rcLeft ∧ d.prog = x.prog ∧ d.shad = x.shad ∧ d.flags = x.flags ∧ d.fpstatus = x.fpstatus ∧
        d.loops = x.loops ∧ d.v = x.v ∧ d.vpres = x.vpres ∧ d.vpois = x.vpois ∧ d.sys = x.sys ∧ d.cursors = x.cursors ∧ d.sticky = x.sticky ∧
        d.queues = [] ∧ d.sfault = [] ∧ d.phase = .running ∧ d.rrun = 1 ∧ d.rcount = 0 ∧ (∃ g', d.guard = some g' ∧ g'.snap = x ∧ g'.hold = []) ∧
        (c.accbanks.getLsbD 8 = true → (u.core (coreOf cx)).arr = matArrayOf (s.homeBytes (c.imageKey + 0x30000) 0x21440)) ∧
        u.mem = s.mem ∧ u.clusters = s.clusters ∧ (∀ k, k ≠ cx → u.ctx k = s.ctx k) ∧
        (u.mod (modOf (dieOf cx))).life.rollbacks.toNat = min (2 ^ 64 - 1) ((s.mod (modOf (dieOf cx))).life.rollbacks.toNat + 1)

/-- R415–R430, R434, R441–R443: halts and bring-up. The mailbox commands act while the link is up and the firmware runs. A plain halt stops a core
at once, or after its divide, and what waits in its queues rests; a quiesced halt freezes its free contexts at once and lets none go on; `RESUME` ends
either; each takes a core or every core of a partition. `PWR_HALT` of an idle module halts it at once: near and far memory, contexts and `MTSKEW` are
gone, SCM stays, and its image keeps queues and masks; with a launch bound, that launch is pre-empted first, and the link goes down. `RESTART` of firmware that is
good applies the configuration records; without a valid image it starts cold, its cause logged, with memory as it stands; with one it restores queues, masks,
windows, step tables and launches; clusters start at step 18, links are trained, and meridian time comes from a die that runs. The reserve charges at 250–400 W
while the input holds 48 V. `RESERVE_READY` makes a module ready once its reserve holds what a halt takes, shows the host the link up, and dates restored timed
accesses; `BRING_UP` brings its dies and links to their reset state. A brown-out of 30 to 40 V notes the voltage; `DIE_SHED` sheds the first die of the order when
the power asks for it, one every 100 µs, and `DIE_RESTORE` brings the last back, one every 1 ms, once 44 V have held for 10 ms; missed timed stores go before missed
loads. What the image holds beyond the spec's tables, the codes of log records, the times and the mailbox's durations are assumption log 21, 40, 63, 70, 73 and 123's. -/
def Obligations.HaltEvents : Prop :=
  ∀ (s : State) (m core : Nat),
    let x := s.mod m
    let mc := modOf (core / 64)
    let accepts := fun (j : Nat) => (s.mod j).cxlUp = true ∧ (s.mod j).fwReset ≤ s.now ∧ (s.mod j).mboxUntil ≤ s.now ∧ (s.mod j).recovery = false
    let answered := fun (u : State) (j : Nat) => ∃ v, u.mods = (s.updMod j fun y => { y with mboxStatus := .success, mboxUntil := v }).mods
    let contexts := [4 * core, 4 * core + 1, 4 * core + 2, 4 * core + 3]
    let regsKept := fun (u : State) (cx : Nat) => (u.ctx cx).prog = (s.ctx cx).prog ∧ (u.ctx cx).shad = (s.ctx cx).shad ∧
      (u.ctx cx).v = (s.ctx cx).v ∧ (u.ctx cx).pc = (s.ctx cx).pc ∧ (u.ctx cx).flags = (s.ctx cx).flags
    let input := fun (p : Power) (v : Nat) => s.updMod m fun y => { y with power := p, volts := v, reserve := s.reserveOf m, chargeAt := s.now }
    let member := fun (p k : Nat) => (k / 8) ∈ moduleClusters m ∧ (mget (0 : Word) p x.pmask).getLsbD (moduleRank (k / 8)) = true
    let locks := fun (u : State) (first : Bool) (mt : Option Nat) (kept : Nat) =>
      let runs := fun (d : Nat) => d ∈ s.domainDies ∧ cornerOf d ≠ m ∧ ((s.die d).mtskew.getLsbD 0 = true ∨ (first = true ∧ s.powered d = true))
      ((∃ d, runs d) → ∃ d, runs d ∧ ∀ e ∈ moduleDies m, u.mt e = s.mt d) ∧
      ((∀ d, ¬runs d) → s.extRef = none → ∀ e ∈ moduleDies m, u.mt e = mt.getD kept)
    let starts := fun (u : State) => (u.mod m).power = .up ∧ (u.mod m).ready = false ∧ (u.mod m).cxlUp = x.cxlUp ∧ (u.mod m).reserve = s.reserveOf m ∧
      (u.mod m).recovery = !x.fwGood ∧ (u.mod m).fwVersion = (if x.fwGood then x.fwNext else 0) ∧
      (∀ c ∈ moduleClusters m, (u.cluster c).step = 18 ∧ (u.cluster c).thermalCap ≤ x.capLimit) ∧
      ∀ d ∈ moduleDies m, (u.die d).engines = [] ∧ (u.die d).benches = [] ∧ (u.die d).budget = 24 ∧ (u.die d).shed = false ∧
        (u.die d).mtskew.getLsbD 0 = false ∧ ∀ port < 6, mget ({} : Link) port (u.die d).links = { up := true, lanes := 8 }
    (accepts mc → (s.core core).halt ≠ .pending → (s.core core).divider = none → ∃ u,
      exec (.plainHalt (.core core)) s = .next (u.post (core / 64) .debugHalt [core]) ∧ (u.core core).halt = .plain ∧ u.mem = s.mem ∧ answered u mc ∧
        ∀ cx ∈ contexts, regsKept u cx ∧
          ∀ q, q = 3 ∨ q = 5 → ∀ e ∈ (u.ctx cx).queue q, e.withdrawn = true → e.phase = .resting) ∧
    (accepts mc → (s.core core).halt ≠ .pending → (s.core core).divider ≠ none → ∃ u,
      exec (.plainHalt (.core core)) s = .next (u.post (core / 64) .debugHalt [core]) ∧ answered u mc ∧ u.mem = s.mem ∧ u.ctxs = s.ctxs ∧
        u.cores = (s.updCore core fun k => { k with halt := .pending }).cores) ∧
    ((s.core core).halt = .pending → (s.core core).divider ≠ none → exec (.plainHalt (.core core)) s = .next s) ∧
    ((s.core core).halt = .pending → (s.core core).divider = none →
      ∃ u, exec (.plainHalt (.core core)) s = .next u ∧ (u.core core).halt = .plain ∧ u.mem = s.mem) ∧
    (accepts mc → (s.core core).halt ≠ .quiesced → ∃ u, exec (.quiescedHalt (.core core)) s = .next u ∧ (u.core core).halt = .quiesced ∧ u.mem = s.mem ∧
      ∀ cx ∈ contexts, regsKept u cx ∧ ((s.ctx cx).phase = .free → (u.ctx cx).frozen = true) ∧ ((s.ctx cx).frozen = true → (u.ctx cx).frozen = true)) ∧
    ((s.core core).halt = .quiesced → ∃ u, exec (.quiescedHalt (.core core)) s = .next u ∧ u.mem = s.mem ∧ u.mods = s.mods ∧
      ∀ cx ∈ contexts, regsKept u cx ∧ (s.quiesced cx = true → (u.ctx cx).frozen = true)) ∧
    (accepts mc → ∃ u, exec (.resume (.core core)) s = .next u ∧ (u.core core).halt = .none ∧ u.mem = s.mem ∧ answered u mc ∧
      ∀ cx ∈ contexts, regsKept u cx ∧ ((s.ctx cx).launch = none → (u.ctx cx).frozen = false) ∧ ((u.ctx cx).frozen = true → (s.ctx cx).frozen = true) ∧
        ∀ q, ∀ e ∈ (u.ctx cx).queue q, e.phase ≠ .resting) ∧
    (∀ p, accepts m →
      (∃ u, exec (.plainHalt (.partition m p)) s = .next u ∧ u.mem = s.mem ∧ ∀ k,
        (member p k → (u.core k).halt = if (s.core k).divider.isSome then .pending else .plain) ∧ (¬member p k → u.core k = s.core k)) ∧
      (∃ u, exec (.quiescedHalt (.partition m p)) s = .next u ∧ u.mem = s.mem ∧ ∀ k,
        (member p k → (u.core k).halt = .quiesced) ∧ (¬member p k → u.core k = s.core k)) ∧
      ∃ u, exec (.resume (.partition m p)) s = .next u ∧ u.mem = s.mem ∧ ∀ k,
        (member p k → (u.core k).halt = .none) ∧ (¬member p k → u.core k = s.core k)) ∧
    (accepts mc → ∃ u, exec (.clearRetirement core) s = .next (u.updCore core fun k => { k with retired := false }) ∧ u = { s with mods := u.mods } ∧ answered u mc) ∧
    (∀ cause, x.power = .up ∨ x.power = .brownOut → s.launches = [] → s.cmds = [] → s.bad = none →
      (∀ c ∈ s.ctxs, ∀ e ∈ c.2.queue 3, e.phase ≠ .watching) →
      (∀ d ∈ moduleDies m, (s.die d).engines = [] ∧ ∀ q < 4, (s.quad (4 * d + q)).swaps = [] ∧
        ∀ l ∈ (s.quad (4 * d + q)).present, l.2 = true → regionOf (keyPa l.1) ≠ .scm) →
      (∀ c ∈ moduleClusters m, (s.cluster c).cache = []) → x.hibSize = 0 →
      let ends := fun (u : State) => exec (.pwrHalt m cause) s = .next u ∧ (u.mod m).power = .halted ∧ (u.mod m).ready = false ∧ (u.mod m).cxlUp = false ∧
        (∀ d ∈ moduleDies m, (u.die d).shed = true) ∧ (u.mod m).reserve = s.reserveOf m ∧ (∀ d, cornerOf d = m → (u.die d).mtskew = 0) ∧
        (∀ key, nearFar (keyPa key) = true → cornerOf (keyDie key) = m → u.byte key = 0) ∧
        (∀ key, ¬(nearFar (keyPa key) = true ∧ cornerOf (keyDie key) = m) → u.byte key = s.byte key) ∧
        ∀ cx, cornerOf (dieOf cx) = m → u.ctx cx = {}
      (x.image = none → ∃ u im, ends u ∧ (u.mod m).image = some im ∧ im.mtHalt = s.mt m ∧ im.queues = x.queues ∧ im.pmask = x.pmask ∧ im.isSealed = true ∧
        (u.mod m).life.halts.toNat = min (2 ^ 64 - 1) (x.life.halts.toNat + 1) ∧ (u.mod m).life.drains = x.life.drains ++ [0]) ∧
      (∀ im, x.image = some im → im.isSealed = true → x.ready = false → ∃ u, ends u ∧ (u.mod m).image = some im ∧ (u.mod m).life = x.life)) ∧
    (∀ cause l, x.power = .up → x.image = none → l ∈ s.launches → l.2.m = m → l.2.st = .bound → s.bad = none → (∀ cx, (s.ctx cx).guard = none) →
      (∀ c ∈ s.ctxs, ∀ e ∈ c.2.queue 3, e.phase ≠ .watching) → (∀ p ∈ s.launches, p.2.st ≠ .waiting) → mrising s.launches = true →
      l.2.stop = none → s.cmds = [] → (∀ d ∈ moduleDies m, (s.die d).engines = []) → (∀ c ∈ moduleClusters m, (s.cluster c).cache = []) →
      ∃ u, exec (.pwrHalt m cause) s = .next u ∧ (u.mod m).power = .halting cause ∧ (u.launch l.1).st = .preempting ∧ (u.mod m).ready = false ∧
        (u.mod m).cxlUp = false ∧ ∃ im, (u.mod m).image = some im ∧ im.mtHalt = s.mt m ∧ l.1 ∈ im.running) ∧
    (∀ cause c, x.power = .halting c → s.haltReady m = false → s.bad = none → exec (.pwrHalt m cause) s = .next s) ∧
    (x.power = .off ∨ x.power = .halted → ∀ cause, exec (.pwrHalt m cause) s = .next s) ∧
    (∀ b mt, x.power ≠ .halted → exec (.restart m b mt) s = .next s) ∧
    (∀ mt, x.power = .halted → x.records = [] ∨ x.fwGood = false → s.bad = none → (∀ c ∈ moduleClusters m, (s.cluster c).almanac = none) →
      ∃ u, exec (.restart m false mt) s = .next u ∧ starts u ∧ (u.mod m).image = none ∧ u.mem = s.mem ∧ u.launches = s.launches ∧
        (∀ d ∈ moduleDies m, (u.die d).remap = []) ∧ (∀ k, (u.core k).ewtable = (s.core k).ewtable) ∧
        locks u false mt ((x.image.map fun im => im.mtHalt).getD 0) ∧
        (cornerOf m = m → ∃ r rest, (u.mod m).log = r :: rest ∧ r.code = .coldStart ∧
          r.data.head? = some (if x.hibSize = 0 ∨ x.image = none then 0 else 1))) ∧
    (∀ mt r core e, x.power = .halted → x.fwGood = true → x.records = [r] → r.items = [.ewtable core e] → s.bad = none →
      (∀ c ∈ moduleClusters m, (s.cluster c).almanac = none) → ∃ u, exec (.restart m false mt) s = .next u ∧ (u.core core).ewtable = e) ∧
    (∀ mt im, x.power = .halted → x.records = [] → x.image = some im → s.coldCause m true = none → s.bad = none →
      (∀ c ∈ moduleClusters m, (s.cluster c).almanac = none) → bytesNum (s.homeBytes (x.area m) 256) 0x18 4 = 0 →
      ∃ u, exec (.restart m true mt) s = .next u ∧ starts u ∧ (u.mod m).image = some im ∧ (u.mod m).queues = im.queues ∧
        (u.mod m).pmask = im.pmask ∧ (∀ d ∈ moduleDies m, (u.die d).windows = mget [] d im.windows ∧ (u.die d).steps = mget [] d im.steps) ∧
        locks u false mt im.mtHalt ∧
        ∀ l z, im.launches.find? (fun p => p.1 == l) = some (l, z) → mrising im.launches = true → u.launch l = z) ∧
    (x.volts < 48 → s.reserveOf m = x.reserve) ∧
    (48 ≤ x.volts → ∃ rate full, 250 ≤ rate ∧ rate ≤ 400 ∧ 38000000000000 ≤ full ∧
      s.reserveOf m = min full (x.reserve + rate * (s.now - x.chargeAt))) ∧
    (x.power = .up → x.ready = false → x.image = none → s.bad = none → drainFloor + drainNeed x.hibSize ≤ s.reserveOf m →
      exec (.reserveReady m) s = .next (s.updMod m fun y => { y with ready := true, cxlUp := true })) ∧
    (∀ im q t, x.power = .up → x.ready = false → x.image = some im → im.launches = [] → im.reds = [] → im.timed = [(q, [t])] → s.bad = none →
      drainFloor + drainNeed x.hibSize ≤ s.reserveOf m → ∃ u, exec (.reserveReady m) s = .next u ∧ (u.mod m).ready = true ∧
        (u.quad q).transit = (s.quad q).transit ++ [{ t with time := s.mt (q / 4) + t.time }]) ∧
    (x.power = .up → x.ready = true ∨ s.reserveOf m < drainFloor + drainNeed x.hibSize → exec (.reserveReady m) s = .next s) ∧
    (∀ volts, 30 ≤ volts →
      (x.power = .up → volts < 40 → x.brownAt = none → exec (.brownOut m volts) s =
        .next (((input .brownOut volts).updMod m fun y => { y with brownAt := some s.now, heldAt := none }).post m .brownOut [volts])) ∧
      (x.power = .up → 40 ≤ volts → exec (.brownOut m volts) s = .next (input .up volts)) ∧
      (x.power = .brownOut → exec (.brownOut m volts) s = .next ((input .brownOut volts).updMod m fun y =>
        { y with brownAt := if volts < 40 then some (x.brownAt.getD s.now) else none
                 heldAt := if 44 ≤ volts then some (x.heldAt.getD s.now) else none }))) ∧
    (∀ volts, volts < 30 ∨ x.power = .off ∨ x.power = .halted ∨ (∃ c, x.power = .halting c) → exec (.brownOut m volts) s = .next s) ∧
    (x.power = .brownOut →
      (x.shed = [] → x.pwrPower ≤ 100 * x.volts → exec (.dieShed m) s = .next s) ∧
      (∀ k ks, x.shed = [] → 100 * x.volts < x.pwrPower → x.shedOrder = k :: ks → s.onDie (dieAt m k) = [] →
        (∀ q < 4, (s.quad (4 * dieAt m k + q)).swaps = []) → s.groupOf (dieAt m k) = none →
        exec (.dieShed m) s = .next ((s.updMod m fun y => { y with shed := [k], shedAt := s.now }).updDie (dieAt m k) fun d => { d with shed := true })) ∧
      (∀ k, x.shed = [k] → (s.die (dieAt m k)).shed = true → s.now < x.shedAt + 100000 → exec (.dieShed m) s = .next s) ∧
      (x.shed = [] → 40 ≤ x.volts → exec (.dieRestore m) s = .next ((input .up x.volts).updMod m fun y => { y with brownAt := none, heldAt := none })) ∧
      (x.shed = [] → x.volts < 40 → exec (.dieRestore m) s = .next s) ∧
      (x.shed ≠ [] → x.heldAt = none ∨ s.now < x.shedAt + 1000000 → exec (.dieRestore m) s = .next s) ∧
      (∀ k ks t, x.shed = ks ++ [k] → x.heldAt = some t → t + 10000000 ≤ s.now → x.shedAt + 1000000 ≤ s.now →
        let die := dieAt m k
        (∀ q < 4, (s.quad (4 * die + q)).transit = []) → ∃ u, exec (.dieRestore m) s = .next u ∧
          u = { s with dies := u.dies, mods := u.mods, quads := u.quads } ∧ (∀ d, u.die d = if d = die then { s.die d with shed := false } else s.die d) ∧
          (u.mod m).shed = ks ∧ (u.mod m).shedAt = s.now ∧ (u.mod m).power = (if ks = [] then .up else .brownOut) ∧
          (ks = [] → (u.mod m).brownAt = none ∧ (u.mod m).heldAt = none) ∧
          ∀ q < 4, u.quad (4 * die + q) = { s.quad (4 * die + q) with fadeAt := s.mt die / 1000000 })) ∧
    (∀ now l t, restoredDue now l = some t → t ∈ l ∧ t.time ≤ now ∧
      (t.store = true → ∀ y ∈ l, y.store = true → y.time ≤ now → t.time ≤ y.time) ∧ (t.store = false → ∀ y ∈ l, y.time ≤ now → y.store = false)) ∧
    (∀ mt, x.power = .off → x.records = [] ∨ x.fwGood = false → s.bad = none → (∀ c ∈ moduleClusters m, (s.cluster c).almanac = none) →
      ∃ u, exec (.bringUp m mt) s = .next u ∧ starts u ∧ u.mem = s.mem ∧ locks u true mt 0 ∧ ∀ d ∈ moduleDies m, (u.die d).remap = []) ∧
    (∀ mt, x.power ≠ .off → exec (.bringUp m mt) s = .next s)

/-- R431–R442: the host and the management processor. A host access to its own memory, or through an HDM window, reads or writes the bytes of its home;
one through a window while the link is down or its die shed does nothing. A module that is ready trains its link, up to x16 and 128 GT/s.
`DMA_WINDOW_WRITE` and `PWRLIM_WRITE` set their fields, the limit kept within 1,000–4,800 W, while the link is up. A mailbox command does nothing while the link is down or
the processor resets, is answered busy while another runs, and refused by the recovery loader but for the firmware commands. `WRITE_IMAGE` writes the bytes of the
image and, with the last, checks its two signatures and its security version and marks it pending; `ACTIVATE` starts a pending image, or recovery where a check
fails, after a reset of at most 2 s (assumption log 73, 123). A configuration record whose two signatures verify, whose items are of its type and which is newest
of its type is stored and applied at once, where its values lie within their limits (assumption log 74, 115); one that is not valid is logged; an older one is
stored and changes nothing. A log record is 64 bytes; `READ_LOG` returns those from a number on, oldest first, across the wrap, and `READ_LIFETIME` the
counters, which saturate, in the mailbox; the numbers of event codes are assumption log 40's, the layouts in the mailbox 119 and 125's. -/
def Obligations.ManagementEvents : Prop :=
  ∀ (s : State) (m w off : Nat) (v : Word) (data : List Byte) (r : ConfigRecord),
    let x := s.mod m
    let free := x.cxlUp = true ∧ x.fwReset ≤ s.now ∧ x.mboxUntil ≤ s.now
    let answer := fun (st : MboxStatus) => s.updMod m fun y => { y with mboxStatus := st }
    let near := fun (h : HdmWin) => x.cxlUp = true ∧ off + data.length ≤ h.size ∧ regionOf (h.pa + off) = .near ∧ (s.die h.die).shed = false
    (∀ side key h, (side = .own ∧ regionOf (2 ^ 48 + off + data.length - 1) = .host ∧ key = keyOf m (2 ^ 48 + off)) ∨
        (side = .hdm w ∧ x.hdm.find? (fun e => e.1 == w) = some (w, h) ∧ near h ∧ key = keyOf h.die (h.pa + off)) →
      key % 128 + data.length ≤ 128 → data ≠ [] →
      exec (.hostMemoryAccess m side off true data) s = .next (s.homeWrite key data false) ∧
      (∀ u bs b, s.homeRead key data.length = some (u, bs, b) →
        exec (.hostMemoryAccess m side off false data) s = .next (u.updMod m fun y => { y with reply := bs })) ∧
      (s.homeRead key data.length = none → exec (.hostMemoryAccess m side off false data) s = .next s)) ∧
    (∀ h b, x.hdm.find? (fun e => e.1 == w) = some (w, h) → ¬near h → exec (.hostMemoryAccess m (.hdm w) off b data) s = .next s) ∧
    ((∀ c ∈ s.ctxs, ∀ e ∈ c.2.queue 3, e.phase ≠ .watching) → (∀ l ∈ s.launches, l.2.st ≠ .waiting) →
      exec (.cxlLinkDown m) s = .next (s.updMod m fun x => { x with cxlUp := false })) ∧
    (∀ lanes rate,
      let may := x.ready = true ∧ 1 ≤ lanes ∧ lanes ≤ 16 ∧ 1 ≤ rate ∧ rate ≤ 128
      (may → exec (.cxlLinkTrain m lanes rate) s = .next (s.updMod m fun x => { x with cxlUp := true, cxlLanes := lanes, cxlRate := rate })) ∧
      (¬may → exec (.cxlLinkTrain m lanes rate) s = .next s)) ∧
    (x.cxlUp = true → w < 16 →
      let d := mget ({} : DmaWin) w x.dma
      let field := v.toNat / 2 ^ 12 % 2 ^ 36 * 2 ^ 12
      exec (.dmaWindowWrite m w false v) s =
        .next (s.setMod m { x with dma := mput w { d with en := v.getLsbD 0, wr := v.getLsbD 1, base := field } x.dma }) ∧
      exec (.dmaWindowWrite m w true v) s = .next (s.setMod m { x with dma := mput w { d with size := field } x.dma })) ∧
    (x.cxlUp = true → ∃ p, exec (.pwrlimWrite m v) s = .next (s.setMod m { x with pwrlim := p }) ∧ 1000 ≤ p ∧ p ≤ 4800 ∧
      (1000 ≤ v.toNat % 8192 → v.toNat % 8192 ≤ 4800 → p = v.toNat % 8192) ∧ (v.toNat % 8192 < 1000 → p = 1000) ∧ (4800 < v.toNat % 8192 → p = 4800)) ∧
    (x.cxlUp = false → exec (.pwrlimWrite m v) s = .next s ∧ ∀ b, exec (.dmaWindowWrite m w b v) s = .next s) ∧
    (∀ i, (∃ chunk, i = .writeImage m off chunk) ∨ (∃ a b c, i = .activate m a b c) ∨ i = .writeRecord m r ∨ i = .readLog m w ∨ i = .readLifetime m ∨
        (∃ core, modOf (core / 64) = m ∧ i = .clearRetirement core) ∨ (∃ p, i = .plainHalt (.partition m p) ∨ i = .quiescedHalt (.partition m p) ∨ i = .resume (.partition m p)) →
      (x.cxlUp = false ∨ s.now < x.fwReset → exec i s = .next s) ∧
      (x.cxlUp = true → x.fwReset ≤ s.now → s.now < x.mboxUntil → exec i s = .next (answer .busy)) ∧
      (free → x.recovery = true → (∀ chunk, i ≠ .writeImage m off chunk) → (∀ a b c, i ≠ .activate m a b c) → exec i s = .next (answer .refused))) ∧
    (free → ∀ chunk, ∃ u, exec (.writeImage m off chunk) s = .next u ∧ u = s.setMod m (u.mod m) ∧ (u.mod m).mboxStatus = .success ∧
      (∀ k < chunk.bytes.length, mget 0 (off + k) (u.mod m).fw = chunk.bytes.getD k 0) ∧
      (∀ k, k < off ∨ off + chunk.bytes.length ≤ k → mget 0 k (u.mod m).fw = mget 0 k x.fw) ∧
      (chunk.check = none → (u.mod m).fwPending = false ∧ (u.mod m).fwGood = false) ∧
      ∀ h, chunk.check = some h → ((u.mod m).fwPending = true ↔ h.sigs.ed25519 = true ∧ h.sigs.mlDsa65 = true ∧ Config.fusedVersion m ≤ h.secVer) ∧
        (u.mod m).fwGood = (u.mod m).fwPending) ∧
    (free → ∀ ed ml sec img,
      (x.fwPending = false → ∃ u, exec (.activate m ⟨ed, ml⟩ sec img) s = .next u ∧ u = s.setMod m (u.mod m) ∧ (u.mod m).mboxStatus = .refused ∧
        (u.mod m).fwReset = x.fwReset ∧ (u.mod m).recovery = x.recovery) ∧
      (x.fwPending = true → x.recovery = false ∨ x.records = [] → s.bad = none →
        ∃ u, exec (.activate m ⟨ed, ml⟩ sec img) s = .next u ∧ u = s.setMod m (u.mod m) ∧
          s.now ≤ (u.mod m).fwReset ∧ (u.mod m).fwReset ≤ s.now + 2000000000 ∧ (u.mod m).fwPending = false ∧
          (ed = true ∧ ml = true ∧ Config.fusedVersion m ≤ sec → (u.mod m).recovery = false ∧ (u.mod m).fwGood = true ∧
            (u.mod m).fwVersion.extractLsb' 0 16 = BitVec.ofNat 16 sec ∧ (u.mod m).fwVersion.extractLsb' 32 32 = BitVec.ofNat 32 img) ∧
          (ed = false ∨ ml = false ∨ sec < Config.fusedVersion m → (u.mod m).recovery = true ∧ (u.mod m).fwGood = false))) ∧
    (free → x.recovery = false → s.bad = none → ∃ t,
      let z := s.updMod m fun y => { y with mboxStatus := .success, mboxUntil := t }
      let stored := z.updMod m fun x => { x with records := x.records ++ [r] }
      let does := fun (u : State) => exec (.writeRecord m r) s = .next u
      (r.sigs.ed25519 = false ∨ r.sigs.mlDsa65 = false ∨ (∃ i ∈ r.items, i.kind ≠ r.kind) → does (z.post m .recordIgnored [r.seq.toNat])) ∧
      (r.valid = true →
        ((∃ y ∈ x.records, y.kind = r.kind ∧ r.seq.toNat ≤ y.seq.toNat) → does stored) ∧
        ((∀ y ∈ x.records, y.kind = r.kind → y.seq.toNat < r.seq.toNat) →
          (∀ core e core' e', r.items = [.ewtable core e, .ewtable core' e'] →
            does ((stored.updCore core fun k => { k with ewtable := e }).updCore core' fun k => { k with ewtable := e' })) ∧
          (∀ core e, r.items = [.bfw core e] → e.toNat ≤ 480 → does (stored.updCore core fun k => { k with bfw := e })) ∧
          (∀ core e, r.items = [.bfw core e] → 480 < e.toNat → does stored) ∧
          (∀ a b c, r.items = [.extents a b c] →
            let good := (a % 2 = 0 ∧ 2 ≤ a ∧ a ≤ 16) ∧ (b % 2 = 0 ∧ 2 ≤ b ∧ b ≤ 16) ∧ c % 2 = 0 ∧ 2 ≤ c ∧ c ≤ 16
            (good → does { stored with extents := (a, b, c) }) ∧ (¬good → does stored)) ∧
          (∀ l, r.items = [.grandmasters l] → does { stored with grandmasters := l.take 4 }) ∧
          (∀ n, r.items = [.threshold n] → (1 ≤ n ∧ n ≤ 65535 → does { stored with threshold := n }) ∧ (n = 0 ∨ 65535 < n → does stored)) ∧
          (∀ die n, r.items = [.awake die n] → n ≤ 24 → does (stored.updDie die fun d => { d with wconf := n })) ∧
          (∀ cl base, r.items = [.almanac cl base] →
            (base % 16384 = 0 → does (stored.updCluster cl fun k => { k with almanac := some base })) ∧ (base % 16384 ≠ 0 → does stored)) ∧
          (∀ base size, r.items = [.hib base size] →
            let good := (base % 2 ^ 30 = 0 ∧ size % 2 ^ 30 = 0) ∧ size ≤ 3072 * 2 ^ 30 ∧ (size = 0 ∨ (2 ^ 41 ≤ base ∧ base + size ≤ 2 ^ 41 + 2 ^ 42))
            (good → does (stored.updMod m fun x => { x with hibBase := base, hibSize := size })) ∧ (¬good → does stored)) ∧
          (∀ order, r.items = [.shedOrder order] → does (stored.updMod m fun x => { x with shedOrder := order })) ∧
          (∀ die base, r.items = [.remapTable die base] → base + 96 * 2 ^ 20 ≤ 2 ^ 38 → does (stored.updDie die fun d => { d with remapBase := some base })) ∧
          (∀ i hbase size die pa, r.items = [.hdm i hbase size die pa] → i < 8 →
            let good := hbase % 2 ^ 28 = 0 ∧ size % 2 ^ 28 = 0 ∧ pa + size ≤ 2 ^ 38 ∧ die ∈ moduleDies m
            (good → does (stored.updMod m fun x => { x with hdm := mput i { hbase := hbase, size := size, die := die, pa := pa } x.hdm })) ∧
              (¬good → does stored))))) ∧
    (∀ e : LogRec, e.data.length = 48 → e.bytes.length = 64 ∧ natOfBytes (e.bytes.take 8) = e.mt.toNat ∧ natOfBytes ((e.bytes.drop 10).take 2) = e.die.toNat ∧
      natOfBytes ((e.bytes.drop 12).take 4) = e.seq.toNat ∧ e.bytes.drop 16 = e.data) ∧
    (free → x.recovery = false → ∀ seq : BitVec 32, ∃ u, exec (.readLog m seq.toNat) s = .next u ∧ u = s.setMod m (u.mod m) ∧ (u.mod m).log = x.log ∧
      ∀ (news olds : List LogRec), x.log = news ++ olds → (∀ e ∈ news, (e.seq - seq).toNat < 2 ^ 31) → (∀ e ∈ olds, 2 ^ 31 ≤ (e.seq - seq).toNat) →
        (u.mod m).mbox.length = (news.map fun e => e.bytes.length).sum ∧
        (∀ e before, news = before ++ [e] → (u.mod m).mbox.take e.bytes.length = e.bytes.map BitVec.toNat)) ∧
    (free → x.recovery = false → ∃ u, exec (.readLifetime m) s = .next u ∧ u = s.setMod m (u.mod m) ∧
      let l := x.life
      (∃ rest, (u.mod m).mbox = [l.halts.toNat, l.drains.length] ++ l.drains ++ [l.rollbacks.toNat, l.reruns.toNat, l.retired.toNat] ++ rest ∧
        ∀ i cl k, (moduleClusters m)[i]? = some cl → k < 3 →
          rest[3 * i + k]? = some (min (2 ^ 64 - 1) (mget 0 k (s.cluster cl).ratioNs +
            if s.powered (cl / 8) = true ∧ (s.cluster cl).runStep / 8 = k then s.now - (s.cluster cl).cycAt else 0))) ∧
      (u.mod m).life = { l with counts := (u.mod m).life.counts } ∧ ∀ k, (l.get k).toNat ≤ ((u.mod m).life.get k).toNat)

/-- R18–R21, R33–R40: every well-formed parcel, bundle and template call is read back from its own words, in every slot that its
opcode is encoded in; what the decoder reads has these words and no others. -/
def Obligations.DecodeAgreesWithEncode : Prop :=
  (∀ (i : Instr) (slot : Nat), i.wf = true → slot ∈ i.slots → decodeParcel slot (encodeParcel i).1 (encodeParcel i).2 = .ok i) ∧
  (∀ (i : Instr) (slot : Nat), slot ∈ i.slots → slot ≠ 7 → (encodeParcel i).2 = 0) ∧
  (∀ (i : Instr) (slot : Nat) (w0 w1 : W32), decodeParcel slot w0 w1 = .ok i → i.wf = true ∧ slot ∈ i.slots ∧ encodeParcel i = (w0, w1)) ∧
  (∀ (hdr : W32) (ws : List W32) (rest : List HUnit), (Instr.fullBundle hdr ws).wf = true →
    decodeUnits (encodeUnits (.fullBundle hdr ws) ++ rest) = .ok (.fullBundle hdr ws, rest) ∧
    decode (encode (.fullBundle hdr ws)) = .ok (.fullBundle hdr ws, [])) ∧
  (∀ (index : BitVec 9) (rc : BitVec 6) (rest : List HUnit),
    decodeUnits (encodeUnits (.tcall index rc) ++ rest) = .ok (.tcall index rc, rest) ∧
    decode (encode (.tcall index rc)) = .ok (.tcall index rc, []))

/-- R19, R20, R33–R40, R219: words written out from the encodings decode to the instructions that they stand for. -/
def Obligations.WordsDecode : Prop :=
  decodeParcel 1 0x034D3FF8 0 = .ok (.addi false 19 19 (-8)) ∧
  decodeParcel 1 0x05011480 0 = .ok (.mulh false 0 17 18) ∧
  decodeParcel 1 0x07011480 0 = .ok (.div false 0 17 18) ∧
  decodeParcel 2 0x155000FF 0 = .ok (.andi false 20 0 0xFF) ∧
  decodeParcel 2 0x1D01100C 0 = .ok (.shri false 0 17 12) ∧
  decodeParcel 1 0x22011480 0 = .ok (.clt false 0 17 18) ∧
  decodeParcel 2 0x2A011000 0 = .ok (.popc false 0 17) ∧
  decodeParcel 1 0x40011481 0 = .ok (.fadd false 0 17 18 1) ∧
  decodeParcel 2 0x81551480 0 = .ok (.add true 21 17 18) ∧
  decodeParcel 0 0x01FFFFFA 0 = .ok (.br false (-6)) ∧
  decodeParcel 0 0x0550000C 0 = .ok (.loop false 20 12) ∧
  decodeParcel 0 0x100224C0 0 = .ok (.mfs false 0x022 19) ∧
  decodeParcel 3 0x01592802 0 = .ok (.ld false 22 18 2 false 2) ∧
  decodeParcel 3 0x02552C02 0 = .ok (.st false 21 18 3 2) ∧
  decodeParcel 4 0x010420C0 0 = .ok (.vadd false 1 2 3 0 0) ∧
  decodeParcel 5 0x01824400 0 = .ok (.mbeat false true 0 4 2 1 0 false false) ∧
  decodeParcel 6 0x0401C000 0 = .ok (.aclr false 3 64) ∧
  decodeParcel 7 0x0C000000 0x50002403 = .ok (.bankcfg false { prod := 0, c1 := 0, c2 := 0, c3 := 0, fen := true, fnum := 2 } 20 3) ∧
  decodeUnits [0x0006, 0x0106, 0x1480, 0x0501, 0x1480, 0x8155] =
    .ok (.fullBundle 0x01060006 [0x05011480, 0x81551480], []) ∧
  decodeUnits [0x8141] = .ok (.tcall 5 1, [])

/-- R18–R21, R50: an issue carries out the instruction that the units at the program counter decode to (with a guarded context's own held
stores), or, while repetitions are left, the one decoded; then time passes. An event, a step of the outside world and the passing of time are steps of
their own (assumption log 2, 3). -/
def Obligations.StepRunsDecoded : Prop :=
  ∀ s : State,
    let ends := fun (o : Host.Outcome State Fault Refusal) => match o with
      | .next t => t.advance.out
      | .fault f => .fault f
      | .refused r => .refused r
    (∀ cx i rest, s.choice = .issue cx → (s.ctx cx).mid = false ∨ (s.ctx cx).decoded = none →
      decodeUnits ((s.fetchCore cx).unitsFrom (s.ctx cx).pc 20) = .ok (i, rest) → step s = ends (exec i (s.atHand cx))) ∧
    (∀ cx, (s.ctx cx).guard = none → s.fetchCore cx = s.core (coreOf cx)) ∧
    (∀ cx d, s.choice = .issue cx → (s.ctx cx).mid = true → (s.ctx cx).decoded = some d → step s = ends (exec d.instr (s.atHand cx))) ∧
    (∀ cx, (s.atHand cx).cur.cx = cx ∧ ∀ c : Cur, { s.atHand cx with cur := c } = { s with cur := c }) ∧
    (∀ e, s.choice = .event e → step s = ends (e.run s)) ∧
    (∀ i rest, s.choice = .input → s.inputs = i :: rest → fromOutside i = true → step s = ends (exec i { s with inputs := rest })) ∧
    (s.choice = .pass → step s = s.advance.out) ∧
    ∀ t : State, t.advance.tick = t.tick + 1 ∧ ((∀ q ∈ t.quads, q.2.transit = []) →
      (∀ c ∈ t.ctxs, c.2.closing = true → t.ckptDone c.1 = false) →
      t.advance.now = t.now + t.delays.head?.getD 1 ∧ t.advance.mem = t.mem ∧ t.advance.ctxs = t.ctxs ∧
      t.advance.cores = t.cores ∧ t.advance.clusters = t.clusters)

/-- R7, R281: from every state whose memory is in canonical form, a step that answers a next state leaves it in canonical form (the form is the model's own,
assumption log 1). -/
def Obligations.StepKeepsMemory : Prop :=
  ∀ s t : State, Memory.wf s.mem = true → step s = .next t → Memory.wf t.mem = true

/-- R59, R61, R70, R93, R290, R334–R336, R435: what holds before bring-up: contexts free, with flags, failure bits, status and queues empty; the remap
table as at power-up; `MTSKEW` 0; `PWRLIM` 4,800 with no trip; no queue or mask set; engines asleep; nothing halted, retired, launched or in flight. The
memory is in canonical form and reads 0 everywhere (assumption log 1); values that the spec does not give are assumption log 9–12's. -/
def Obligations.Reset : Prop :=
  let s := State.reset
  Memory.wf s.mem = true ∧ (∀ key, s.byte key = 0) ∧
  (∀ cx, (s.ctx cx).phase = .free ∧ (s.ctx cx).flags = 0 ∧ (s.ctx cx).engfail = 0 ∧ (s.ctx cx).fpstatus = 0 ∧ (s.ctx cx).loops = [] ∧
    (s.ctx cx).queues = [] ∧ (s.ctx cx).held = [] ∧ (s.ctx cx).guard = none) ∧
  (∀ die g, (s.die die).remapOf g = remapReset g) ∧ (∀ die, (s.die die).mtskew = 0) ∧
  (∀ m, (s.mod m).pwrlim = 4800 ∧ (s.mod m).pwrTrip = false ∧ (s.mod m).pwrPower = 0 ∧ (s.mod m).queues = [] ∧ (s.mod m).pmask = []) ∧
  (∀ die e, (s.engine die e).st = .asleep) ∧ (∀ core, (s.core core).halt = .none ∧ (s.core core).retired = false) ∧
  s.bad = none ∧ s.launches = [] ∧ s.cmds = [] ∧ s.net = []
end

