-- ==== Sys2Proof/Laws/State.lean ====
section
/-!
SUPPORT. What each named update of the state leaves as it was, field by field, and what it gives where it writes: finite maps,
the parts of the state by identity, a context's registers and flags.
-/

namespace Sys2Proof.Machine

/-! Finite maps -/

theorem mget_mput {α : Type} (d : α) (k j : Nat) (v : α) (m : Map α) : mget d j (mput k v m) = if j = k then v else mget d j m := by
  induction m with
  | nil => simp [mput, mget]
  | cons p t ih =>
    obtain ⟨k', v'⟩ := p
    unfold mput
    split
    · rfl
    · split
      · rename_i _ h
        subst h
        by_cases hj : j = k <;> simp [mget, hj]
      · by_cases hj : j = k'
        · subst hj
          rw [mget, if_pos rfl, mget, if_pos rfl, if_neg (fun h => absurd h.symm ‹_›)]
        · rw [mget, if_neg hj, ih, mget, if_neg hj]

@[simp] theorem mget_mput_self {α : Type} (d : α) (k : Nat) (v : α) (m : Map α) : mget d k (mput k v m) = v := by
  rw [mget_mput, if_pos rfl]

theorem mget_mput_ne {α : Type} (d : α) {k j : Nat} (h : j ≠ k) (v : α) (m : Map α) : mget d j (mput k v m) = mget d j m := by
  rw [mget_mput, if_neg h]

theorem mget_merase {α : Type} (d : α) (k j : Nat) (m : Map α) : mget d j (merase k m) = if j = k then d else mget d j m := by
  induction m with
  | nil => simp [merase, mget]
  | cons p t ih =>
    obtain ⟨k', v'⟩ := p
    rw [merase, List.filter_cons]
    by_cases hk : k' = k
    · subst hk
      simp only [bne_self_eq_false, Bool.false_eq_true, if_false]
      rw [← merase, ih, mget]
      by_cases hj : j = k' <;> simp [hj]
    · simp only [bne_iff_ne, ne_eq, hk, not_false_eq_true, if_true]
      rw [← merase, mget, ih, mget]
      by_cases hj : j = k'
      · subst hj; simp [hk]
      · simp [hj]

theorem mget_mset {α : Type} [DecidableEq α] (d : α) (k j : Nat) (v : α) (m : Map α) :
    mget d j (mset d k v m) = if j = k then v else mget d j m := by
  unfold mset
  split
  · rename_i h
    rw [mget_merase, h]
  · exact mget_mput d k j v m

@[simp] theorem mget_mset_self {α : Type} [DecidableEq α] (d : α) (k : Nat) (v : α) (m : Map α) : mget d k (mset d k v m) = v := by
  rw [mget_mset, if_pos rfl]

theorem mget_mset_ne {α : Type} [DecidableEq α] (d : α) {k j : Nat} (h : j ≠ k) (v : α) (m : Map α) :
    mget d j (mset d k v m) = mget d j m := by
  rw [mget_mset, if_neg h]

/-! The parts of the state by identity -/

@[simp] theorem State.ctx_setCtx (s : State) (cx : Nat) (c : Ctx) : (s.setCtx cx c).ctx cx = c := mget_mput_self _ _ _ _
theorem State.ctx_setCtx_ne (s : State) {cx j : Nat} (h : j ≠ cx) (c : Ctx) : (s.setCtx cx c).ctx j = s.ctx j := mget_mput_ne _ h _ _
@[simp] theorem State.ctx_updCtx (s : State) (cx : Nat) (f : Ctx → Ctx) : (s.updCtx cx f).ctx cx = f (s.ctx cx) := mget_mput_self _ _ _ _
theorem State.ctx_updCtx_ne (s : State) {cx j : Nat} (h : j ≠ cx) (f : Ctx → Ctx) : (s.updCtx cx f).ctx j = s.ctx j := mget_mput_ne _ h _ _

@[simp] theorem State.core_setCore (s : State) (k : Nat) (c : Core) : (s.setCore k c).core k = c := mget_mput_self _ _ _ _
theorem State.core_setCore_ne (s : State) {k j : Nat} (h : j ≠ k) (c : Core) : (s.setCore k c).core j = s.core j := mget_mput_ne _ h _ _
@[simp] theorem State.core_updCore (s : State) (k : Nat) (f : Core → Core) : (s.updCore k f).core k = f (s.core k) := mget_mput_self _ _ _ _
theorem State.core_updCore_ne (s : State) {k j : Nat} (h : j ≠ k) (f : Core → Core) : (s.updCore k f).core j = s.core j := mget_mput_ne _ h _ _

@[simp] theorem State.cluster_setCluster (s : State) (k : Nat) (c : Cluster) : (s.setCluster k c).cluster k = c := mget_mput_self _ _ _ _
theorem State.cluster_setCluster_ne (s : State) {k j : Nat} (h : j ≠ k) (c : Cluster) : (s.setCluster k c).cluster j = s.cluster j := mget_mput_ne _ h _ _
@[simp] theorem State.cluster_updCluster (s : State) (k : Nat) (f : Cluster → Cluster) : (s.updCluster k f).cluster k = f (s.cluster k) := mget_mput_self _ _ _ _
theorem State.cluster_updCluster_ne (s : State) {k j : Nat} (h : j ≠ k) (f : Cluster → Cluster) : (s.updCluster k f).cluster j = s.cluster j := mget_mput_ne _ h _ _

@[simp] theorem State.quad_setQuad (s : State) (k : Nat) (q : Quad) : (s.setQuad k q).quad k = q := mget_mput_self _ _ _ _
theorem State.quad_setQuad_ne (s : State) {k j : Nat} (h : j ≠ k) (q : Quad) : (s.setQuad k q).quad j = s.quad j := mget_mput_ne _ h _ _
@[simp] theorem State.quad_updQuad (s : State) (k : Nat) (f : Quad → Quad) : (s.updQuad k f).quad k = f (s.quad k) := mget_mput_self _ _ _ _
theorem State.quad_updQuad_ne (s : State) {k j : Nat} (h : j ≠ k) (f : Quad → Quad) : (s.updQuad k f).quad j = s.quad j := mget_mput_ne _ h _ _

@[simp] theorem State.die_setDie (s : State) (k : Nat) (d : Die) : (s.setDie k d).die k = d := mget_mput_self _ _ _ _
theorem State.die_setDie_ne (s : State) {k j : Nat} (h : j ≠ k) (d : Die) : (s.setDie k d).die j = s.die j := mget_mput_ne _ h _ _
@[simp] theorem State.die_updDie (s : State) (k : Nat) (f : Die → Die) : (s.updDie k f).die k = f (s.die k) := mget_mput_self _ _ _ _
theorem State.die_updDie_ne (s : State) {k j : Nat} (h : j ≠ k) (f : Die → Die) : (s.updDie k f).die j = s.die j := mget_mput_ne _ h _ _

@[simp] theorem State.mod_setMod (s : State) (m : Nat) (x : Module) : (s.setMod m x).mod m = x := mget_mput_self _ _ _ _
theorem State.mod_setMod_ne (s : State) {m j : Nat} (h : j ≠ m) (x : Module) : (s.setMod m x).mod j = s.mod j := mget_mput_ne _ h _ _
@[simp] theorem State.mod_updMod (s : State) (m : Nat) (f : Module → Module) : (s.updMod m f).mod m = f (s.mod m) := mget_mput_self _ _ _ _
theorem State.mod_updMod_ne (s : State) {m j : Nat} (h : j ≠ m) (f : Module → Module) : (s.updMod m f).mod j = s.mod j := mget_mput_ne _ h _ _

/-! `State.setCtx` -/

@[simp] theorem State.setCtx_inputs (s : State) (cx : Nat) (c : Ctx) : (s.setCtx cx c).inputs = s.inputs := rfl
@[simp] theorem State.setCtx_gathers (s : State) (cx : Nat) (c : Ctx) : (s.setCtx cx c).gathers = s.gathers := rfl
@[simp] theorem State.setCtx_redFails (s : State) (cx : Nat) (c : Ctx) : (s.setCtx cx c).redFails = s.redFails := rfl
@[simp] theorem State.setCtx_sched (s : State) (cx : Nat) (c : Ctx) : (s.setCtx cx c).sched = s.sched := rfl
@[simp] theorem State.setCtx_delays (s : State) (cx : Nat) (c : Ctx) : (s.setCtx cx c).delays = s.delays := rfl
@[simp] theorem State.setCtx_tick (s : State) (cx : Nat) (c : Ctx) : (s.setCtx cx c).tick = s.tick := rfl
@[simp] theorem State.setCtx_now (s : State) (cx : Nat) (c : Ctx) : (s.setCtx cx c).now = s.now := rfl
@[simp] theorem State.setCtx_cur (s : State) (cx : Nat) (c : Ctx) : (s.setCtx cx c).cur = s.cur := rfl
@[simp] theorem State.setCtx_cores (s : State) (cx : Nat) (c : Ctx) : (s.setCtx cx c).cores = s.cores := rfl
@[simp] theorem State.setCtx_clusters (s : State) (cx : Nat) (c : Ctx) : (s.setCtx cx c).clusters = s.clusters := rfl
@[simp] theorem State.setCtx_quads (s : State) (cx : Nat) (c : Ctx) : (s.setCtx cx c).quads = s.quads := rfl
@[simp] theorem State.setCtx_dies (s : State) (cx : Nat) (c : Ctx) : (s.setCtx cx c).dies = s.dies := rfl
@[simp] theorem State.setCtx_mods (s : State) (cx : Nat) (c : Ctx) : (s.setCtx cx c).mods = s.mods := rfl
@[simp] theorem State.setCtx_net (s : State) (cx : Nat) (c : Ctx) : (s.setCtx cx c).net = s.net := rfl
@[simp] theorem State.setCtx_nextPkt (s : State) (cx : Nat) (c : Ctx) : (s.setCtx cx c).nextPkt = s.nextPkt := rfl
@[simp] theorem State.setCtx_cmds (s : State) (cx : Nat) (c : Ctx) : (s.setCtx cx c).cmds = s.cmds := rfl
@[simp] theorem State.setCtx_nextCmd (s : State) (cx : Nat) (c : Ctx) : (s.setCtx cx c).nextCmd = s.nextCmd := rfl
@[simp] theorem State.setCtx_extents (s : State) (cx : Nat) (c : Ctx) : (s.setCtx cx c).extents = s.extents := rfl
@[simp] theorem State.setCtx_grandmasters (s : State) (cx : Nat) (c : Ctx) : (s.setCtx cx c).grandmasters = s.grandmasters := rfl
@[simp] theorem State.setCtx_extRef (s : State) (cx : Nat) (c : Ctx) : (s.setCtx cx c).extRef = s.extRef := rfl
@[simp] theorem State.setCtx_groups (s : State) (cx : Nat) (c : Ctx) : (s.setCtx cx c).groups = s.groups := rfl
@[simp] theorem State.setCtx_threshold (s : State) (cx : Nat) (c : Ctx) : (s.setCtx cx c).threshold = s.threshold := rfl
@[simp] theorem State.setCtx_mem (s : State) (cx : Nat) (c : Ctx) : (s.setCtx cx c).mem = s.mem := rfl
@[simp] theorem State.setCtx_mpoison (s : State) (cx : Nat) (c : Ctx) : (s.setCtx cx c).mpoison = s.mpoison := rfl
@[simp] theorem State.setCtx_launches (s : State) (cx : Nat) (c : Ctx) : (s.setCtx cx c).launches = s.launches := rfl
@[simp] theorem State.setCtx_bad (s : State) (cx : Nat) (c : Ctx) : (s.setCtx cx c).bad = s.bad := rfl
@[simp] theorem State.setCtx_core (s : State) (cx : Nat) (c : Ctx) (j : Nat) : (s.setCtx cx c).core j = s.core j := rfl
@[simp] theorem State.setCtx_cluster (s : State) (cx : Nat) (c : Ctx) (j : Nat) : (s.setCtx cx c).cluster j = s.cluster j := rfl
@[simp] theorem State.setCtx_quad (s : State) (cx : Nat) (c : Ctx) (j : Nat) : (s.setCtx cx c).quad j = s.quad j := rfl
@[simp] theorem State.setCtx_die (s : State) (cx : Nat) (c : Ctx) (j : Nat) : (s.setCtx cx c).die j = s.die j := rfl
@[simp] theorem State.setCtx_mod (s : State) (cx : Nat) (c : Ctx) (j : Nat) : (s.setCtx cx c).mod j = s.mod j := rfl
@[simp] theorem State.setCtx_byte (s : State) (cx : Nat) (c : Ctx) (a : Nat) : (s.setCtx cx c).byte a = s.byte a := rfl

/-! `State.setCore` -/

@[simp] theorem State.setCore_inputs (s : State) (k : Nat) (c : Core) : (s.setCore k c).inputs = s.inputs := rfl
@[simp] theorem State.setCore_gathers (s : State) (k : Nat) (c : Core) : (s.setCore k c).gathers = s.gathers := rfl
@[simp] theorem State.setCore_redFails (s : State) (k : Nat) (c : Core) : (s.setCore k c).redFails = s.redFails := rfl
@[simp] theorem State.setCore_sched (s : State) (k : Nat) (c : Core) : (s.setCore k c).sched = s.sched := rfl
@[simp] theorem State.setCore_delays (s : State) (k : Nat) (c : Core) : (s.setCore k c).delays = s.delays := rfl
@[simp] theorem State.setCore_tick (s : State) (k : Nat) (c : Core) : (s.setCore k c).tick = s.tick := rfl
@[simp] theorem State.setCore_now (s : State) (k : Nat) (c : Core) : (s.setCore k c).now = s.now := rfl
@[simp] theorem State.setCore_cur (s : State) (k : Nat) (c : Core) : (s.setCore k c).cur = s.cur := rfl
@[simp] theorem State.setCore_ctxs (s : State) (k : Nat) (c : Core) : (s.setCore k c).ctxs = s.ctxs := rfl
@[simp] theorem State.setCore_clusters (s : State) (k : Nat) (c : Core) : (s.setCore k c).clusters = s.clusters := rfl
@[simp] theorem State.setCore_quads (s : State) (k : Nat) (c : Core) : (s.setCore k c).quads = s.quads := rfl
@[simp] theorem State.setCore_dies (s : State) (k : Nat) (c : Core) : (s.setCore k c).dies = s.dies := rfl
@[simp] theorem State.setCore_mods (s : State) (k : Nat) (c : Core) : (s.setCore k c).mods = s.mods := rfl
@[simp] theorem State.setCore_net (s : State) (k : Nat) (c : Core) : (s.setCore k c).net = s.net := rfl
@[simp] theorem State.setCore_nextPkt (s : State) (k : Nat) (c : Core) : (s.setCore k c).nextPkt = s.nextPkt := rfl
@[simp] theorem State.setCore_cmds (s : State) (k : Nat) (c : Core) : (s.setCore k c).cmds = s.cmds := rfl
@[simp] theorem State.setCore_nextCmd (s : State) (k : Nat) (c : Core) : (s.setCore k c).nextCmd = s.nextCmd := rfl
@[simp] theorem State.setCore_extents (s : State) (k : Nat) (c : Core) : (s.setCore k c).extents = s.extents := rfl
@[simp] theorem State.setCore_grandmasters (s : State) (k : Nat) (c : Core) : (s.setCore k c).grandmasters = s.grandmasters := rfl
@[simp] theorem State.setCore_extRef (s : State) (k : Nat) (c : Core) : (s.setCore k c).extRef = s.extRef := rfl
@[simp] theorem State.setCore_groups (s : State) (k : Nat) (c : Core) : (s.setCore k c).groups = s.groups := rfl
@[simp] theorem State.setCore_threshold (s : State) (k : Nat) (c : Core) : (s.setCore k c).threshold = s.threshold := rfl
@[simp] theorem State.setCore_mem (s : State) (k : Nat) (c : Core) : (s.setCore k c).mem = s.mem := rfl
@[simp] theorem State.setCore_mpoison (s : State) (k : Nat) (c : Core) : (s.setCore k c).mpoison = s.mpoison := rfl
@[simp] theorem State.setCore_launches (s : State) (k : Nat) (c : Core) : (s.setCore k c).launches = s.launches := rfl
@[simp] theorem State.setCore_bad (s : State) (k : Nat) (c : Core) : (s.setCore k c).bad = s.bad := rfl
@[simp] theorem State.setCore_ctx (s : State) (k : Nat) (c : Core) (j : Nat) : (s.setCore k c).ctx j = s.ctx j := rfl
@[simp] theorem State.setCore_cluster (s : State) (k : Nat) (c : Core) (j : Nat) : (s.setCore k c).cluster j = s.cluster j := rfl
@[simp] theorem State.setCore_quad (s : State) (k : Nat) (c : Core) (j : Nat) : (s.setCore k c).quad j = s.quad j := rfl
@[simp] theorem State.setCore_die (s : State) (k : Nat) (c : Core) (j : Nat) : (s.setCore k c).die j = s.die j := rfl
@[simp] theorem State.setCore_mod (s : State) (k : Nat) (c : Core) (j : Nat) : (s.setCore k c).mod j = s.mod j := rfl
@[simp] theorem State.setCore_byte (s : State) (k : Nat) (c : Core) (a : Nat) : (s.setCore k c).byte a = s.byte a := rfl

/-! `State.setCluster` -/

@[simp] theorem State.setCluster_inputs (s : State) (k : Nat) (c : Cluster) : (s.setCluster k c).inputs = s.inputs := rfl
@[simp] theorem State.setCluster_gathers (s : State) (k : Nat) (c : Cluster) : (s.setCluster k c).gathers = s.gathers := rfl
@[simp] theorem State.setCluster_redFails (s : State) (k : Nat) (c : Cluster) : (s.setCluster k c).redFails = s.redFails := rfl
@[simp] theorem State.setCluster_sched (s : State) (k : Nat) (c : Cluster) : (s.setCluster k c).sched = s.sched := rfl
@[simp] theorem State.setCluster_delays (s : State) (k : Nat) (c : Cluster) : (s.setCluster k c).delays = s.delays := rfl
@[simp] theorem State.setCluster_tick (s : State) (k : Nat) (c : Cluster) : (s.setCluster k c).tick = s.tick := rfl
@[simp] theorem State.setCluster_now (s : State) (k : Nat) (c : Cluster) : (s.setCluster k c).now = s.now := rfl
@[simp] theorem State.setCluster_cur (s : State) (k : Nat) (c : Cluster) : (s.setCluster k c).cur = s.cur := rfl
@[simp] theorem State.setCluster_ctxs (s : State) (k : Nat) (c : Cluster) : (s.setCluster k c).ctxs = s.ctxs := rfl
@[simp] theorem State.setCluster_cores (s : State) (k : Nat) (c : Cluster) : (s.setCluster k c).cores = s.cores := rfl
@[simp] theorem State.setCluster_quads (s : State) (k : Nat) (c : Cluster) : (s.setCluster k c).quads = s.quads := rfl
@[simp] theorem State.setCluster_dies (s : State) (k : Nat) (c : Cluster) : (s.setCluster k c).dies = s.dies := rfl
@[simp] theorem State.setCluster_mods (s : State) (k : Nat) (c : Cluster) : (s.setCluster k c).mods = s.mods := rfl
@[simp] theorem State.setCluster_net (s : State) (k : Nat) (c : Cluster) : (s.setCluster k c).net = s.net := rfl
@[simp] theorem State.setCluster_nextPkt (s : State) (k : Nat) (c : Cluster) : (s.setCluster k c).nextPkt = s.nextPkt := rfl
@[simp] theorem State.setCluster_cmds (s : State) (k : Nat) (c : Cluster) : (s.setCluster k c).cmds = s.cmds := rfl
@[simp] theorem State.setCluster_nextCmd (s : State) (k : Nat) (c : Cluster) : (s.setCluster k c).nextCmd = s.nextCmd := rfl
@[simp] theorem State.setCluster_extents (s : State) (k : Nat) (c : Cluster) : (s.setCluster k c).extents = s.extents := rfl
@[simp] theorem State.setCluster_grandmasters (s : State) (k : Nat) (c : Cluster) : (s.setCluster k c).grandmasters = s.grandmasters := rfl
@[simp] theorem State.setCluster_extRef (s : State) (k : Nat) (c : Cluster) : (s.setCluster k c).extRef = s.extRef := rfl
@[simp] theorem State.setCluster_groups (s : State) (k : Nat) (c : Cluster) : (s.setCluster k c).groups = s.groups := rfl
@[simp] theorem State.setCluster_threshold (s : State) (k : Nat) (c : Cluster) : (s.setCluster k c).threshold = s.threshold := rfl
@[simp] theorem State.setCluster_mem (s : State) (k : Nat) (c : Cluster) : (s.setCluster k c).mem = s.mem := rfl
@[simp] theorem State.setCluster_mpoison (s : State) (k : Nat) (c : Cluster) : (s.setCluster k c).mpoison = s.mpoison := rfl
@[simp] theorem State.setCluster_launches (s : State) (k : Nat) (c : Cluster) : (s.setCluster k c).launches = s.launches := rfl
@[simp] theorem State.setCluster_bad (s : State) (k : Nat) (c : Cluster) : (s.setCluster k c).bad = s.bad := rfl
@[simp] theorem State.setCluster_ctx (s : State) (k : Nat) (c : Cluster) (j : Nat) : (s.setCluster k c).ctx j = s.ctx j := rfl
@[simp] theorem State.setCluster_core (s : State) (k : Nat) (c : Cluster) (j : Nat) : (s.setCluster k c).core j = s.core j := rfl
@[simp] theorem State.setCluster_quad (s : State) (k : Nat) (c : Cluster) (j : Nat) : (s.setCluster k c).quad j = s.quad j := rfl
@[simp] theorem State.setCluster_die (s : State) (k : Nat) (c : Cluster) (j : Nat) : (s.setCluster k c).die j = s.die j := rfl
@[simp] theorem State.setCluster_mod (s : State) (k : Nat) (c : Cluster) (j : Nat) : (s.setCluster k c).mod j = s.mod j := rfl
@[simp] theorem State.setCluster_byte (s : State) (k : Nat) (c : Cluster) (a : Nat) : (s.setCluster k c).byte a = s.byte a := rfl

/-! `State.setQuad` -/

@[simp] theorem State.setQuad_inputs (s : State) (k : Nat) (q : Quad) : (s.setQuad k q).inputs = s.inputs := rfl
@[simp] theorem State.setQuad_gathers (s : State) (k : Nat) (q : Quad) : (s.setQuad k q).gathers = s.gathers := rfl
@[simp] theorem State.setQuad_redFails (s : State) (k : Nat) (q : Quad) : (s.setQuad k q).redFails = s.redFails := rfl
@[simp] theorem State.setQuad_sched (s : State) (k : Nat) (q : Quad) : (s.setQuad k q).sched = s.sched := rfl
@[simp] theorem State.setQuad_delays (s : State) (k : Nat) (q : Quad) : (s.setQuad k q).delays = s.delays := rfl
@[simp] theorem State.setQuad_tick (s : State) (k : Nat) (q : Quad) : (s.setQuad k q).tick = s.tick := rfl
@[simp] theorem State.setQuad_now (s : State) (k : Nat) (q : Quad) : (s.setQuad k q).now = s.now := rfl
@[simp] theorem State.setQuad_cur (s : State) (k : Nat) (q : Quad) : (s.setQuad k q).cur = s.cur := rfl
@[simp] theorem State.setQuad_ctxs (s : State) (k : Nat) (q : Quad) : (s.setQuad k q).ctxs = s.ctxs := rfl
@[simp] theorem State.setQuad_cores (s : State) (k : Nat) (q : Quad) : (s.setQuad k q).cores = s.cores := rfl
@[simp] theorem State.setQuad_clusters (s : State) (k : Nat) (q : Quad) : (s.setQuad k q).clusters = s.clusters := rfl
@[simp] theorem State.setQuad_dies (s : State) (k : Nat) (q : Quad) : (s.setQuad k q).dies = s.dies := rfl
@[simp] theorem State.setQuad_mods (s : State) (k : Nat) (q : Quad) : (s.setQuad k q).mods = s.mods := rfl
@[simp] theorem State.setQuad_net (s : State) (k : Nat) (q : Quad) : (s.setQuad k q).net = s.net := rfl
@[simp] theorem State.setQuad_nextPkt (s : State) (k : Nat) (q : Quad) : (s.setQuad k q).nextPkt = s.nextPkt := rfl
@[simp] theorem State.setQuad_cmds (s : State) (k : Nat) (q : Quad) : (s.setQuad k q).cmds = s.cmds := rfl
@[simp] theorem State.setQuad_nextCmd (s : State) (k : Nat) (q : Quad) : (s.setQuad k q).nextCmd = s.nextCmd := rfl
@[simp] theorem State.setQuad_extents (s : State) (k : Nat) (q : Quad) : (s.setQuad k q).extents = s.extents := rfl
@[simp] theorem State.setQuad_grandmasters (s : State) (k : Nat) (q : Quad) : (s.setQuad k q).grandmasters = s.grandmasters := rfl
@[simp] theorem State.setQuad_extRef (s : State) (k : Nat) (q : Quad) : (s.setQuad k q).extRef = s.extRef := rfl
@[simp] theorem State.setQuad_groups (s : State) (k : Nat) (q : Quad) : (s.setQuad k q).groups = s.groups := rfl
@[simp] theorem State.setQuad_threshold (s : State) (k : Nat) (q : Quad) : (s.setQuad k q).threshold = s.threshold := rfl
@[simp] theorem State.setQuad_mem (s : State) (k : Nat) (q : Quad) : (s.setQuad k q).mem = s.mem := rfl
@[simp] theorem State.setQuad_mpoison (s : State) (k : Nat) (q : Quad) : (s.setQuad k q).mpoison = s.mpoison := rfl
@[simp] theorem State.setQuad_launches (s : State) (k : Nat) (q : Quad) : (s.setQuad k q).launches = s.launches := rfl
@[simp] theorem State.setQuad_bad (s : State) (k : Nat) (q : Quad) : (s.setQuad k q).bad = s.bad := rfl
@[simp] theorem State.setQuad_ctx (s : State) (k : Nat) (q : Quad) (j : Nat) : (s.setQuad k q).ctx j = s.ctx j := rfl
@[simp] theorem State.setQuad_core (s : State) (k : Nat) (q : Quad) (j : Nat) : (s.setQuad k q).core j = s.core j := rfl
@[simp] theorem State.setQuad_cluster (s : State) (k : Nat) (q : Quad) (j : Nat) : (s.setQuad k q).cluster j = s.cluster j := rfl
@[simp] theorem State.setQuad_die (s : State) (k : Nat) (q : Quad) (j : Nat) : (s.setQuad k q).die j = s.die j := rfl
@[simp] theorem State.setQuad_mod (s : State) (k : Nat) (q : Quad) (j : Nat) : (s.setQuad k q).mod j = s.mod j := rfl
@[simp] theorem State.setQuad_byte (s : State) (k : Nat) (q : Quad) (a : Nat) : (s.setQuad k q).byte a = s.byte a := rfl

/-! `State.setDie` -/

@[simp] theorem State.setDie_inputs (s : State) (k : Nat) (d : Die) : (s.setDie k d).inputs = s.inputs := rfl
@[simp] theorem State.setDie_gathers (s : State) (k : Nat) (d : Die) : (s.setDie k d).gathers = s.gathers := rfl
@[simp] theorem State.setDie_redFails (s : State) (k : Nat) (d : Die) : (s.setDie k d).redFails = s.redFails := rfl
@[simp] theorem State.setDie_sched (s : State) (k : Nat) (d : Die) : (s.setDie k d).sched = s.sched := rfl
@[simp] theorem State.setDie_delays (s : State) (k : Nat) (d : Die) : (s.setDie k d).delays = s.delays := rfl
@[simp] theorem State.setDie_tick (s : State) (k : Nat) (d : Die) : (s.setDie k d).tick = s.tick := rfl
@[simp] theorem State.setDie_now (s : State) (k : Nat) (d : Die) : (s.setDie k d).now = s.now := rfl
@[simp] theorem State.setDie_cur (s : State) (k : Nat) (d : Die) : (s.setDie k d).cur = s.cur := rfl
@[simp] theorem State.setDie_ctxs (s : State) (k : Nat) (d : Die) : (s.setDie k d).ctxs = s.ctxs := rfl
@[simp] theorem State.setDie_cores (s : State) (k : Nat) (d : Die) : (s.setDie k d).cores = s.cores := rfl
@[simp] theorem State.setDie_clusters (s : State) (k : Nat) (d : Die) : (s.setDie k d).clusters = s.clusters := rfl
@[simp] theorem State.setDie_quads (s : State) (k : Nat) (d : Die) : (s.setDie k d).quads = s.quads := rfl
@[simp] theorem State.setDie_mods (s : State) (k : Nat) (d : Die) : (s.setDie k d).mods = s.mods := rfl
@[simp] theorem State.setDie_net (s : State) (k : Nat) (d : Die) : (s.setDie k d).net = s.net := rfl
@[simp] theorem State.setDie_nextPkt (s : State) (k : Nat) (d : Die) : (s.setDie k d).nextPkt = s.nextPkt := rfl
@[simp] theorem State.setDie_cmds (s : State) (k : Nat) (d : Die) : (s.setDie k d).cmds = s.cmds := rfl
@[simp] theorem State.setDie_nextCmd (s : State) (k : Nat) (d : Die) : (s.setDie k d).nextCmd = s.nextCmd := rfl
@[simp] theorem State.setDie_extents (s : State) (k : Nat) (d : Die) : (s.setDie k d).extents = s.extents := rfl
@[simp] theorem State.setDie_grandmasters (s : State) (k : Nat) (d : Die) : (s.setDie k d).grandmasters = s.grandmasters := rfl
@[simp] theorem State.setDie_extRef (s : State) (k : Nat) (d : Die) : (s.setDie k d).extRef = s.extRef := rfl
@[simp] theorem State.setDie_groups (s : State) (k : Nat) (d : Die) : (s.setDie k d).groups = s.groups := rfl
@[simp] theorem State.setDie_threshold (s : State) (k : Nat) (d : Die) : (s.setDie k d).threshold = s.threshold := rfl
@[simp] theorem State.setDie_mem (s : State) (k : Nat) (d : Die) : (s.setDie k d).mem = s.mem := rfl
@[simp] theorem State.setDie_mpoison (s : State) (k : Nat) (d : Die) : (s.setDie k d).mpoison = s.mpoison := rfl
@[simp] theorem State.setDie_launches (s : State) (k : Nat) (d : Die) : (s.setDie k d).launches = s.launches := rfl
@[simp] theorem State.setDie_bad (s : State) (k : Nat) (d : Die) : (s.setDie k d).bad = s.bad := rfl
@[simp] theorem State.setDie_ctx (s : State) (k : Nat) (d : Die) (j : Nat) : (s.setDie k d).ctx j = s.ctx j := rfl
@[simp] theorem State.setDie_core (s : State) (k : Nat) (d : Die) (j : Nat) : (s.setDie k d).core j = s.core j := rfl
@[simp] theorem State.setDie_cluster (s : State) (k : Nat) (d : Die) (j : Nat) : (s.setDie k d).cluster j = s.cluster j := rfl
@[simp] theorem State.setDie_quad (s : State) (k : Nat) (d : Die) (j : Nat) : (s.setDie k d).quad j = s.quad j := rfl
@[simp] theorem State.setDie_mod (s : State) (k : Nat) (d : Die) (j : Nat) : (s.setDie k d).mod j = s.mod j := rfl
@[simp] theorem State.setDie_byte (s : State) (k : Nat) (d : Die) (a : Nat) : (s.setDie k d).byte a = s.byte a := rfl

/-! `State.setMod` -/

@[simp] theorem State.setMod_inputs (s : State) (m : Nat) (x : Module) : (s.setMod m x).inputs = s.inputs := rfl
@[simp] theorem State.setMod_gathers (s : State) (m : Nat) (x : Module) : (s.setMod m x).gathers = s.gathers := rfl
@[simp] theorem State.setMod_redFails (s : State) (m : Nat) (x : Module) : (s.setMod m x).redFails = s.redFails := rfl
@[simp] theorem State.setMod_sched (s : State) (m : Nat) (x : Module) : (s.setMod m x).sched = s.sched := rfl
@[simp] theorem State.setMod_delays (s : State) (m : Nat) (x : Module) : (s.setMod m x).delays = s.delays := rfl
@[simp] theorem State.setMod_tick (s : State) (m : Nat) (x : Module) : (s.setMod m x).tick = s.tick := rfl
@[simp] theorem State.setMod_now (s : State) (m : Nat) (x : Module) : (s.setMod m x).now = s.now := rfl
@[simp] theorem State.setMod_cur (s : State) (m : Nat) (x : Module) : (s.setMod m x).cur = s.cur := rfl
@[simp] theorem State.setMod_ctxs (s : State) (m : Nat) (x : Module) : (s.setMod m x).ctxs = s.ctxs := rfl
@[simp] theorem State.setMod_cores (s : State) (m : Nat) (x : Module) : (s.setMod m x).cores = s.cores := rfl
@[simp] theorem State.setMod_clusters (s : State) (m : Nat) (x : Module) : (s.setMod m x).clusters = s.clusters := rfl
@[simp] theorem State.setMod_quads (s : State) (m : Nat) (x : Module) : (s.setMod m x).quads = s.quads := rfl
@[simp] theorem State.setMod_dies (s : State) (m : Nat) (x : Module) : (s.setMod m x).dies = s.dies := rfl
@[simp] theorem State.setMod_net (s : State) (m : Nat) (x : Module) : (s.setMod m x).net = s.net := rfl
@[simp] theorem State.setMod_nextPkt (s : State) (m : Nat) (x : Module) : (s.setMod m x).nextPkt = s.nextPkt := rfl
@[simp] theorem State.setMod_cmds (s : State) (m : Nat) (x : Module) : (s.setMod m x).cmds = s.cmds := rfl
@[simp] theorem State.setMod_nextCmd (s : State) (m : Nat) (x : Module) : (s.setMod m x).nextCmd = s.nextCmd := rfl
@[simp] theorem State.setMod_extents (s : State) (m : Nat) (x : Module) : (s.setMod m x).extents = s.extents := rfl
@[simp] theorem State.setMod_grandmasters (s : State) (m : Nat) (x : Module) : (s.setMod m x).grandmasters = s.grandmasters := rfl
@[simp] theorem State.setMod_extRef (s : State) (m : Nat) (x : Module) : (s.setMod m x).extRef = s.extRef := rfl
@[simp] theorem State.setMod_groups (s : State) (m : Nat) (x : Module) : (s.setMod m x).groups = s.groups := rfl
@[simp] theorem State.setMod_threshold (s : State) (m : Nat) (x : Module) : (s.setMod m x).threshold = s.threshold := rfl
@[simp] theorem State.setMod_mem (s : State) (m : Nat) (x : Module) : (s.setMod m x).mem = s.mem := rfl
@[simp] theorem State.setMod_mpoison (s : State) (m : Nat) (x : Module) : (s.setMod m x).mpoison = s.mpoison := rfl
@[simp] theorem State.setMod_launches (s : State) (m : Nat) (x : Module) : (s.setMod m x).launches = s.launches := rfl
@[simp] theorem State.setMod_bad (s : State) (m : Nat) (x : Module) : (s.setMod m x).bad = s.bad := rfl
@[simp] theorem State.setMod_ctx (s : State) (m : Nat) (x : Module) (j : Nat) : (s.setMod m x).ctx j = s.ctx j := rfl
@[simp] theorem State.setMod_core (s : State) (m : Nat) (x : Module) (j : Nat) : (s.setMod m x).core j = s.core j := rfl
@[simp] theorem State.setMod_cluster (s : State) (m : Nat) (x : Module) (j : Nat) : (s.setMod m x).cluster j = s.cluster j := rfl
@[simp] theorem State.setMod_quad (s : State) (m : Nat) (x : Module) (j : Nat) : (s.setMod m x).quad j = s.quad j := rfl
@[simp] theorem State.setMod_die (s : State) (m : Nat) (x : Module) (j : Nat) : (s.setMod m x).die j = s.die j := rfl
@[simp] theorem State.setMod_byte (s : State) (m : Nat) (x : Module) (a : Nat) : (s.setMod m x).byte a = s.byte a := rfl

/-! `State.updCtx` -/

@[simp] theorem State.updCtx_inputs (s : State) (cx : Nat) (f : Ctx → Ctx) : (s.updCtx cx f).inputs = s.inputs := rfl
@[simp] theorem State.updCtx_gathers (s : State) (cx : Nat) (f : Ctx → Ctx) : (s.updCtx cx f).gathers = s.gathers := rfl
@[simp] theorem State.updCtx_redFails (s : State) (cx : Nat) (f : Ctx → Ctx) : (s.updCtx cx f).redFails = s.redFails := rfl
@[simp] theorem State.updCtx_sched (s : State) (cx : Nat) (f : Ctx → Ctx) : (s.updCtx cx f).sched = s.sched := rfl
@[simp] theorem State.updCtx_delays (s : State) (cx : Nat) (f : Ctx → Ctx) : (s.updCtx cx f).delays = s.delays := rfl
@[simp] theorem State.updCtx_tick (s : State) (cx : Nat) (f : Ctx → Ctx) : (s.updCtx cx f).tick = s.tick := rfl
@[simp] theorem State.updCtx_now (s : State) (cx : Nat) (f : Ctx → Ctx) : (s.updCtx cx f).now = s.now := rfl
@[simp] theorem State.updCtx_cur (s : State) (cx : Nat) (f : Ctx → Ctx) : (s.updCtx cx f).cur = s.cur := rfl
@[simp] theorem State.updCtx_cores (s : State) (cx : Nat) (f : Ctx → Ctx) : (s.updCtx cx f).cores = s.cores := rfl
@[simp] theorem State.updCtx_clusters (s : State) (cx : Nat) (f : Ctx → Ctx) : (s.updCtx cx f).clusters = s.clusters := rfl
@[simp] theorem State.updCtx_quads (s : State) (cx : Nat) (f : Ctx → Ctx) : (s.updCtx cx f).quads = s.quads := rfl
@[simp] theorem State.updCtx_dies (s : State) (cx : Nat) (f : Ctx → Ctx) : (s.updCtx cx f).dies = s.dies := rfl
@[simp] theorem State.updCtx_mods (s : State) (cx : Nat) (f : Ctx → Ctx) : (s.updCtx cx f).mods = s.mods := rfl
@[simp] theorem State.updCtx_net (s : State) (cx : Nat) (f : Ctx → Ctx) : (s.updCtx cx f).net = s.net := rfl
@[simp] theorem State.updCtx_nextPkt (s : State) (cx : Nat) (f : Ctx → Ctx) : (s.updCtx cx f).nextPkt = s.nextPkt := rfl
@[simp] theorem State.updCtx_cmds (s : State) (cx : Nat) (f : Ctx → Ctx) : (s.updCtx cx f).cmds = s.cmds := rfl
@[simp] theorem State.updCtx_nextCmd (s : State) (cx : Nat) (f : Ctx → Ctx) : (s.updCtx cx f).nextCmd = s.nextCmd := rfl
@[simp] theorem State.updCtx_extents (s : State) (cx : Nat) (f : Ctx → Ctx) : (s.updCtx cx f).extents = s.extents := rfl
@[simp] theorem State.updCtx_grandmasters (s : State) (cx : Nat) (f : Ctx → Ctx) : (s.updCtx cx f).grandmasters = s.grandmasters := rfl
@[simp] theorem State.updCtx_extRef (s : State) (cx : Nat) (f : Ctx → Ctx) : (s.updCtx cx f).extRef = s.extRef := rfl
@[simp] theorem State.updCtx_groups (s : State) (cx : Nat) (f : Ctx → Ctx) : (s.updCtx cx f).groups = s.groups := rfl
@[simp] theorem State.updCtx_threshold (s : State) (cx : Nat) (f : Ctx → Ctx) : (s.updCtx cx f).threshold = s.threshold := rfl
@[simp] theorem State.updCtx_mem (s : State) (cx : Nat) (f : Ctx → Ctx) : (s.updCtx cx f).mem = s.mem := rfl
@[simp] theorem State.updCtx_mpoison (s : State) (cx : Nat) (f : Ctx → Ctx) : (s.updCtx cx f).mpoison = s.mpoison := rfl
@[simp] theorem State.updCtx_launches (s : State) (cx : Nat) (f : Ctx → Ctx) : (s.updCtx cx f).launches = s.launches := rfl
@[simp] theorem State.updCtx_bad (s : State) (cx : Nat) (f : Ctx → Ctx) : (s.updCtx cx f).bad = s.bad := rfl
@[simp] theorem State.updCtx_core (s : State) (cx : Nat) (f : Ctx → Ctx) (j : Nat) : (s.updCtx cx f).core j = s.core j := rfl
@[simp] theorem State.updCtx_cluster (s : State) (cx : Nat) (f : Ctx → Ctx) (j : Nat) : (s.updCtx cx f).cluster j = s.cluster j := rfl
@[simp] theorem State.updCtx_quad (s : State) (cx : Nat) (f : Ctx → Ctx) (j : Nat) : (s.updCtx cx f).quad j = s.quad j := rfl
@[simp] theorem State.updCtx_die (s : State) (cx : Nat) (f : Ctx → Ctx) (j : Nat) : (s.updCtx cx f).die j = s.die j := rfl
@[simp] theorem State.updCtx_mod (s : State) (cx : Nat) (f : Ctx → Ctx) (j : Nat) : (s.updCtx cx f).mod j = s.mod j := rfl
@[simp] theorem State.updCtx_byte (s : State) (cx : Nat) (f : Ctx → Ctx) (a : Nat) : (s.updCtx cx f).byte a = s.byte a := rfl

/-! `State.updCore` -/

@[simp] theorem State.updCore_inputs (s : State) (k : Nat) (f : Core → Core) : (s.updCore k f).inputs = s.inputs := rfl
@[simp] theorem State.updCore_gathers (s : State) (k : Nat) (f : Core → Core) : (s.updCore k f).gathers = s.gathers := rfl
@[simp] theorem State.updCore_redFails (s : State) (k : Nat) (f : Core → Core) : (s.updCore k f).redFails = s.redFails := rfl
@[simp] theorem State.updCore_sched (s : State) (k : Nat) (f : Core → Core) : (s.updCore k f).sched = s.sched := rfl
@[simp] theorem State.updCore_delays (s : State) (k : Nat) (f : Core → Core) : (s.updCore k f).delays = s.delays := rfl
@[simp] theorem State.updCore_tick (s : State) (k : Nat) (f : Core → Core) : (s.updCore k f).tick = s.tick := rfl
@[simp] theorem State.updCore_now (s : State) (k : Nat) (f : Core → Core) : (s.updCore k f).now = s.now := rfl
@[simp] theorem State.updCore_cur (s : State) (k : Nat) (f : Core → Core) : (s.updCore k f).cur = s.cur := rfl
@[simp] theorem State.updCore_ctxs (s : State) (k : Nat) (f : Core → Core) : (s.updCore k f).ctxs = s.ctxs := rfl
@[simp] theorem State.updCore_clusters (s : State) (k : Nat) (f : Core → Core) : (s.updCore k f).clusters = s.clusters := rfl
@[simp] theorem State.updCore_quads (s : State) (k : Nat) (f : Core → Core) : (s.updCore k f).quads = s.quads := rfl
@[simp] theorem State.updCore_dies (s : State) (k : Nat) (f : Core → Core) : (s.updCore k f).dies = s.dies := rfl
@[simp] theorem State.updCore_mods (s : State) (k : Nat) (f : Core → Core) : (s.updCore k f).mods = s.mods := rfl
@[simp] theorem State.updCore_net (s : State) (k : Nat) (f : Core → Core) : (s.updCore k f).net = s.net := rfl
@[simp] theorem State.updCore_nextPkt (s : State) (k : Nat) (f : Core → Core) : (s.updCore k f).nextPkt = s.nextPkt := rfl
@[simp] theorem State.updCore_cmds (s : State) (k : Nat) (f : Core → Core) : (s.updCore k f).cmds = s.cmds := rfl
@[simp] theorem State.updCore_nextCmd (s : State) (k : Nat) (f : Core → Core) : (s.updCore k f).nextCmd = s.nextCmd := rfl
@[simp] theorem State.updCore_extents (s : State) (k : Nat) (f : Core → Core) : (s.updCore k f).extents = s.extents := rfl
@[simp] theorem State.updCore_grandmasters (s : State) (k : Nat) (f : Core → Core) : (s.updCore k f).grandmasters = s.grandmasters := rfl
@[simp] theorem State.updCore_extRef (s : State) (k : Nat) (f : Core → Core) : (s.updCore k f).extRef = s.extRef := rfl
@[simp] theorem State.updCore_groups (s : State) (k : Nat) (f : Core → Core) : (s.updCore k f).groups = s.groups := rfl
@[simp] theorem State.updCore_threshold (s : State) (k : Nat) (f : Core → Core) : (s.updCore k f).threshold = s.threshold := rfl
@[simp] theorem State.updCore_mem (s : State) (k : Nat) (f : Core → Core) : (s.updCore k f).mem = s.mem := rfl
@[simp] theorem State.updCore_mpoison (s : State) (k : Nat) (f : Core → Core) : (s.updCore k f).mpoison = s.mpoison := rfl
@[simp] theorem State.updCore_launches (s : State) (k : Nat) (f : Core → Core) : (s.updCore k f).launches = s.launches := rfl
@[simp] theorem State.updCore_bad (s : State) (k : Nat) (f : Core → Core) : (s.updCore k f).bad = s.bad := rfl
@[simp] theorem State.updCore_ctx (s : State) (k : Nat) (f : Core → Core) (j : Nat) : (s.updCore k f).ctx j = s.ctx j := rfl
@[simp] theorem State.updCore_cluster (s : State) (k : Nat) (f : Core → Core) (j : Nat) : (s.updCore k f).cluster j = s.cluster j := rfl
@[simp] theorem State.updCore_quad (s : State) (k : Nat) (f : Core → Core) (j : Nat) : (s.updCore k f).quad j = s.quad j := rfl
@[simp] theorem State.updCore_die (s : State) (k : Nat) (f : Core → Core) (j : Nat) : (s.updCore k f).die j = s.die j := rfl
@[simp] theorem State.updCore_mod (s : State) (k : Nat) (f : Core → Core) (j : Nat) : (s.updCore k f).mod j = s.mod j := rfl
@[simp] theorem State.updCore_byte (s : State) (k : Nat) (f : Core → Core) (a : Nat) : (s.updCore k f).byte a = s.byte a := rfl

/-! `State.updCluster` -/

@[simp] theorem State.updCluster_inputs (s : State) (k : Nat) (f : Cluster → Cluster) : (s.updCluster k f).inputs = s.inputs := rfl
@[simp] theorem State.updCluster_gathers (s : State) (k : Nat) (f : Cluster → Cluster) : (s.updCluster k f).gathers = s.gathers := rfl
@[simp] theorem State.updCluster_redFails (s : State) (k : Nat) (f : Cluster → Cluster) : (s.updCluster k f).redFails = s.redFails := rfl
@[simp] theorem State.updCluster_sched (s : State) (k : Nat) (f : Cluster → Cluster) : (s.updCluster k f).sched = s.sched := rfl
@[simp] theorem State.updCluster_delays (s : State) (k : Nat) (f : Cluster → Cluster) : (s.updCluster k f).delays = s.delays := rfl
@[simp] theorem State.updCluster_tick (s : State) (k : Nat) (f : Cluster → Cluster) : (s.updCluster k f).tick = s.tick := rfl
@[simp] theorem State.updCluster_now (s : State) (k : Nat) (f : Cluster → Cluster) : (s.updCluster k f).now = s.now := rfl
@[simp] theorem State.updCluster_cur (s : State) (k : Nat) (f : Cluster → Cluster) : (s.updCluster k f).cur = s.cur := rfl
@[simp] theorem State.updCluster_ctxs (s : State) (k : Nat) (f : Cluster → Cluster) : (s.updCluster k f).ctxs = s.ctxs := rfl
@[simp] theorem State.updCluster_cores (s : State) (k : Nat) (f : Cluster → Cluster) : (s.updCluster k f).cores = s.cores := rfl
@[simp] theorem State.updCluster_quads (s : State) (k : Nat) (f : Cluster → Cluster) : (s.updCluster k f).quads = s.quads := rfl
@[simp] theorem State.updCluster_dies (s : State) (k : Nat) (f : Cluster → Cluster) : (s.updCluster k f).dies = s.dies := rfl
@[simp] theorem State.updCluster_mods (s : State) (k : Nat) (f : Cluster → Cluster) : (s.updCluster k f).mods = s.mods := rfl
@[simp] theorem State.updCluster_net (s : State) (k : Nat) (f : Cluster → Cluster) : (s.updCluster k f).net = s.net := rfl
@[simp] theorem State.updCluster_nextPkt (s : State) (k : Nat) (f : Cluster → Cluster) : (s.updCluster k f).nextPkt = s.nextPkt := rfl
@[simp] theorem State.updCluster_cmds (s : State) (k : Nat) (f : Cluster → Cluster) : (s.updCluster k f).cmds = s.cmds := rfl
@[simp] theorem State.updCluster_nextCmd (s : State) (k : Nat) (f : Cluster → Cluster) : (s.updCluster k f).nextCmd = s.nextCmd := rfl
@[simp] theorem State.updCluster_extents (s : State) (k : Nat) (f : Cluster → Cluster) : (s.updCluster k f).extents = s.extents := rfl
@[simp] theorem State.updCluster_grandmasters (s : State) (k : Nat) (f : Cluster → Cluster) : (s.updCluster k f).grandmasters = s.grandmasters := rfl
@[simp] theorem State.updCluster_extRef (s : State) (k : Nat) (f : Cluster → Cluster) : (s.updCluster k f).extRef = s.extRef := rfl
@[simp] theorem State.updCluster_groups (s : State) (k : Nat) (f : Cluster → Cluster) : (s.updCluster k f).groups = s.groups := rfl
@[simp] theorem State.updCluster_threshold (s : State) (k : Nat) (f : Cluster → Cluster) : (s.updCluster k f).threshold = s.threshold := rfl
@[simp] theorem State.updCluster_mem (s : State) (k : Nat) (f : Cluster → Cluster) : (s.updCluster k f).mem = s.mem := rfl
@[simp] theorem State.updCluster_mpoison (s : State) (k : Nat) (f : Cluster → Cluster) : (s.updCluster k f).mpoison = s.mpoison := rfl
@[simp] theorem State.updCluster_launches (s : State) (k : Nat) (f : Cluster → Cluster) : (s.updCluster k f).launches = s.launches := rfl
@[simp] theorem State.updCluster_bad (s : State) (k : Nat) (f : Cluster → Cluster) : (s.updCluster k f).bad = s.bad := rfl
@[simp] theorem State.updCluster_ctx (s : State) (k : Nat) (f : Cluster → Cluster) (j : Nat) : (s.updCluster k f).ctx j = s.ctx j := rfl
@[simp] theorem State.updCluster_core (s : State) (k : Nat) (f : Cluster → Cluster) (j : Nat) : (s.updCluster k f).core j = s.core j := rfl
@[simp] theorem State.updCluster_quad (s : State) (k : Nat) (f : Cluster → Cluster) (j : Nat) : (s.updCluster k f).quad j = s.quad j := rfl
@[simp] theorem State.updCluster_die (s : State) (k : Nat) (f : Cluster → Cluster) (j : Nat) : (s.updCluster k f).die j = s.die j := rfl
@[simp] theorem State.updCluster_mod (s : State) (k : Nat) (f : Cluster → Cluster) (j : Nat) : (s.updCluster k f).mod j = s.mod j := rfl
@[simp] theorem State.updCluster_byte (s : State) (k : Nat) (f : Cluster → Cluster) (a : Nat) : (s.updCluster k f).byte a = s.byte a := rfl

/-! `State.updQuad` -/

@[simp] theorem State.updQuad_inputs (s : State) (k : Nat) (f : Quad → Quad) : (s.updQuad k f).inputs = s.inputs := rfl
@[simp] theorem State.updQuad_gathers (s : State) (k : Nat) (f : Quad → Quad) : (s.updQuad k f).gathers = s.gathers := rfl
@[simp] theorem State.updQuad_redFails (s : State) (k : Nat) (f : Quad → Quad) : (s.updQuad k f).redFails = s.redFails := rfl
@[simp] theorem State.updQuad_sched (s : State) (k : Nat) (f : Quad → Quad) : (s.updQuad k f).sched = s.sched := rfl
@[simp] theorem State.updQuad_delays (s : State) (k : Nat) (f : Quad → Quad) : (s.updQuad k f).delays = s.delays := rfl
@[simp] theorem State.updQuad_tick (s : State) (k : Nat) (f : Quad → Quad) : (s.updQuad k f).tick = s.tick := rfl
@[simp] theorem State.updQuad_now (s : State) (k : Nat) (f : Quad → Quad) : (s.updQuad k f).now = s.now := rfl
@[simp] theorem State.updQuad_cur (s : State) (k : Nat) (f : Quad → Quad) : (s.updQuad k f).cur = s.cur := rfl
@[simp] theorem State.updQuad_ctxs (s : State) (k : Nat) (f : Quad → Quad) : (s.updQuad k f).ctxs = s.ctxs := rfl
@[simp] theorem State.updQuad_cores (s : State) (k : Nat) (f : Quad → Quad) : (s.updQuad k f).cores = s.cores := rfl
@[simp] theorem State.updQuad_clusters (s : State) (k : Nat) (f : Quad → Quad) : (s.updQuad k f).clusters = s.clusters := rfl
@[simp] theorem State.updQuad_dies (s : State) (k : Nat) (f : Quad → Quad) : (s.updQuad k f).dies = s.dies := rfl
@[simp] theorem State.updQuad_mods (s : State) (k : Nat) (f : Quad → Quad) : (s.updQuad k f).mods = s.mods := rfl
@[simp] theorem State.updQuad_net (s : State) (k : Nat) (f : Quad → Quad) : (s.updQuad k f).net = s.net := rfl
@[simp] theorem State.updQuad_nextPkt (s : State) (k : Nat) (f : Quad → Quad) : (s.updQuad k f).nextPkt = s.nextPkt := rfl
@[simp] theorem State.updQuad_cmds (s : State) (k : Nat) (f : Quad → Quad) : (s.updQuad k f).cmds = s.cmds := rfl
@[simp] theorem State.updQuad_nextCmd (s : State) (k : Nat) (f : Quad → Quad) : (s.updQuad k f).nextCmd = s.nextCmd := rfl
@[simp] theorem State.updQuad_extents (s : State) (k : Nat) (f : Quad → Quad) : (s.updQuad k f).extents = s.extents := rfl
@[simp] theorem State.updQuad_grandmasters (s : State) (k : Nat) (f : Quad → Quad) : (s.updQuad k f).grandmasters = s.grandmasters := rfl
@[simp] theorem State.updQuad_extRef (s : State) (k : Nat) (f : Quad → Quad) : (s.updQuad k f).extRef = s.extRef := rfl
@[simp] theorem State.updQuad_groups (s : State) (k : Nat) (f : Quad → Quad) : (s.updQuad k f).groups = s.groups := rfl
@[simp] theorem State.updQuad_threshold (s : State) (k : Nat) (f : Quad → Quad) : (s.updQuad k f).threshold = s.threshold := rfl
@[simp] theorem State.updQuad_mem (s : State) (k : Nat) (f : Quad → Quad) : (s.updQuad k f).mem = s.mem := rfl
@[simp] theorem State.updQuad_mpoison (s : State) (k : Nat) (f : Quad → Quad) : (s.updQuad k f).mpoison = s.mpoison := rfl
@[simp] theorem State.updQuad_launches (s : State) (k : Nat) (f : Quad → Quad) : (s.updQuad k f).launches = s.launches := rfl
@[simp] theorem State.updQuad_bad (s : State) (k : Nat) (f : Quad → Quad) : (s.updQuad k f).bad = s.bad := rfl
@[simp] theorem State.updQuad_ctx (s : State) (k : Nat) (f : Quad → Quad) (j : Nat) : (s.updQuad k f).ctx j = s.ctx j := rfl
@[simp] theorem State.updQuad_core (s : State) (k : Nat) (f : Quad → Quad) (j : Nat) : (s.updQuad k f).core j = s.core j := rfl
@[simp] theorem State.updQuad_cluster (s : State) (k : Nat) (f : Quad → Quad) (j : Nat) : (s.updQuad k f).cluster j = s.cluster j := rfl
@[simp] theorem State.updQuad_die (s : State) (k : Nat) (f : Quad → Quad) (j : Nat) : (s.updQuad k f).die j = s.die j := rfl
@[simp] theorem State.updQuad_mod (s : State) (k : Nat) (f : Quad → Quad) (j : Nat) : (s.updQuad k f).mod j = s.mod j := rfl
@[simp] theorem State.updQuad_byte (s : State) (k : Nat) (f : Quad → Quad) (a : Nat) : (s.updQuad k f).byte a = s.byte a := rfl

/-! `State.updDie` -/

@[simp] theorem State.updDie_inputs (s : State) (k : Nat) (f : Die → Die) : (s.updDie k f).inputs = s.inputs := rfl
@[simp] theorem State.updDie_gathers (s : State) (k : Nat) (f : Die → Die) : (s.updDie k f).gathers = s.gathers := rfl
@[simp] theorem State.updDie_redFails (s : State) (k : Nat) (f : Die → Die) : (s.updDie k f).redFails = s.redFails := rfl
@[simp] theorem State.updDie_sched (s : State) (k : Nat) (f : Die → Die) : (s.updDie k f).sched = s.sched := rfl
@[simp] theorem State.updDie_delays (s : State) (k : Nat) (f : Die → Die) : (s.updDie k f).delays = s.delays := rfl
@[simp] theorem State.updDie_tick (s : State) (k : Nat) (f : Die → Die) : (s.updDie k f).tick = s.tick := rfl
@[simp] theorem State.updDie_now (s : State) (k : Nat) (f : Die → Die) : (s.updDie k f).now = s.now := rfl
@[simp] theorem State.updDie_cur (s : State) (k : Nat) (f : Die → Die) : (s.updDie k f).cur = s.cur := rfl
@[simp] theorem State.updDie_ctxs (s : State) (k : Nat) (f : Die → Die) : (s.updDie k f).ctxs = s.ctxs := rfl
@[simp] theorem State.updDie_cores (s : State) (k : Nat) (f : Die → Die) : (s.updDie k f).cores = s.cores := rfl
@[simp] theorem State.updDie_clusters (s : State) (k : Nat) (f : Die → Die) : (s.updDie k f).clusters = s.clusters := rfl
@[simp] theorem State.updDie_quads (s : State) (k : Nat) (f : Die → Die) : (s.updDie k f).quads = s.quads := rfl
@[simp] theorem State.updDie_mods (s : State) (k : Nat) (f : Die → Die) : (s.updDie k f).mods = s.mods := rfl
@[simp] theorem State.updDie_net (s : State) (k : Nat) (f : Die → Die) : (s.updDie k f).net = s.net := rfl
@[simp] theorem State.updDie_nextPkt (s : State) (k : Nat) (f : Die → Die) : (s.updDie k f).nextPkt = s.nextPkt := rfl
@[simp] theorem State.updDie_cmds (s : State) (k : Nat) (f : Die → Die) : (s.updDie k f).cmds = s.cmds := rfl
@[simp] theorem State.updDie_nextCmd (s : State) (k : Nat) (f : Die → Die) : (s.updDie k f).nextCmd = s.nextCmd := rfl
@[simp] theorem State.updDie_extents (s : State) (k : Nat) (f : Die → Die) : (s.updDie k f).extents = s.extents := rfl
@[simp] theorem State.updDie_grandmasters (s : State) (k : Nat) (f : Die → Die) : (s.updDie k f).grandmasters = s.grandmasters := rfl
@[simp] theorem State.updDie_extRef (s : State) (k : Nat) (f : Die → Die) : (s.updDie k f).extRef = s.extRef := rfl
@[simp] theorem State.updDie_groups (s : State) (k : Nat) (f : Die → Die) : (s.updDie k f).groups = s.groups := rfl
@[simp] theorem State.updDie_threshold (s : State) (k : Nat) (f : Die → Die) : (s.updDie k f).threshold = s.threshold := rfl
@[simp] theorem State.updDie_mem (s : State) (k : Nat) (f : Die → Die) : (s.updDie k f).mem = s.mem := rfl
@[simp] theorem State.updDie_mpoison (s : State) (k : Nat) (f : Die → Die) : (s.updDie k f).mpoison = s.mpoison := rfl
@[simp] theorem State.updDie_launches (s : State) (k : Nat) (f : Die → Die) : (s.updDie k f).launches = s.launches := rfl
@[simp] theorem State.updDie_bad (s : State) (k : Nat) (f : Die → Die) : (s.updDie k f).bad = s.bad := rfl
@[simp] theorem State.updDie_ctx (s : State) (k : Nat) (f : Die → Die) (j : Nat) : (s.updDie k f).ctx j = s.ctx j := rfl
@[simp] theorem State.updDie_core (s : State) (k : Nat) (f : Die → Die) (j : Nat) : (s.updDie k f).core j = s.core j := rfl
@[simp] theorem State.updDie_cluster (s : State) (k : Nat) (f : Die → Die) (j : Nat) : (s.updDie k f).cluster j = s.cluster j := rfl
@[simp] theorem State.updDie_quad (s : State) (k : Nat) (f : Die → Die) (j : Nat) : (s.updDie k f).quad j = s.quad j := rfl
@[simp] theorem State.updDie_mod (s : State) (k : Nat) (f : Die → Die) (j : Nat) : (s.updDie k f).mod j = s.mod j := rfl
@[simp] theorem State.updDie_byte (s : State) (k : Nat) (f : Die → Die) (a : Nat) : (s.updDie k f).byte a = s.byte a := rfl

/-! `State.updMod` -/

@[simp] theorem State.updMod_inputs (s : State) (m : Nat) (f : Module → Module) : (s.updMod m f).inputs = s.inputs := rfl
@[simp] theorem State.updMod_gathers (s : State) (m : Nat) (f : Module → Module) : (s.updMod m f).gathers = s.gathers := rfl
@[simp] theorem State.updMod_redFails (s : State) (m : Nat) (f : Module → Module) : (s.updMod m f).redFails = s.redFails := rfl
@[simp] theorem State.updMod_sched (s : State) (m : Nat) (f : Module → Module) : (s.updMod m f).sched = s.sched := rfl
@[simp] theorem State.updMod_delays (s : State) (m : Nat) (f : Module → Module) : (s.updMod m f).delays = s.delays := rfl
@[simp] theorem State.updMod_tick (s : State) (m : Nat) (f : Module → Module) : (s.updMod m f).tick = s.tick := rfl
@[simp] theorem State.updMod_now (s : State) (m : Nat) (f : Module → Module) : (s.updMod m f).now = s.now := rfl
@[simp] theorem State.updMod_cur (s : State) (m : Nat) (f : Module → Module) : (s.updMod m f).cur = s.cur := rfl
@[simp] theorem State.updMod_ctxs (s : State) (m : Nat) (f : Module → Module) : (s.updMod m f).ctxs = s.ctxs := rfl
@[simp] theorem State.updMod_cores (s : State) (m : Nat) (f : Module → Module) : (s.updMod m f).cores = s.cores := rfl
@[simp] theorem State.updMod_clusters (s : State) (m : Nat) (f : Module → Module) : (s.updMod m f).clusters = s.clusters := rfl
@[simp] theorem State.updMod_quads (s : State) (m : Nat) (f : Module → Module) : (s.updMod m f).quads = s.quads := rfl
@[simp] theorem State.updMod_dies (s : State) (m : Nat) (f : Module → Module) : (s.updMod m f).dies = s.dies := rfl
@[simp] theorem State.updMod_net (s : State) (m : Nat) (f : Module → Module) : (s.updMod m f).net = s.net := rfl
@[simp] theorem State.updMod_nextPkt (s : State) (m : Nat) (f : Module → Module) : (s.updMod m f).nextPkt = s.nextPkt := rfl
@[simp] theorem State.updMod_cmds (s : State) (m : Nat) (f : Module → Module) : (s.updMod m f).cmds = s.cmds := rfl
@[simp] theorem State.updMod_nextCmd (s : State) (m : Nat) (f : Module → Module) : (s.updMod m f).nextCmd = s.nextCmd := rfl
@[simp] theorem State.updMod_extents (s : State) (m : Nat) (f : Module → Module) : (s.updMod m f).extents = s.extents := rfl
@[simp] theorem State.updMod_grandmasters (s : State) (m : Nat) (f : Module → Module) : (s.updMod m f).grandmasters = s.grandmasters := rfl
@[simp] theorem State.updMod_extRef (s : State) (m : Nat) (f : Module → Module) : (s.updMod m f).extRef = s.extRef := rfl
@[simp] theorem State.updMod_groups (s : State) (m : Nat) (f : Module → Module) : (s.updMod m f).groups = s.groups := rfl
@[simp] theorem State.updMod_threshold (s : State) (m : Nat) (f : Module → Module) : (s.updMod m f).threshold = s.threshold := rfl
@[simp] theorem State.updMod_mem (s : State) (m : Nat) (f : Module → Module) : (s.updMod m f).mem = s.mem := rfl
@[simp] theorem State.updMod_mpoison (s : State) (m : Nat) (f : Module → Module) : (s.updMod m f).mpoison = s.mpoison := rfl
@[simp] theorem State.updMod_launches (s : State) (m : Nat) (f : Module → Module) : (s.updMod m f).launches = s.launches := rfl
@[simp] theorem State.updMod_bad (s : State) (m : Nat) (f : Module → Module) : (s.updMod m f).bad = s.bad := rfl
@[simp] theorem State.updMod_ctx (s : State) (m : Nat) (f : Module → Module) (j : Nat) : (s.updMod m f).ctx j = s.ctx j := rfl
@[simp] theorem State.updMod_core (s : State) (m : Nat) (f : Module → Module) (j : Nat) : (s.updMod m f).core j = s.core j := rfl
@[simp] theorem State.updMod_cluster (s : State) (m : Nat) (f : Module → Module) (j : Nat) : (s.updMod m f).cluster j = s.cluster j := rfl
@[simp] theorem State.updMod_quad (s : State) (m : Nat) (f : Module → Module) (j : Nat) : (s.updMod m f).quad j = s.quad j := rfl
@[simp] theorem State.updMod_die (s : State) (m : Nat) (f : Module → Module) (j : Nat) : (s.updMod m f).die j = s.die j := rfl
@[simp] theorem State.updMod_byte (s : State) (m : Nat) (f : Module → Module) (a : Nat) : (s.updMod m f).byte a = s.byte a := rfl

/-! `State.putBytes` -/

@[simp] theorem State.putBytes_inputs (s : State) (k : Nat) (bs : List Byte) : (s.putBytes k bs).inputs = s.inputs := rfl
@[simp] theorem State.putBytes_gathers (s : State) (k : Nat) (bs : List Byte) : (s.putBytes k bs).gathers = s.gathers := rfl
@[simp] theorem State.putBytes_redFails (s : State) (k : Nat) (bs : List Byte) : (s.putBytes k bs).redFails = s.redFails := rfl
@[simp] theorem State.putBytes_sched (s : State) (k : Nat) (bs : List Byte) : (s.putBytes k bs).sched = s.sched := rfl
@[simp] theorem State.putBytes_delays (s : State) (k : Nat) (bs : List Byte) : (s.putBytes k bs).delays = s.delays := rfl
@[simp] theorem State.putBytes_tick (s : State) (k : Nat) (bs : List Byte) : (s.putBytes k bs).tick = s.tick := rfl
@[simp] theorem State.putBytes_now (s : State) (k : Nat) (bs : List Byte) : (s.putBytes k bs).now = s.now := rfl
@[simp] theorem State.putBytes_cur (s : State) (k : Nat) (bs : List Byte) : (s.putBytes k bs).cur = s.cur := rfl
@[simp] theorem State.putBytes_ctxs (s : State) (k : Nat) (bs : List Byte) : (s.putBytes k bs).ctxs = s.ctxs := rfl
@[simp] theorem State.putBytes_cores (s : State) (k : Nat) (bs : List Byte) : (s.putBytes k bs).cores = s.cores := rfl
@[simp] theorem State.putBytes_clusters (s : State) (k : Nat) (bs : List Byte) : (s.putBytes k bs).clusters = s.clusters := rfl
@[simp] theorem State.putBytes_quads (s : State) (k : Nat) (bs : List Byte) : (s.putBytes k bs).quads = s.quads := rfl
@[simp] theorem State.putBytes_dies (s : State) (k : Nat) (bs : List Byte) : (s.putBytes k bs).dies = s.dies := rfl
@[simp] theorem State.putBytes_mods (s : State) (k : Nat) (bs : List Byte) : (s.putBytes k bs).mods = s.mods := rfl
@[simp] theorem State.putBytes_net (s : State) (k : Nat) (bs : List Byte) : (s.putBytes k bs).net = s.net := rfl
@[simp] theorem State.putBytes_nextPkt (s : State) (k : Nat) (bs : List Byte) : (s.putBytes k bs).nextPkt = s.nextPkt := rfl
@[simp] theorem State.putBytes_cmds (s : State) (k : Nat) (bs : List Byte) : (s.putBytes k bs).cmds = s.cmds := rfl
@[simp] theorem State.putBytes_nextCmd (s : State) (k : Nat) (bs : List Byte) : (s.putBytes k bs).nextCmd = s.nextCmd := rfl
@[simp] theorem State.putBytes_extents (s : State) (k : Nat) (bs : List Byte) : (s.putBytes k bs).extents = s.extents := rfl
@[simp] theorem State.putBytes_grandmasters (s : State) (k : Nat) (bs : List Byte) : (s.putBytes k bs).grandmasters = s.grandmasters := rfl
@[simp] theorem State.putBytes_extRef (s : State) (k : Nat) (bs : List Byte) : (s.putBytes k bs).extRef = s.extRef := rfl
@[simp] theorem State.putBytes_groups (s : State) (k : Nat) (bs : List Byte) : (s.putBytes k bs).groups = s.groups := rfl
@[simp] theorem State.putBytes_threshold (s : State) (k : Nat) (bs : List Byte) : (s.putBytes k bs).threshold = s.threshold := rfl
@[simp] theorem State.putBytes_mpoison (s : State) (k : Nat) (bs : List Byte) : (s.putBytes k bs).mpoison = s.mpoison := rfl
@[simp] theorem State.putBytes_launches (s : State) (k : Nat) (bs : List Byte) : (s.putBytes k bs).launches = s.launches := rfl
@[simp] theorem State.putBytes_bad (s : State) (k : Nat) (bs : List Byte) : (s.putBytes k bs).bad = s.bad := rfl
@[simp] theorem State.putBytes_ctx (s : State) (k : Nat) (bs : List Byte) (j : Nat) : (s.putBytes k bs).ctx j = s.ctx j := rfl
@[simp] theorem State.putBytes_core (s : State) (k : Nat) (bs : List Byte) (j : Nat) : (s.putBytes k bs).core j = s.core j := rfl
@[simp] theorem State.putBytes_cluster (s : State) (k : Nat) (bs : List Byte) (j : Nat) : (s.putBytes k bs).cluster j = s.cluster j := rfl
@[simp] theorem State.putBytes_quad (s : State) (k : Nat) (bs : List Byte) (j : Nat) : (s.putBytes k bs).quad j = s.quad j := rfl
@[simp] theorem State.putBytes_die (s : State) (k : Nat) (bs : List Byte) (j : Nat) : (s.putBytes k bs).die j = s.die j := rfl
@[simp] theorem State.putBytes_mod (s : State) (k : Nat) (bs : List Byte) (j : Nat) : (s.putBytes k bs).mod j = s.mod j := rfl

/-! `State.setLinePois` -/

@[simp] theorem State.setLinePois_inputs (s : State) (k : Nat) (p : Bool) : (s.setLinePois k p).inputs = s.inputs := rfl
@[simp] theorem State.setLinePois_gathers (s : State) (k : Nat) (p : Bool) : (s.setLinePois k p).gathers = s.gathers := rfl
@[simp] theorem State.setLinePois_redFails (s : State) (k : Nat) (p : Bool) : (s.setLinePois k p).redFails = s.redFails := rfl
@[simp] theorem State.setLinePois_sched (s : State) (k : Nat) (p : Bool) : (s.setLinePois k p).sched = s.sched := rfl
@[simp] theorem State.setLinePois_delays (s : State) (k : Nat) (p : Bool) : (s.setLinePois k p).delays = s.delays := rfl
@[simp] theorem State.setLinePois_tick (s : State) (k : Nat) (p : Bool) : (s.setLinePois k p).tick = s.tick := rfl
@[simp] theorem State.setLinePois_now (s : State) (k : Nat) (p : Bool) : (s.setLinePois k p).now = s.now := rfl
@[simp] theorem State.setLinePois_cur (s : State) (k : Nat) (p : Bool) : (s.setLinePois k p).cur = s.cur := rfl
@[simp] theorem State.setLinePois_ctxs (s : State) (k : Nat) (p : Bool) : (s.setLinePois k p).ctxs = s.ctxs := rfl
@[simp] theorem State.setLinePois_cores (s : State) (k : Nat) (p : Bool) : (s.setLinePois k p).cores = s.cores := rfl
@[simp] theorem State.setLinePois_clusters (s : State) (k : Nat) (p : Bool) : (s.setLinePois k p).clusters = s.clusters := rfl
@[simp] theorem State.setLinePois_quads (s : State) (k : Nat) (p : Bool) : (s.setLinePois k p).quads = s.quads := rfl
@[simp] theorem State.setLinePois_dies (s : State) (k : Nat) (p : Bool) : (s.setLinePois k p).dies = s.dies := rfl
@[simp] theorem State.setLinePois_mods (s : State) (k : Nat) (p : Bool) : (s.setLinePois k p).mods = s.mods := rfl
@[simp] theorem State.setLinePois_net (s : State) (k : Nat) (p : Bool) : (s.setLinePois k p).net = s.net := rfl
@[simp] theorem State.setLinePois_nextPkt (s : State) (k : Nat) (p : Bool) : (s.setLinePois k p).nextPkt = s.nextPkt := rfl
@[simp] theorem State.setLinePois_cmds (s : State) (k : Nat) (p : Bool) : (s.setLinePois k p).cmds = s.cmds := rfl
@[simp] theorem State.setLinePois_nextCmd (s : State) (k : Nat) (p : Bool) : (s.setLinePois k p).nextCmd = s.nextCmd := rfl
@[simp] theorem State.setLinePois_extents (s : State) (k : Nat) (p : Bool) : (s.setLinePois k p).extents = s.extents := rfl
@[simp] theorem State.setLinePois_grandmasters (s : State) (k : Nat) (p : Bool) : (s.setLinePois k p).grandmasters = s.grandmasters := rfl
@[simp] theorem State.setLinePois_extRef (s : State) (k : Nat) (p : Bool) : (s.setLinePois k p).extRef = s.extRef := rfl
@[simp] theorem State.setLinePois_groups (s : State) (k : Nat) (p : Bool) : (s.setLinePois k p).groups = s.groups := rfl
@[simp] theorem State.setLinePois_threshold (s : State) (k : Nat) (p : Bool) : (s.setLinePois k p).threshold = s.threshold := rfl
@[simp] theorem State.setLinePois_mem (s : State) (k : Nat) (p : Bool) : (s.setLinePois k p).mem = s.mem := rfl
@[simp] theorem State.setLinePois_launches (s : State) (k : Nat) (p : Bool) : (s.setLinePois k p).launches = s.launches := rfl
@[simp] theorem State.setLinePois_bad (s : State) (k : Nat) (p : Bool) : (s.setLinePois k p).bad = s.bad := rfl
@[simp] theorem State.setLinePois_ctx (s : State) (k : Nat) (p : Bool) (j : Nat) : (s.setLinePois k p).ctx j = s.ctx j := rfl
@[simp] theorem State.setLinePois_core (s : State) (k : Nat) (p : Bool) (j : Nat) : (s.setLinePois k p).core j = s.core j := rfl
@[simp] theorem State.setLinePois_cluster (s : State) (k : Nat) (p : Bool) (j : Nat) : (s.setLinePois k p).cluster j = s.cluster j := rfl
@[simp] theorem State.setLinePois_quad (s : State) (k : Nat) (p : Bool) (j : Nat) : (s.setLinePois k p).quad j = s.quad j := rfl
@[simp] theorem State.setLinePois_die (s : State) (k : Nat) (p : Bool) (j : Nat) : (s.setLinePois k p).die j = s.die j := rfl
@[simp] theorem State.setLinePois_mod (s : State) (k : Nat) (p : Bool) (j : Nat) : (s.setLinePois k p).mod j = s.mod j := rfl
@[simp] theorem State.setLinePois_byte (s : State) (k : Nat) (p : Bool) (a : Nat) : (s.setLinePois k p).byte a = s.byte a := rfl

/-! The registers of a context -/

/-! `Ctx.setSet` -/

@[simp] theorem Ctx.setSet_phase (c : Ctx) (sys : Bool) (r : RegSet) : (c.setSet sys r).phase = c.phase := by cases sys <;> rfl
@[simp] theorem Ctx.setSet_pc (c : Ctx) (sys : Bool) (r : RegSet) : (c.setSet sys r).pc = c.pc := by cases sys <;> rfl
@[simp] theorem Ctx.setSet_rcLeft (c : Ctx) (sys : Bool) (r : RegSet) : (c.setSet sys r).rcLeft = c.rcLeft := by cases sys <;> rfl
@[simp] theorem Ctx.setSet_mid (c : Ctx) (sys : Bool) (r : RegSet) : (c.setSet sys r).mid = c.mid := by cases sys <;> rfl
@[simp] theorem Ctx.setSet_sys (c : Ctx) (sys : Bool) (r : RegSet) : (c.setSet sys r).sys = c.sys := by cases sys <;> rfl
@[simp] theorem Ctx.setSet_v (c : Ctx) (sys : Bool) (r : RegSet) : (c.setSet sys r).v = c.v := by cases sys <;> rfl
@[simp] theorem Ctx.setSet_vpres (c : Ctx) (sys : Bool) (r : RegSet) : (c.setSet sys r).vpres = c.vpres := by cases sys <;> rfl
@[simp] theorem Ctx.setSet_vpois (c : Ctx) (sys : Bool) (r : RegSet) : (c.setSet sys r).vpois = c.vpois := by cases sys <;> rfl
@[simp] theorem Ctx.setSet_vvalid (c : Ctx) (sys : Bool) (r : RegSet) : (c.setSet sys r).vvalid = c.vvalid := by cases sys <;> rfl
@[simp] theorem Ctx.setSet_vdirty (c : Ctx) (sys : Bool) (r : RegSet) : (c.setSet sys r).vdirty = c.vdirty := by cases sys <;> rfl
@[simp] theorem Ctx.setSet_vdec (c : Ctx) (sys : Bool) (r : RegSet) : (c.setSet sys r).vdec = c.vdec := by cases sys <;> rfl
@[simp] theorem Ctx.setSet_flags (c : Ctx) (sys : Bool) (r : RegSet) : (c.setSet sys r).flags = c.flags := by cases sys <;> rfl
@[simp] theorem Ctx.setSet_tokens (c : Ctx) (sys : Bool) (r : RegSet) : (c.setSet sys r).tokens = c.tokens := by cases sys <;> rfl
@[simp] theorem Ctx.setSet_tokOf (c : Ctx) (sys : Bool) (r : RegSet) : (c.setSet sys r).tokOf = c.tokOf := by cases sys <;> rfl
@[simp] theorem Ctx.setSet_engfail (c : Ctx) (sys : Bool) (r : RegSet) : (c.setSet sys r).engfail = c.engfail := by cases sys <;> rfl
@[simp] theorem Ctx.setSet_engrec (c : Ctx) (sys : Bool) (r : RegSet) : (c.setSet sys r).engrec = c.engrec := by cases sys <;> rfl
@[simp] theorem Ctx.setSet_fpstatus (c : Ctx) (sys : Bool) (r : RegSet) : (c.setSet sys r).fpstatus = c.fpstatus := by cases sys <;> rfl
@[simp] theorem Ctx.setSet_loops (c : Ctx) (sys : Bool) (r : RegSet) : (c.setSet sys r).loops = c.loops := by cases sys <;> rfl
@[simp] theorem Ctx.setSet_queues (c : Ctx) (sys : Bool) (r : RegSet) : (c.setSet sys r).queues = c.queues := by cases sys <;> rfl
@[simp] theorem Ctx.setSet_outs (c : Ctx) (sys : Bool) (r : RegSet) : (c.setSet sys r).outs = c.outs := by cases sys <;> rfl
@[simp] theorem Ctx.setSet_cursors (c : Ctx) (sys : Bool) (r : RegSet) : (c.setSet sys r).cursors = c.cursors := by cases sys <;> rfl
@[simp] theorem Ctx.setSet_sticky (c : Ctx) (sys : Bool) (r : RegSet) : (c.setSet sys r).sticky = c.sticky := by cases sys <;> rfl
@[simp] theorem Ctx.setSet_awc (c : Ctx) (sys : Bool) (r : RegSet) : (c.setSet sys r).awc = c.awc := by cases sys <;> rfl
@[simp] theorem Ctx.setSet_trapcause (c : Ctx) (sys : Bool) (r : RegSet) : (c.setSet sys r).trapcause = c.trapcause := by cases sys <;> rfl
@[simp] theorem Ctx.setSet_trappc (c : Ctx) (sys : Bool) (r : RegSet) : (c.setSet sys r).trappc = c.trappc := by cases sys <;> rfl
@[simp] theorem Ctx.setSet_info0 (c : Ctx) (sys : Bool) (r : RegSet) : (c.setSet sys r).info0 = c.info0 := by cases sys <;> rfl
@[simp] theorem Ctx.setSet_info1 (c : Ctx) (sys : Bool) (r : RegSet) : (c.setSet sys r).info1 = c.info1 := by cases sys <;> rfl
@[simp] theorem Ctx.setSet_frame (c : Ctx) (sys : Bool) (r : RegSet) : (c.setSet sys r).frame = c.frame := by cases sys <;> rfl
@[simp] theorem Ctx.setSet_held (c : Ctx) (sys : Bool) (r : RegSet) : (c.setSet sys r).held = c.held := by cases sys <;> rfl
@[simp] theorem Ctx.setSet_sfault (c : Ctx) (sys : Bool) (r : RegSet) : (c.setSet sys r).sfault = c.sfault := by cases sys <;> rfl
@[simp] theorem Ctx.setSet_trapvec (c : Ctx) (sys : Bool) (r : RegSet) : (c.setSet sys r).trapvec = c.trapvec := by cases sys <;> rfl
@[simp] theorem Ctx.setSet_savebase (c : Ctx) (sys : Bool) (r : RegSet) : (c.setSet sys r).savebase = c.savebase := by cases sys <;> rfl
@[simp] theorem Ctx.setSet_tbase (c : Ctx) (sys : Bool) (r : RegSet) : (c.setSet sys r).tbase = c.tbase := by cases sys <;> rfl
@[simp] theorem Ctx.setSet_tsize (c : Ctx) (sys : Bool) (r : RegSet) : (c.setSet sys r).tsize = c.tsize := by cases sys <;> rfl
@[simp] theorem Ctx.setSet_tshared (c : Ctx) (sys : Bool) (r : RegSet) : (c.setSet sys r).tshared = c.tshared := by cases sys <;> rfl
@[simp] theorem Ctx.setSet_leftTag (c : Ctx) (sys : Bool) (r : RegSet) : (c.setSet sys r).leftTag = c.leftTag := by cases sys <;> rfl
@[simp] theorem Ctx.setSet_decoded (c : Ctx) (sys : Bool) (r : RegSet) : (c.setSet sys r).decoded = c.decoded := by cases sys <;> rfl
@[simp] theorem Ctx.setSet_flagScm (c : Ctx) (sys : Bool) (r : RegSet) : (c.setSet sys r).flagScm = c.flagScm := by cases sys <;> rfl
@[simp] theorem Ctx.setSet_tokScm (c : Ctx) (sys : Bool) (r : RegSet) : (c.setSet sys r).tokScm = c.tokScm := by cases sys <;> rfl
@[simp] theorem Ctx.setSet_accbanks (c : Ctx) (sys : Bool) (r : RegSet) : (c.setSet sys r).accbanks = c.accbanks := by cases sys <;> rfl
@[simp] theorem Ctx.setSet_pageroot (c : Ctx) (sys : Bool) (r : RegSet) : (c.setSet sys r).pageroot = c.pageroot := by cases sys <;> rfl
@[simp] theorem Ctx.setSet_asid (c : Ctx) (sys : Bool) (r : RegSet) : (c.setSet sys r).asid = c.asid := by cases sys <;> rfl
@[simp] theorem Ctx.setSet_launchid (c : Ctx) (sys : Bool) (r : RegSet) : (c.setSet sys r).launchid = c.launchid := by cases sys <;> rfl
@[simp] theorem Ctx.setSet_args (c : Ctx) (sys : Bool) (r : RegSet) : (c.setSet sys r).args = c.args := by cases sys <;> rfl
@[simp] theorem Ctx.setSet_res (c : Ctx) (sys : Bool) (r : RegSet) : (c.setSet sys r).res = c.res := by cases sys <;> rfl
@[simp] theorem Ctx.setSet_cycBase (c : Ctx) (sys : Bool) (r : RegSet) : (c.setSet sys r).cycBase = c.cycBase := by cases sys <;> rfl
@[simp] theorem Ctx.setSet_rcount (c : Ctx) (sys : Bool) (r : RegSet) : (c.setSet sys r).rcount = c.rcount := by cases sys <;> rfl
@[simp] theorem Ctx.setSet_rrun (c : Ctx) (sys : Bool) (r : RegSet) : (c.setSet sys r).rrun = c.rrun := by cases sys <;> rfl
@[simp] theorem Ctx.setSet_energy (c : Ctx) (sys : Bool) (r : RegSet) : (c.setSet sys r).energy = c.energy := by cases sys <;> rfl
@[simp] theorem Ctx.setSet_stalls (c : Ctx) (sys : Bool) (r : RegSet) : (c.setSet sys r).stalls = c.stalls := by cases sys <;> rfl
@[simp] theorem Ctx.setSet_marks (c : Ctx) (sys : Bool) (r : RegSet) : (c.setSet sys r).marks = c.marks := by cases sys <;> rfl
@[simp] theorem Ctx.setSet_leases (c : Ctx) (sys : Bool) (r : RegSet) : (c.setSet sys r).leases = c.leases := by cases sys <;> rfl
@[simp] theorem Ctx.setSet_skipS0 (c : Ctx) (sys : Bool) (r : RegSet) : (c.setSet sys r).skipS0 = c.skipS0 := by cases sys <;> rfl
@[simp] theorem Ctx.setSet_frozen (c : Ctx) (sys : Bool) (r : RegSet) : (c.setSet sys r).frozen = c.frozen := by cases sys <;> rfl
@[simp] theorem Ctx.setSet_ord (c : Ctx) (sys : Bool) (r : RegSet) : (c.setSet sys r).ord = c.ord := by cases sys <;> rfl
@[simp] theorem Ctx.setSet_launch (c : Ctx) (sys : Bool) (r : RegSet) : (c.setSet sys r).launch = c.launch := by cases sys <;> rfl
@[simp] theorem Ctx.setSet_guard (c : Ctx) (sys : Bool) (r : RegSet) : (c.setSet sys r).guard = c.guard := by cases sys <;> rfl
@[simp] theorem Ctx.setSet_unpersisted (c : Ctx) (sys : Bool) (r : RegSet) : (c.setSet sys r).unpersisted = c.unpersisted := by cases sys <;> rfl

@[simp] theorem Ctx.set_setSet (c : Ctx) (sys : Bool) (r : RegSet) : (c.setSet sys r).set sys = r := by cases sys <;> rfl
theorem Ctx.set_setSet_ne (c : Ctx) (sys : Bool) (r : RegSet) : (c.setSet sys r).set (!sys) = c.set (!sys) := by cases sys <;> rfl

/-! `Ctx.setRegs` -/

@[simp] theorem Ctx.setRegs_phase (c : Ctx) (r : RegSet) : (c.setRegs r).phase = c.phase := Ctx.setSet_phase c c.sys r
@[simp] theorem Ctx.setRegs_pc (c : Ctx) (r : RegSet) : (c.setRegs r).pc = c.pc := Ctx.setSet_pc c c.sys r
@[simp] theorem Ctx.setRegs_rcLeft (c : Ctx) (r : RegSet) : (c.setRegs r).rcLeft = c.rcLeft := Ctx.setSet_rcLeft c c.sys r
@[simp] theorem Ctx.setRegs_mid (c : Ctx) (r : RegSet) : (c.setRegs r).mid = c.mid := Ctx.setSet_mid c c.sys r
@[simp] theorem Ctx.setRegs_sys (c : Ctx) (r : RegSet) : (c.setRegs r).sys = c.sys := Ctx.setSet_sys c c.sys r
@[simp] theorem Ctx.setRegs_v (c : Ctx) (r : RegSet) : (c.setRegs r).v = c.v := Ctx.setSet_v c c.sys r
@[simp] theorem Ctx.setRegs_vpres (c : Ctx) (r : RegSet) : (c.setRegs r).vpres = c.vpres := Ctx.setSet_vpres c c.sys r
@[simp] theorem Ctx.setRegs_vpois (c : Ctx) (r : RegSet) : (c.setRegs r).vpois = c.vpois := Ctx.setSet_vpois c c.sys r
@[simp] theorem Ctx.setRegs_vvalid (c : Ctx) (r : RegSet) : (c.setRegs r).vvalid = c.vvalid := Ctx.setSet_vvalid c c.sys r
@[simp] theorem Ctx.setRegs_vdirty (c : Ctx) (r : RegSet) : (c.setRegs r).vdirty = c.vdirty := Ctx.setSet_vdirty c c.sys r
@[simp] theorem Ctx.setRegs_vdec (c : Ctx) (r : RegSet) : (c.setRegs r).vdec = c.vdec := Ctx.setSet_vdec c c.sys r
@[simp] theorem Ctx.setRegs_flags (c : Ctx) (r : RegSet) : (c.setRegs r).flags = c.flags := Ctx.setSet_flags c c.sys r
@[simp] theorem Ctx.setRegs_tokens (c : Ctx) (r : RegSet) : (c.setRegs r).tokens = c.tokens := Ctx.setSet_tokens c c.sys r
@[simp] theorem Ctx.setRegs_tokOf (c : Ctx) (r : RegSet) : (c.setRegs r).tokOf = c.tokOf := Ctx.setSet_tokOf c c.sys r
@[simp] theorem Ctx.setRegs_engfail (c : Ctx) (r : RegSet) : (c.setRegs r).engfail = c.engfail := Ctx.setSet_engfail c c.sys r
@[simp] theorem Ctx.setRegs_engrec (c : Ctx) (r : RegSet) : (c.setRegs r).engrec = c.engrec := Ctx.setSet_engrec c c.sys r
@[simp] theorem Ctx.setRegs_fpstatus (c : Ctx) (r : RegSet) : (c.setRegs r).fpstatus = c.fpstatus := Ctx.setSet_fpstatus c c.sys r
@[simp] theorem Ctx.setRegs_loops (c : Ctx) (r : RegSet) : (c.setRegs r).loops = c.loops := Ctx.setSet_loops c c.sys r
@[simp] theorem Ctx.setRegs_queues (c : Ctx) (r : RegSet) : (c.setRegs r).queues = c.queues := Ctx.setSet_queues c c.sys r
@[simp] theorem Ctx.setRegs_outs (c : Ctx) (r : RegSet) : (c.setRegs r).outs = c.outs := Ctx.setSet_outs c c.sys r
@[simp] theorem Ctx.setRegs_cursors (c : Ctx) (r : RegSet) : (c.setRegs r).cursors = c.cursors := Ctx.setSet_cursors c c.sys r
@[simp] theorem Ctx.setRegs_sticky (c : Ctx) (r : RegSet) : (c.setRegs r).sticky = c.sticky := Ctx.setSet_sticky c c.sys r
@[simp] theorem Ctx.setRegs_awc (c : Ctx) (r : RegSet) : (c.setRegs r).awc = c.awc := Ctx.setSet_awc c c.sys r
@[simp] theorem Ctx.setRegs_trapcause (c : Ctx) (r : RegSet) : (c.setRegs r).trapcause = c.trapcause := Ctx.setSet_trapcause c c.sys r
@[simp] theorem Ctx.setRegs_trappc (c : Ctx) (r : RegSet) : (c.setRegs r).trappc = c.trappc := Ctx.setSet_trappc c c.sys r
@[simp] theorem Ctx.setRegs_info0 (c : Ctx) (r : RegSet) : (c.setRegs r).info0 = c.info0 := Ctx.setSet_info0 c c.sys r
@[simp] theorem Ctx.setRegs_info1 (c : Ctx) (r : RegSet) : (c.setRegs r).info1 = c.info1 := Ctx.setSet_info1 c c.sys r
@[simp] theorem Ctx.setRegs_frame (c : Ctx) (r : RegSet) : (c.setRegs r).frame = c.frame := Ctx.setSet_frame c c.sys r
@[simp] theorem Ctx.setRegs_held (c : Ctx) (r : RegSet) : (c.setRegs r).held = c.held := Ctx.setSet_held c c.sys r
@[simp] theorem Ctx.setRegs_sfault (c : Ctx) (r : RegSet) : (c.setRegs r).sfault = c.sfault := Ctx.setSet_sfault c c.sys r
@[simp] theorem Ctx.setRegs_trapvec (c : Ctx) (r : RegSet) : (c.setRegs r).trapvec = c.trapvec := Ctx.setSet_trapvec c c.sys r
@[simp] theorem Ctx.setRegs_savebase (c : Ctx) (r : RegSet) : (c.setRegs r).savebase = c.savebase := Ctx.setSet_savebase c c.sys r
@[simp] theorem Ctx.setRegs_tbase (c : Ctx) (r : RegSet) : (c.setRegs r).tbase = c.tbase := Ctx.setSet_tbase c c.sys r
@[simp] theorem Ctx.setRegs_tsize (c : Ctx) (r : RegSet) : (c.setRegs r).tsize = c.tsize := Ctx.setSet_tsize c c.sys r
@[simp] theorem Ctx.setRegs_tshared (c : Ctx) (r : RegSet) : (c.setRegs r).tshared = c.tshared := Ctx.setSet_tshared c c.sys r
@[simp] theorem Ctx.setRegs_leftTag (c : Ctx) (r : RegSet) : (c.setRegs r).leftTag = c.leftTag := Ctx.setSet_leftTag c c.sys r
@[simp] theorem Ctx.setRegs_decoded (c : Ctx) (r : RegSet) : (c.setRegs r).decoded = c.decoded := Ctx.setSet_decoded c c.sys r
@[simp] theorem Ctx.setRegs_flagScm (c : Ctx) (r : RegSet) : (c.setRegs r).flagScm = c.flagScm := Ctx.setSet_flagScm c c.sys r
@[simp] theorem Ctx.setRegs_tokScm (c : Ctx) (r : RegSet) : (c.setRegs r).tokScm = c.tokScm := Ctx.setSet_tokScm c c.sys r
@[simp] theorem Ctx.setRegs_accbanks (c : Ctx) (r : RegSet) : (c.setRegs r).accbanks = c.accbanks := Ctx.setSet_accbanks c c.sys r
@[simp] theorem Ctx.setRegs_pageroot (c : Ctx) (r : RegSet) : (c.setRegs r).pageroot = c.pageroot := Ctx.setSet_pageroot c c.sys r
@[simp] theorem Ctx.setRegs_asid (c : Ctx) (r : RegSet) : (c.setRegs r).asid = c.asid := Ctx.setSet_asid c c.sys r
@[simp] theorem Ctx.setRegs_launchid (c : Ctx) (r : RegSet) : (c.setRegs r).launchid = c.launchid := Ctx.setSet_launchid c c.sys r
@[simp] theorem Ctx.setRegs_args (c : Ctx) (r : RegSet) : (c.setRegs r).args = c.args := Ctx.setSet_args c c.sys r
@[simp] theorem Ctx.setRegs_res (c : Ctx) (r : RegSet) : (c.setRegs r).res = c.res := Ctx.setSet_res c c.sys r
@[simp] theorem Ctx.setRegs_cycBase (c : Ctx) (r : RegSet) : (c.setRegs r).cycBase = c.cycBase := Ctx.setSet_cycBase c c.sys r
@[simp] theorem Ctx.setRegs_rcount (c : Ctx) (r : RegSet) : (c.setRegs r).rcount = c.rcount := Ctx.setSet_rcount c c.sys r
@[simp] theorem Ctx.setRegs_rrun (c : Ctx) (r : RegSet) : (c.setRegs r).rrun = c.rrun := Ctx.setSet_rrun c c.sys r
@[simp] theorem Ctx.setRegs_energy (c : Ctx) (r : RegSet) : (c.setRegs r).energy = c.energy := Ctx.setSet_energy c c.sys r
@[simp] theorem Ctx.setRegs_stalls (c : Ctx) (r : RegSet) : (c.setRegs r).stalls = c.stalls := Ctx.setSet_stalls c c.sys r
@[simp] theorem Ctx.setRegs_marks (c : Ctx) (r : RegSet) : (c.setRegs r).marks = c.marks := Ctx.setSet_marks c c.sys r
@[simp] theorem Ctx.setRegs_leases (c : Ctx) (r : RegSet) : (c.setRegs r).leases = c.leases := Ctx.setSet_leases c c.sys r
@[simp] theorem Ctx.setRegs_skipS0 (c : Ctx) (r : RegSet) : (c.setRegs r).skipS0 = c.skipS0 := Ctx.setSet_skipS0 c c.sys r
@[simp] theorem Ctx.setRegs_frozen (c : Ctx) (r : RegSet) : (c.setRegs r).frozen = c.frozen := Ctx.setSet_frozen c c.sys r
@[simp] theorem Ctx.setRegs_ord (c : Ctx) (r : RegSet) : (c.setRegs r).ord = c.ord := Ctx.setSet_ord c c.sys r
@[simp] theorem Ctx.setRegs_launch (c : Ctx) (r : RegSet) : (c.setRegs r).launch = c.launch := Ctx.setSet_launch c c.sys r
@[simp] theorem Ctx.setRegs_guard (c : Ctx) (r : RegSet) : (c.setRegs r).guard = c.guard := Ctx.setSet_guard c c.sys r
@[simp] theorem Ctx.setRegs_unpersisted (c : Ctx) (r : RegSet) : (c.setRegs r).unpersisted = c.unpersisted := Ctx.setSet_unpersisted c c.sys r

@[simp] theorem Ctx.regs_setRegs (c : Ctx) (r : RegSet) : (c.setRegs r).regs = r := by
  cases h : c.sys <;> simp [Ctx.setRegs, Ctx.regs, Ctx.setSet, h]
theorem Ctx.setRegs_prog (c : Ctx) (r : RegSet) (h : c.sys = true) : (c.setRegs r).prog = c.prog := by simp [Ctx.setRegs, Ctx.setSet, h]
theorem Ctx.setRegs_shad (c : Ctx) (r : RegSet) (h : c.sys = false) : (c.setRegs r).shad = c.shad := by simp [Ctx.setRegs, Ctx.setSet, h]

/-! `Ctx.push` -/

@[simp] theorem Ctx.push_phase (c : Ctx) (v : Word) : (c.push v).phase = c.phase := Ctx.setRegs_phase c _
@[simp] theorem Ctx.push_pc (c : Ctx) (v : Word) : (c.push v).pc = c.pc := Ctx.setRegs_pc c _
@[simp] theorem Ctx.push_rcLeft (c : Ctx) (v : Word) : (c.push v).rcLeft = c.rcLeft := Ctx.setRegs_rcLeft c _
@[simp] theorem Ctx.push_mid (c : Ctx) (v : Word) : (c.push v).mid = c.mid := Ctx.setRegs_mid c _
@[simp] theorem Ctx.push_sys (c : Ctx) (v : Word) : (c.push v).sys = c.sys := Ctx.setRegs_sys c _
@[simp] theorem Ctx.push_v (c : Ctx) (v : Word) : (c.push v).v = c.v := Ctx.setRegs_v c _
@[simp] theorem Ctx.push_vpres (c : Ctx) (v : Word) : (c.push v).vpres = c.vpres := Ctx.setRegs_vpres c _
@[simp] theorem Ctx.push_vpois (c : Ctx) (v : Word) : (c.push v).vpois = c.vpois := Ctx.setRegs_vpois c _
@[simp] theorem Ctx.push_vvalid (c : Ctx) (v : Word) : (c.push v).vvalid = c.vvalid := Ctx.setRegs_vvalid c _
@[simp] theorem Ctx.push_vdirty (c : Ctx) (v : Word) : (c.push v).vdirty = c.vdirty := Ctx.setRegs_vdirty c _
@[simp] theorem Ctx.push_vdec (c : Ctx) (v : Word) : (c.push v).vdec = c.vdec := Ctx.setRegs_vdec c _
@[simp] theorem Ctx.push_flags (c : Ctx) (v : Word) : (c.push v).flags = c.flags := Ctx.setRegs_flags c _
@[simp] theorem Ctx.push_tokens (c : Ctx) (v : Word) : (c.push v).tokens = c.tokens := Ctx.setRegs_tokens c _
@[simp] theorem Ctx.push_tokOf (c : Ctx) (v : Word) : (c.push v).tokOf = c.tokOf := Ctx.setRegs_tokOf c _
@[simp] theorem Ctx.push_engfail (c : Ctx) (v : Word) : (c.push v).engfail = c.engfail := Ctx.setRegs_engfail c _
@[simp] theorem Ctx.push_engrec (c : Ctx) (v : Word) : (c.push v).engrec = c.engrec := Ctx.setRegs_engrec c _
@[simp] theorem Ctx.push_fpstatus (c : Ctx) (v : Word) : (c.push v).fpstatus = c.fpstatus := Ctx.setRegs_fpstatus c _
@[simp] theorem Ctx.push_loops (c : Ctx) (v : Word) : (c.push v).loops = c.loops := Ctx.setRegs_loops c _
@[simp] theorem Ctx.push_queues (c : Ctx) (v : Word) : (c.push v).queues = c.queues := Ctx.setRegs_queues c _
@[simp] theorem Ctx.push_outs (c : Ctx) (v : Word) : (c.push v).outs = c.outs := Ctx.setRegs_outs c _
@[simp] theorem Ctx.push_cursors (c : Ctx) (v : Word) : (c.push v).cursors = c.cursors := Ctx.setRegs_cursors c _
@[simp] theorem Ctx.push_sticky (c : Ctx) (v : Word) : (c.push v).sticky = c.sticky := Ctx.setRegs_sticky c _
@[simp] theorem Ctx.push_awc (c : Ctx) (v : Word) : (c.push v).awc = c.awc := Ctx.setRegs_awc c _
@[simp] theorem Ctx.push_trapcause (c : Ctx) (v : Word) : (c.push v).trapcause = c.trapcause := Ctx.setRegs_trapcause c _
@[simp] theorem Ctx.push_trappc (c : Ctx) (v : Word) : (c.push v).trappc = c.trappc := Ctx.setRegs_trappc c _
@[simp] theorem Ctx.push_info0 (c : Ctx) (v : Word) : (c.push v).info0 = c.info0 := Ctx.setRegs_info0 c _
@[simp] theorem Ctx.push_info1 (c : Ctx) (v : Word) : (c.push v).info1 = c.info1 := Ctx.setRegs_info1 c _
@[simp] theorem Ctx.push_frame (c : Ctx) (v : Word) : (c.push v).frame = c.frame := Ctx.setRegs_frame c _
@[simp] theorem Ctx.push_held (c : Ctx) (v : Word) : (c.push v).held = c.held := Ctx.setRegs_held c _
@[simp] theorem Ctx.push_sfault (c : Ctx) (v : Word) : (c.push v).sfault = c.sfault := Ctx.setRegs_sfault c _
@[simp] theorem Ctx.push_trapvec (c : Ctx) (v : Word) : (c.push v).trapvec = c.trapvec := Ctx.setRegs_trapvec c _
@[simp] theorem Ctx.push_savebase (c : Ctx) (v : Word) : (c.push v).savebase = c.savebase := Ctx.setRegs_savebase c _
@[simp] theorem Ctx.push_tbase (c : Ctx) (v : Word) : (c.push v).tbase = c.tbase := Ctx.setRegs_tbase c _
@[simp] theorem Ctx.push_tsize (c : Ctx) (v : Word) : (c.push v).tsize = c.tsize := Ctx.setRegs_tsize c _
@[simp] theorem Ctx.push_tshared (c : Ctx) (v : Word) : (c.push v).tshared = c.tshared := Ctx.setRegs_tshared c _
@[simp] theorem Ctx.push_leftTag (c : Ctx) (v : Word) : (c.push v).leftTag = c.leftTag := Ctx.setRegs_leftTag c _
@[simp] theorem Ctx.push_decoded (c : Ctx) (v : Word) : (c.push v).decoded = c.decoded := Ctx.setRegs_decoded c _
@[simp] theorem Ctx.push_flagScm (c : Ctx) (v : Word) : (c.push v).flagScm = c.flagScm := Ctx.setRegs_flagScm c _
@[simp] theorem Ctx.push_tokScm (c : Ctx) (v : Word) : (c.push v).tokScm = c.tokScm := Ctx.setRegs_tokScm c _
@[simp] theorem Ctx.push_accbanks (c : Ctx) (v : Word) : (c.push v).accbanks = c.accbanks := Ctx.setRegs_accbanks c _
@[simp] theorem Ctx.push_pageroot (c : Ctx) (v : Word) : (c.push v).pageroot = c.pageroot := Ctx.setRegs_pageroot c _
@[simp] theorem Ctx.push_asid (c : Ctx) (v : Word) : (c.push v).asid = c.asid := Ctx.setRegs_asid c _
@[simp] theorem Ctx.push_launchid (c : Ctx) (v : Word) : (c.push v).launchid = c.launchid := Ctx.setRegs_launchid c _
@[simp] theorem Ctx.push_args (c : Ctx) (v : Word) : (c.push v).args = c.args := Ctx.setRegs_args c _
@[simp] theorem Ctx.push_res (c : Ctx) (v : Word) : (c.push v).res = c.res := Ctx.setRegs_res c _
@[simp] theorem Ctx.push_cycBase (c : Ctx) (v : Word) : (c.push v).cycBase = c.cycBase := Ctx.setRegs_cycBase c _
@[simp] theorem Ctx.push_rcount (c : Ctx) (v : Word) : (c.push v).rcount = c.rcount := Ctx.setRegs_rcount c _
@[simp] theorem Ctx.push_rrun (c : Ctx) (v : Word) : (c.push v).rrun = c.rrun := Ctx.setRegs_rrun c _
@[simp] theorem Ctx.push_energy (c : Ctx) (v : Word) : (c.push v).energy = c.energy := Ctx.setRegs_energy c _
@[simp] theorem Ctx.push_stalls (c : Ctx) (v : Word) : (c.push v).stalls = c.stalls := Ctx.setRegs_stalls c _
@[simp] theorem Ctx.push_marks (c : Ctx) (v : Word) : (c.push v).marks = c.marks := Ctx.setRegs_marks c _
@[simp] theorem Ctx.push_leases (c : Ctx) (v : Word) : (c.push v).leases = c.leases := Ctx.setRegs_leases c _
@[simp] theorem Ctx.push_skipS0 (c : Ctx) (v : Word) : (c.push v).skipS0 = c.skipS0 := Ctx.setRegs_skipS0 c _
@[simp] theorem Ctx.push_frozen (c : Ctx) (v : Word) : (c.push v).frozen = c.frozen := Ctx.setRegs_frozen c _
@[simp] theorem Ctx.push_ord (c : Ctx) (v : Word) : (c.push v).ord = c.ord := Ctx.setRegs_ord c _
@[simp] theorem Ctx.push_launch (c : Ctx) (v : Word) : (c.push v).launch = c.launch := Ctx.setRegs_launch c _
@[simp] theorem Ctx.push_guard (c : Ctx) (v : Word) : (c.push v).guard = c.guard := Ctx.setRegs_guard c _
@[simp] theorem Ctx.push_unpersisted (c : Ctx) (v : Word) : (c.push v).unpersisted = c.unpersisted := Ctx.setRegs_unpersisted c _

@[simp] theorem Ctx.regs_push (c : Ctx) (v : Word) : (c.push v).regs = c.regs.push v := Ctx.regs_setRegs c _

/-! `Ctx.writeDest` -/

@[simp] theorem Ctx.writeDest_phase (c : Ctx) (d : Spec) (v : Word) : (c.writeDest d v).phase = c.phase := by
  unfold Ctx.writeDest
  split
  · rfl
  · simp
@[simp] theorem Ctx.writeDest_pc (c : Ctx) (d : Spec) (v : Word) : (c.writeDest d v).pc = c.pc := by
  unfold Ctx.writeDest
  split
  · rfl
  · simp
@[simp] theorem Ctx.writeDest_rcLeft (c : Ctx) (d : Spec) (v : Word) : (c.writeDest d v).rcLeft = c.rcLeft := by
  unfold Ctx.writeDest
  split
  · rfl
  · simp
@[simp] theorem Ctx.writeDest_mid (c : Ctx) (d : Spec) (v : Word) : (c.writeDest d v).mid = c.mid := by
  unfold Ctx.writeDest
  split
  · rfl
  · simp
@[simp] theorem Ctx.writeDest_sys (c : Ctx) (d : Spec) (v : Word) : (c.writeDest d v).sys = c.sys := by
  unfold Ctx.writeDest
  split
  · rfl
  · simp
@[simp] theorem Ctx.writeDest_v (c : Ctx) (d : Spec) (v : Word) : (c.writeDest d v).v = c.v := by
  unfold Ctx.writeDest
  split
  · rfl
  · simp
@[simp] theorem Ctx.writeDest_vpres (c : Ctx) (d : Spec) (v : Word) : (c.writeDest d v).vpres = c.vpres := by
  unfold Ctx.writeDest
  split
  · rfl
  · simp
@[simp] theorem Ctx.writeDest_vpois (c : Ctx) (d : Spec) (v : Word) : (c.writeDest d v).vpois = c.vpois := by
  unfold Ctx.writeDest
  split
  · rfl
  · simp
@[simp] theorem Ctx.writeDest_vvalid (c : Ctx) (d : Spec) (v : Word) : (c.writeDest d v).vvalid = c.vvalid := by
  unfold Ctx.writeDest
  split
  · rfl
  · simp
@[simp] theorem Ctx.writeDest_vdirty (c : Ctx) (d : Spec) (v : Word) : (c.writeDest d v).vdirty = c.vdirty := by
  unfold Ctx.writeDest
  split
  · rfl
  · simp
@[simp] theorem Ctx.writeDest_vdec (c : Ctx) (d : Spec) (v : Word) : (c.writeDest d v).vdec = c.vdec := by
  unfold Ctx.writeDest
  split
  · rfl
  · simp
@[simp] theorem Ctx.writeDest_flags (c : Ctx) (d : Spec) (v : Word) : (c.writeDest d v).flags = c.flags := by
  unfold Ctx.writeDest
  split
  · rfl
  · simp
@[simp] theorem Ctx.writeDest_tokens (c : Ctx) (d : Spec) (v : Word) : (c.writeDest d v).tokens = c.tokens := by
  unfold Ctx.writeDest
  split
  · rfl
  · simp
@[simp] theorem Ctx.writeDest_tokOf (c : Ctx) (d : Spec) (v : Word) : (c.writeDest d v).tokOf = c.tokOf := by
  unfold Ctx.writeDest
  split
  · rfl
  · simp
@[simp] theorem Ctx.writeDest_engfail (c : Ctx) (d : Spec) (v : Word) : (c.writeDest d v).engfail = c.engfail := by
  unfold Ctx.writeDest
  split
  · rfl
  · simp
@[simp] theorem Ctx.writeDest_engrec (c : Ctx) (d : Spec) (v : Word) : (c.writeDest d v).engrec = c.engrec := by
  unfold Ctx.writeDest
  split
  · rfl
  · simp
@[simp] theorem Ctx.writeDest_fpstatus (c : Ctx) (d : Spec) (v : Word) : (c.writeDest d v).fpstatus = c.fpstatus := by
  unfold Ctx.writeDest
  split
  · rfl
  · simp
@[simp] theorem Ctx.writeDest_loops (c : Ctx) (d : Spec) (v : Word) : (c.writeDest d v).loops = c.loops := by
  unfold Ctx.writeDest
  split
  · rfl
  · simp
@[simp] theorem Ctx.writeDest_queues (c : Ctx) (d : Spec) (v : Word) : (c.writeDest d v).queues = c.queues := by
  unfold Ctx.writeDest
  split
  · rfl
  · simp
@[simp] theorem Ctx.writeDest_outs (c : Ctx) (d : Spec) (v : Word) : (c.writeDest d v).outs = c.outs := by
  unfold Ctx.writeDest
  split
  · rfl
  · simp
@[simp] theorem Ctx.writeDest_cursors (c : Ctx) (d : Spec) (v : Word) : (c.writeDest d v).cursors = c.cursors := by
  unfold Ctx.writeDest
  split
  · rfl
  · simp
@[simp] theorem Ctx.writeDest_sticky (c : Ctx) (d : Spec) (v : Word) : (c.writeDest d v).sticky = c.sticky := by
  unfold Ctx.writeDest
  split
  · rfl
  · simp
@[simp] theorem Ctx.writeDest_awc (c : Ctx) (d : Spec) (v : Word) : (c.writeDest d v).awc = c.awc := by
  unfold Ctx.writeDest
  split
  · rfl
  · simp
@[simp] theorem Ctx.writeDest_trapcause (c : Ctx) (d : Spec) (v : Word) : (c.writeDest d v).trapcause = c.trapcause := by
  unfold Ctx.writeDest
  split
  · rfl
  · simp
@[simp] theorem Ctx.writeDest_trappc (c : Ctx) (d : Spec) (v : Word) : (c.writeDest d v).trappc = c.trappc := by
  unfold Ctx.writeDest
  split
  · rfl
  · simp
@[simp] theorem Ctx.writeDest_info0 (c : Ctx) (d : Spec) (v : Word) : (c.writeDest d v).info0 = c.info0 := by
  unfold Ctx.writeDest
  split
  · rfl
  · simp
@[simp] theorem Ctx.writeDest_info1 (c : Ctx) (d : Spec) (v : Word) : (c.writeDest d v).info1 = c.info1 := by
  unfold Ctx.writeDest
  split
  · rfl
  · simp
@[simp] theorem Ctx.writeDest_frame (c : Ctx) (d : Spec) (v : Word) : (c.writeDest d v).frame = c.frame := by
  unfold Ctx.writeDest
  split
  · rfl
  · simp
@[simp] theorem Ctx.writeDest_held (c : Ctx) (d : Spec) (v : Word) : (c.writeDest d v).held = c.held := by
  unfold Ctx.writeDest
  split
  · rfl
  · simp
@[simp] theorem Ctx.writeDest_sfault (c : Ctx) (d : Spec) (v : Word) : (c.writeDest d v).sfault = c.sfault := by
  unfold Ctx.writeDest
  split
  · rfl
  · simp
@[simp] theorem Ctx.writeDest_trapvec (c : Ctx) (d : Spec) (v : Word) : (c.writeDest d v).trapvec = c.trapvec := by
  unfold Ctx.writeDest
  split
  · rfl
  · simp
@[simp] theorem Ctx.writeDest_savebase (c : Ctx) (d : Spec) (v : Word) : (c.writeDest d v).savebase = c.savebase := by
  unfold Ctx.writeDest
  split
  · rfl
  · simp
@[simp] theorem Ctx.writeDest_tbase (c : Ctx) (d : Spec) (v : Word) : (c.writeDest d v).tbase = c.tbase := by
  unfold Ctx.writeDest
  split
  · rfl
  · simp
@[simp] theorem Ctx.writeDest_tsize (c : Ctx) (d : Spec) (v : Word) : (c.writeDest d v).tsize = c.tsize := by
  unfold Ctx.writeDest
  split
  · rfl
  · simp
@[simp] theorem Ctx.writeDest_tshared (c : Ctx) (d : Spec) (v : Word) : (c.writeDest d v).tshared = c.tshared := by
  unfold Ctx.writeDest
  split
  · rfl
  · simp
@[simp] theorem Ctx.writeDest_leftTag (c : Ctx) (d : Spec) (v : Word) : (c.writeDest d v).leftTag = c.leftTag := by
  unfold Ctx.writeDest
  split
  · rfl
  · simp
@[simp] theorem Ctx.writeDest_decoded (c : Ctx) (d : Spec) (v : Word) : (c.writeDest d v).decoded = c.decoded := by
  unfold Ctx.writeDest
  split
  · rfl
  · simp
@[simp] theorem Ctx.writeDest_flagScm (c : Ctx) (d : Spec) (v : Word) : (c.writeDest d v).flagScm = c.flagScm := by
  unfold Ctx.writeDest
  split
  · rfl
  · simp
@[simp] theorem Ctx.writeDest_tokScm (c : Ctx) (d : Spec) (v : Word) : (c.writeDest d v).tokScm = c.tokScm := by
  unfold Ctx.writeDest
  split
  · rfl
  · simp
@[simp] theorem Ctx.writeDest_accbanks (c : Ctx) (d : Spec) (v : Word) : (c.writeDest d v).accbanks = c.accbanks := by
  unfold Ctx.writeDest
  split
  · rfl
  · simp
@[simp] theorem Ctx.writeDest_pageroot (c : Ctx) (d : Spec) (v : Word) : (c.writeDest d v).pageroot = c.pageroot := by
  unfold Ctx.writeDest
  split
  · rfl
  · simp
@[simp] theorem Ctx.writeDest_asid (c : Ctx) (d : Spec) (v : Word) : (c.writeDest d v).asid = c.asid := by
  unfold Ctx.writeDest
  split
  · rfl
  · simp
@[simp] theorem Ctx.writeDest_launchid (c : Ctx) (d : Spec) (v : Word) : (c.writeDest d v).launchid = c.launchid := by
  unfold Ctx.writeDest
  split
  · rfl
  · simp
@[simp] theorem Ctx.writeDest_args (c : Ctx) (d : Spec) (v : Word) : (c.writeDest d v).args = c.args := by
  unfold Ctx.writeDest
  split
  · rfl
  · simp
@[simp] theorem Ctx.writeDest_res (c : Ctx) (d : Spec) (v : Word) : (c.writeDest d v).res = c.res := by
  unfold Ctx.writeDest
  split
  · rfl
  · simp
@[simp] theorem Ctx.writeDest_cycBase (c : Ctx) (d : Spec) (v : Word) : (c.writeDest d v).cycBase = c.cycBase := by
  unfold Ctx.writeDest
  split
  · rfl
  · simp
@[simp] theorem Ctx.writeDest_rcount (c : Ctx) (d : Spec) (v : Word) : (c.writeDest d v).rcount = c.rcount := by
  unfold Ctx.writeDest
  split
  · rfl
  · simp
@[simp] theorem Ctx.writeDest_rrun (c : Ctx) (d : Spec) (v : Word) : (c.writeDest d v).rrun = c.rrun := by
  unfold Ctx.writeDest
  split
  · rfl
  · simp
@[simp] theorem Ctx.writeDest_energy (c : Ctx) (d : Spec) (v : Word) : (c.writeDest d v).energy = c.energy := by
  unfold Ctx.writeDest
  split
  · rfl
  · simp
@[simp] theorem Ctx.writeDest_stalls (c : Ctx) (d : Spec) (v : Word) : (c.writeDest d v).stalls = c.stalls := by
  unfold Ctx.writeDest
  split
  · rfl
  · simp
@[simp] theorem Ctx.writeDest_marks (c : Ctx) (d : Spec) (v : Word) : (c.writeDest d v).marks = c.marks := by
  unfold Ctx.writeDest
  split
  · rfl
  · simp
@[simp] theorem Ctx.writeDest_leases (c : Ctx) (d : Spec) (v : Word) : (c.writeDest d v).leases = c.leases := by
  unfold Ctx.writeDest
  split
  · rfl
  · simp
@[simp] theorem Ctx.writeDest_skipS0 (c : Ctx) (d : Spec) (v : Word) : (c.writeDest d v).skipS0 = c.skipS0 := by
  unfold Ctx.writeDest
  split
  · rfl
  · simp
@[simp] theorem Ctx.writeDest_frozen (c : Ctx) (d : Spec) (v : Word) : (c.writeDest d v).frozen = c.frozen := by
  unfold Ctx.writeDest
  split
  · rfl
  · simp
@[simp] theorem Ctx.writeDest_ord (c : Ctx) (d : Spec) (v : Word) : (c.writeDest d v).ord = c.ord := by
  unfold Ctx.writeDest
  split
  · rfl
  · simp
@[simp] theorem Ctx.writeDest_launch (c : Ctx) (d : Spec) (v : Word) : (c.writeDest d v).launch = c.launch := by
  unfold Ctx.writeDest
  split
  · rfl
  · simp
@[simp] theorem Ctx.writeDest_guard (c : Ctx) (d : Spec) (v : Word) : (c.writeDest d v).guard = c.guard := by
  unfold Ctx.writeDest
  split
  · rfl
  · simp
@[simp] theorem Ctx.writeDest_unpersisted (c : Ctx) (d : Spec) (v : Word) : (c.writeDest d v).unpersisted = c.unpersisted := by
  unfold Ctx.writeDest
  split
  · rfl
  · simp

theorem Ctx.regs_writeDest (c : Ctx) (d : Spec) (v : Word) :
    (c.writeDest d v).regs = if d == 0 then c.regs else c.regs.put (namedIdx d) v := by
  unfold Ctx.writeDest
  split
  · rfl
  · simp

/-! `Ctx.orStatus` -/

@[simp] theorem Ctx.orStatus_phase (c : Ctx) (st : Status) : (c.orStatus st).phase = c.phase := rfl
@[simp] theorem Ctx.orStatus_pc (c : Ctx) (st : Status) : (c.orStatus st).pc = c.pc := rfl
@[simp] theorem Ctx.orStatus_rcLeft (c : Ctx) (st : Status) : (c.orStatus st).rcLeft = c.rcLeft := rfl
@[simp] theorem Ctx.orStatus_mid (c : Ctx) (st : Status) : (c.orStatus st).mid = c.mid := rfl
@[simp] theorem Ctx.orStatus_sys (c : Ctx) (st : Status) : (c.orStatus st).sys = c.sys := rfl
@[simp] theorem Ctx.orStatus_prog (c : Ctx) (st : Status) : (c.orStatus st).prog = c.prog := rfl
@[simp] theorem Ctx.orStatus_shad (c : Ctx) (st : Status) : (c.orStatus st).shad = c.shad := rfl
@[simp] theorem Ctx.orStatus_v (c : Ctx) (st : Status) : (c.orStatus st).v = c.v := rfl
@[simp] theorem Ctx.orStatus_vpres (c : Ctx) (st : Status) : (c.orStatus st).vpres = c.vpres := rfl
@[simp] theorem Ctx.orStatus_vpois (c : Ctx) (st : Status) : (c.orStatus st).vpois = c.vpois := rfl
@[simp] theorem Ctx.orStatus_vvalid (c : Ctx) (st : Status) : (c.orStatus st).vvalid = c.vvalid := rfl
@[simp] theorem Ctx.orStatus_vdirty (c : Ctx) (st : Status) : (c.orStatus st).vdirty = c.vdirty := rfl
@[simp] theorem Ctx.orStatus_vdec (c : Ctx) (st : Status) : (c.orStatus st).vdec = c.vdec := rfl
@[simp] theorem Ctx.orStatus_flags (c : Ctx) (st : Status) : (c.orStatus st).flags = c.flags := rfl
@[simp] theorem Ctx.orStatus_tokens (c : Ctx) (st : Status) : (c.orStatus st).tokens = c.tokens := rfl
@[simp] theorem Ctx.orStatus_tokOf (c : Ctx) (st : Status) : (c.orStatus st).tokOf = c.tokOf := rfl
@[simp] theorem Ctx.orStatus_engfail (c : Ctx) (st : Status) : (c.orStatus st).engfail = c.engfail := rfl
@[simp] theorem Ctx.orStatus_engrec (c : Ctx) (st : Status) : (c.orStatus st).engrec = c.engrec := rfl
@[simp] theorem Ctx.orStatus_loops (c : Ctx) (st : Status) : (c.orStatus st).loops = c.loops := rfl
@[simp] theorem Ctx.orStatus_queues (c : Ctx) (st : Status) : (c.orStatus st).queues = c.queues := rfl
@[simp] theorem Ctx.orStatus_outs (c : Ctx) (st : Status) : (c.orStatus st).outs = c.outs := rfl
@[simp] theorem Ctx.orStatus_cursors (c : Ctx) (st : Status) : (c.orStatus st).cursors = c.cursors := rfl
@[simp] theorem Ctx.orStatus_sticky (c : Ctx) (st : Status) : (c.orStatus st).sticky = c.sticky := rfl
@[simp] theorem Ctx.orStatus_awc (c : Ctx) (st : Status) : (c.orStatus st).awc = c.awc := rfl
@[simp] theorem Ctx.orStatus_trapcause (c : Ctx) (st : Status) : (c.orStatus st).trapcause = c.trapcause := rfl
@[simp] theorem Ctx.orStatus_trappc (c : Ctx) (st : Status) : (c.orStatus st).trappc = c.trappc := rfl
@[simp] theorem Ctx.orStatus_info0 (c : Ctx) (st : Status) : (c.orStatus st).info0 = c.info0 := rfl
@[simp] theorem Ctx.orStatus_info1 (c : Ctx) (st : Status) : (c.orStatus st).info1 = c.info1 := rfl
@[simp] theorem Ctx.orStatus_frame (c : Ctx) (st : Status) : (c.orStatus st).frame = c.frame := rfl
@[simp] theorem Ctx.orStatus_held (c : Ctx) (st : Status) : (c.orStatus st).held = c.held := rfl
@[simp] theorem Ctx.orStatus_sfault (c : Ctx) (st : Status) : (c.orStatus st).sfault = c.sfault := rfl
@[simp] theorem Ctx.orStatus_trapvec (c : Ctx) (st : Status) : (c.orStatus st).trapvec = c.trapvec := rfl
@[simp] theorem Ctx.orStatus_savebase (c : Ctx) (st : Status) : (c.orStatus st).savebase = c.savebase := rfl
@[simp] theorem Ctx.orStatus_tbase (c : Ctx) (st : Status) : (c.orStatus st).tbase = c.tbase := rfl
@[simp] theorem Ctx.orStatus_tsize (c : Ctx) (st : Status) : (c.orStatus st).tsize = c.tsize := rfl
@[simp] theorem Ctx.orStatus_tshared (c : Ctx) (st : Status) : (c.orStatus st).tshared = c.tshared := rfl
@[simp] theorem Ctx.orStatus_leftTag (c : Ctx) (st : Status) : (c.orStatus st).leftTag = c.leftTag := rfl
@[simp] theorem Ctx.orStatus_decoded (c : Ctx) (st : Status) : (c.orStatus st).decoded = c.decoded := rfl
@[simp] theorem Ctx.orStatus_flagScm (c : Ctx) (st : Status) : (c.orStatus st).flagScm = c.flagScm := rfl
@[simp] theorem Ctx.orStatus_tokScm (c : Ctx) (st : Status) : (c.orStatus st).tokScm = c.tokScm := rfl
@[simp] theorem Ctx.orStatus_accbanks (c : Ctx) (st : Status) : (c.orStatus st).accbanks = c.accbanks := rfl
@[simp] theorem Ctx.orStatus_pageroot (c : Ctx) (st : Status) : (c.orStatus st).pageroot = c.pageroot := rfl
@[simp] theorem Ctx.orStatus_asid (c : Ctx) (st : Status) : (c.orStatus st).asid = c.asid := rfl
@[simp] theorem Ctx.orStatus_launchid (c : Ctx) (st : Status) : (c.orStatus st).launchid = c.launchid := rfl
@[simp] theorem Ctx.orStatus_args (c : Ctx) (st : Status) : (c.orStatus st).args = c.args := rfl
@[simp] theorem Ctx.orStatus_res (c : Ctx) (st : Status) : (c.orStatus st).res = c.res := rfl
@[simp] theorem Ctx.orStatus_cycBase (c : Ctx) (st : Status) : (c.orStatus st).cycBase = c.cycBase := rfl
@[simp] theorem Ctx.orStatus_rcount (c : Ctx) (st : Status) : (c.orStatus st).rcount = c.rcount := rfl
@[simp] theorem Ctx.orStatus_rrun (c : Ctx) (st : Status) : (c.orStatus st).rrun = c.rrun := rfl
@[simp] theorem Ctx.orStatus_energy (c : Ctx) (st : Status) : (c.orStatus st).energy = c.energy := rfl
@[simp] theorem Ctx.orStatus_stalls (c : Ctx) (st : Status) : (c.orStatus st).stalls = c.stalls := rfl
@[simp] theorem Ctx.orStatus_marks (c : Ctx) (st : Status) : (c.orStatus st).marks = c.marks := rfl
@[simp] theorem Ctx.orStatus_leases (c : Ctx) (st : Status) : (c.orStatus st).leases = c.leases := rfl
@[simp] theorem Ctx.orStatus_skipS0 (c : Ctx) (st : Status) : (c.orStatus st).skipS0 = c.skipS0 := rfl
@[simp] theorem Ctx.orStatus_frozen (c : Ctx) (st : Status) : (c.orStatus st).frozen = c.frozen := rfl
@[simp] theorem Ctx.orStatus_ord (c : Ctx) (st : Status) : (c.orStatus st).ord = c.ord := rfl
@[simp] theorem Ctx.orStatus_launch (c : Ctx) (st : Status) : (c.orStatus st).launch = c.launch := rfl
@[simp] theorem Ctx.orStatus_guard (c : Ctx) (st : Status) : (c.orStatus st).guard = c.guard := rfl
@[simp] theorem Ctx.orStatus_unpersisted (c : Ctx) (st : Status) : (c.orStatus st).unpersisted = c.unpersisted := rfl

@[simp] theorem Ctx.orStatus_none (c : Ctx) : c.orStatus stNone = c := by
  simp [Ctx.orStatus, stNone]
@[simp] theorem Ctx.regs_orStatus (c : Ctx) (st : Status) : (c.orStatus st).regs = c.regs := rfl

/-! `Ctx.setFlags` -/

@[simp] theorem Ctx.setFlags_phase (c : Ctx) (mask : BitVec 16) : (c.setFlags mask).phase = c.phase := rfl
@[simp] theorem Ctx.setFlags_pc (c : Ctx) (mask : BitVec 16) : (c.setFlags mask).pc = c.pc := rfl
@[simp] theorem Ctx.setFlags_rcLeft (c : Ctx) (mask : BitVec 16) : (c.setFlags mask).rcLeft = c.rcLeft := rfl
@[simp] theorem Ctx.setFlags_mid (c : Ctx) (mask : BitVec 16) : (c.setFlags mask).mid = c.mid := rfl
@[simp] theorem Ctx.setFlags_sys (c : Ctx) (mask : BitVec 16) : (c.setFlags mask).sys = c.sys := rfl
@[simp] theorem Ctx.setFlags_prog (c : Ctx) (mask : BitVec 16) : (c.setFlags mask).prog = c.prog := rfl
@[simp] theorem Ctx.setFlags_shad (c : Ctx) (mask : BitVec 16) : (c.setFlags mask).shad = c.shad := rfl
@[simp] theorem Ctx.setFlags_v (c : Ctx) (mask : BitVec 16) : (c.setFlags mask).v = c.v := rfl
@[simp] theorem Ctx.setFlags_vpres (c : Ctx) (mask : BitVec 16) : (c.setFlags mask).vpres = c.vpres := rfl
@[simp] theorem Ctx.setFlags_vpois (c : Ctx) (mask : BitVec 16) : (c.setFlags mask).vpois = c.vpois := rfl
@[simp] theorem Ctx.setFlags_vvalid (c : Ctx) (mask : BitVec 16) : (c.setFlags mask).vvalid = c.vvalid := rfl
@[simp] theorem Ctx.setFlags_vdirty (c : Ctx) (mask : BitVec 16) : (c.setFlags mask).vdirty = c.vdirty := rfl
@[simp] theorem Ctx.setFlags_vdec (c : Ctx) (mask : BitVec 16) : (c.setFlags mask).vdec = c.vdec := rfl
@[simp] theorem Ctx.setFlags_tokens (c : Ctx) (mask : BitVec 16) : (c.setFlags mask).tokens = c.tokens := rfl
@[simp] theorem Ctx.setFlags_tokOf (c : Ctx) (mask : BitVec 16) : (c.setFlags mask).tokOf = c.tokOf := rfl
@[simp] theorem Ctx.setFlags_engfail (c : Ctx) (mask : BitVec 16) : (c.setFlags mask).engfail = c.engfail := rfl
@[simp] theorem Ctx.setFlags_engrec (c : Ctx) (mask : BitVec 16) : (c.setFlags mask).engrec = c.engrec := rfl
@[simp] theorem Ctx.setFlags_fpstatus (c : Ctx) (mask : BitVec 16) : (c.setFlags mask).fpstatus = c.fpstatus := rfl
@[simp] theorem Ctx.setFlags_loops (c : Ctx) (mask : BitVec 16) : (c.setFlags mask).loops = c.loops := rfl
@[simp] theorem Ctx.setFlags_queues (c : Ctx) (mask : BitVec 16) : (c.setFlags mask).queues = c.queues := rfl
@[simp] theorem Ctx.setFlags_outs (c : Ctx) (mask : BitVec 16) : (c.setFlags mask).outs = c.outs := rfl
@[simp] theorem Ctx.setFlags_cursors (c : Ctx) (mask : BitVec 16) : (c.setFlags mask).cursors = c.cursors := rfl
@[simp] theorem Ctx.setFlags_sticky (c : Ctx) (mask : BitVec 16) : (c.setFlags mask).sticky = c.sticky := rfl
@[simp] theorem Ctx.setFlags_awc (c : Ctx) (mask : BitVec 16) : (c.setFlags mask).awc = c.awc := rfl
@[simp] theorem Ctx.setFlags_trapcause (c : Ctx) (mask : BitVec 16) : (c.setFlags mask).trapcause = c.trapcause := rfl
@[simp] theorem Ctx.setFlags_trappc (c : Ctx) (mask : BitVec 16) : (c.setFlags mask).trappc = c.trappc := rfl
@[simp] theorem Ctx.setFlags_info0 (c : Ctx) (mask : BitVec 16) : (c.setFlags mask).info0 = c.info0 := rfl
@[simp] theorem Ctx.setFlags_info1 (c : Ctx) (mask : BitVec 16) : (c.setFlags mask).info1 = c.info1 := rfl
@[simp] theorem Ctx.setFlags_frame (c : Ctx) (mask : BitVec 16) : (c.setFlags mask).frame = c.frame := rfl
@[simp] theorem Ctx.setFlags_held (c : Ctx) (mask : BitVec 16) : (c.setFlags mask).held = c.held := rfl
@[simp] theorem Ctx.setFlags_sfault (c : Ctx) (mask : BitVec 16) : (c.setFlags mask).sfault = c.sfault := rfl
@[simp] theorem Ctx.setFlags_trapvec (c : Ctx) (mask : BitVec 16) : (c.setFlags mask).trapvec = c.trapvec := rfl
@[simp] theorem Ctx.setFlags_savebase (c : Ctx) (mask : BitVec 16) : (c.setFlags mask).savebase = c.savebase := rfl
@[simp] theorem Ctx.setFlags_tbase (c : Ctx) (mask : BitVec 16) : (c.setFlags mask).tbase = c.tbase := rfl
@[simp] theorem Ctx.setFlags_tsize (c : Ctx) (mask : BitVec 16) : (c.setFlags mask).tsize = c.tsize := rfl
@[simp] theorem Ctx.setFlags_tshared (c : Ctx) (mask : BitVec 16) : (c.setFlags mask).tshared = c.tshared := rfl
@[simp] theorem Ctx.setFlags_leftTag (c : Ctx) (mask : BitVec 16) : (c.setFlags mask).leftTag = c.leftTag := rfl
@[simp] theorem Ctx.setFlags_decoded (c : Ctx) (mask : BitVec 16) : (c.setFlags mask).decoded = c.decoded := rfl
@[simp] theorem Ctx.setFlags_flagScm (c : Ctx) (mask : BitVec 16) : (c.setFlags mask).flagScm = c.flagScm := rfl
@[simp] theorem Ctx.setFlags_tokScm (c : Ctx) (mask : BitVec 16) : (c.setFlags mask).tokScm = c.tokScm := rfl
@[simp] theorem Ctx.setFlags_accbanks (c : Ctx) (mask : BitVec 16) : (c.setFlags mask).accbanks = c.accbanks := rfl
@[simp] theorem Ctx.setFlags_pageroot (c : Ctx) (mask : BitVec 16) : (c.setFlags mask).pageroot = c.pageroot := rfl
@[simp] theorem Ctx.setFlags_asid (c : Ctx) (mask : BitVec 16) : (c.setFlags mask).asid = c.asid := rfl
@[simp] theorem Ctx.setFlags_launchid (c : Ctx) (mask : BitVec 16) : (c.setFlags mask).launchid = c.launchid := rfl
@[simp] theorem Ctx.setFlags_args (c : Ctx) (mask : BitVec 16) : (c.setFlags mask).args = c.args := rfl
@[simp] theorem Ctx.setFlags_res (c : Ctx) (mask : BitVec 16) : (c.setFlags mask).res = c.res := rfl
@[simp] theorem Ctx.setFlags_cycBase (c : Ctx) (mask : BitVec 16) : (c.setFlags mask).cycBase = c.cycBase := rfl
@[simp] theorem Ctx.setFlags_rcount (c : Ctx) (mask : BitVec 16) : (c.setFlags mask).rcount = c.rcount := rfl
@[simp] theorem Ctx.setFlags_rrun (c : Ctx) (mask : BitVec 16) : (c.setFlags mask).rrun = c.rrun := rfl
@[simp] theorem Ctx.setFlags_energy (c : Ctx) (mask : BitVec 16) : (c.setFlags mask).energy = c.energy := rfl
@[simp] theorem Ctx.setFlags_stalls (c : Ctx) (mask : BitVec 16) : (c.setFlags mask).stalls = c.stalls := rfl
@[simp] theorem Ctx.setFlags_marks (c : Ctx) (mask : BitVec 16) : (c.setFlags mask).marks = c.marks := rfl
@[simp] theorem Ctx.setFlags_leases (c : Ctx) (mask : BitVec 16) : (c.setFlags mask).leases = c.leases := rfl
@[simp] theorem Ctx.setFlags_skipS0 (c : Ctx) (mask : BitVec 16) : (c.setFlags mask).skipS0 = c.skipS0 := rfl
@[simp] theorem Ctx.setFlags_frozen (c : Ctx) (mask : BitVec 16) : (c.setFlags mask).frozen = c.frozen := rfl
@[simp] theorem Ctx.setFlags_ord (c : Ctx) (mask : BitVec 16) : (c.setFlags mask).ord = c.ord := rfl
@[simp] theorem Ctx.setFlags_launch (c : Ctx) (mask : BitVec 16) : (c.setFlags mask).launch = c.launch := rfl
@[simp] theorem Ctx.setFlags_guard (c : Ctx) (mask : BitVec 16) : (c.setFlags mask).guard = c.guard := rfl
@[simp] theorem Ctx.setFlags_unpersisted (c : Ctx) (mask : BitVec 16) : (c.setFlags mask).unpersisted = c.unpersisted := rfl

/-! `Ctx.clrFlags` -/

@[simp] theorem Ctx.clrFlags_phase (c : Ctx) (mask : BitVec 16) : (c.clrFlags mask).phase = c.phase := rfl
@[simp] theorem Ctx.clrFlags_pc (c : Ctx) (mask : BitVec 16) : (c.clrFlags mask).pc = c.pc := rfl
@[simp] theorem Ctx.clrFlags_rcLeft (c : Ctx) (mask : BitVec 16) : (c.clrFlags mask).rcLeft = c.rcLeft := rfl
@[simp] theorem Ctx.clrFlags_mid (c : Ctx) (mask : BitVec 16) : (c.clrFlags mask).mid = c.mid := rfl
@[simp] theorem Ctx.clrFlags_sys (c : Ctx) (mask : BitVec 16) : (c.clrFlags mask).sys = c.sys := rfl
@[simp] theorem Ctx.clrFlags_prog (c : Ctx) (mask : BitVec 16) : (c.clrFlags mask).prog = c.prog := rfl
@[simp] theorem Ctx.clrFlags_shad (c : Ctx) (mask : BitVec 16) : (c.clrFlags mask).shad = c.shad := rfl
@[simp] theorem Ctx.clrFlags_v (c : Ctx) (mask : BitVec 16) : (c.clrFlags mask).v = c.v := rfl
@[simp] theorem Ctx.clrFlags_vpres (c : Ctx) (mask : BitVec 16) : (c.clrFlags mask).vpres = c.vpres := rfl
@[simp] theorem Ctx.clrFlags_vpois (c : Ctx) (mask : BitVec 16) : (c.clrFlags mask).vpois = c.vpois := rfl
@[simp] theorem Ctx.clrFlags_vvalid (c : Ctx) (mask : BitVec 16) : (c.clrFlags mask).vvalid = c.vvalid := rfl
@[simp] theorem Ctx.clrFlags_vdirty (c : Ctx) (mask : BitVec 16) : (c.clrFlags mask).vdirty = c.vdirty := rfl
@[simp] theorem Ctx.clrFlags_vdec (c : Ctx) (mask : BitVec 16) : (c.clrFlags mask).vdec = c.vdec := rfl
@[simp] theorem Ctx.clrFlags_tokens (c : Ctx) (mask : BitVec 16) : (c.clrFlags mask).tokens = c.tokens := rfl
@[simp] theorem Ctx.clrFlags_tokOf (c : Ctx) (mask : BitVec 16) : (c.clrFlags mask).tokOf = c.tokOf := rfl
@[simp] theorem Ctx.clrFlags_engfail (c : Ctx) (mask : BitVec 16) : (c.clrFlags mask).engfail = c.engfail := rfl
@[simp] theorem Ctx.clrFlags_engrec (c : Ctx) (mask : BitVec 16) : (c.clrFlags mask).engrec = c.engrec := rfl
@[simp] theorem Ctx.clrFlags_fpstatus (c : Ctx) (mask : BitVec 16) : (c.clrFlags mask).fpstatus = c.fpstatus := rfl
@[simp] theorem Ctx.clrFlags_loops (c : Ctx) (mask : BitVec 16) : (c.clrFlags mask).loops = c.loops := rfl
@[simp] theorem Ctx.clrFlags_queues (c : Ctx) (mask : BitVec 16) : (c.clrFlags mask).queues = c.queues := rfl
@[simp] theorem Ctx.clrFlags_outs (c : Ctx) (mask : BitVec 16) : (c.clrFlags mask).outs = c.outs := rfl
@[simp] theorem Ctx.clrFlags_cursors (c : Ctx) (mask : BitVec 16) : (c.clrFlags mask).cursors = c.cursors := rfl
@[simp] theorem Ctx.clrFlags_sticky (c : Ctx) (mask : BitVec 16) : (c.clrFlags mask).sticky = c.sticky := rfl
@[simp] theorem Ctx.clrFlags_awc (c : Ctx) (mask : BitVec 16) : (c.clrFlags mask).awc = c.awc := rfl
@[simp] theorem Ctx.clrFlags_trapcause (c : Ctx) (mask : BitVec 16) : (c.clrFlags mask).trapcause = c.trapcause := rfl
@[simp] theorem Ctx.clrFlags_trappc (c : Ctx) (mask : BitVec 16) : (c.clrFlags mask).trappc = c.trappc := rfl
@[simp] theorem Ctx.clrFlags_info0 (c : Ctx) (mask : BitVec 16) : (c.clrFlags mask).info0 = c.info0 := rfl
@[simp] theorem Ctx.clrFlags_info1 (c : Ctx) (mask : BitVec 16) : (c.clrFlags mask).info1 = c.info1 := rfl
@[simp] theorem Ctx.clrFlags_frame (c : Ctx) (mask : BitVec 16) : (c.clrFlags mask).frame = c.frame := rfl
@[simp] theorem Ctx.clrFlags_held (c : Ctx) (mask : BitVec 16) : (c.clrFlags mask).held = c.held := rfl
@[simp] theorem Ctx.clrFlags_sfault (c : Ctx) (mask : BitVec 16) : (c.clrFlags mask).sfault = c.sfault := rfl
@[simp] theorem Ctx.clrFlags_trapvec (c : Ctx) (mask : BitVec 16) : (c.clrFlags mask).trapvec = c.trapvec := rfl
@[simp] theorem Ctx.clrFlags_savebase (c : Ctx) (mask : BitVec 16) : (c.clrFlags mask).savebase = c.savebase := rfl
@[simp] theorem Ctx.clrFlags_tbase (c : Ctx) (mask : BitVec 16) : (c.clrFlags mask).tbase = c.tbase := rfl
@[simp] theorem Ctx.clrFlags_tsize (c : Ctx) (mask : BitVec 16) : (c.clrFlags mask).tsize = c.tsize := rfl
@[simp] theorem Ctx.clrFlags_tshared (c : Ctx) (mask : BitVec 16) : (c.clrFlags mask).tshared = c.tshared := rfl
@[simp] theorem Ctx.clrFlags_leftTag (c : Ctx) (mask : BitVec 16) : (c.clrFlags mask).leftTag = c.leftTag := rfl
@[simp] theorem Ctx.clrFlags_decoded (c : Ctx) (mask : BitVec 16) : (c.clrFlags mask).decoded = c.decoded := rfl
@[simp] theorem Ctx.clrFlags_flagScm (c : Ctx) (mask : BitVec 16) : (c.clrFlags mask).flagScm = c.flagScm := rfl
@[simp] theorem Ctx.clrFlags_tokScm (c : Ctx) (mask : BitVec 16) : (c.clrFlags mask).tokScm = c.tokScm := rfl
@[simp] theorem Ctx.clrFlags_accbanks (c : Ctx) (mask : BitVec 16) : (c.clrFlags mask).accbanks = c.accbanks := rfl
@[simp] theorem Ctx.clrFlags_pageroot (c : Ctx) (mask : BitVec 16) : (c.clrFlags mask).pageroot = c.pageroot := rfl
@[simp] theorem Ctx.clrFlags_asid (c : Ctx) (mask : BitVec 16) : (c.clrFlags mask).asid = c.asid := rfl
@[simp] theorem Ctx.clrFlags_launchid (c : Ctx) (mask : BitVec 16) : (c.clrFlags mask).launchid = c.launchid := rfl
@[simp] theorem Ctx.clrFlags_args (c : Ctx) (mask : BitVec 16) : (c.clrFlags mask).args = c.args := rfl
@[simp] theorem Ctx.clrFlags_res (c : Ctx) (mask : BitVec 16) : (c.clrFlags mask).res = c.res := rfl
@[simp] theorem Ctx.clrFlags_cycBase (c : Ctx) (mask : BitVec 16) : (c.clrFlags mask).cycBase = c.cycBase := rfl
@[simp] theorem Ctx.clrFlags_rcount (c : Ctx) (mask : BitVec 16) : (c.clrFlags mask).rcount = c.rcount := rfl
@[simp] theorem Ctx.clrFlags_rrun (c : Ctx) (mask : BitVec 16) : (c.clrFlags mask).rrun = c.rrun := rfl
@[simp] theorem Ctx.clrFlags_energy (c : Ctx) (mask : BitVec 16) : (c.clrFlags mask).energy = c.energy := rfl
@[simp] theorem Ctx.clrFlags_stalls (c : Ctx) (mask : BitVec 16) : (c.clrFlags mask).stalls = c.stalls := rfl
@[simp] theorem Ctx.clrFlags_marks (c : Ctx) (mask : BitVec 16) : (c.clrFlags mask).marks = c.marks := rfl
@[simp] theorem Ctx.clrFlags_leases (c : Ctx) (mask : BitVec 16) : (c.clrFlags mask).leases = c.leases := rfl
@[simp] theorem Ctx.clrFlags_skipS0 (c : Ctx) (mask : BitVec 16) : (c.clrFlags mask).skipS0 = c.skipS0 := rfl
@[simp] theorem Ctx.clrFlags_frozen (c : Ctx) (mask : BitVec 16) : (c.clrFlags mask).frozen = c.frozen := rfl
@[simp] theorem Ctx.clrFlags_ord (c : Ctx) (mask : BitVec 16) : (c.clrFlags mask).ord = c.ord := rfl
@[simp] theorem Ctx.clrFlags_launch (c : Ctx) (mask : BitVec 16) : (c.clrFlags mask).launch = c.launch := rfl
@[simp] theorem Ctx.clrFlags_guard (c : Ctx) (mask : BitVec 16) : (c.clrFlags mask).guard = c.guard := rfl
@[simp] theorem Ctx.clrFlags_unpersisted (c : Ctx) (mask : BitVec 16) : (c.clrFlags mask).unpersisted = c.unpersisted := rfl

/-! `Ctx.goto` -/

@[simp] theorem Ctx.goto_phase (c : Ctx) (target : Nat) : (c.goto target).phase = c.phase := rfl
@[simp] theorem Ctx.goto_sys (c : Ctx) (target : Nat) : (c.goto target).sys = c.sys := rfl
@[simp] theorem Ctx.goto_prog (c : Ctx) (target : Nat) : (c.goto target).prog = c.prog := rfl
@[simp] theorem Ctx.goto_shad (c : Ctx) (target : Nat) : (c.goto target).shad = c.shad := rfl
@[simp] theorem Ctx.goto_v (c : Ctx) (target : Nat) : (c.goto target).v = c.v := rfl
@[simp] theorem Ctx.goto_vpres (c : Ctx) (target : Nat) : (c.goto target).vpres = c.vpres := rfl
@[simp] theorem Ctx.goto_vpois (c : Ctx) (target : Nat) : (c.goto target).vpois = c.vpois := rfl
@[simp] theorem Ctx.goto_vvalid (c : Ctx) (target : Nat) : (c.goto target).vvalid = c.vvalid := rfl
@[simp] theorem Ctx.goto_vdirty (c : Ctx) (target : Nat) : (c.goto target).vdirty = c.vdirty := rfl
@[simp] theorem Ctx.goto_vdec (c : Ctx) (target : Nat) : (c.goto target).vdec = c.vdec := rfl
@[simp] theorem Ctx.goto_flags (c : Ctx) (target : Nat) : (c.goto target).flags = c.flags := rfl
@[simp] theorem Ctx.goto_tokens (c : Ctx) (target : Nat) : (c.goto target).tokens = c.tokens := rfl
@[simp] theorem Ctx.goto_tokOf (c : Ctx) (target : Nat) : (c.goto target).tokOf = c.tokOf := rfl
@[simp] theorem Ctx.goto_engfail (c : Ctx) (target : Nat) : (c.goto target).engfail = c.engfail := rfl
@[simp] theorem Ctx.goto_engrec (c : Ctx) (target : Nat) : (c.goto target).engrec = c.engrec := rfl
@[simp] theorem Ctx.goto_fpstatus (c : Ctx) (target : Nat) : (c.goto target).fpstatus = c.fpstatus := rfl
@[simp] theorem Ctx.goto_queues (c : Ctx) (target : Nat) : (c.goto target).queues = c.queues := rfl
@[simp] theorem Ctx.goto_outs (c : Ctx) (target : Nat) : (c.goto target).outs = c.outs := rfl
@[simp] theorem Ctx.goto_cursors (c : Ctx) (target : Nat) : (c.goto target).cursors = c.cursors := rfl
@[simp] theorem Ctx.goto_sticky (c : Ctx) (target : Nat) : (c.goto target).sticky = c.sticky := rfl
@[simp] theorem Ctx.goto_awc (c : Ctx) (target : Nat) : (c.goto target).awc = c.awc := rfl
@[simp] theorem Ctx.goto_trapcause (c : Ctx) (target : Nat) : (c.goto target).trapcause = c.trapcause := rfl
@[simp] theorem Ctx.goto_trappc (c : Ctx) (target : Nat) : (c.goto target).trappc = c.trappc := rfl
@[simp] theorem Ctx.goto_info0 (c : Ctx) (target : Nat) : (c.goto target).info0 = c.info0 := rfl
@[simp] theorem Ctx.goto_info1 (c : Ctx) (target : Nat) : (c.goto target).info1 = c.info1 := rfl
@[simp] theorem Ctx.goto_frame (c : Ctx) (target : Nat) : (c.goto target).frame = c.frame := rfl
@[simp] theorem Ctx.goto_held (c : Ctx) (target : Nat) : (c.goto target).held = c.held := rfl
@[simp] theorem Ctx.goto_sfault (c : Ctx) (target : Nat) : (c.goto target).sfault = c.sfault := rfl
@[simp] theorem Ctx.goto_trapvec (c : Ctx) (target : Nat) : (c.goto target).trapvec = c.trapvec := rfl
@[simp] theorem Ctx.goto_savebase (c : Ctx) (target : Nat) : (c.goto target).savebase = c.savebase := rfl
@[simp] theorem Ctx.goto_tbase (c : Ctx) (target : Nat) : (c.goto target).tbase = c.tbase := rfl
@[simp] theorem Ctx.goto_tsize (c : Ctx) (target : Nat) : (c.goto target).tsize = c.tsize := rfl
@[simp] theorem Ctx.goto_tshared (c : Ctx) (target : Nat) : (c.goto target).tshared = c.tshared := rfl
@[simp] theorem Ctx.goto_leftTag (c : Ctx) (target : Nat) : (c.goto target).leftTag = c.leftTag := rfl
@[simp] theorem Ctx.goto_decoded (c : Ctx) (target : Nat) : (c.goto target).decoded = c.decoded := rfl
@[simp] theorem Ctx.goto_flagScm (c : Ctx) (target : Nat) : (c.goto target).flagScm = c.flagScm := rfl
@[simp] theorem Ctx.goto_tokScm (c : Ctx) (target : Nat) : (c.goto target).tokScm = c.tokScm := rfl
@[simp] theorem Ctx.goto_accbanks (c : Ctx) (target : Nat) : (c.goto target).accbanks = c.accbanks := rfl
@[simp] theorem Ctx.goto_pageroot (c : Ctx) (target : Nat) : (c.goto target).pageroot = c.pageroot := rfl
@[simp] theorem Ctx.goto_asid (c : Ctx) (target : Nat) : (c.goto target).asid = c.asid := rfl
@[simp] theorem Ctx.goto_launchid (c : Ctx) (target : Nat) : (c.goto target).launchid = c.launchid := rfl
@[simp] theorem Ctx.goto_args (c : Ctx) (target : Nat) : (c.goto target).args = c.args := rfl
@[simp] theorem Ctx.goto_res (c : Ctx) (target : Nat) : (c.goto target).res = c.res := rfl
@[simp] theorem Ctx.goto_cycBase (c : Ctx) (target : Nat) : (c.goto target).cycBase = c.cycBase := rfl
@[simp] theorem Ctx.goto_rcount (c : Ctx) (target : Nat) : (c.goto target).rcount = c.rcount := rfl
@[simp] theorem Ctx.goto_rrun (c : Ctx) (target : Nat) : (c.goto target).rrun = c.rrun := rfl
@[simp] theorem Ctx.goto_energy (c : Ctx) (target : Nat) : (c.goto target).energy = c.energy := rfl
@[simp] theorem Ctx.goto_stalls (c : Ctx) (target : Nat) : (c.goto target).stalls = c.stalls := rfl
@[simp] theorem Ctx.goto_marks (c : Ctx) (target : Nat) : (c.goto target).marks = c.marks := rfl
@[simp] theorem Ctx.goto_leases (c : Ctx) (target : Nat) : (c.goto target).leases = c.leases := rfl
@[simp] theorem Ctx.goto_skipS0 (c : Ctx) (target : Nat) : (c.goto target).skipS0 = c.skipS0 := rfl
@[simp] theorem Ctx.goto_frozen (c : Ctx) (target : Nat) : (c.goto target).frozen = c.frozen := rfl
@[simp] theorem Ctx.goto_ord (c : Ctx) (target : Nat) : (c.goto target).ord = c.ord := rfl
@[simp] theorem Ctx.goto_launch (c : Ctx) (target : Nat) : (c.goto target).launch = c.launch := rfl
@[simp] theorem Ctx.goto_guard (c : Ctx) (target : Nat) : (c.goto target).guard = c.guard := rfl
@[simp] theorem Ctx.goto_unpersisted (c : Ctx) (target : Nat) : (c.goto target).unpersisted = c.unpersisted := rfl

/-! `Ctx.fallThrough` -/

@[simp] theorem Ctx.fallThrough_phase (c : Ctx) (nxt : Nat) : (c.fallThrough nxt).phase = c.phase := rfl
@[simp] theorem Ctx.fallThrough_sys (c : Ctx) (nxt : Nat) : (c.fallThrough nxt).sys = c.sys := rfl
@[simp] theorem Ctx.fallThrough_prog (c : Ctx) (nxt : Nat) : (c.fallThrough nxt).prog = c.prog := rfl
@[simp] theorem Ctx.fallThrough_shad (c : Ctx) (nxt : Nat) : (c.fallThrough nxt).shad = c.shad := rfl
@[simp] theorem Ctx.fallThrough_v (c : Ctx) (nxt : Nat) : (c.fallThrough nxt).v = c.v := rfl
@[simp] theorem Ctx.fallThrough_vpres (c : Ctx) (nxt : Nat) : (c.fallThrough nxt).vpres = c.vpres := rfl
@[simp] theorem Ctx.fallThrough_vpois (c : Ctx) (nxt : Nat) : (c.fallThrough nxt).vpois = c.vpois := rfl
@[simp] theorem Ctx.fallThrough_vvalid (c : Ctx) (nxt : Nat) : (c.fallThrough nxt).vvalid = c.vvalid := rfl
@[simp] theorem Ctx.fallThrough_vdirty (c : Ctx) (nxt : Nat) : (c.fallThrough nxt).vdirty = c.vdirty := rfl
@[simp] theorem Ctx.fallThrough_vdec (c : Ctx) (nxt : Nat) : (c.fallThrough nxt).vdec = c.vdec := rfl
@[simp] theorem Ctx.fallThrough_flags (c : Ctx) (nxt : Nat) : (c.fallThrough nxt).flags = c.flags := rfl
@[simp] theorem Ctx.fallThrough_tokens (c : Ctx) (nxt : Nat) : (c.fallThrough nxt).tokens = c.tokens := rfl
@[simp] theorem Ctx.fallThrough_tokOf (c : Ctx) (nxt : Nat) : (c.fallThrough nxt).tokOf = c.tokOf := rfl
@[simp] theorem Ctx.fallThrough_engfail (c : Ctx) (nxt : Nat) : (c.fallThrough nxt).engfail = c.engfail := rfl
@[simp] theorem Ctx.fallThrough_engrec (c : Ctx) (nxt : Nat) : (c.fallThrough nxt).engrec = c.engrec := rfl
@[simp] theorem Ctx.fallThrough_fpstatus (c : Ctx) (nxt : Nat) : (c.fallThrough nxt).fpstatus = c.fpstatus := rfl
@[simp] theorem Ctx.fallThrough_queues (c : Ctx) (nxt : Nat) : (c.fallThrough nxt).queues = c.queues := rfl
@[simp] theorem Ctx.fallThrough_outs (c : Ctx) (nxt : Nat) : (c.fallThrough nxt).outs = c.outs := rfl
@[simp] theorem Ctx.fallThrough_cursors (c : Ctx) (nxt : Nat) : (c.fallThrough nxt).cursors = c.cursors := rfl
@[simp] theorem Ctx.fallThrough_sticky (c : Ctx) (nxt : Nat) : (c.fallThrough nxt).sticky = c.sticky := rfl
@[simp] theorem Ctx.fallThrough_awc (c : Ctx) (nxt : Nat) : (c.fallThrough nxt).awc = c.awc := rfl
@[simp] theorem Ctx.fallThrough_trapcause (c : Ctx) (nxt : Nat) : (c.fallThrough nxt).trapcause = c.trapcause := rfl
@[simp] theorem Ctx.fallThrough_trappc (c : Ctx) (nxt : Nat) : (c.fallThrough nxt).trappc = c.trappc := rfl
@[simp] theorem Ctx.fallThrough_info0 (c : Ctx) (nxt : Nat) : (c.fallThrough nxt).info0 = c.info0 := rfl
@[simp] theorem Ctx.fallThrough_info1 (c : Ctx) (nxt : Nat) : (c.fallThrough nxt).info1 = c.info1 := rfl
@[simp] theorem Ctx.fallThrough_frame (c : Ctx) (nxt : Nat) : (c.fallThrough nxt).frame = c.frame := rfl
@[simp] theorem Ctx.fallThrough_held (c : Ctx) (nxt : Nat) : (c.fallThrough nxt).held = c.held := rfl
@[simp] theorem Ctx.fallThrough_sfault (c : Ctx) (nxt : Nat) : (c.fallThrough nxt).sfault = c.sfault := rfl
@[simp] theorem Ctx.fallThrough_trapvec (c : Ctx) (nxt : Nat) : (c.fallThrough nxt).trapvec = c.trapvec := rfl
@[simp] theorem Ctx.fallThrough_savebase (c : Ctx) (nxt : Nat) : (c.fallThrough nxt).savebase = c.savebase := rfl
@[simp] theorem Ctx.fallThrough_tbase (c : Ctx) (nxt : Nat) : (c.fallThrough nxt).tbase = c.tbase := rfl
@[simp] theorem Ctx.fallThrough_tsize (c : Ctx) (nxt : Nat) : (c.fallThrough nxt).tsize = c.tsize := rfl
@[simp] theorem Ctx.fallThrough_tshared (c : Ctx) (nxt : Nat) : (c.fallThrough nxt).tshared = c.tshared := rfl
@[simp] theorem Ctx.fallThrough_leftTag (c : Ctx) (nxt : Nat) : (c.fallThrough nxt).leftTag = c.leftTag := rfl
@[simp] theorem Ctx.fallThrough_decoded (c : Ctx) (nxt : Nat) : (c.fallThrough nxt).decoded = c.decoded := rfl
@[simp] theorem Ctx.fallThrough_flagScm (c : Ctx) (nxt : Nat) : (c.fallThrough nxt).flagScm = c.flagScm := rfl
@[simp] theorem Ctx.fallThrough_tokScm (c : Ctx) (nxt : Nat) : (c.fallThrough nxt).tokScm = c.tokScm := rfl
@[simp] theorem Ctx.fallThrough_accbanks (c : Ctx) (nxt : Nat) : (c.fallThrough nxt).accbanks = c.accbanks := rfl
@[simp] theorem Ctx.fallThrough_pageroot (c : Ctx) (nxt : Nat) : (c.fallThrough nxt).pageroot = c.pageroot := rfl
@[simp] theorem Ctx.fallThrough_asid (c : Ctx) (nxt : Nat) : (c.fallThrough nxt).asid = c.asid := rfl
@[simp] theorem Ctx.fallThrough_launchid (c : Ctx) (nxt : Nat) : (c.fallThrough nxt).launchid = c.launchid := rfl
@[simp] theorem Ctx.fallThrough_args (c : Ctx) (nxt : Nat) : (c.fallThrough nxt).args = c.args := rfl
@[simp] theorem Ctx.fallThrough_res (c : Ctx) (nxt : Nat) : (c.fallThrough nxt).res = c.res := rfl
@[simp] theorem Ctx.fallThrough_cycBase (c : Ctx) (nxt : Nat) : (c.fallThrough nxt).cycBase = c.cycBase := rfl
@[simp] theorem Ctx.fallThrough_rcount (c : Ctx) (nxt : Nat) : (c.fallThrough nxt).rcount = c.rcount := rfl
@[simp] theorem Ctx.fallThrough_rrun (c : Ctx) (nxt : Nat) : (c.fallThrough nxt).rrun = c.rrun := rfl
@[simp] theorem Ctx.fallThrough_energy (c : Ctx) (nxt : Nat) : (c.fallThrough nxt).energy = c.energy := rfl
@[simp] theorem Ctx.fallThrough_stalls (c : Ctx) (nxt : Nat) : (c.fallThrough nxt).stalls = c.stalls := rfl
@[simp] theorem Ctx.fallThrough_marks (c : Ctx) (nxt : Nat) : (c.fallThrough nxt).marks = c.marks := rfl
@[simp] theorem Ctx.fallThrough_leases (c : Ctx) (nxt : Nat) : (c.fallThrough nxt).leases = c.leases := rfl
@[simp] theorem Ctx.fallThrough_skipS0 (c : Ctx) (nxt : Nat) : (c.fallThrough nxt).skipS0 = c.skipS0 := rfl
@[simp] theorem Ctx.fallThrough_frozen (c : Ctx) (nxt : Nat) : (c.fallThrough nxt).frozen = c.frozen := rfl
@[simp] theorem Ctx.fallThrough_ord (c : Ctx) (nxt : Nat) : (c.fallThrough nxt).ord = c.ord := rfl
@[simp] theorem Ctx.fallThrough_launch (c : Ctx) (nxt : Nat) : (c.fallThrough nxt).launch = c.launch := rfl
@[simp] theorem Ctx.fallThrough_guard (c : Ctx) (nxt : Nat) : (c.fallThrough nxt).guard = c.guard := rfl
@[simp] theorem Ctx.fallThrough_unpersisted (c : Ctx) (nxt : Nat) : (c.fallThrough nxt).unpersisted = c.unpersisted := rfl

/-! `Ctx.setQueue` -/

@[simp] theorem Ctx.setQueue_phase (c : Ctx) (slot : Nat) (q : List Entry) : (c.setQueue slot q).phase = c.phase := rfl
@[simp] theorem Ctx.setQueue_pc (c : Ctx) (slot : Nat) (q : List Entry) : (c.setQueue slot q).pc = c.pc := rfl
@[simp] theorem Ctx.setQueue_rcLeft (c : Ctx) (slot : Nat) (q : List Entry) : (c.setQueue slot q).rcLeft = c.rcLeft := rfl
@[simp] theorem Ctx.setQueue_mid (c : Ctx) (slot : Nat) (q : List Entry) : (c.setQueue slot q).mid = c.mid := rfl
@[simp] theorem Ctx.setQueue_sys (c : Ctx) (slot : Nat) (q : List Entry) : (c.setQueue slot q).sys = c.sys := rfl
@[simp] theorem Ctx.setQueue_prog (c : Ctx) (slot : Nat) (q : List Entry) : (c.setQueue slot q).prog = c.prog := rfl
@[simp] theorem Ctx.setQueue_shad (c : Ctx) (slot : Nat) (q : List Entry) : (c.setQueue slot q).shad = c.shad := rfl
@[simp] theorem Ctx.setQueue_v (c : Ctx) (slot : Nat) (q : List Entry) : (c.setQueue slot q).v = c.v := rfl
@[simp] theorem Ctx.setQueue_vpres (c : Ctx) (slot : Nat) (q : List Entry) : (c.setQueue slot q).vpres = c.vpres := rfl
@[simp] theorem Ctx.setQueue_vpois (c : Ctx) (slot : Nat) (q : List Entry) : (c.setQueue slot q).vpois = c.vpois := rfl
@[simp] theorem Ctx.setQueue_vvalid (c : Ctx) (slot : Nat) (q : List Entry) : (c.setQueue slot q).vvalid = c.vvalid := rfl
@[simp] theorem Ctx.setQueue_vdirty (c : Ctx) (slot : Nat) (q : List Entry) : (c.setQueue slot q).vdirty = c.vdirty := rfl
@[simp] theorem Ctx.setQueue_vdec (c : Ctx) (slot : Nat) (q : List Entry) : (c.setQueue slot q).vdec = c.vdec := rfl
@[simp] theorem Ctx.setQueue_flags (c : Ctx) (slot : Nat) (q : List Entry) : (c.setQueue slot q).flags = c.flags := rfl
@[simp] theorem Ctx.setQueue_tokens (c : Ctx) (slot : Nat) (q : List Entry) : (c.setQueue slot q).tokens = c.tokens := rfl
@[simp] theorem Ctx.setQueue_tokOf (c : Ctx) (slot : Nat) (q : List Entry) : (c.setQueue slot q).tokOf = c.tokOf := rfl
@[simp] theorem Ctx.setQueue_engfail (c : Ctx) (slot : Nat) (q : List Entry) : (c.setQueue slot q).engfail = c.engfail := rfl
@[simp] theorem Ctx.setQueue_engrec (c : Ctx) (slot : Nat) (q : List Entry) : (c.setQueue slot q).engrec = c.engrec := rfl
@[simp] theorem Ctx.setQueue_fpstatus (c : Ctx) (slot : Nat) (q : List Entry) : (c.setQueue slot q).fpstatus = c.fpstatus := rfl
@[simp] theorem Ctx.setQueue_loops (c : Ctx) (slot : Nat) (q : List Entry) : (c.setQueue slot q).loops = c.loops := rfl
@[simp] theorem Ctx.setQueue_outs (c : Ctx) (slot : Nat) (q : List Entry) : (c.setQueue slot q).outs = c.outs := rfl
@[simp] theorem Ctx.setQueue_cursors (c : Ctx) (slot : Nat) (q : List Entry) : (c.setQueue slot q).cursors = c.cursors := rfl
@[simp] theorem Ctx.setQueue_sticky (c : Ctx) (slot : Nat) (q : List Entry) : (c.setQueue slot q).sticky = c.sticky := rfl
@[simp] theorem Ctx.setQueue_awc (c : Ctx) (slot : Nat) (q : List Entry) : (c.setQueue slot q).awc = c.awc := rfl
@[simp] theorem Ctx.setQueue_trapcause (c : Ctx) (slot : Nat) (q : List Entry) : (c.setQueue slot q).trapcause = c.trapcause := rfl
@[simp] theorem Ctx.setQueue_trappc (c : Ctx) (slot : Nat) (q : List Entry) : (c.setQueue slot q).trappc = c.trappc := rfl
@[simp] theorem Ctx.setQueue_info0 (c : Ctx) (slot : Nat) (q : List Entry) : (c.setQueue slot q).info0 = c.info0 := rfl
@[simp] theorem Ctx.setQueue_info1 (c : Ctx) (slot : Nat) (q : List Entry) : (c.setQueue slot q).info1 = c.info1 := rfl
@[simp] theorem Ctx.setQueue_frame (c : Ctx) (slot : Nat) (q : List Entry) : (c.setQueue slot q).frame = c.frame := rfl
@[simp] theorem Ctx.setQueue_held (c : Ctx) (slot : Nat) (q : List Entry) : (c.setQueue slot q).held = c.held := rfl
@[simp] theorem Ctx.setQueue_sfault (c : Ctx) (slot : Nat) (q : List Entry) : (c.setQueue slot q).sfault = c.sfault := rfl
@[simp] theorem Ctx.setQueue_trapvec (c : Ctx) (slot : Nat) (q : List Entry) : (c.setQueue slot q).trapvec = c.trapvec := rfl
@[simp] theorem Ctx.setQueue_savebase (c : Ctx) (slot : Nat) (q : List Entry) : (c.setQueue slot q).savebase = c.savebase := rfl
@[simp] theorem Ctx.setQueue_tbase (c : Ctx) (slot : Nat) (q : List Entry) : (c.setQueue slot q).tbase = c.tbase := rfl
@[simp] theorem Ctx.setQueue_tsize (c : Ctx) (slot : Nat) (q : List Entry) : (c.setQueue slot q).tsize = c.tsize := rfl
@[simp] theorem Ctx.setQueue_tshared (c : Ctx) (slot : Nat) (q : List Entry) : (c.setQueue slot q).tshared = c.tshared := rfl
@[simp] theorem Ctx.setQueue_leftTag (c : Ctx) (slot : Nat) (q : List Entry) : (c.setQueue slot q).leftTag = c.leftTag := rfl
@[simp] theorem Ctx.setQueue_decoded (c : Ctx) (slot : Nat) (q : List Entry) : (c.setQueue slot q).decoded = c.decoded := rfl
@[simp] theorem Ctx.setQueue_flagScm (c : Ctx) (slot : Nat) (q : List Entry) : (c.setQueue slot q).flagScm = c.flagScm := rfl
@[simp] theorem Ctx.setQueue_tokScm (c : Ctx) (slot : Nat) (q : List Entry) : (c.setQueue slot q).tokScm = c.tokScm := rfl
@[simp] theorem Ctx.setQueue_accbanks (c : Ctx) (slot : Nat) (q : List Entry) : (c.setQueue slot q).accbanks = c.accbanks := rfl
@[simp] theorem Ctx.setQueue_pageroot (c : Ctx) (slot : Nat) (q : List Entry) : (c.setQueue slot q).pageroot = c.pageroot := rfl
@[simp] theorem Ctx.setQueue_asid (c : Ctx) (slot : Nat) (q : List Entry) : (c.setQueue slot q).asid = c.asid := rfl
@[simp] theorem Ctx.setQueue_launchid (c : Ctx) (slot : Nat) (q : List Entry) : (c.setQueue slot q).launchid = c.launchid := rfl
@[simp] theorem Ctx.setQueue_args (c : Ctx) (slot : Nat) (q : List Entry) : (c.setQueue slot q).args = c.args := rfl
@[simp] theorem Ctx.setQueue_res (c : Ctx) (slot : Nat) (q : List Entry) : (c.setQueue slot q).res = c.res := rfl
@[simp] theorem Ctx.setQueue_cycBase (c : Ctx) (slot : Nat) (q : List Entry) : (c.setQueue slot q).cycBase = c.cycBase := rfl
@[simp] theorem Ctx.setQueue_rcount (c : Ctx) (slot : Nat) (q : List Entry) : (c.setQueue slot q).rcount = c.rcount := rfl
@[simp] theorem Ctx.setQueue_rrun (c : Ctx) (slot : Nat) (q : List Entry) : (c.setQueue slot q).rrun = c.rrun := rfl
@[simp] theorem Ctx.setQueue_energy (c : Ctx) (slot : Nat) (q : List Entry) : (c.setQueue slot q).energy = c.energy := rfl
@[simp] theorem Ctx.setQueue_stalls (c : Ctx) (slot : Nat) (q : List Entry) : (c.setQueue slot q).stalls = c.stalls := rfl
@[simp] theorem Ctx.setQueue_marks (c : Ctx) (slot : Nat) (q : List Entry) : (c.setQueue slot q).marks = c.marks := rfl
@[simp] theorem Ctx.setQueue_leases (c : Ctx) (slot : Nat) (q : List Entry) : (c.setQueue slot q).leases = c.leases := rfl
@[simp] theorem Ctx.setQueue_skipS0 (c : Ctx) (slot : Nat) (q : List Entry) : (c.setQueue slot q).skipS0 = c.skipS0 := rfl
@[simp] theorem Ctx.setQueue_frozen (c : Ctx) (slot : Nat) (q : List Entry) : (c.setQueue slot q).frozen = c.frozen := rfl
@[simp] theorem Ctx.setQueue_ord (c : Ctx) (slot : Nat) (q : List Entry) : (c.setQueue slot q).ord = c.ord := rfl
@[simp] theorem Ctx.setQueue_launch (c : Ctx) (slot : Nat) (q : List Entry) : (c.setQueue slot q).launch = c.launch := rfl
@[simp] theorem Ctx.setQueue_guard (c : Ctx) (slot : Nat) (q : List Entry) : (c.setQueue slot q).guard = c.guard := rfl
@[simp] theorem Ctx.setQueue_unpersisted (c : Ctx) (slot : Nat) (q : List Entry) : (c.setQueue slot q).unpersisted = c.unpersisted := rfl

/-! `Ctx.putVec` -/

@[simp] theorem Ctx.putVec_phase (c : Ctx) (i : Nat) (v : Map W32) (poison : Bool) : (c.putVec i v poison).phase = c.phase := rfl
@[simp] theorem Ctx.putVec_pc (c : Ctx) (i : Nat) (v : Map W32) (poison : Bool) : (c.putVec i v poison).pc = c.pc := rfl
@[simp] theorem Ctx.putVec_rcLeft (c : Ctx) (i : Nat) (v : Map W32) (poison : Bool) : (c.putVec i v poison).rcLeft = c.rcLeft := rfl
@[simp] theorem Ctx.putVec_mid (c : Ctx) (i : Nat) (v : Map W32) (poison : Bool) : (c.putVec i v poison).mid = c.mid := rfl
@[simp] theorem Ctx.putVec_sys (c : Ctx) (i : Nat) (v : Map W32) (poison : Bool) : (c.putVec i v poison).sys = c.sys := rfl
@[simp] theorem Ctx.putVec_prog (c : Ctx) (i : Nat) (v : Map W32) (poison : Bool) : (c.putVec i v poison).prog = c.prog := rfl
@[simp] theorem Ctx.putVec_shad (c : Ctx) (i : Nat) (v : Map W32) (poison : Bool) : (c.putVec i v poison).shad = c.shad := rfl
@[simp] theorem Ctx.putVec_vpres (c : Ctx) (i : Nat) (v : Map W32) (poison : Bool) : (c.putVec i v poison).vpres = c.vpres := rfl
@[simp] theorem Ctx.putVec_vdec (c : Ctx) (i : Nat) (v : Map W32) (poison : Bool) : (c.putVec i v poison).vdec = c.vdec := rfl
@[simp] theorem Ctx.putVec_flags (c : Ctx) (i : Nat) (v : Map W32) (poison : Bool) : (c.putVec i v poison).flags = c.flags := rfl
@[simp] theorem Ctx.putVec_tokens (c : Ctx) (i : Nat) (v : Map W32) (poison : Bool) : (c.putVec i v poison).tokens = c.tokens := rfl
@[simp] theorem Ctx.putVec_tokOf (c : Ctx) (i : Nat) (v : Map W32) (poison : Bool) : (c.putVec i v poison).tokOf = c.tokOf := rfl
@[simp] theorem Ctx.putVec_engfail (c : Ctx) (i : Nat) (v : Map W32) (poison : Bool) : (c.putVec i v poison).engfail = c.engfail := rfl
@[simp] theorem Ctx.putVec_engrec (c : Ctx) (i : Nat) (v : Map W32) (poison : Bool) : (c.putVec i v poison).engrec = c.engrec := rfl
@[simp] theorem Ctx.putVec_fpstatus (c : Ctx) (i : Nat) (v : Map W32) (poison : Bool) : (c.putVec i v poison).fpstatus = c.fpstatus := rfl
@[simp] theorem Ctx.putVec_loops (c : Ctx) (i : Nat) (v : Map W32) (poison : Bool) : (c.putVec i v poison).loops = c.loops := rfl
@[simp] theorem Ctx.putVec_queues (c : Ctx) (i : Nat) (v : Map W32) (poison : Bool) : (c.putVec i v poison).queues = c.queues := rfl
@[simp] theorem Ctx.putVec_outs (c : Ctx) (i : Nat) (v : Map W32) (poison : Bool) : (c.putVec i v poison).outs = c.outs := rfl
@[simp] theorem Ctx.putVec_cursors (c : Ctx) (i : Nat) (v : Map W32) (poison : Bool) : (c.putVec i v poison).cursors = c.cursors := rfl
@[simp] theorem Ctx.putVec_sticky (c : Ctx) (i : Nat) (v : Map W32) (poison : Bool) : (c.putVec i v poison).sticky = c.sticky := rfl
@[simp] theorem Ctx.putVec_awc (c : Ctx) (i : Nat) (v : Map W32) (poison : Bool) : (c.putVec i v poison).awc = c.awc := rfl
@[simp] theorem Ctx.putVec_trapcause (c : Ctx) (i : Nat) (v : Map W32) (poison : Bool) : (c.putVec i v poison).trapcause = c.trapcause := rfl
@[simp] theorem Ctx.putVec_trappc (c : Ctx) (i : Nat) (v : Map W32) (poison : Bool) : (c.putVec i v poison).trappc = c.trappc := rfl
@[simp] theorem Ctx.putVec_info0 (c : Ctx) (i : Nat) (v : Map W32) (poison : Bool) : (c.putVec i v poison).info0 = c.info0 := rfl
@[simp] theorem Ctx.putVec_info1 (c : Ctx) (i : Nat) (v : Map W32) (poison : Bool) : (c.putVec i v poison).info1 = c.info1 := rfl
@[simp] theorem Ctx.putVec_frame (c : Ctx) (i : Nat) (v : Map W32) (poison : Bool) : (c.putVec i v poison).frame = c.frame := rfl
@[simp] theorem Ctx.putVec_held (c : Ctx) (i : Nat) (v : Map W32) (poison : Bool) : (c.putVec i v poison).held = c.held := rfl
@[simp] theorem Ctx.putVec_sfault (c : Ctx) (i : Nat) (v : Map W32) (poison : Bool) : (c.putVec i v poison).sfault = c.sfault := rfl
@[simp] theorem Ctx.putVec_trapvec (c : Ctx) (i : Nat) (v : Map W32) (poison : Bool) : (c.putVec i v poison).trapvec = c.trapvec := rfl
@[simp] theorem Ctx.putVec_savebase (c : Ctx) (i : Nat) (v : Map W32) (poison : Bool) : (c.putVec i v poison).savebase = c.savebase := rfl
@[simp] theorem Ctx.putVec_tbase (c : Ctx) (i : Nat) (v : Map W32) (poison : Bool) : (c.putVec i v poison).tbase = c.tbase := rfl
@[simp] theorem Ctx.putVec_tsize (c : Ctx) (i : Nat) (v : Map W32) (poison : Bool) : (c.putVec i v poison).tsize = c.tsize := rfl
@[simp] theorem Ctx.putVec_tshared (c : Ctx) (i : Nat) (v : Map W32) (poison : Bool) : (c.putVec i v poison).tshared = c.tshared := rfl
@[simp] theorem Ctx.putVec_leftTag (c : Ctx) (i : Nat) (v : Map W32) (poison : Bool) : (c.putVec i v poison).leftTag = c.leftTag := rfl
@[simp] theorem Ctx.putVec_decoded (c : Ctx) (i : Nat) (v : Map W32) (poison : Bool) : (c.putVec i v poison).decoded = c.decoded := rfl
@[simp] theorem Ctx.putVec_flagScm (c : Ctx) (i : Nat) (v : Map W32) (poison : Bool) : (c.putVec i v poison).flagScm = c.flagScm := rfl
@[simp] theorem Ctx.putVec_tokScm (c : Ctx) (i : Nat) (v : Map W32) (poison : Bool) : (c.putVec i v poison).tokScm = c.tokScm := rfl
@[simp] theorem Ctx.putVec_accbanks (c : Ctx) (i : Nat) (v : Map W32) (poison : Bool) : (c.putVec i v poison).accbanks = c.accbanks := rfl
@[simp] theorem Ctx.putVec_pageroot (c : Ctx) (i : Nat) (v : Map W32) (poison : Bool) : (c.putVec i v poison).pageroot = c.pageroot := rfl
@[simp] theorem Ctx.putVec_asid (c : Ctx) (i : Nat) (v : Map W32) (poison : Bool) : (c.putVec i v poison).asid = c.asid := rfl
@[simp] theorem Ctx.putVec_launchid (c : Ctx) (i : Nat) (v : Map W32) (poison : Bool) : (c.putVec i v poison).launchid = c.launchid := rfl
@[simp] theorem Ctx.putVec_args (c : Ctx) (i : Nat) (v : Map W32) (poison : Bool) : (c.putVec i v poison).args = c.args := rfl
@[simp] theorem Ctx.putVec_res (c : Ctx) (i : Nat) (v : Map W32) (poison : Bool) : (c.putVec i v poison).res = c.res := rfl
@[simp] theorem Ctx.putVec_cycBase (c : Ctx) (i : Nat) (v : Map W32) (poison : Bool) : (c.putVec i v poison).cycBase = c.cycBase := rfl
@[simp] theorem Ctx.putVec_rcount (c : Ctx) (i : Nat) (v : Map W32) (poison : Bool) : (c.putVec i v poison).rcount = c.rcount := rfl
@[simp] theorem Ctx.putVec_rrun (c : Ctx) (i : Nat) (v : Map W32) (poison : Bool) : (c.putVec i v poison).rrun = c.rrun := rfl
@[simp] theorem Ctx.putVec_energy (c : Ctx) (i : Nat) (v : Map W32) (poison : Bool) : (c.putVec i v poison).energy = c.energy := rfl
@[simp] theorem Ctx.putVec_stalls (c : Ctx) (i : Nat) (v : Map W32) (poison : Bool) : (c.putVec i v poison).stalls = c.stalls := rfl
@[simp] theorem Ctx.putVec_marks (c : Ctx) (i : Nat) (v : Map W32) (poison : Bool) : (c.putVec i v poison).marks = c.marks := rfl
@[simp] theorem Ctx.putVec_leases (c : Ctx) (i : Nat) (v : Map W32) (poison : Bool) : (c.putVec i v poison).leases = c.leases := rfl
@[simp] theorem Ctx.putVec_skipS0 (c : Ctx) (i : Nat) (v : Map W32) (poison : Bool) : (c.putVec i v poison).skipS0 = c.skipS0 := rfl
@[simp] theorem Ctx.putVec_frozen (c : Ctx) (i : Nat) (v : Map W32) (poison : Bool) : (c.putVec i v poison).frozen = c.frozen := rfl
@[simp] theorem Ctx.putVec_ord (c : Ctx) (i : Nat) (v : Map W32) (poison : Bool) : (c.putVec i v poison).ord = c.ord := rfl
@[simp] theorem Ctx.putVec_launch (c : Ctx) (i : Nat) (v : Map W32) (poison : Bool) : (c.putVec i v poison).launch = c.launch := rfl
@[simp] theorem Ctx.putVec_guard (c : Ctx) (i : Nat) (v : Map W32) (poison : Bool) : (c.putVec i v poison).guard = c.guard := rfl
@[simp] theorem Ctx.putVec_unpersisted (c : Ctx) (i : Nat) (v : Map W32) (poison : Bool) : (c.putVec i v poison).unpersisted = c.unpersisted := rfl

/-! A register set -/

@[simp] theorem RegSet.push_n (r : RegSet) (v : Word) : (r.push v).n = r.n := rfl
@[simp] theorem RegSet.push_pres (r : RegSet) (v : Word) : (r.push v).pres = r.pres := rfl
@[simp] theorem RegSet.push_pois (r : RegSet) (v : Word) : (r.push v).pois = r.pois := rfl
@[simp] theorem RegSet.push_get (r : RegSet) (v : Word) (k : Nat) : (r.push v).get k = r.get k := rfl
@[simp] theorem RegSet.put_q (r : RegSet) (i : Nat) (v : Word) : (r.put i v).q = r.q := rfl
@[simp] theorem RegSet.put_get_self (r : RegSet) (i : Nat) (v : Word) : (r.put i v).get i = v := mget_mset_self _ _ _ _
theorem RegSet.put_get_ne (r : RegSet) {i k : Nat} (h : k ≠ i) (v : Word) : (r.put i v).get k = r.get k := mget_mset_ne _ h _ _

/-- A push moves every entry one place older (R94). -/
theorem RegSet.push_getD (r : RegSet) (v : Word) (k : Nat) (h : k < 15) : (r.push v).q.getD (k + 1) 0 = r.q.getD k 0 := by
  simp only [RegSet.push, List.getD_eq_getElem?_getD]
  rw [List.getElem?_take_of_lt (by omega), List.getElem?_cons_succ]

theorem RegSet.push_head (r : RegSet) (v : Word) : (r.push v).q.getD 0 0 = v := rfl

theorem RegSet.push_length (r : RegSet) (v : Word) (h : r.q.length = 16) : (r.push v).q.length = 16 := by
  simp [RegSet.push, h]

end Sys2Proof.Machine
end

