-- ==== Sys2Proof/Laws/Control.lean ====
section
/-!
SUPPORT. What an S0 op issued alone can do, said once, and what trap entry writes.
-/

namespace Sys2Proof.Machine

/-- An S0 op that executes has its effect and then what follows it. -/
theorem aloneCtl_effect {g : Bool} {i : Instr} {op : State → State → Except Trap State} {post : State → State → State}
    {s s' : State} (h : s.runs0 g i) (hop : op s s = .ok s') : aloneCtl g i op post s = (post s s').out := by
  obtain ⟨⟨h1, h2, h3⟩, h4, _⟩ := h
  simp [aloneCtl, h1, h2, h3, h4, hop]

/-- An S0 op that executes and traps does nothing else. -/
theorem aloneCtl_traps {g : Bool} {i : Instr} {op : State → State → Except Trap State} {post : State → State → State}
    {s : State} {t : Trap} (h : s.runs0 g i) (hop : op s s = .error t) : aloneCtl g i op post s = .next (s.takePrecise t) := by
  obtain ⟨⟨h1, h2, h3⟩, h4, _⟩ := h
  simp [aloneCtl, h1, h2, h3, h4, hop]

/-- An S0 op whose own condition holds it changes nothing. -/
theorem aloneCtl_waits {g : Bool} {i : Instr} {op : State → State → Except Trap State} {post : State → State → State}
    {s : State} (h : s.runs g i) (hw : s0Waits i s = true) : aloneCtl g i op post s = .next s := by
  obtain ⟨h1, h2, h3⟩ := h
  simp [aloneCtl, h1, h2, h3, hw]

/-- A state in which no absent memory was touched is answered. -/
theorem out_next {s : State} (h : s.bad = none) : s.out = .next s := by
  simp [State.out, h]

/-- A change of one context changes nothing else. -/
theorem updCtx_onlyCtx (s : State) (cx : Nat) (f : Ctx → Ctx) : OnlyCtx cx s (s.updCtx cx f) :=
  ⟨rfl, fun _ h => mget_mput_ne _ h _ _⟩

@[simp] theorem updCtx_here (s : State) (f : Ctx → Ctx) : (s.updCtx s.cur.cx f).here = f s.here := mget_mput_self _ _ _ _

/-- The loops that a taken transfer leaves are those from the first on whose body holds the target (R79). -/
theorem loopLeave_eq (target : Nat) (l : List LoopEntry) :
    loopLeave target l = l.dropWhile fun e => !(decide (e.start ≤ target) && decide (target < e.stop)) := by
  induction l with
  | nil => rfl
  | cons e es ih =>
    rw [loopLeave, List.dropWhile_cons]
    by_cases h : e.start ≤ target ∧ target < e.stop <;> simp [h, ih]

/-- The 15 bits of a program counter made from them (R14). -/
theorem archPc_pcOfArch (v : Nat) (h : v < 2 ^ 15) : archPc (pcOfArch v) = v := by
  simp only [archPc, pcOfArch, mkPc, pcBank, pcIdx]
  omega

end Sys2Proof.Machine
end

