-- ==== Sys2Proof/Laws/Memory.lean ====
section
/-!
SUPPORT. Every operation over memory keeps its canonical form (`Memory.wf`), and what a byte reads as after each: bytes put,
a range cleared, a range copied, a module's volatile memory lost, a write of the hardware, a tile, and a write at a home.
-/

namespace Sys2Proof.Machine

/-! Maps whose keys rise -/

theorem mrising_iff {α : Type} (l : Map α) : mrising l = true ↔ l.Pairwise (fun p q => p.1 < q.1) := by
  induction l with
  | nil => simp [mrising]
  | cons p t ih =>
    cases t with
    | nil => simp [mrising]
    | cons q r =>
      obtain ⟨k, v⟩ := p
      obtain ⟨k', v'⟩ := q
      simp only [mrising, Bool.and_eq_true, decide_eq_true_eq, ih, List.pairwise_cons (a := (k, v))]
      constructor
      · rintro ⟨h, hp⟩
        refine ⟨fun x hx => ?_, hp⟩
        rcases List.mem_cons.mp hx with rfl | hx
        · exact h
        · exact Nat.lt_trans h ((List.pairwise_cons.mp hp).1 x hx)
      · rintro ⟨h, hp⟩
        exact ⟨h _ List.mem_cons_self, hp⟩

theorem mwf_iff {α : Type} [DecidableEq α] (d : α) (l : Map α) :
    mwf d l = true ↔ l.Pairwise (fun p q => p.1 < q.1) ∧ ∀ p ∈ l, p.2 ≠ d := by
  simp [mwf, mrising_iff]

theorem mem_mput {α : Type} (k : Nat) (v : α) (l : Map α) (p : Nat × α) (h : p ∈ mput k v l) : p = (k, v) ∨ p ∈ l := by
  induction l with
  | nil => simpa [mput] using h
  | cons q t ih =>
    obtain ⟨k', v'⟩ := q
    unfold mput at h
    split at h
    · exact List.mem_cons.mp h
    · split at h
      · rcases List.mem_cons.mp h with h | h
        · exact .inl h
        · exact .inr (List.mem_cons_of_mem _ h)
      · rcases List.mem_cons.mp h with h | h
        · exact .inr (h ▸ List.mem_cons_self)
        · exact (ih h).imp id (List.mem_cons_of_mem _)

theorem mput_pairwise {α : Type} (k : Nat) (v : α) (l : Map α) (h : l.Pairwise (fun p q => p.1 < q.1)) :
    (mput k v l).Pairwise (fun p q => p.1 < q.1) := by
  induction l with
  | nil => simp [mput]
  | cons q t ih =>
    obtain ⟨k', v'⟩ := q
    obtain ⟨hq, ht⟩ := List.pairwise_cons.mp h
    unfold mput
    split
    · rename_i hlt
      refine List.pairwise_cons.mpr ⟨fun x hx => ?_, h⟩
      rcases List.mem_cons.mp hx with rfl | hx
      · exact hlt
      · exact Nat.lt_trans hlt (hq x hx)
    · split
      · rename_i _ heq
        exact List.pairwise_cons.mpr ⟨fun x hx => heq ▸ hq x hx, ht⟩
      · rename_i hnlt hne
        refine List.pairwise_cons.mpr ⟨fun x hx => ?_, ih ht⟩
        rcases mem_mput k v t x hx with rfl | hx
        · simp only; omega
        · exact hq x hx

theorem mwf_mput {α : Type} [DecidableEq α] (d : α) (k : Nat) {v : α} (hv : v ≠ d) {l : Map α} (h : mwf d l = true) :
    mwf d (mput k v l) = true := by
  rw [mwf_iff] at h ⊢
  refine ⟨mput_pairwise k v l h.1, fun p hp => ?_⟩
  rcases mem_mput k v l p hp with rfl | hp
  · exact hv
  · exact h.2 p hp

theorem mwf_filter {α : Type} [DecidableEq α] (d : α) (f : Nat × α → Bool) {l : Map α} (h : mwf d l = true) :
    mwf d (l.filter f) = true := by
  rw [mwf_iff] at h ⊢
  exact ⟨h.1.filter f, fun p hp => h.2 p (List.mem_filter.mp hp).1⟩

theorem mwf_mset {α : Type} [DecidableEq α] (d : α) (k : Nat) (v : α) {l : Map α} (h : mwf d l = true) :
    mwf d (mset d k v l) = true := by
  unfold mset
  split
  · exact mwf_filter d _ h
  · rename_i hv; exact mwf_mput d k hv h

/-- A range of a map dropped reads as unlisted there and as before elsewhere. -/
theorem mget_filter {α : Type} (d : α) (f : Nat → Bool) (k : Nat) (l : Map α) :
    mget d k (l.filter fun p => f p.1) = if f k then mget d k l else d := by
  induction l with
  | nil => simp [mget]
  | cons p t ih =>
    obtain ⟨k', v⟩ := p
    by_cases hk : k = k'
    · subst hk
      by_cases hf : f k = true <;> simp_all [mget]
    · by_cases hf : f k' = true <;> simp_all [mget]

/-! Memory -/

theorem wf_memPut {m : List Host.Cell} (h : Memory.wf m = true) (key : Nat) (b : Byte) : Memory.wf (memPut m key b) = true :=
  mwf_mset 0 key b h

theorem wf_memPuts {m : List Host.Cell} (h : Memory.wf m = true) (key : Nat) (bs : List Byte) : Memory.wf (memPuts m key bs) = true := by
  induction bs generalizing m key with
  | nil => exact h
  | cons b bs ih => exact ih (wf_memPut h key b) (key + 1)

theorem wf_memClear {m : List Host.Cell} (h : Memory.wf m = true) (key n : Nat) : Memory.wf (memClear m key n) = true :=
  mwf_filter 0 _ h

theorem wf_memPutAll {m : List Host.Cell} (h : Memory.wf m = true) (cells : List Host.Cell) (f : Nat → Nat) :
    Memory.wf (cells.foldl (fun m p => memPut m (f p.1) p.2) m) = true := by
  induction cells generalizing m with
  | nil => exact h
  | cons c cs ih => exact ih (wf_memPut h _ _)

theorem wf_putBytes {s : State} (h : Memory.wf s.mem = true) (key : Nat) (bs : List Byte) : Memory.wf (s.putBytes key bs).mem = true :=
  wf_memPuts h key bs

/-- A write at a home leaves memory as it was (a discarded store to the remap table) or writes its bytes. -/
theorem mem_homeWrite (s : State) (key : Nat) (bs : List Byte) (p : Bool) :
    (s.homeWrite key bs p).mem = s.mem ∨ (s.homeWrite key bs p).mem = memPuts s.mem key bs := by
  simp only [State.homeWrite]
  split_ifs <;> first | exact .inl rfl | exact .inr rfl

theorem wf_homeWrite {s : State} (h : Memory.wf s.mem = true) (key : Nat) (bs : List Byte) (p : Bool) :
    Memory.wf (s.homeWrite key bs p).mem = true := by
  rcases mem_homeWrite s key bs p with e | e <;> rw [e]
  · exact h
  · exact wf_memPuts h key bs

theorem wf_putLines (n : Nat) {s : State} (h : Memory.wf s.mem = true) (key : Nat) (bs : List Byte) :
    Memory.wf (State.putLines n s key bs).mem = true := by
  induction n generalizing s key bs with
  | zero => exact h
  | succ n ih =>
    simp only [State.putLines]
    split
    · exact h
    · exact ih (wf_homeWrite h _ _ _) _ _

theorem wf_hwPut {s : State} (h : Memory.wf s.mem = true) (key : Nat) (bs : List Byte) : Memory.wf (s.hwPut key bs).mem = true := by
  unfold State.hwPut
  split
  · exact h
  · split
    · exact wf_putLines _ h key bs
    · exact h

theorem wf_putTile {s : State} (h : Memory.wf s.mem = true) (key : Nat) (cols : Map W32) : Memory.wf (s.putTile key cols).mem = true :=
  wf_hwPut h key _

theorem wf_copyRange {s : State} (h : Memory.wf s.mem = true) (src dst n : Nat) : Memory.wf (s.copyRange src dst n).mem = true :=
  wf_memPutAll (wf_memClear h dst n) _ fun k => dst + (k - src)

/-- What keeps the canonical form for each item keeps it for a list of them. -/
theorem wf_foldl {α : Type} {f : State → α → State} (hf : ∀ s a, Memory.wf s.mem = true → Memory.wf (f s a).mem = true) (l : List α)
    {s : State} (h : Memory.wf s.mem = true) : Memory.wf (l.foldl f s).mem = true := by
  induction l generalizing s with
  | nil => exact h
  | cons a as ih => exact ih (hf s a h)

theorem wf_loseDirty {s : State} (h : Memory.wf s.mem = true) (q : Nat) : Memory.wf (s.loseDirty q).mem = true :=
  wf_foldl (fun _ key h => wf_putBytes h key _) _ h

theorem wf_retime {s : State} (h : Memory.wf s.mem = true) (cl : Nat) : Memory.wf (s.retime cl).mem = true := by
  exact h

theorem wf_powerDown {s : State} (h : Memory.wf s.mem = true) (m : Nat) : Memory.wf (s.powerDown m).mem = true := by
  have h' := wf_foldl (f := State.retime) (fun _ q h => wf_retime h q) (moduleClusters m) h
  have h'' := wf_foldl (f := State.loseDirty) (fun _ q h => wf_loseDirty h q) ((List.range 32).map fun i => 4 * dieAt m (i / 4) + i % 4) h'
  simp only [State.powerDown]
  generalize ((List.range 32).map fun i => 4 * dieAt m (i / 4) + i % 4).foldl State.loseDirty _ = t at h'' ⊢
  exact mwf_filter 0 _ h''

theorem wf_reset : Memory.wf State.reset.mem = true := rfl

/-! Bytes -/

theorem mget_memPut (m : List Host.Cell) (key j : Nat) (b : Byte) : mget 0 j (memPut m key b) = if j = key then b else mget 0 j m :=
  mget_mset 0 key j b m

theorem mget_memPuts (m : List Host.Cell) (key j : Nat) (bs : List Byte) :
    mget 0 j (memPuts m key bs) = if key ≤ j ∧ j < key + bs.length then bs.getD (j - key) 0 else mget 0 j m := by
  induction bs generalizing m key with
  | nil => simp only [memPuts, List.length_nil]; rw [if_neg (by omega)]
  | cons b bs ih =>
    rw [memPuts, ih, mget_memPut, List.length_cons]
    by_cases h : j = key
    · subst h
      rw [if_neg (by omega), if_pos rfl, if_pos (by omega)]; simp
    · by_cases h2 : key + 1 ≤ j ∧ j < key + 1 + bs.length
      · rw [if_pos h2, if_pos (by omega), show j - key = j - (key + 1) + 1 by omega, List.getD_cons_succ]
      · rw [if_neg h2, if_neg h, if_neg (by omega)]

theorem mget_memClear (m : List Host.Cell) (key n j : Nat) :
    mget 0 j (memClear m key n) = if key ≤ j ∧ j < key + n then 0 else mget 0 j m := by
  have := mget_filter (0 : Byte) (fun k => !(decide (key ≤ k) && decide (k < key + n))) j m
  unfold memClear
  rw [this]
  by_cases h : key ≤ j ∧ j < key + n
  · simp [h]
  · rw [if_neg h, if_pos]; simp only [Bool.not_eq_true', Bool.and_eq_false_iff, decide_eq_false_iff_not]; omega

theorem byte_putBytes (s : State) (key j : Nat) (bs : List Byte) :
    (s.putBytes key bs).byte j = if key ≤ j ∧ j < key + bs.length then bs.getD (j - key) 0 else s.byte j :=
  mget_memPuts s.mem key j bs

/-- The bytes written are the bytes read. -/
theorem bytes_putBytes (s : State) (key : Nat) (bs : List Byte) : (s.putBytes key bs).bytes key bs.length = bs := by
  have all : ∀ n i, i + n = bs.length → (s.putBytes key bs).bytes (key + i) n = bs.drop i := by
    intro n
    induction n with
    | zero => intro i hi; simp [State.bytes, List.drop_eq_nil_of_le (show bs.length ≤ i by omega)]
    | succ n ih =>
      intro i hi
      have hlt : i < bs.length := by omega
      rw [State.bytes, byte_putBytes, if_pos (by omega), show key + i + 1 = key + (i + 1) by omega, ih (i + 1) (by omega),
        show key + i - key = i by omega, List.drop_eq_getElem_cons hlt, List.getD_eq_getElem _ _ hlt]
  simpa using all bs.length 0 (by omega)

end Sys2Proof.Machine
end

