-- ==== Sys2Proof/Laws/PerInstr.lean ====
section
/-!
SUPPORT. For every instruction, its own words hold its fields where the decoder reads them (01 R25–R40): the decoder's map
of each slot that the instruction is encoded in gives the instruction back from the words that the encoder writes.
-/

namespace Sys2Proof.Laws.Encodable

theorem drop_low {w v s l : Nat} (x : BitVec w) (y : BitVec v) (h : v.ble s = true) : (x ++ y).extractLsb' s l = x.extractLsb' (s - v) l :=
  BitVec.extractLsb'_append_eq_of_le (Nat.le_of_ble_eq_true h)

theorem take_low {w v : Nat} (x : BitVec w) (y : BitVec v) : (x ++ y).extractLsb' 0 v = y := by
  rw [BitVec.extractLsb'_append_eq_of_add_le (by omega)]; exact BitVec.extractLsb'_eq_self

theorem drop_low_bit {w v s : Nat} (x : BitVec w) (y : BitVec v) (h : v.ble s = true) : (x ++ y).getLsbD s = x.getLsbD (s - v) := by
  have := Nat.le_of_ble_eq_true h
  rw [BitVec.getLsbD_append]; simp; omega

theorem take_low_bit {w : Nat} (x : BitVec w) (b : Bool) : (x ++ bit b).getLsbD 0 = b := by
  rw [BitVec.getLsbD_append]; simp [bit]

theorem bit_bit (b : Bool) : (bit b).getLsbD 0 = b := by simp [bit]

theorem parcelG_pk (g : Bool) (op : BitVec 7) (x : BitVec 24) : parcelG (pk g op x) = g :=
  (drop_low_bit _ _ rfl).trans ((drop_low_bit _ _ rfl).trans (bit_bit g))

theorem parcelOp_pk (g : Bool) (op : BitVec 7) (x : BitVec 24) : parcelOp (pk g op x) = op :=
  (drop_low _ _ rfl).trans (take_low _ _)

theorem parcelX_pk (g : Bool) (op : BitVec 7) (x : BitVec 24) : parcelX (pk g op x) = x := take_low _ _

theorem raw0 (g : Bool) (op : BitVec 7) (x : BitVec 24) (w : W32) : rawParcel 0 (pk g op x) w = rawS0 op.toNat g x := by
  simp only [rawParcel, parcelG_pk, parcelOp_pk, parcelX_pk]

theorem raw3 (g : Bool) (op : BitVec 7) (x : BitVec 24) (w : W32) : rawParcel 3 (pk g op x) w = rawS3 op.toNat g x := by
  simp only [rawParcel, parcelG_pk, parcelOp_pk, parcelX_pk]

theorem raw4 (g : Bool) (op : BitVec 7) (x : BitVec 24) (w : W32) : rawParcel 4 (pk g op x) w = rawS4 op.toNat g x := by
  simp only [rawParcel, parcelG_pk, parcelOp_pk, parcelX_pk]

theorem raw5 (g : Bool) (op : BitVec 7) (x : BitVec 24) (w : W32) : rawParcel 5 (pk g op x) w = rawS5 op.toNat g x := by
  simp only [rawParcel, parcelG_pk, parcelOp_pk, parcelX_pk]

theorem raw6 (g : Bool) (op : BitVec 7) (x : BitVec 24) (w : W32) : rawParcel 6 (pk g op x) w = rawS6 op.toNat g x := by
  simp only [rawParcel, parcelG_pk, parcelOp_pk, parcelX_pk]

theorem raw1 (g : Bool) (op : BitVec 7) (x : BitVec 24) (w : W32) (h : op.toNat ≠ 0) :
    rawParcel 1 (pk g op x) w = rawScalar op.toNat g x := by
  simp only [rawParcel, parcelG_pk, parcelOp_pk, parcelX_pk, if_neg h]

theorem raw1nop (g : Bool) (x : BitVec 24) (w : W32) : rawParcel 1 (pk g 0#7 x) w = some (.nopSa g) := by
  simp only [rawParcel, parcelG_pk, parcelOp_pk]; rfl

theorem raw2 (g : Bool) (op : BitVec 7) (x : BitVec 24) (w : W32) (h : op.toNat ≠ 0) :
    rawParcel 2 (pk g op x) w = rawScalar op.toNat g x := by
  simp only [rawParcel, parcelG_pk, parcelOp_pk, parcelX_pk, if_neg h]

theorem raw2nop (g : Bool) (x : BitVec 24) (w : W32) : rawParcel 2 (pk g 0#7 x) w = some (.nopSb g) := by
  simp only [rawParcel, parcelG_pk, parcelOp_pk]; rfl

theorem tail_back (g : Bool) (op : BitVec 7) (t : Tail) (a b c : Spec) (imm : BitVec 9) :
    tailOf (pk g op t.tokens) (pk7 a b c t imm) = t := by
  have tok : ∀ s n, s + n ≤ 24 → (pk g op t.tokens).extractLsb' s n = t.tokens.extractLsb' s n :=
    fun s n h => BitVec.extractLsb'_append_eq_of_add_le h
  obtain ⟨p, c1, c2, c3, fen, fnum⟩ := t
  unfold tailOf
  rw [tok 18 6 (by omega), tok 12 6 (by omega), tok 6 6 (by omega), tok 0 6 (by omega)]
  congr 1
  · exact (drop_low _ _ rfl).trans ((drop_low _ _ rfl).trans ((drop_low _ _ rfl).trans BitVec.extractLsb'_eq_self))
  · exact (drop_low _ _ rfl).trans ((drop_low _ _ rfl).trans (take_low _ _))
  · exact (drop_low _ _ rfl).trans (take_low _ _)
  · exact take_low _ _
  · exact (drop_low_bit _ _ rfl).trans ((drop_low_bit _ _ rfl).trans (take_low_bit _ _))
  · exact (drop_low _ _ rfl).trans (take_low _ _)

theorem raw7 (g : Bool) (op : BitVec 7) (t : Tail) (a b c : Spec) (imm : BitVec 9) :
    rawParcel 7 (pk g op t.tokens) (pk7 a b c t imm) = rawS7 op.toNat g t a b c imm := by
  have ha : (pk7 a b c t imm).extractLsb' 26 6 = a :=
    (drop_low _ _ rfl).trans ((drop_low _ _ rfl).trans ((drop_low _ _ rfl).trans ((drop_low _ _ rfl).trans ((drop_low _ _ rfl).trans
      BitVec.extractLsb'_eq_self))))
  have hb : (pk7 a b c t imm).extractLsb' 20 6 = b :=
    (drop_low _ _ rfl).trans ((drop_low _ _ rfl).trans ((drop_low _ _ rfl).trans ((drop_low _ _ rfl).trans (take_low _ _))))
  have hc : (pk7 a b c t imm).extractLsb' 14 6 = c :=
    (drop_low _ _ rfl).trans ((drop_low _ _ rfl).trans ((drop_low _ _ rfl).trans (take_low _ _)))
  have hi : (pk7 a b c t imm).extractLsb' 0 9 = imm := take_low _ _
  simp only [rawParcel, parcelG_pk, parcelOp_pk, tail_back, ha, hb, hc, hi]

theorem raw7nop (g : Bool) (x : BitVec 24) (w : W32) : rawParcel 7 (pk g 0#7 x) w = some (.nopEng g) := by
  simp only [rawParcel, parcelG_pk, parcelOp_pk]; rfl

/-- The words of an instruction, read in each of its slots, give the instruction. -/
def Statement (i : Instr) : Prop := ∀ slot ∈ i.slots, rawParcel slot (encodeParcel i).1 (encodeParcel i).2 = some i

theorem twoSlots {i : Instr} {r : Option Instr} {w0 w1 : W32} (h1 : rawParcel 1 w0 w1 = r) (h2 : rawParcel 2 w0 w1 = r) (e : r = some i)
    (slot : Nat) (h : slot ∈ [1, 2]) : rawParcel slot w0 w1 = some i := by
  simp only [List.mem_cons, List.not_mem_nil, or_false] at h
  rcases h with rfl | rfl
  · exact h1.trans e
  · exact h2.trans e

theorem cong1 {α0 β : Type} (f : α0 → β) {x0 y0 : α0} (h0 : x0 = y0) :
    f x0 = f y0 := by subst h0; rfl

theorem cong2 {α0 α1 β : Type} (f : α0 → α1 → β) {x0 y0 : α0} {x1 y1 : α1} (h0 : x0 = y0) (h1 : x1 = y1) :
    f x0 x1 = f y0 y1 := by subst h0 h1; rfl

theorem cong3 {α0 α1 α2 β : Type} (f : α0 → α1 → α2 → β) {x0 y0 : α0} {x1 y1 : α1} {x2 y2 : α2} (h0 : x0 = y0) (h1 : x1 = y1) (h2 : x2 = y2) :
    f x0 x1 x2 = f y0 y1 y2 := by subst h0 h1 h2; rfl

theorem cong4 {α0 α1 α2 α3 β : Type} (f : α0 → α1 → α2 → α3 → β) {x0 y0 : α0} {x1 y1 : α1} {x2 y2 : α2} {x3 y3 : α3} (h0 : x0 = y0) (h1 : x1 = y1) (h2 : x2 = y2) (h3 : x3 = y3) :
    f x0 x1 x2 x3 = f y0 y1 y2 y3 := by subst h0 h1 h2 h3; rfl

theorem cong5 {α0 α1 α2 α3 α4 β : Type} (f : α0 → α1 → α2 → α3 → α4 → β) {x0 y0 : α0} {x1 y1 : α1} {x2 y2 : α2} {x3 y3 : α3} {x4 y4 : α4} (h0 : x0 = y0) (h1 : x1 = y1) (h2 : x2 = y2) (h3 : x3 = y3) (h4 : x4 = y4) :
    f x0 x1 x2 x3 x4 = f y0 y1 y2 y3 y4 := by subst h0 h1 h2 h3 h4; rfl

theorem cong8 {α0 α1 α2 α3 α4 α5 α6 α7 β : Type} (f : α0 → α1 → α2 → α3 → α4 → α5 → α6 → α7 → β) {x0 y0 : α0} {x1 y1 : α1} {x2 y2 : α2} {x3 y3 : α3} {x4 y4 : α4} {x5 y5 : α5} {x6 y6 : α6} {x7 y7 : α7} (h0 : x0 = y0) (h1 : x1 = y1) (h2 : x2 = y2) (h3 : x3 = y3) (h4 : x4 = y4) (h5 : x5 = y5) (h6 : x6 = y6) (h7 : x7 = y7) :
    f x0 x1 x2 x3 x4 x5 x6 x7 = f y0 y1 y2 y3 y4 y5 y6 y7 := by subst h0 h1 h2 h3 h4 h5 h6 h7; rfl

theorem fullBundle (hdr : W32) (words : List W32) : Statement (.fullBundle hdr words) := fun _ h => absurd h List.not_mem_nil

theorem tcall (index : BitVec 9) (rc : BitVec 6) : Statement (.tcall index rc) := fun _ h => absurd h List.not_mem_nil

theorem contextSwitch (core : Nat) : Statement (.contextSwitch core) := fun _ h => absurd h List.not_mem_nil

theorem quantumExpiry (core : Nat) : Statement (.quantumExpiry core) := fun _ h => absurd h List.not_mem_nil

theorem streamingEntryStart (cx : Nat) (slot : Nat) : Statement (.streamingEntryStart cx slot) := fun _ h => absurd h List.not_mem_nil

theorem streamingWrite (cx : Nat) (i : Nat) : Statement (.streamingWrite cx i) := fun _ h => absurd h List.not_mem_nil

theorem divideComplete (core : Nat) : Statement (.divideComplete core) := fun _ h => absurd h List.not_mem_nil

theorem trapEntry (cx : Nat) : Statement (.trapEntry cx) := fun _ h => absurd h List.not_mem_nil

theorem retirementComplete (cx : Nat) : Statement (.retirementComplete cx) := fun _ h => absurd h List.not_mem_nil

theorem commandCompletion (id : Nat) : Statement (.commandCompletion id) := fun _ h => absurd h List.not_mem_nil

theorem savebaseWrite (v : Word) : Statement (.savebaseWrite v) := fun _ h => absurd h List.not_mem_nil

theorem flagsWrite (v : Word) : Statement (.flagsWrite v) := fun _ h => absurd h List.not_mem_nil

theorem engfailWrite (v : Word) : Statement (.engfailWrite v) := fun _ h => absurd h List.not_mem_nil

theorem fpstatusWrite (v : Word) : Statement (.fpstatusWrite v) := fun _ h => absurd h List.not_mem_nil

theorem pnWrite (i : BitVec 5) (v : Word) : Statement (.pnWrite i v) := fun _ h => absurd h List.not_mem_nil

theorem ewtableWrite (v : Word) : Statement (.ewtableWrite v) := fun _ h => absurd h List.not_mem_nil

theorem registerWrite (tgt : RegTarget) (v : Word) : Statement (.registerWrite tgt v) := fun _ h => absurd h List.not_mem_nil

theorem br (g : Bool) (off : BitVec 24) : Statement (.br g off) := by
  intro slot hs
  obtain rfl := List.mem_singleton.mp hs
  exact raw0 g _ _ _

theorem call (g : Bool) (off : BitVec 24) : Statement (.call g off) := by
  intro slot hs
  obtain rfl := List.mem_singleton.mp hs
  exact raw0 g _ _ _

theorem jmp (g : Bool) (a : Spec) : Statement (.jmp g a) := by
  intro slot hs
  obtain rfl := List.mem_singleton.mp hs
  exact (raw0 g _ _ _).trans (cong1 (fun x0 => some (Instr.jmp g x0))
    ((drop_low _ _ rfl).trans (BitVec.extractLsb'_eq_self)))

theorem ret (g : Bool) : Statement (.ret g) := by
  intro slot hs
  obtain rfl := List.mem_singleton.mp hs
  exact raw0 g _ _ _

theorem loop (g : Bool) (a : Spec) (len : BitVec 12) : Statement (.loop g a len) := by
  intro slot hs
  obtain rfl := List.mem_singleton.mp hs
  exact (raw0 g _ _ _).trans (cong2 (fun x0 x1 => some (Instr.loop g x0 x1))
    ((drop_low _ _ rfl).trans ((drop_low _ _ rfl).trans (BitVec.extractLsb'_eq_self)))
    (take_low _ _))

theorem brx (g : Bool) (u : BitVec 14) : Statement (.brx g u) := by
  intro slot hs
  obtain rfl := List.mem_singleton.mp hs
  exact (raw0 g _ _ _).trans (cong1 (fun x0 => some (Instr.brx g x0))
    (take_low _ _))

theorem fencei (g : Bool) : Statement (.fencei g) := by
  intro slot hs
  obtain rfl := List.mem_singleton.mp hs
  exact raw0 g _ _ _

theorem waitf (g : Bool) (mask : BitVec 16) : Statement (.waitf g mask) := by
  intro slot hs
  obtain rfl := List.mem_singleton.mp hs
  exact (raw0 g _ _ _).trans (cong1 (fun x0 => some (Instr.waitf g x0))
    (take_low _ _))

theorem peekf (g : Bool) (mask : BitVec 16) : Statement (.peekf g mask) := by
  intro slot hs
  obtain rfl := List.mem_singleton.mp hs
  exact (raw0 g _ _ _).trans (cong1 (fun x0 => some (Instr.peekf g x0))
    (take_low _ _))

theorem setf (g : Bool) (mask : BitVec 16) : Statement (.setf g mask) := by
  intro slot hs
  obtain rfl := List.mem_singleton.mp hs
  exact (raw0 g _ _ _).trans (cong1 (fun x0 => some (Instr.setf g x0))
    (take_low _ _))

theorem clrf (g : Bool) (mask : BitVec 16) : Statement (.clrf g mask) := by
  intro slot hs
  obtain rfl := List.mem_singleton.mp hs
  exact (raw0 g _ _ _).trans (cong1 (fun x0 => some (Instr.clrf g x0))
    (take_low _ _))

theorem yield (g : Bool) : Statement (.yield g) := by
  intro slot hs
  obtain rfl := List.mem_singleton.mp hs
  exact raw0 g _ _ _

theorem exit (g : Bool) : Statement (.exit g) := by
  intro slot hs
  obtain rfl := List.mem_singleton.mp hs
  exact raw0 g _ _ _

theorem trap (g : Bool) (n : BitVec 8) : Statement (.trap g n) := by
  intro slot hs
  obtain rfl := List.mem_singleton.mp hs
  exact (raw0 g _ _ _).trans (cong1 (fun x0 => some (Instr.trap g x0))
    (take_low _ _))

theorem rft (g : Bool) : Statement (.rft g) := by
  intro slot hs
  obtain rfl := List.mem_singleton.mp hs
  exact raw0 g _ _ _

theorem mfs (g : Bool) (sr : BitVec 12) (d : Spec) : Statement (.mfs g sr d) := by
  intro slot hs
  obtain rfl := List.mem_singleton.mp hs
  exact (raw0 g _ _ _).trans (cong2 (fun x0 x1 => some (Instr.mfs g x0 x1))
    ((drop_low _ _ rfl).trans ((drop_low _ _ rfl).trans (BitVec.extractLsb'_eq_self)))
    ((drop_low _ _ rfl).trans (take_low _ _)))

theorem mts (g : Bool) (sr : BitVec 12) (a : Spec) : Statement (.mts g sr a) := by
  intro slot hs
  obtain rfl := List.mem_singleton.mp hs
  exact (raw0 g _ _ _).trans (cong2 (fun x0 x1 => some (Instr.mts g x0 x1))
    ((drop_low _ _ rfl).trans ((drop_low _ _ rfl).trans (BitVec.extractLsb'_eq_self)))
    ((drop_low _ _ rfl).trans (take_low _ _)))

theorem bkpt (g : Bool) (n : BitVec 8) : Statement (.bkpt g n) := by
  intro slot hs
  obtain rfl := List.mem_singleton.mp hs
  exact (raw0 g _ _ _).trans (cong1 (fun x0 => some (Instr.bkpt g x0))
    (take_low _ _))

theorem pwrreq (g : Bool) (a : Spec) : Statement (.pwrreq g a) := by
  intro slot hs
  obtain rfl := List.mem_singleton.mp hs
  exact (raw0 g _ _ _).trans (cong1 (fun x0 => some (Instr.pwrreq g x0))
    ((drop_low _ _ rfl).trans (BitVec.extractLsb'_eq_self)))

theorem await (g : Bool) (n : BitVec 4) : Statement (.await g n) := by
  intro slot hs
  obtain rfl := List.mem_singleton.mp hs
  exact (raw0 g _ _ _).trans (cong1 (fun x0 => some (Instr.await g x0))
    (take_low _ _))

theorem twait (g : Bool) (a : Spec) : Statement (.twait g a) := by
  intro slot hs
  obtain rfl := List.mem_singleton.mp hs
  exact (raw0 g _ _ _).trans (cong1 (fun x0 => some (Instr.twait g x0))
    ((drop_low _ _ rfl).trans (BitVec.extractLsb'_eq_self)))

theorem ckpt (g : Bool) : Statement (.ckpt g) := by
  intro slot hs
  obtain rfl := List.mem_singleton.mp hs
  exact raw0 g _ _ _

theorem nopCtl (g : Bool) : Statement (.nopCtl g) := by
  intro slot hs
  obtain rfl := List.mem_singleton.mp hs
  exact raw0 g _ _ _

theorem nopSa (g : Bool) : Statement (.nopSa g) := by
  intro slot hs
  obtain rfl := List.mem_singleton.mp hs
  exact raw1nop g _ _

theorem nopSb (g : Bool) : Statement (.nopSb g) := by
  intro slot hs
  obtain rfl := List.mem_singleton.mp hs
  exact raw2nop g _ _

theorem nopMem (g : Bool) : Statement (.nopMem g) := by
  intro slot hs
  obtain rfl := List.mem_singleton.mp hs
  exact raw3 g _ _ _

theorem nopVec (g : Bool) : Statement (.nopVec g) := by
  intro slot hs
  obtain rfl := List.mem_singleton.mp hs
  exact raw4 g _ _ _

theorem nopMx (g : Bool) : Statement (.nopMx g) := by
  intro slot hs
  obtain rfl := List.mem_singleton.mp hs
  exact raw5 g _ _ _

theorem nopAcc (g : Bool) : Statement (.nopAcc g) := by
  intro slot hs
  obtain rfl := List.mem_singleton.mp hs
  exact raw6 g _ _ _

theorem nopEng (g : Bool) : Statement (.nopEng g) := by
  intro slot hs
  obtain rfl := List.mem_singleton.mp hs
  exact raw7nop g _ _

theorem add (g : Bool) (d : Spec) (a : Spec) (b : Spec) : Statement (.add g d a b) := by
  exact twoSlots (raw1 g _ _ _ (by decide)) (raw2 g _ _ _ (by decide)) (cong3 (fun x0 x1 x2 => some (Instr.add g x0 x1 x2))
    ((drop_low _ _ rfl).trans ((drop_low _ _ rfl).trans ((drop_low _ _ rfl).trans (BitVec.extractLsb'_eq_self))))
    ((drop_low _ _ rfl).trans ((drop_low _ _ rfl).trans (take_low _ _)))
    ((drop_low _ _ rfl).trans (take_low _ _)))

theorem sub (g : Bool) (d : Spec) (a : Spec) (b : Spec) : Statement (.sub g d a b) := by
  exact twoSlots (raw1 g _ _ _ (by decide)) (raw2 g _ _ _ (by decide)) (cong3 (fun x0 x1 x2 => some (Instr.sub g x0 x1 x2))
    ((drop_low _ _ rfl).trans ((drop_low _ _ rfl).trans ((drop_low _ _ rfl).trans (BitVec.extractLsb'_eq_self))))
    ((drop_low _ _ rfl).trans ((drop_low _ _ rfl).trans (take_low _ _)))
    ((drop_low _ _ rfl).trans (take_low _ _)))

theorem addi (g : Bool) (d : Spec) (a : Spec) (imm : BitVec 12) : Statement (.addi g d a imm) := by
  exact twoSlots (raw1 g _ _ _ (by decide)) (raw2 g _ _ _ (by decide)) (cong3 (fun x0 x1 x2 => some (Instr.addi g x0 x1 x2))
    ((drop_low _ _ rfl).trans ((drop_low _ _ rfl).trans (BitVec.extractLsb'_eq_self)))
    ((drop_low _ _ rfl).trans (take_low _ _))
    (take_low _ _))

theorem mul (g : Bool) (d : Spec) (a : Spec) (b : Spec) : Statement (.mul g d a b) := by
  exact twoSlots (raw1 g _ _ _ (by decide)) (raw2 g _ _ _ (by decide)) (cong3 (fun x0 x1 x2 => some (Instr.mul g x0 x1 x2))
    ((drop_low _ _ rfl).trans ((drop_low _ _ rfl).trans ((drop_low _ _ rfl).trans (BitVec.extractLsb'_eq_self))))
    ((drop_low _ _ rfl).trans ((drop_low _ _ rfl).trans (take_low _ _)))
    ((drop_low _ _ rfl).trans (take_low _ _)))

theorem mulh (g : Bool) (d : Spec) (a : Spec) (b : Spec) : Statement (.mulh g d a b) := by
  exact twoSlots (raw1 g _ _ _ (by decide)) (raw2 g _ _ _ (by decide)) (cong3 (fun x0 x1 x2 => some (Instr.mulh g x0 x1 x2))
    ((drop_low _ _ rfl).trans ((drop_low _ _ rfl).trans ((drop_low _ _ rfl).trans (BitVec.extractLsb'_eq_self))))
    ((drop_low _ _ rfl).trans ((drop_low _ _ rfl).trans (take_low _ _)))
    ((drop_low _ _ rfl).trans (take_low _ _)))

theorem mulhw (g : Bool) (d : Spec) (a : Spec) (b : Spec) : Statement (.mulhw g d a b) := by
  exact twoSlots (raw1 g _ _ _ (by decide)) (raw2 g _ _ _ (by decide)) (cong3 (fun x0 x1 x2 => some (Instr.mulhw g x0 x1 x2))
    ((drop_low _ _ rfl).trans ((drop_low _ _ rfl).trans ((drop_low _ _ rfl).trans (BitVec.extractLsb'_eq_self))))
    ((drop_low _ _ rfl).trans ((drop_low _ _ rfl).trans (take_low _ _)))
    ((drop_low _ _ rfl).trans (take_low _ _)))

theorem div (g : Bool) (d : Spec) (a : Spec) (b : Spec) : Statement (.div g d a b) := by
  intro slot hs
  obtain rfl := List.mem_singleton.mp hs
  exact (raw1 g _ _ _ (by decide)).trans (cong3 (fun x0 x1 x2 => some (Instr.div g x0 x1 x2))
    ((drop_low _ _ rfl).trans ((drop_low _ _ rfl).trans ((drop_low _ _ rfl).trans (BitVec.extractLsb'_eq_self))))
    ((drop_low _ _ rfl).trans ((drop_low _ _ rfl).trans (take_low _ _)))
    ((drop_low _ _ rfl).trans (take_low _ _)))

theorem divw (g : Bool) (d : Spec) (a : Spec) (b : Spec) : Statement (.divw g d a b) := by
  intro slot hs
  obtain rfl := List.mem_singleton.mp hs
  exact (raw1 g _ _ _ (by decide)).trans (cong3 (fun x0 x1 x2 => some (Instr.divw g x0 x1 x2))
    ((drop_low _ _ rfl).trans ((drop_low _ _ rfl).trans ((drop_low _ _ rfl).trans (BitVec.extractLsb'_eq_self))))
    ((drop_low _ _ rfl).trans ((drop_low _ _ rfl).trans (take_low _ _)))
    ((drop_low _ _ rfl).trans (take_low _ _)))

theorem rem (g : Bool) (d : Spec) (a : Spec) (b : Spec) : Statement (.rem g d a b) := by
  intro slot hs
  obtain rfl := List.mem_singleton.mp hs
  exact (raw1 g _ _ _ (by decide)).trans (cong3 (fun x0 x1 x2 => some (Instr.rem g x0 x1 x2))
    ((drop_low _ _ rfl).trans ((drop_low _ _ rfl).trans ((drop_low _ _ rfl).trans (BitVec.extractLsb'_eq_self))))
    ((drop_low _ _ rfl).trans ((drop_low _ _ rfl).trans (take_low _ _)))
    ((drop_low _ _ rfl).trans (take_low _ _)))

theorem remw (g : Bool) (d : Spec) (a : Spec) (b : Spec) : Statement (.remw g d a b) := by
  intro slot hs
  obtain rfl := List.mem_singleton.mp hs
  exact (raw1 g _ _ _ (by decide)).trans (cong3 (fun x0 x1 x2 => some (Instr.remw g x0 x1 x2))
    ((drop_low _ _ rfl).trans ((drop_low _ _ rfl).trans ((drop_low _ _ rfl).trans (BitVec.extractLsb'_eq_self))))
    ((drop_low _ _ rfl).trans ((drop_low _ _ rfl).trans (take_low _ _)))
    ((drop_low _ _ rfl).trans (take_low _ _)))

theorem min (g : Bool) (d : Spec) (a : Spec) (b : Spec) : Statement (.min g d a b) := by
  exact twoSlots (raw1 g _ _ _ (by decide)) (raw2 g _ _ _ (by decide)) (cong3 (fun x0 x1 x2 => some (Instr.min g x0 x1 x2))
    ((drop_low _ _ rfl).trans ((drop_low _ _ rfl).trans ((drop_low _ _ rfl).trans (BitVec.extractLsb'_eq_self))))
    ((drop_low _ _ rfl).trans ((drop_low _ _ rfl).trans (take_low _ _)))
    ((drop_low _ _ rfl).trans (take_low _ _)))

theorem max (g : Bool) (d : Spec) (a : Spec) (b : Spec) : Statement (.max g d a b) := by
  exact twoSlots (raw1 g _ _ _ (by decide)) (raw2 g _ _ _ (by decide)) (cong3 (fun x0 x1 x2 => some (Instr.max g x0 x1 x2))
    ((drop_low _ _ rfl).trans ((drop_low _ _ rfl).trans ((drop_low _ _ rfl).trans (BitVec.extractLsb'_eq_self))))
    ((drop_low _ _ rfl).trans ((drop_low _ _ rfl).trans (take_low _ _)))
    ((drop_low _ _ rfl).trans (take_low _ _)))

theorem minw (g : Bool) (d : Spec) (a : Spec) (b : Spec) : Statement (.minw g d a b) := by
  exact twoSlots (raw1 g _ _ _ (by decide)) (raw2 g _ _ _ (by decide)) (cong3 (fun x0 x1 x2 => some (Instr.minw g x0 x1 x2))
    ((drop_low _ _ rfl).trans ((drop_low _ _ rfl).trans ((drop_low _ _ rfl).trans (BitVec.extractLsb'_eq_self))))
    ((drop_low _ _ rfl).trans ((drop_low _ _ rfl).trans (take_low _ _)))
    ((drop_low _ _ rfl).trans (take_low _ _)))

theorem maxw (g : Bool) (d : Spec) (a : Spec) (b : Spec) : Statement (.maxw g d a b) := by
  exact twoSlots (raw1 g _ _ _ (by decide)) (raw2 g _ _ _ (by decide)) (cong3 (fun x0 x1 x2 => some (Instr.maxw g x0 x1 x2))
    ((drop_low _ _ rfl).trans ((drop_low _ _ rfl).trans ((drop_low _ _ rfl).trans (BitVec.extractLsb'_eq_self))))
    ((drop_low _ _ rfl).trans ((drop_low _ _ rfl).trans (take_low _ _)))
    ((drop_low _ _ rfl).trans (take_low _ _)))

theorem abs (g : Bool) (d : Spec) (a : Spec) : Statement (.abs g d a) := by
  exact twoSlots (raw1 g _ _ _ (by decide)) (raw2 g _ _ _ (by decide)) (cong2 (fun x0 x1 => some (Instr.abs g x0 x1))
    ((drop_low _ _ rfl).trans ((drop_low _ _ rfl).trans (BitVec.extractLsb'_eq_self)))
    ((drop_low _ _ rfl).trans (take_low _ _)))

theorem and (g : Bool) (d : Spec) (a : Spec) (b : Spec) : Statement (.and g d a b) := by
  exact twoSlots (raw1 g _ _ _ (by decide)) (raw2 g _ _ _ (by decide)) (cong3 (fun x0 x1 x2 => some (Instr.and g x0 x1 x2))
    ((drop_low _ _ rfl).trans ((drop_low _ _ rfl).trans ((drop_low _ _ rfl).trans (BitVec.extractLsb'_eq_self))))
    ((drop_low _ _ rfl).trans ((drop_low _ _ rfl).trans (take_low _ _)))
    ((drop_low _ _ rfl).trans (take_low _ _)))

theorem or (g : Bool) (d : Spec) (a : Spec) (b : Spec) : Statement (.or g d a b) := by
  exact twoSlots (raw1 g _ _ _ (by decide)) (raw2 g _ _ _ (by decide)) (cong3 (fun x0 x1 x2 => some (Instr.or g x0 x1 x2))
    ((drop_low _ _ rfl).trans ((drop_low _ _ rfl).trans ((drop_low _ _ rfl).trans (BitVec.extractLsb'_eq_self))))
    ((drop_low _ _ rfl).trans ((drop_low _ _ rfl).trans (take_low _ _)))
    ((drop_low _ _ rfl).trans (take_low _ _)))

theorem xor (g : Bool) (d : Spec) (a : Spec) (b : Spec) : Statement (.xor g d a b) := by
  exact twoSlots (raw1 g _ _ _ (by decide)) (raw2 g _ _ _ (by decide)) (cong3 (fun x0 x1 x2 => some (Instr.xor g x0 x1 x2))
    ((drop_low _ _ rfl).trans ((drop_low _ _ rfl).trans ((drop_low _ _ rfl).trans (BitVec.extractLsb'_eq_self))))
    ((drop_low _ _ rfl).trans ((drop_low _ _ rfl).trans (take_low _ _)))
    ((drop_low _ _ rfl).trans (take_low _ _)))

theorem andn (g : Bool) (d : Spec) (a : Spec) (b : Spec) : Statement (.andn g d a b) := by
  exact twoSlots (raw1 g _ _ _ (by decide)) (raw2 g _ _ _ (by decide)) (cong3 (fun x0 x1 x2 => some (Instr.andn g x0 x1 x2))
    ((drop_low _ _ rfl).trans ((drop_low _ _ rfl).trans ((drop_low _ _ rfl).trans (BitVec.extractLsb'_eq_self))))
    ((drop_low _ _ rfl).trans ((drop_low _ _ rfl).trans (take_low _ _)))
    ((drop_low _ _ rfl).trans (take_low _ _)))

theorem orn (g : Bool) (d : Spec) (a : Spec) (b : Spec) : Statement (.orn g d a b) := by
  exact twoSlots (raw1 g _ _ _ (by decide)) (raw2 g _ _ _ (by decide)) (cong3 (fun x0 x1 x2 => some (Instr.orn g x0 x1 x2))
    ((drop_low _ _ rfl).trans ((drop_low _ _ rfl).trans ((drop_low _ _ rfl).trans (BitVec.extractLsb'_eq_self))))
    ((drop_low _ _ rfl).trans ((drop_low _ _ rfl).trans (take_low _ _)))
    ((drop_low _ _ rfl).trans (take_low _ _)))

theorem andi (g : Bool) (d : Spec) (a : Spec) (imm : BitVec 12) : Statement (.andi g d a imm) := by
  exact twoSlots (raw1 g _ _ _ (by decide)) (raw2 g _ _ _ (by decide)) (cong3 (fun x0 x1 x2 => some (Instr.andi g x0 x1 x2))
    ((drop_low _ _ rfl).trans ((drop_low _ _ rfl).trans (BitVec.extractLsb'_eq_self)))
    ((drop_low _ _ rfl).trans (take_low _ _))
    (take_low _ _))

theorem ori (g : Bool) (d : Spec) (a : Spec) (imm : BitVec 12) : Statement (.ori g d a imm) := by
  exact twoSlots (raw1 g _ _ _ (by decide)) (raw2 g _ _ _ (by decide)) (cong3 (fun x0 x1 x2 => some (Instr.ori g x0 x1 x2))
    ((drop_low _ _ rfl).trans ((drop_low _ _ rfl).trans (BitVec.extractLsb'_eq_self)))
    ((drop_low _ _ rfl).trans (take_low _ _))
    (take_low _ _))

theorem xori (g : Bool) (d : Spec) (a : Spec) (imm : BitVec 12) : Statement (.xori g d a imm) := by
  exact twoSlots (raw1 g _ _ _ (by decide)) (raw2 g _ _ _ (by decide)) (cong3 (fun x0 x1 x2 => some (Instr.xori g x0 x1 x2))
    ((drop_low _ _ rfl).trans ((drop_low _ _ rfl).trans (BitVec.extractLsb'_eq_self)))
    ((drop_low _ _ rfl).trans (take_low _ _))
    (take_low _ _))

theorem shl (g : Bool) (d : Spec) (a : Spec) (b : Spec) : Statement (.shl g d a b) := by
  exact twoSlots (raw1 g _ _ _ (by decide)) (raw2 g _ _ _ (by decide)) (cong3 (fun x0 x1 x2 => some (Instr.shl g x0 x1 x2))
    ((drop_low _ _ rfl).trans ((drop_low _ _ rfl).trans ((drop_low _ _ rfl).trans (BitVec.extractLsb'_eq_self))))
    ((drop_low _ _ rfl).trans ((drop_low _ _ rfl).trans (take_low _ _)))
    ((drop_low _ _ rfl).trans (take_low _ _)))

theorem shr (g : Bool) (d : Spec) (a : Spec) (b : Spec) : Statement (.shr g d a b) := by
  exact twoSlots (raw1 g _ _ _ (by decide)) (raw2 g _ _ _ (by decide)) (cong3 (fun x0 x1 x2 => some (Instr.shr g x0 x1 x2))
    ((drop_low _ _ rfl).trans ((drop_low _ _ rfl).trans ((drop_low _ _ rfl).trans (BitVec.extractLsb'_eq_self))))
    ((drop_low _ _ rfl).trans ((drop_low _ _ rfl).trans (take_low _ _)))
    ((drop_low _ _ rfl).trans (take_low _ _)))

theorem sar (g : Bool) (d : Spec) (a : Spec) (b : Spec) : Statement (.sar g d a b) := by
  exact twoSlots (raw1 g _ _ _ (by decide)) (raw2 g _ _ _ (by decide)) (cong3 (fun x0 x1 x2 => some (Instr.sar g x0 x1 x2))
    ((drop_low _ _ rfl).trans ((drop_low _ _ rfl).trans ((drop_low _ _ rfl).trans (BitVec.extractLsb'_eq_self))))
    ((drop_low _ _ rfl).trans ((drop_low _ _ rfl).trans (take_low _ _)))
    ((drop_low _ _ rfl).trans (take_low _ _)))

theorem rol (g : Bool) (d : Spec) (a : Spec) (b : Spec) : Statement (.rol g d a b) := by
  exact twoSlots (raw1 g _ _ _ (by decide)) (raw2 g _ _ _ (by decide)) (cong3 (fun x0 x1 x2 => some (Instr.rol g x0 x1 x2))
    ((drop_low _ _ rfl).trans ((drop_low _ _ rfl).trans ((drop_low _ _ rfl).trans (BitVec.extractLsb'_eq_self))))
    ((drop_low _ _ rfl).trans ((drop_low _ _ rfl).trans (take_low _ _)))
    ((drop_low _ _ rfl).trans (take_low _ _)))

theorem shli (g : Bool) (d : Spec) (a : Spec) (f : BitVec 6) : Statement (.shli g d a f) := by
  exact twoSlots (raw1 g _ _ _ (by decide)) (raw2 g _ _ _ (by decide)) (cong3 (fun x0 x1 x2 => some (Instr.shli g x0 x1 x2))
    ((drop_low _ _ rfl).trans ((drop_low _ _ rfl).trans ((drop_low _ _ rfl).trans (BitVec.extractLsb'_eq_self))))
    ((drop_low _ _ rfl).trans ((drop_low _ _ rfl).trans (take_low _ _)))
    (take_low _ _))

theorem shri (g : Bool) (d : Spec) (a : Spec) (f : BitVec 6) : Statement (.shri g d a f) := by
  exact twoSlots (raw1 g _ _ _ (by decide)) (raw2 g _ _ _ (by decide)) (cong3 (fun x0 x1 x2 => some (Instr.shri g x0 x1 x2))
    ((drop_low _ _ rfl).trans ((drop_low _ _ rfl).trans ((drop_low _ _ rfl).trans (BitVec.extractLsb'_eq_self))))
    ((drop_low _ _ rfl).trans ((drop_low _ _ rfl).trans (take_low _ _)))
    (take_low _ _))

theorem sari (g : Bool) (d : Spec) (a : Spec) (f : BitVec 6) : Statement (.sari g d a f) := by
  exact twoSlots (raw1 g _ _ _ (by decide)) (raw2 g _ _ _ (by decide)) (cong3 (fun x0 x1 x2 => some (Instr.sari g x0 x1 x2))
    ((drop_low _ _ rfl).trans ((drop_low _ _ rfl).trans ((drop_low _ _ rfl).trans (BitVec.extractLsb'_eq_self))))
    ((drop_low _ _ rfl).trans ((drop_low _ _ rfl).trans (take_low _ _)))
    (take_low _ _))

theorem roli (g : Bool) (d : Spec) (a : Spec) (f : BitVec 6) : Statement (.roli g d a f) := by
  exact twoSlots (raw1 g _ _ _ (by decide)) (raw2 g _ _ _ (by decide)) (cong3 (fun x0 x1 x2 => some (Instr.roli g x0 x1 x2))
    ((drop_low _ _ rfl).trans ((drop_low _ _ rfl).trans ((drop_low _ _ rfl).trans (BitVec.extractLsb'_eq_self))))
    ((drop_low _ _ rfl).trans ((drop_low _ _ rfl).trans (take_low _ _)))
    (take_low _ _))

theorem ceq (g : Bool) (d : Spec) (a : Spec) (b : Spec) : Statement (.ceq g d a b) := by
  exact twoSlots (raw1 g _ _ _ (by decide)) (raw2 g _ _ _ (by decide)) (cong3 (fun x0 x1 x2 => some (Instr.ceq g x0 x1 x2))
    ((drop_low _ _ rfl).trans ((drop_low _ _ rfl).trans ((drop_low _ _ rfl).trans (BitVec.extractLsb'_eq_self))))
    ((drop_low _ _ rfl).trans ((drop_low _ _ rfl).trans (take_low _ _)))
    ((drop_low _ _ rfl).trans (take_low _ _)))

theorem cne (g : Bool) (d : Spec) (a : Spec) (b : Spec) : Statement (.cne g d a b) := by
  exact twoSlots (raw1 g _ _ _ (by decide)) (raw2 g _ _ _ (by decide)) (cong3 (fun x0 x1 x2 => some (Instr.cne g x0 x1 x2))
    ((drop_low _ _ rfl).trans ((drop_low _ _ rfl).trans ((drop_low _ _ rfl).trans (BitVec.extractLsb'_eq_self))))
    ((drop_low _ _ rfl).trans ((drop_low _ _ rfl).trans (take_low _ _)))
    ((drop_low _ _ rfl).trans (take_low _ _)))

theorem clt (g : Bool) (d : Spec) (a : Spec) (b : Spec) : Statement (.clt g d a b) := by
  exact twoSlots (raw1 g _ _ _ (by decide)) (raw2 g _ _ _ (by decide)) (cong3 (fun x0 x1 x2 => some (Instr.clt g x0 x1 x2))
    ((drop_low _ _ rfl).trans ((drop_low _ _ rfl).trans ((drop_low _ _ rfl).trans (BitVec.extractLsb'_eq_self))))
    ((drop_low _ _ rfl).trans ((drop_low _ _ rfl).trans (take_low _ _)))
    ((drop_low _ _ rfl).trans (take_low _ _)))

theorem cle (g : Bool) (d : Spec) (a : Spec) (b : Spec) : Statement (.cle g d a b) := by
  exact twoSlots (raw1 g _ _ _ (by decide)) (raw2 g _ _ _ (by decide)) (cong3 (fun x0 x1 x2 => some (Instr.cle g x0 x1 x2))
    ((drop_low _ _ rfl).trans ((drop_low _ _ rfl).trans ((drop_low _ _ rfl).trans (BitVec.extractLsb'_eq_self))))
    ((drop_low _ _ rfl).trans ((drop_low _ _ rfl).trans (take_low _ _)))
    ((drop_low _ _ rfl).trans (take_low _ _)))

theorem cltw (g : Bool) (d : Spec) (a : Spec) (b : Spec) : Statement (.cltw g d a b) := by
  exact twoSlots (raw1 g _ _ _ (by decide)) (raw2 g _ _ _ (by decide)) (cong3 (fun x0 x1 x2 => some (Instr.cltw g x0 x1 x2))
    ((drop_low _ _ rfl).trans ((drop_low _ _ rfl).trans ((drop_low _ _ rfl).trans (BitVec.extractLsb'_eq_self))))
    ((drop_low _ _ rfl).trans ((drop_low _ _ rfl).trans (take_low _ _)))
    ((drop_low _ _ rfl).trans (take_low _ _)))

theorem clew (g : Bool) (d : Spec) (a : Spec) (b : Spec) : Statement (.clew g d a b) := by
  exact twoSlots (raw1 g _ _ _ (by decide)) (raw2 g _ _ _ (by decide)) (cong3 (fun x0 x1 x2 => some (Instr.clew g x0 x1 x2))
    ((drop_low _ _ rfl).trans ((drop_low _ _ rfl).trans ((drop_low _ _ rfl).trans (BitVec.extractLsb'_eq_self))))
    ((drop_low _ _ rfl).trans ((drop_low _ _ rfl).trans (take_low _ _)))
    ((drop_low _ _ rfl).trans (take_low _ _)))

theorem ceqi (g : Bool) (d : Spec) (a : Spec) (imm : BitVec 12) : Statement (.ceqi g d a imm) := by
  exact twoSlots (raw1 g _ _ _ (by decide)) (raw2 g _ _ _ (by decide)) (cong3 (fun x0 x1 x2 => some (Instr.ceqi g x0 x1 x2))
    ((drop_low _ _ rfl).trans ((drop_low _ _ rfl).trans (BitVec.extractLsb'_eq_self)))
    ((drop_low _ _ rfl).trans (take_low _ _))
    (take_low _ _))

theorem clti (g : Bool) (d : Spec) (a : Spec) (imm : BitVec 12) : Statement (.clti g d a imm) := by
  exact twoSlots (raw1 g _ _ _ (by decide)) (raw2 g _ _ _ (by decide)) (cong3 (fun x0 x1 x2 => some (Instr.clti g x0 x1 x2))
    ((drop_low _ _ rfl).trans ((drop_low _ _ rfl).trans (BitVec.extractLsb'_eq_self)))
    ((drop_low _ _ rfl).trans (take_low _ _))
    (take_low _ _))

theorem clz (g : Bool) (d : Spec) (a : Spec) : Statement (.clz g d a) := by
  exact twoSlots (raw1 g _ _ _ (by decide)) (raw2 g _ _ _ (by decide)) (cong2 (fun x0 x1 => some (Instr.clz g x0 x1))
    ((drop_low _ _ rfl).trans ((drop_low _ _ rfl).trans (BitVec.extractLsb'_eq_self)))
    ((drop_low _ _ rfl).trans (take_low _ _)))

theorem ctz (g : Bool) (d : Spec) (a : Spec) : Statement (.ctz g d a) := by
  exact twoSlots (raw1 g _ _ _ (by decide)) (raw2 g _ _ _ (by decide)) (cong2 (fun x0 x1 => some (Instr.ctz g x0 x1))
    ((drop_low _ _ rfl).trans ((drop_low _ _ rfl).trans (BitVec.extractLsb'_eq_self)))
    ((drop_low _ _ rfl).trans (take_low _ _)))

theorem popc (g : Bool) (d : Spec) (a : Spec) : Statement (.popc g d a) := by
  exact twoSlots (raw1 g _ _ _ (by decide)) (raw2 g _ _ _ (by decide)) (cong2 (fun x0 x1 => some (Instr.popc g x0 x1))
    ((drop_low _ _ rfl).trans ((drop_low _ _ rfl).trans (BitVec.extractLsb'_eq_self)))
    ((drop_low _ _ rfl).trans (take_low _ _)))

theorem brev (g : Bool) (d : Spec) (a : Spec) : Statement (.brev g d a) := by
  exact twoSlots (raw1 g _ _ _ (by decide)) (raw2 g _ _ _ (by decide)) (cong2 (fun x0 x1 => some (Instr.brev g x0 x1))
    ((drop_low _ _ rfl).trans ((drop_low _ _ rfl).trans (BitVec.extractLsb'_eq_self)))
    ((drop_low _ _ rfl).trans (take_low _ _)))

theorem bswap (g : Bool) (d : Spec) (a : Spec) : Statement (.bswap g d a) := by
  exact twoSlots (raw1 g _ _ _ (by decide)) (raw2 g _ _ _ (by decide)) (cong2 (fun x0 x1 => some (Instr.bswap g x0 x1))
    ((drop_low _ _ rfl).trans ((drop_low _ _ rfl).trans (BitVec.extractLsb'_eq_self)))
    ((drop_low _ _ rfl).trans (take_low _ _)))

theorem exts (g : Bool) (d : Spec) (a : Spec) (len : BitVec 6) (pos : BitVec 6) : Statement (.exts g d a len pos) := by
  exact twoSlots (raw1 g _ _ _ (by decide)) (raw2 g _ _ _ (by decide)) (cong4 (fun x0 x1 x2 x3 => some (Instr.exts g x0 x1 x2 x3))
    ((drop_low _ _ rfl).trans ((drop_low _ _ rfl).trans ((drop_low _ _ rfl).trans (BitVec.extractLsb'_eq_self))))
    ((drop_low _ _ rfl).trans ((drop_low _ _ rfl).trans (take_low _ _)))
    ((drop_low _ _ rfl).trans (take_low _ _))
    (take_low _ _))

theorem extz (g : Bool) (d : Spec) (a : Spec) (len : BitVec 6) (pos : BitVec 6) : Statement (.extz g d a len pos) := by
  exact twoSlots (raw1 g _ _ _ (by decide)) (raw2 g _ _ _ (by decide)) (cong4 (fun x0 x1 x2 x3 => some (Instr.extz g x0 x1 x2 x3))
    ((drop_low _ _ rfl).trans ((drop_low _ _ rfl).trans ((drop_low _ _ rfl).trans (BitVec.extractLsb'_eq_self))))
    ((drop_low _ _ rfl).trans ((drop_low _ _ rfl).trans (take_low _ _)))
    ((drop_low _ _ rfl).trans (take_low _ _))
    (take_low _ _))

theorem ins (g : Bool) (d : Spec) (a : Spec) (b : Spec) (c : Spec) : Statement (.ins g d a b c) := by
  exact twoSlots (raw1 g _ _ _ (by decide)) (raw2 g _ _ _ (by decide)) (cong4 (fun x0 x1 x2 x3 => some (Instr.ins g x0 x1 x2 x3))
    ((drop_low _ _ rfl).trans ((drop_low _ _ rfl).trans ((drop_low _ _ rfl).trans (BitVec.extractLsb'_eq_self))))
    ((drop_low _ _ rfl).trans ((drop_low _ _ rfl).trans (take_low _ _)))
    ((drop_low _ _ rfl).trans (take_low _ _))
    (take_low _ _))

theorem bperm (g : Bool) (d : Spec) (a : Spec) (b : Spec) (c : Spec) : Statement (.bperm g d a b c) := by
  exact twoSlots (raw1 g _ _ _ (by decide)) (raw2 g _ _ _ (by decide)) (cong4 (fun x0 x1 x2 x3 => some (Instr.bperm g x0 x1 x2 x3))
    ((drop_low _ _ rfl).trans ((drop_low _ _ rfl).trans ((drop_low _ _ rfl).trans (BitVec.extractLsb'_eq_self))))
    ((drop_low _ _ rfl).trans ((drop_low _ _ rfl).trans (take_low _ _)))
    ((drop_low _ _ rfl).trans (take_low _ _))
    (take_low _ _))

theorem bset (g : Bool) (d : Spec) (a : Spec) (f : BitVec 6) : Statement (.bset g d a f) := by
  exact twoSlots (raw1 g _ _ _ (by decide)) (raw2 g _ _ _ (by decide)) (cong3 (fun x0 x1 x2 => some (Instr.bset g x0 x1 x2))
    ((drop_low _ _ rfl).trans ((drop_low _ _ rfl).trans ((drop_low _ _ rfl).trans (BitVec.extractLsb'_eq_self))))
    ((drop_low _ _ rfl).trans ((drop_low _ _ rfl).trans (take_low _ _)))
    (take_low _ _))

theorem bclr (g : Bool) (d : Spec) (a : Spec) (f : BitVec 6) : Statement (.bclr g d a f) := by
  exact twoSlots (raw1 g _ _ _ (by decide)) (raw2 g _ _ _ (by decide)) (cong3 (fun x0 x1 x2 => some (Instr.bclr g x0 x1 x2))
    ((drop_low _ _ rfl).trans ((drop_low _ _ rfl).trans ((drop_low _ _ rfl).trans (BitVec.extractLsb'_eq_self))))
    ((drop_low _ _ rfl).trans ((drop_low _ _ rfl).trans (take_low _ _)))
    (take_low _ _))

theorem btst (g : Bool) (d : Spec) (a : Spec) (f : BitVec 6) : Statement (.btst g d a f) := by
  exact twoSlots (raw1 g _ _ _ (by decide)) (raw2 g _ _ _ (by decide)) (cong3 (fun x0 x1 x2 => some (Instr.btst g x0 x1 x2))
    ((drop_low _ _ rfl).trans ((drop_low _ _ rfl).trans ((drop_low _ _ rfl).trans (BitVec.extractLsb'_eq_self))))
    ((drop_low _ _ rfl).trans ((drop_low _ _ rfl).trans (take_low _ _)))
    (take_low _ _))

theorem bflip (g : Bool) (d : Spec) (a : Spec) (f : BitVec 6) : Statement (.bflip g d a f) := by
  exact twoSlots (raw1 g _ _ _ (by decide)) (raw2 g _ _ _ (by decide)) (cong3 (fun x0 x1 x2 => some (Instr.bflip g x0 x1 x2))
    ((drop_low _ _ rfl).trans ((drop_low _ _ rfl).trans ((drop_low _ _ rfl).trans (BitVec.extractLsb'_eq_self))))
    ((drop_low _ _ rfl).trans ((drop_low _ _ rfl).trans (take_low _ _)))
    (take_low _ _))

theorem mov (g : Bool) (d : Spec) (a : Spec) : Statement (.mov g d a) := by
  exact twoSlots (raw1 g _ _ _ (by decide)) (raw2 g _ _ _ (by decide)) (cong2 (fun x0 x1 => some (Instr.mov g x0 x1))
    ((drop_low _ _ rfl).trans ((drop_low _ _ rfl).trans (BitVec.extractLsb'_eq_self)))
    ((drop_low _ _ rfl).trans (take_low _ _)))

theorem movz (g : Bool) (d : Spec) (h : BitVec 2) (imm : BitVec 16) : Statement (.movz g d h imm) := by
  exact twoSlots (raw1 g _ _ _ (by decide)) (raw2 g _ _ _ (by decide)) (cong3 (fun x0 x1 x2 => some (Instr.movz g x0 x1 x2))
    ((drop_low _ _ rfl).trans ((drop_low _ _ rfl).trans (BitVec.extractLsb'_eq_self)))
    ((drop_low _ _ rfl).trans (take_low _ _))
    (take_low _ _))

theorem movk (g : Bool) (d : Spec) (h : BitVec 2) (imm : BitVec 16) : Statement (.movk g d h imm) := by
  exact twoSlots (raw1 g _ _ _ (by decide)) (raw2 g _ _ _ (by decide)) (cong3 (fun x0 x1 x2 => some (Instr.movk g x0 x1 x2))
    ((drop_low _ _ rfl).trans ((drop_low _ _ rfl).trans (BitVec.extractLsb'_eq_self)))
    ((drop_low _ _ rfl).trans (take_low _ _))
    (take_low _ _))

theorem sel (g : Bool) (d : Spec) (a : Spec) (b : Spec) (c : Spec) : Statement (.sel g d a b c) := by
  exact twoSlots (raw1 g _ _ _ (by decide)) (raw2 g _ _ _ (by decide)) (cong4 (fun x0 x1 x2 x3 => some (Instr.sel g x0 x1 x2 x3))
    ((drop_low _ _ rfl).trans ((drop_low _ _ rfl).trans ((drop_low _ _ rfl).trans (BitVec.extractLsb'_eq_self))))
    ((drop_low _ _ rfl).trans ((drop_low _ _ rfl).trans (take_low _ _)))
    ((drop_low _ _ rfl).trans (take_low _ _))
    (take_low _ _))

theorem lea (g : Bool) (d : Spec) (a : Spec) (b : Spec) (f : BitVec 6) : Statement (.lea g d a b f) := by
  exact twoSlots (raw1 g _ _ _ (by decide)) (raw2 g _ _ _ (by decide)) (cong4 (fun x0 x1 x2 x3 => some (Instr.lea g x0 x1 x2 x3))
    ((drop_low _ _ rfl).trans ((drop_low _ _ rfl).trans ((drop_low _ _ rfl).trans (BitVec.extractLsb'_eq_self))))
    ((drop_low _ _ rfl).trans ((drop_low _ _ rfl).trans (take_low _ _)))
    ((drop_low _ _ rfl).trans (take_low _ _))
    (take_low _ _))

theorem fadd (g : Bool) (d : Spec) (a : Spec) (b : Spec) (rm : BitVec 2) : Statement (.fadd g d a b rm) := by
  intro slot hs
  obtain rfl := List.mem_singleton.mp hs
  exact (raw1 g _ _ _ (by decide)).trans (cong4 (fun x0 x1 x2 x3 => some (Instr.fadd g x0 x1 x2 x3))
    ((drop_low _ _ rfl).trans ((drop_low _ _ rfl).trans ((drop_low _ _ rfl).trans ((drop_low _ _ rfl).trans (BitVec.extractLsb'_eq_self)))))
    ((drop_low _ _ rfl).trans ((drop_low _ _ rfl).trans ((drop_low _ _ rfl).trans (take_low _ _))))
    ((drop_low _ _ rfl).trans ((drop_low _ _ rfl).trans (take_low _ _)))
    (take_low _ _))

theorem fsub (g : Bool) (d : Spec) (a : Spec) (b : Spec) (rm : BitVec 2) : Statement (.fsub g d a b rm) := by
  intro slot hs
  obtain rfl := List.mem_singleton.mp hs
  exact (raw1 g _ _ _ (by decide)).trans (cong4 (fun x0 x1 x2 x3 => some (Instr.fsub g x0 x1 x2 x3))
    ((drop_low _ _ rfl).trans ((drop_low _ _ rfl).trans ((drop_low _ _ rfl).trans ((drop_low _ _ rfl).trans (BitVec.extractLsb'_eq_self)))))
    ((drop_low _ _ rfl).trans ((drop_low _ _ rfl).trans ((drop_low _ _ rfl).trans (take_low _ _))))
    ((drop_low _ _ rfl).trans ((drop_low _ _ rfl).trans (take_low _ _)))
    (take_low _ _))

theorem fmul (g : Bool) (d : Spec) (a : Spec) (b : Spec) (rm : BitVec 2) : Statement (.fmul g d a b rm) := by
  intro slot hs
  obtain rfl := List.mem_singleton.mp hs
  exact (raw1 g _ _ _ (by decide)).trans (cong4 (fun x0 x1 x2 x3 => some (Instr.fmul g x0 x1 x2 x3))
    ((drop_low _ _ rfl).trans ((drop_low _ _ rfl).trans ((drop_low _ _ rfl).trans ((drop_low _ _ rfl).trans (BitVec.extractLsb'_eq_self)))))
    ((drop_low _ _ rfl).trans ((drop_low _ _ rfl).trans ((drop_low _ _ rfl).trans (take_low _ _))))
    ((drop_low _ _ rfl).trans ((drop_low _ _ rfl).trans (take_low _ _)))
    (take_low _ _))

theorem fma (g : Bool) (d : Spec) (a : Spec) (b : Spec) (c : Spec) : Statement (.fma g d a b c) := by
  intro slot hs
  obtain rfl := List.mem_singleton.mp hs
  exact (raw1 g _ _ _ (by decide)).trans (cong4 (fun x0 x1 x2 x3 => some (Instr.fma g x0 x1 x2 x3))
    ((drop_low _ _ rfl).trans ((drop_low _ _ rfl).trans ((drop_low _ _ rfl).trans (BitVec.extractLsb'_eq_self))))
    ((drop_low _ _ rfl).trans ((drop_low _ _ rfl).trans (take_low _ _)))
    ((drop_low _ _ rfl).trans (take_low _ _))
    (take_low _ _))

theorem fmin (g : Bool) (d : Spec) (a : Spec) (b : Spec) : Statement (.fmin g d a b) := by
  intro slot hs
  obtain rfl := List.mem_singleton.mp hs
  exact (raw1 g _ _ _ (by decide)).trans (cong3 (fun x0 x1 x2 => some (Instr.fmin g x0 x1 x2))
    ((drop_low _ _ rfl).trans ((drop_low _ _ rfl).trans ((drop_low _ _ rfl).trans (BitVec.extractLsb'_eq_self))))
    ((drop_low _ _ rfl).trans ((drop_low _ _ rfl).trans (take_low _ _)))
    ((drop_low _ _ rfl).trans (take_low _ _)))

theorem fmax (g : Bool) (d : Spec) (a : Spec) (b : Spec) : Statement (.fmax g d a b) := by
  intro slot hs
  obtain rfl := List.mem_singleton.mp hs
  exact (raw1 g _ _ _ (by decide)).trans (cong3 (fun x0 x1 x2 => some (Instr.fmax g x0 x1 x2))
    ((drop_low _ _ rfl).trans ((drop_low _ _ rfl).trans ((drop_low _ _ rfl).trans (BitVec.extractLsb'_eq_self))))
    ((drop_low _ _ rfl).trans ((drop_low _ _ rfl).trans (take_low _ _)))
    ((drop_low _ _ rfl).trans (take_low _ _)))

theorem fcmp (g : Bool) (d : Spec) (a : Spec) (b : Spec) (cond : BitVec 3) : Statement (.fcmp g d a b cond) := by
  intro slot hs
  obtain rfl := List.mem_singleton.mp hs
  exact (raw1 g _ _ _ (by decide)).trans (cong4 (fun x0 x1 x2 x3 => some (Instr.fcmp g x0 x1 x2 x3))
    ((drop_low _ _ rfl).trans ((drop_low _ _ rfl).trans ((drop_low _ _ rfl).trans ((drop_low _ _ rfl).trans (BitVec.extractLsb'_eq_self)))))
    ((drop_low _ _ rfl).trans ((drop_low _ _ rfl).trans ((drop_low _ _ rfl).trans (take_low _ _))))
    ((drop_low _ _ rfl).trans ((drop_low _ _ rfl).trans (take_low _ _)))
    (take_low _ _))

theorem fcvtf (g : Bool) (d : Spec) (a : Spec) (t : BitVec 2) (rm : BitVec 2) : Statement (.fcvtf g d a t rm) := by
  intro slot hs
  obtain rfl := List.mem_singleton.mp hs
  exact (raw1 g _ _ _ (by decide)).trans (cong4 (fun x0 x1 x2 x3 => some (Instr.fcvtf g x0 x1 x2 x3))
    ((drop_low _ _ rfl).trans ((drop_low _ _ rfl).trans ((drop_low _ _ rfl).trans ((drop_low _ _ rfl).trans (BitVec.extractLsb'_eq_self)))))
    ((drop_low _ _ rfl).trans ((drop_low _ _ rfl).trans ((drop_low _ _ rfl).trans (take_low _ _))))
    ((drop_low _ _ rfl).trans (take_low _ _))
    (take_low _ _))

theorem fcvti (g : Bool) (d : Spec) (a : Spec) (t : BitVec 2) (rm : BitVec 2) : Statement (.fcvti g d a t rm) := by
  intro slot hs
  obtain rfl := List.mem_singleton.mp hs
  exact (raw1 g _ _ _ (by decide)).trans (cong4 (fun x0 x1 x2 x3 => some (Instr.fcvti g x0 x1 x2 x3))
    ((drop_low _ _ rfl).trans ((drop_low _ _ rfl).trans ((drop_low _ _ rfl).trans ((drop_low _ _ rfl).trans (BitVec.extractLsb'_eq_self)))))
    ((drop_low _ _ rfl).trans ((drop_low _ _ rfl).trans ((drop_low _ _ rfl).trans (take_low _ _))))
    ((drop_low _ _ rfl).trans (take_low _ _))
    (take_low _ _))

theorem fabs (g : Bool) (d : Spec) (a : Spec) : Statement (.fabs g d a) := by
  intro slot hs
  obtain rfl := List.mem_singleton.mp hs
  exact (raw1 g _ _ _ (by decide)).trans (cong2 (fun x0 x1 => some (Instr.fabs g x0 x1))
    ((drop_low _ _ rfl).trans ((drop_low _ _ rfl).trans (BitVec.extractLsb'_eq_self)))
    ((drop_low _ _ rfl).trans (take_low _ _)))

theorem fneg (g : Bool) (d : Spec) (a : Spec) : Statement (.fneg g d a) := by
  intro slot hs
  obtain rfl := List.mem_singleton.mp hs
  exact (raw1 g _ _ _ (by decide)).trans (cong2 (fun x0 x1 => some (Instr.fneg g x0 x1))
    ((drop_low _ _ rfl).trans ((drop_low _ _ rfl).trans (BitVec.extractLsb'_eq_self)))
    ((drop_low _ _ rfl).trans (take_low _ _)))

theorem ld (g : Bool) (d : Spec) (base : Spec) (size : BitVec 2) (sx : Bool) (off : BitVec 9) : Statement (.ld g d base size sx off) := by
  intro slot hs
  obtain rfl := List.mem_singleton.mp hs
  exact (raw3 g _ _ _).trans (cong5 (fun x0 x1 x2 x3 x4 => some (Instr.ld g x0 x1 x2 x3 x4))
    ((drop_low _ _ rfl).trans ((drop_low _ _ rfl).trans ((drop_low _ _ rfl).trans ((drop_low _ _ rfl).trans (BitVec.extractLsb'_eq_self)))))
    ((drop_low _ _ rfl).trans ((drop_low _ _ rfl).trans ((drop_low _ _ rfl).trans (take_low _ _))))
    ((drop_low _ _ rfl).trans ((drop_low _ _ rfl).trans (take_low _ _)))
    ((drop_low_bit _ _ rfl).trans (take_low_bit _ _))
    (take_low _ _))

theorem st (g : Bool) (src : Spec) (base : Spec) (size : BitVec 2) (off : BitVec 9) : Statement (.st g src base size off) := by
  intro slot hs
  obtain rfl := List.mem_singleton.mp hs
  exact (raw3 g _ _ _).trans (cong4 (fun x0 x1 x2 x3 => some (Instr.st g x0 x1 x2 x3))
    ((drop_low _ _ rfl).trans ((drop_low _ _ rfl).trans ((drop_low _ _ rfl).trans ((drop_low _ _ rfl).trans (BitVec.extractLsb'_eq_self)))))
    ((drop_low _ _ rfl).trans ((drop_low _ _ rfl).trans ((drop_low _ _ rfl).trans (take_low _ _))))
    ((drop_low _ _ rfl).trans ((drop_low _ _ rfl).trans (take_low _ _)))
    (take_low _ _))

theorem lda (g : Bool) (d : Spec) (base : Spec) (size : BitVec 2) (sx : Bool) (scope : BitVec 3) : Statement (.lda g d base size sx scope) := by
  intro slot hs
  obtain rfl := List.mem_singleton.mp hs
  exact (raw3 g _ _ _).trans (cong5 (fun x0 x1 x2 x3 x4 => some (Instr.lda g x0 x1 x2 x3 x4))
    ((drop_low _ _ rfl).trans ((drop_low _ _ rfl).trans ((drop_low _ _ rfl).trans ((drop_low _ _ rfl).trans ((drop_low _ _ rfl).trans (BitVec.extractLsb'_eq_self))))))
    ((drop_low _ _ rfl).trans ((drop_low _ _ rfl).trans ((drop_low _ _ rfl).trans ((drop_low _ _ rfl).trans (take_low _ _)))))
    ((drop_low _ _ rfl).trans ((drop_low _ _ rfl).trans ((drop_low _ _ rfl).trans (take_low _ _))))
    ((drop_low_bit _ _ rfl).trans ((drop_low_bit _ _ rfl).trans (take_low_bit _ _)))
    ((drop_low _ _ rfl).trans (take_low _ _)))

theorem stl (g : Bool) (src : Spec) (base : Spec) (size : BitVec 2) (scope : BitVec 3) : Statement (.stl g src base size scope) := by
  intro slot hs
  obtain rfl := List.mem_singleton.mp hs
  exact (raw3 g _ _ _).trans (cong4 (fun x0 x1 x2 x3 => some (Instr.stl g x0 x1 x2 x3))
    ((drop_low _ _ rfl).trans ((drop_low _ _ rfl).trans ((drop_low _ _ rfl).trans ((drop_low _ _ rfl).trans ((drop_low _ _ rfl).trans (BitVec.extractLsb'_eq_self))))))
    ((drop_low _ _ rfl).trans ((drop_low _ _ rfl).trans ((drop_low _ _ rfl).trans ((drop_low _ _ rfl).trans (take_low _ _)))))
    ((drop_low _ _ rfl).trans ((drop_low _ _ rfl).trans ((drop_low _ _ rfl).trans (take_low _ _))))
    ((drop_low _ _ rfl).trans (take_low _ _)))

theorem ldfe (g : Bool) (d : Spec) (base : Spec) (size : BitVec 2) (sx : Bool) (off : BitVec 9) : Statement (.ldfe g d base size sx off) := by
  intro slot hs
  obtain rfl := List.mem_singleton.mp hs
  exact (raw3 g _ _ _).trans (cong5 (fun x0 x1 x2 x3 x4 => some (Instr.ldfe g x0 x1 x2 x3 x4))
    ((drop_low _ _ rfl).trans ((drop_low _ _ rfl).trans ((drop_low _ _ rfl).trans ((drop_low _ _ rfl).trans (BitVec.extractLsb'_eq_self)))))
    ((drop_low _ _ rfl).trans ((drop_low _ _ rfl).trans ((drop_low _ _ rfl).trans (take_low _ _))))
    ((drop_low _ _ rfl).trans ((drop_low _ _ rfl).trans (take_low _ _)))
    ((drop_low_bit _ _ rfl).trans (take_low_bit _ _))
    (take_low _ _))

theorem ldff (g : Bool) (d : Spec) (base : Spec) (size : BitVec 2) (sx : Bool) (off : BitVec 9) : Statement (.ldff g d base size sx off) := by
  intro slot hs
  obtain rfl := List.mem_singleton.mp hs
  exact (raw3 g _ _ _).trans (cong5 (fun x0 x1 x2 x3 x4 => some (Instr.ldff g x0 x1 x2 x3 x4))
    ((drop_low _ _ rfl).trans ((drop_low _ _ rfl).trans ((drop_low _ _ rfl).trans ((drop_low _ _ rfl).trans (BitVec.extractLsb'_eq_self)))))
    ((drop_low _ _ rfl).trans ((drop_low _ _ rfl).trans ((drop_low _ _ rfl).trans (take_low _ _))))
    ((drop_low _ _ rfl).trans ((drop_low _ _ rfl).trans (take_low _ _)))
    ((drop_low_bit _ _ rfl).trans (take_low_bit _ _))
    (take_low _ _))

theorem stef (g : Bool) (src : Spec) (base : Spec) (size : BitVec 2) (off : BitVec 9) : Statement (.stef g src base size off) := by
  intro slot hs
  obtain rfl := List.mem_singleton.mp hs
  exact (raw3 g _ _ _).trans (cong4 (fun x0 x1 x2 x3 => some (Instr.stef g x0 x1 x2 x3))
    ((drop_low _ _ rfl).trans ((drop_low _ _ rfl).trans ((drop_low _ _ rfl).trans ((drop_low _ _ rfl).trans (BitVec.extractLsb'_eq_self)))))
    ((drop_low _ _ rfl).trans ((drop_low _ _ rfl).trans ((drop_low _ _ rfl).trans (take_low _ _))))
    ((drop_low _ _ rfl).trans ((drop_low _ _ rfl).trans (take_low _ _)))
    (take_low _ _))

theorem stff (g : Bool) (src : Spec) (base : Spec) (size : BitVec 2) (off : BitVec 9) : Statement (.stff g src base size off) := by
  intro slot hs
  obtain rfl := List.mem_singleton.mp hs
  exact (raw3 g _ _ _).trans (cong4 (fun x0 x1 x2 x3 => some (Instr.stff g x0 x1 x2 x3))
    ((drop_low _ _ rfl).trans ((drop_low _ _ rfl).trans ((drop_low _ _ rfl).trans ((drop_low _ _ rfl).trans (BitVec.extractLsb'_eq_self)))))
    ((drop_low _ _ rfl).trans ((drop_low _ _ rfl).trans ((drop_low _ _ rfl).trans (take_low _ _))))
    ((drop_low _ _ rfl).trans ((drop_low _ _ rfl).trans (take_low _ _)))
    (take_low _ _))

theorem feinit (g : Bool) (cnt : Spec) (base : Spec) (st : Bool) : Statement (.feinit g cnt base st) := by
  intro slot hs
  obtain rfl := List.mem_singleton.mp hs
  exact (raw3 g _ _ _).trans (cong3 (fun x0 x1 x2 => some (Instr.feinit g x0 x1 x2))
    ((drop_low _ _ rfl).trans ((drop_low _ _ rfl).trans ((drop_low _ _ rfl).trans ((drop_low _ _ rfl).trans (BitVec.extractLsb'_eq_self)))))
    ((drop_low _ _ rfl).trans ((drop_low _ _ rfl).trans ((drop_low _ _ rfl).trans (take_low _ _))))
    (take_low_bit _ _))

theorem vld (g : Bool) (v : Spec) (base : Spec) (stride : Spec) (step : BitVec 6) : Statement (.vld g v base stride step) := by
  intro slot hs
  obtain rfl := List.mem_singleton.mp hs
  exact (raw3 g _ _ _).trans (cong4 (fun x0 x1 x2 x3 => some (Instr.vld g x0 x1 x2 x3))
    ((drop_low _ _ rfl).trans ((drop_low _ _ rfl).trans ((drop_low _ _ rfl).trans (BitVec.extractLsb'_eq_self))))
    ((drop_low _ _ rfl).trans ((drop_low _ _ rfl).trans (take_low _ _)))
    ((drop_low _ _ rfl).trans (take_low _ _))
    (take_low _ _))

theorem vst (g : Bool) (v : Spec) (base : Spec) (stride : Spec) (step : BitVec 6) : Statement (.vst g v base stride step) := by
  intro slot hs
  obtain rfl := List.mem_singleton.mp hs
  exact (raw3 g _ _ _).trans (cong4 (fun x0 x1 x2 x3 => some (Instr.vst g x0 x1 x2 x3))
    ((drop_low _ _ rfl).trans ((drop_low _ _ rfl).trans ((drop_low _ _ rfl).trans (BitVec.extractLsb'_eq_self))))
    ((drop_low _ _ rfl).trans ((drop_low _ _ rfl).trans (take_low _ _)))
    ((drop_low _ _ rfl).trans (take_low _ _))
    (take_low _ _))

theorem vldw (g : Bool) (v : Spec) (base : Spec) (stride : Spec) (step : BitVec 6) : Statement (.vldw g v base stride step) := by
  intro slot hs
  obtain rfl := List.mem_singleton.mp hs
  exact (raw3 g _ _ _).trans (cong4 (fun x0 x1 x2 x3 => some (Instr.vldw g x0 x1 x2 x3))
    ((drop_low _ _ rfl).trans ((drop_low _ _ rfl).trans ((drop_low _ _ rfl).trans (BitVec.extractLsb'_eq_self))))
    ((drop_low _ _ rfl).trans ((drop_low _ _ rfl).trans (take_low _ _)))
    ((drop_low _ _ rfl).trans (take_low _ _))
    (take_low _ _))

theorem vstf (g : Bool) (v : Spec) (base : Spec) (stride : Spec) (step : BitVec 6) : Statement (.vstf g v base stride step) := by
  intro slot hs
  obtain rfl := List.mem_singleton.mp hs
  exact (raw3 g _ _ _).trans (cong4 (fun x0 x1 x2 x3 => some (Instr.vstf g x0 x1 x2 x3))
    ((drop_low _ _ rfl).trans ((drop_low _ _ rfl).trans ((drop_low _ _ rfl).trans (BitVec.extractLsb'_eq_self))))
    ((drop_low _ _ rfl).trans ((drop_low _ _ rfl).trans (take_low _ _)))
    ((drop_low _ _ rfl).trans (take_low _ _))
    (take_low _ _))

theorem ldnb (g : Bool) (d : Spec) (base : Spec) (time : Spec) (size : BitVec 2) (strict : Bool) : Statement (.ldnb g d base time size strict) := by
  intro slot hs
  obtain rfl := List.mem_singleton.mp hs
  exact (raw3 g _ _ _).trans (cong5 (fun x0 x1 x2 x3 x4 => some (Instr.ldnb g x0 x1 x2 x3 x4))
    ((drop_low _ _ rfl).trans ((drop_low _ _ rfl).trans ((drop_low _ _ rfl).trans ((drop_low _ _ rfl).trans ((drop_low _ _ rfl).trans (BitVec.extractLsb'_eq_self))))))
    ((drop_low _ _ rfl).trans ((drop_low _ _ rfl).trans ((drop_low _ _ rfl).trans ((drop_low _ _ rfl).trans (take_low _ _)))))
    ((drop_low _ _ rfl).trans ((drop_low _ _ rfl).trans ((drop_low _ _ rfl).trans (take_low _ _))))
    ((drop_low _ _ rfl).trans ((drop_low _ _ rfl).trans (take_low _ _)))
    ((drop_low_bit _ _ rfl).trans (take_low_bit _ _)))

theorem stt (g : Bool) (src : Spec) (base : Spec) (time : Spec) (size : BitVec 2) (strict : Bool) : Statement (.stt g src base time size strict) := by
  intro slot hs
  obtain rfl := List.mem_singleton.mp hs
  exact (raw3 g _ _ _).trans (cong5 (fun x0 x1 x2 x3 x4 => some (Instr.stt g x0 x1 x2 x3 x4))
    ((drop_low _ _ rfl).trans ((drop_low _ _ rfl).trans ((drop_low _ _ rfl).trans ((drop_low _ _ rfl).trans ((drop_low _ _ rfl).trans (BitVec.extractLsb'_eq_self))))))
    ((drop_low _ _ rfl).trans ((drop_low _ _ rfl).trans ((drop_low _ _ rfl).trans ((drop_low _ _ rfl).trans (take_low _ _)))))
    ((drop_low _ _ rfl).trans ((drop_low _ _ rfl).trans ((drop_low _ _ rfl).trans (take_low _ _))))
    ((drop_low _ _ rfl).trans ((drop_low _ _ rfl).trans (take_low _ _)))
    ((drop_low_bit _ _ rfl).trans (take_low_bit _ _)))

theorem waita (g : Bool) (d : Spec) (addr : Spec) (opd : Spec) (dbl : Bool) (cond : BitVec 4) : Statement (.waita g d addr opd dbl cond) := by
  intro slot hs
  obtain rfl := List.mem_singleton.mp hs
  exact (raw3 g _ _ _).trans (cong5 (fun x0 x1 x2 x3 x4 => some (Instr.waita g x0 x1 x2 x3 x4))
    ((drop_low _ _ rfl).trans ((drop_low _ _ rfl).trans ((drop_low _ _ rfl).trans ((drop_low _ _ rfl).trans ((drop_low _ _ rfl).trans (BitVec.extractLsb'_eq_self))))))
    ((drop_low _ _ rfl).trans ((drop_low _ _ rfl).trans ((drop_low _ _ rfl).trans ((drop_low _ _ rfl).trans (take_low _ _)))))
    ((drop_low _ _ rfl).trans ((drop_low _ _ rfl).trans ((drop_low _ _ rfl).trans (take_low _ _))))
    ((drop_low_bit _ _ rfl).trans (take_low_bit _ _))
    (take_low _ _))

theorem fence (g : Bool) (scope : BitVec 3) : Statement (.fence g scope) := by
  intro slot hs
  obtain rfl := List.mem_singleton.mp hs
  exact (raw3 g _ _ _).trans (cong1 (fun x0 => some (Instr.fence g x0))
    ((drop_low _ _ rfl).trans (BitVec.extractLsb'_eq_self)))

theorem drain (g : Bool) (scope : BitVec 3) : Statement (.drain g scope) := by
  intro slot hs
  obtain rfl := List.mem_singleton.mp hs
  exact (raw3 g _ _ _).trans (cong1 (fun x0 => some (Instr.drain g x0))
    ((drop_low _ _ rfl).trans (BitVec.extractLsb'_eq_self)))

theorem persist (g : Bool) (scope : BitVec 3) : Statement (.persist g scope) := by
  intro slot hs
  obtain rfl := List.mem_singleton.mp hs
  exact (raw3 g _ _ _).trans (cong1 (fun x0 => some (Instr.persist g x0))
    ((drop_low _ _ rfl).trans (BitVec.extractLsb'_eq_self)))

theorem pref (g : Bool) (hint : Bool) (base : Spec) (size : BitVec 2) (off : BitVec 9) : Statement (.pref g hint base size off) := by
  intro slot hs
  obtain rfl := List.mem_singleton.mp hs
  exact (raw3 g _ _ _).trans (cong4 (fun x0 x1 x2 x3 => some (Instr.pref g x0 x1 x2 x3))
    ((drop_low_bit _ _ rfl).trans ((drop_low_bit _ _ rfl).trans ((drop_low_bit _ _ rfl).trans ((drop_low_bit _ _ rfl).trans (take_low_bit _ _)))))
    ((drop_low _ _ rfl).trans ((drop_low _ _ rfl).trans ((drop_low _ _ rfl).trans (take_low _ _))))
    ((drop_low _ _ rfl).trans ((drop_low _ _ rfl).trans (take_low _ _)))
    (take_low _ _))

theorem cflush (g : Bool) (base : Spec) (off : BitVec 9) : Statement (.cflush g base off) := by
  intro slot hs
  obtain rfl := List.mem_singleton.mp hs
  exact (raw3 g _ _ _).trans (cong2 (fun x0 x1 => some (Instr.cflush g x0 x1))
    ((drop_low _ _ rfl).trans ((drop_low _ _ rfl).trans ((drop_low _ _ rfl).trans (take_low _ _))))
    (take_low _ _))

theorem afadd (g : Bool) (d : Spec) (addr : Spec) (opd : Spec) (dbl : Bool) : Statement (.afadd g d addr opd dbl) := by
  intro slot hs
  obtain rfl := List.mem_singleton.mp hs
  exact (raw3 g _ _ _).trans (cong4 (fun x0 x1 x2 x3 => some (Instr.afadd g x0 x1 x2 x3))
    ((drop_low _ _ rfl).trans ((drop_low _ _ rfl).trans ((drop_low _ _ rfl).trans ((drop_low _ _ rfl).trans ((drop_low _ _ rfl).trans (BitVec.extractLsb'_eq_self))))))
    ((drop_low _ _ rfl).trans ((drop_low _ _ rfl).trans ((drop_low _ _ rfl).trans ((drop_low _ _ rfl).trans (take_low _ _)))))
    ((drop_low _ _ rfl).trans ((drop_low _ _ rfl).trans ((drop_low _ _ rfl).trans (take_low _ _))))
    ((drop_low_bit _ _ rfl).trans (take_low_bit _ _)))

theorem afaddf (g : Bool) (d : Spec) (addr : Spec) (opd : Spec) (size : BitVec 2) : Statement (.afaddf g d addr opd size) := by
  intro slot hs
  obtain rfl := List.mem_singleton.mp hs
  exact (raw3 g _ _ _).trans (cong4 (fun x0 x1 x2 x3 => some (Instr.afaddf g x0 x1 x2 x3))
    ((drop_low _ _ rfl).trans ((drop_low _ _ rfl).trans ((drop_low _ _ rfl).trans ((drop_low _ _ rfl).trans (BitVec.extractLsb'_eq_self)))))
    ((drop_low _ _ rfl).trans ((drop_low _ _ rfl).trans ((drop_low _ _ rfl).trans (take_low _ _))))
    ((drop_low _ _ rfl).trans ((drop_low _ _ rfl).trans (take_low _ _)))
    ((drop_low _ _ rfl).trans (take_low _ _)))

theorem afmin (g : Bool) (d : Spec) (addr : Spec) (opd : Spec) (dbl : Bool) : Statement (.afmin g d addr opd dbl) := by
  intro slot hs
  obtain rfl := List.mem_singleton.mp hs
  exact (raw3 g _ _ _).trans (cong4 (fun x0 x1 x2 x3 => some (Instr.afmin g x0 x1 x2 x3))
    ((drop_low _ _ rfl).trans ((drop_low _ _ rfl).trans ((drop_low _ _ rfl).trans ((drop_low _ _ rfl).trans ((drop_low _ _ rfl).trans (BitVec.extractLsb'_eq_self))))))
    ((drop_low _ _ rfl).trans ((drop_low _ _ rfl).trans ((drop_low _ _ rfl).trans ((drop_low _ _ rfl).trans (take_low _ _)))))
    ((drop_low _ _ rfl).trans ((drop_low _ _ rfl).trans ((drop_low _ _ rfl).trans (take_low _ _))))
    ((drop_low_bit _ _ rfl).trans (take_low_bit _ _)))

theorem afmax (g : Bool) (d : Spec) (addr : Spec) (opd : Spec) (dbl : Bool) : Statement (.afmax g d addr opd dbl) := by
  intro slot hs
  obtain rfl := List.mem_singleton.mp hs
  exact (raw3 g _ _ _).trans (cong4 (fun x0 x1 x2 x3 => some (Instr.afmax g x0 x1 x2 x3))
    ((drop_low _ _ rfl).trans ((drop_low _ _ rfl).trans ((drop_low _ _ rfl).trans ((drop_low _ _ rfl).trans ((drop_low _ _ rfl).trans (BitVec.extractLsb'_eq_self))))))
    ((drop_low _ _ rfl).trans ((drop_low _ _ rfl).trans ((drop_low _ _ rfl).trans ((drop_low _ _ rfl).trans (take_low _ _)))))
    ((drop_low _ _ rfl).trans ((drop_low _ _ rfl).trans ((drop_low _ _ rfl).trans (take_low _ _))))
    ((drop_low_bit _ _ rfl).trans (take_low_bit _ _)))

theorem afand (g : Bool) (d : Spec) (addr : Spec) (opd : Spec) (dbl : Bool) : Statement (.afand g d addr opd dbl) := by
  intro slot hs
  obtain rfl := List.mem_singleton.mp hs
  exact (raw3 g _ _ _).trans (cong4 (fun x0 x1 x2 x3 => some (Instr.afand g x0 x1 x2 x3))
    ((drop_low _ _ rfl).trans ((drop_low _ _ rfl).trans ((drop_low _ _ rfl).trans ((drop_low _ _ rfl).trans ((drop_low _ _ rfl).trans (BitVec.extractLsb'_eq_self))))))
    ((drop_low _ _ rfl).trans ((drop_low _ _ rfl).trans ((drop_low _ _ rfl).trans ((drop_low _ _ rfl).trans (take_low _ _)))))
    ((drop_low _ _ rfl).trans ((drop_low _ _ rfl).trans ((drop_low _ _ rfl).trans (take_low _ _))))
    ((drop_low_bit _ _ rfl).trans (take_low_bit _ _)))

theorem afor (g : Bool) (d : Spec) (addr : Spec) (opd : Spec) (dbl : Bool) : Statement (.afor g d addr opd dbl) := by
  intro slot hs
  obtain rfl := List.mem_singleton.mp hs
  exact (raw3 g _ _ _).trans (cong4 (fun x0 x1 x2 x3 => some (Instr.afor g x0 x1 x2 x3))
    ((drop_low _ _ rfl).trans ((drop_low _ _ rfl).trans ((drop_low _ _ rfl).trans ((drop_low _ _ rfl).trans ((drop_low _ _ rfl).trans (BitVec.extractLsb'_eq_self))))))
    ((drop_low _ _ rfl).trans ((drop_low _ _ rfl).trans ((drop_low _ _ rfl).trans ((drop_low _ _ rfl).trans (take_low _ _)))))
    ((drop_low _ _ rfl).trans ((drop_low _ _ rfl).trans ((drop_low _ _ rfl).trans (take_low _ _))))
    ((drop_low_bit _ _ rfl).trans (take_low_bit _ _)))

theorem afxor (g : Bool) (d : Spec) (addr : Spec) (opd : Spec) (dbl : Bool) : Statement (.afxor g d addr opd dbl) := by
  intro slot hs
  obtain rfl := List.mem_singleton.mp hs
  exact (raw3 g _ _ _).trans (cong4 (fun x0 x1 x2 x3 => some (Instr.afxor g x0 x1 x2 x3))
    ((drop_low _ _ rfl).trans ((drop_low _ _ rfl).trans ((drop_low _ _ rfl).trans ((drop_low _ _ rfl).trans ((drop_low _ _ rfl).trans (BitVec.extractLsb'_eq_self))))))
    ((drop_low _ _ rfl).trans ((drop_low _ _ rfl).trans ((drop_low _ _ rfl).trans ((drop_low _ _ rfl).trans (take_low _ _)))))
    ((drop_low _ _ rfl).trans ((drop_low _ _ rfl).trans ((drop_low _ _ rfl).trans (take_low _ _))))
    ((drop_low_bit _ _ rfl).trans (take_low_bit _ _)))

theorem axchg (g : Bool) (d : Spec) (addr : Spec) (opd : Spec) (dbl : Bool) : Statement (.axchg g d addr opd dbl) := by
  intro slot hs
  obtain rfl := List.mem_singleton.mp hs
  exact (raw3 g _ _ _).trans (cong4 (fun x0 x1 x2 x3 => some (Instr.axchg g x0 x1 x2 x3))
    ((drop_low _ _ rfl).trans ((drop_low _ _ rfl).trans ((drop_low _ _ rfl).trans ((drop_low _ _ rfl).trans ((drop_low _ _ rfl).trans (BitVec.extractLsb'_eq_self))))))
    ((drop_low _ _ rfl).trans ((drop_low _ _ rfl).trans ((drop_low _ _ rfl).trans ((drop_low _ _ rfl).trans (take_low _ _)))))
    ((drop_low _ _ rfl).trans ((drop_low _ _ rfl).trans ((drop_low _ _ rfl).trans (take_low _ _))))
    ((drop_low_bit _ _ rfl).trans (take_low_bit _ _)))

theorem acas (g : Bool) (d : Spec) (addr : Spec) (opd : Spec) (dbl : Bool) : Statement (.acas g d addr opd dbl) := by
  intro slot hs
  obtain rfl := List.mem_singleton.mp hs
  exact (raw3 g _ _ _).trans (cong4 (fun x0 x1 x2 x3 => some (Instr.acas g x0 x1 x2 x3))
    ((drop_low _ _ rfl).trans ((drop_low _ _ rfl).trans ((drop_low _ _ rfl).trans ((drop_low _ _ rfl).trans ((drop_low _ _ rfl).trans (BitVec.extractLsb'_eq_self))))))
    ((drop_low _ _ rfl).trans ((drop_low _ _ rfl).trans ((drop_low _ _ rfl).trans ((drop_low _ _ rfl).trans (take_low _ _)))))
    ((drop_low _ _ rfl).trans ((drop_low _ _ rfl).trans ((drop_low _ _ rfl).trans (take_low _ _))))
    ((drop_low_bit _ _ rfl).trans (take_low_bit _ _)))

theorem fpush (g : Bool) (src : Spec) (fifo : BitVec 6) : Statement (.fpush g src fifo) := by
  intro slot hs
  obtain rfl := List.mem_singleton.mp hs
  exact (raw3 g _ _ _).trans (cong2 (fun x0 x1 => some (Instr.fpush g x0 x1))
    ((drop_low _ _ rfl).trans ((drop_low _ _ rfl).trans ((drop_low _ _ rfl).trans (BitVec.extractLsb'_eq_self))))
    ((drop_low _ _ rfl).trans ((drop_low _ _ rfl).trans (take_low _ _))))

theorem fpop (g : Bool) (d : Spec) (fifo : BitVec 6) : Statement (.fpop g d fifo) := by
  intro slot hs
  obtain rfl := List.mem_singleton.mp hs
  exact (raw3 g _ _ _).trans (cong2 (fun x0 x1 => some (Instr.fpop g x0 x1))
    ((drop_low _ _ rfl).trans ((drop_low _ _ rfl).trans ((drop_low _ _ rfl).trans (BitVec.extractLsb'_eq_self))))
    ((drop_low _ _ rfl).trans ((drop_low _ _ rfl).trans (take_low _ _))))

theorem ldxs (g : Bool) (d : Spec) (base : Spec) (sx : Bool) (off : BitVec 9) : Statement (.ldxs g d base sx off) := by
  intro slot hs
  obtain rfl := List.mem_singleton.mp hs
  exact (raw3 g _ _ _).trans (cong4 (fun x0 x1 x2 x3 => some (Instr.ldxs g x0 x1 x2 x3))
    ((drop_low _ _ rfl).trans ((drop_low _ _ rfl).trans ((drop_low _ _ rfl).trans ((drop_low _ _ rfl).trans (BitVec.extractLsb'_eq_self)))))
    ((drop_low _ _ rfl).trans ((drop_low _ _ rfl).trans ((drop_low _ _ rfl).trans (take_low _ _))))
    ((drop_low_bit _ _ rfl).trans (take_low_bit _ _))
    (take_low _ _))

theorem vadd (g : Bool) (vd : Spec) (va : Spec) (vb : Spec) (ty : BitVec 4) (rm : BitVec 2) : Statement (.vadd g vd va vb ty rm) := by
  intro slot hs
  obtain rfl := List.mem_singleton.mp hs
  exact (raw4 g _ _ _).trans (cong5 (fun x0 x1 x2 x3 x4 => some (Instr.vadd g x0 x1 x2 x3 x4))
    ((drop_low _ _ rfl).trans ((drop_low _ _ rfl).trans ((drop_low _ _ rfl).trans ((drop_low _ _ rfl).trans (BitVec.extractLsb'_eq_self)))))
    ((drop_low _ _ rfl).trans ((drop_low _ _ rfl).trans ((drop_low _ _ rfl).trans (take_low _ _))))
    ((drop_low _ _ rfl).trans ((drop_low _ _ rfl).trans (take_low _ _)))
    ((drop_low _ _ rfl).trans (take_low _ _))
    (take_low _ _))

theorem vsub (g : Bool) (vd : Spec) (va : Spec) (vb : Spec) (ty : BitVec 4) (rm : BitVec 2) : Statement (.vsub g vd va vb ty rm) := by
  intro slot hs
  obtain rfl := List.mem_singleton.mp hs
  exact (raw4 g _ _ _).trans (cong5 (fun x0 x1 x2 x3 x4 => some (Instr.vsub g x0 x1 x2 x3 x4))
    ((drop_low _ _ rfl).trans ((drop_low _ _ rfl).trans ((drop_low _ _ rfl).trans ((drop_low _ _ rfl).trans (BitVec.extractLsb'_eq_self)))))
    ((drop_low _ _ rfl).trans ((drop_low _ _ rfl).trans ((drop_low _ _ rfl).trans (take_low _ _))))
    ((drop_low _ _ rfl).trans ((drop_low _ _ rfl).trans (take_low _ _)))
    ((drop_low _ _ rfl).trans (take_low _ _))
    (take_low _ _))

theorem vmul (g : Bool) (vd : Spec) (va : Spec) (vb : Spec) (ty : BitVec 4) (rm : BitVec 2) : Statement (.vmul g vd va vb ty rm) := by
  intro slot hs
  obtain rfl := List.mem_singleton.mp hs
  exact (raw4 g _ _ _).trans (cong5 (fun x0 x1 x2 x3 x4 => some (Instr.vmul g x0 x1 x2 x3 x4))
    ((drop_low _ _ rfl).trans ((drop_low _ _ rfl).trans ((drop_low _ _ rfl).trans ((drop_low _ _ rfl).trans (BitVec.extractLsb'_eq_self)))))
    ((drop_low _ _ rfl).trans ((drop_low _ _ rfl).trans ((drop_low _ _ rfl).trans (take_low _ _))))
    ((drop_low _ _ rfl).trans ((drop_low _ _ rfl).trans (take_low _ _)))
    ((drop_low _ _ rfl).trans (take_low _ _))
    (take_low _ _))

theorem vfma (g : Bool) (vd : Spec) (va : Spec) (vb : Spec) (ty : BitVec 4) (rm : BitVec 2) : Statement (.vfma g vd va vb ty rm) := by
  intro slot hs
  obtain rfl := List.mem_singleton.mp hs
  exact (raw4 g _ _ _).trans (cong5 (fun x0 x1 x2 x3 x4 => some (Instr.vfma g x0 x1 x2 x3 x4))
    ((drop_low _ _ rfl).trans ((drop_low _ _ rfl).trans ((drop_low _ _ rfl).trans ((drop_low _ _ rfl).trans (BitVec.extractLsb'_eq_self)))))
    ((drop_low _ _ rfl).trans ((drop_low _ _ rfl).trans ((drop_low _ _ rfl).trans (take_low _ _))))
    ((drop_low _ _ rfl).trans ((drop_low _ _ rfl).trans (take_low _ _)))
    ((drop_low _ _ rfl).trans (take_low _ _))
    (take_low _ _))

theorem vmin (g : Bool) (vd : Spec) (va : Spec) (vb : Spec) (ty : BitVec 4) : Statement (.vmin g vd va vb ty) := by
  intro slot hs
  obtain rfl := List.mem_singleton.mp hs
  exact (raw4 g _ _ _).trans (cong4 (fun x0 x1 x2 x3 => some (Instr.vmin g x0 x1 x2 x3))
    ((drop_low _ _ rfl).trans ((drop_low _ _ rfl).trans ((drop_low _ _ rfl).trans ((drop_low _ _ rfl).trans (BitVec.extractLsb'_eq_self)))))
    ((drop_low _ _ rfl).trans ((drop_low _ _ rfl).trans ((drop_low _ _ rfl).trans (take_low _ _))))
    ((drop_low _ _ rfl).trans ((drop_low _ _ rfl).trans (take_low _ _)))
    ((drop_low _ _ rfl).trans (take_low _ _)))

theorem vmax (g : Bool) (vd : Spec) (va : Spec) (vb : Spec) (ty : BitVec 4) : Statement (.vmax g vd va vb ty) := by
  intro slot hs
  obtain rfl := List.mem_singleton.mp hs
  exact (raw4 g _ _ _).trans (cong4 (fun x0 x1 x2 x3 => some (Instr.vmax g x0 x1 x2 x3))
    ((drop_low _ _ rfl).trans ((drop_low _ _ rfl).trans ((drop_low _ _ rfl).trans ((drop_low _ _ rfl).trans (BitVec.extractLsb'_eq_self)))))
    ((drop_low _ _ rfl).trans ((drop_low _ _ rfl).trans ((drop_low _ _ rfl).trans (take_low _ _))))
    ((drop_low _ _ rfl).trans ((drop_low _ _ rfl).trans (take_low _ _)))
    ((drop_low _ _ rfl).trans (take_low _ _)))

theorem vabs (g : Bool) (vd : Spec) (va : Spec) (ty : BitVec 4) (rm : BitVec 2) : Statement (.vabs g vd va ty rm) := by
  intro slot hs
  obtain rfl := List.mem_singleton.mp hs
  exact (raw4 g _ _ _).trans (cong4 (fun x0 x1 x2 x3 => some (Instr.vabs g x0 x1 x2 x3))
    ((drop_low _ _ rfl).trans ((drop_low _ _ rfl).trans ((drop_low _ _ rfl).trans ((drop_low _ _ rfl).trans (BitVec.extractLsb'_eq_self)))))
    ((drop_low _ _ rfl).trans ((drop_low _ _ rfl).trans ((drop_low _ _ rfl).trans (take_low _ _))))
    ((drop_low _ _ rfl).trans (take_low _ _))
    (take_low _ _))

theorem vneg (g : Bool) (vd : Spec) (va : Spec) (ty : BitVec 4) (rm : BitVec 2) : Statement (.vneg g vd va ty rm) := by
  intro slot hs
  obtain rfl := List.mem_singleton.mp hs
  exact (raw4 g _ _ _).trans (cong4 (fun x0 x1 x2 x3 => some (Instr.vneg g x0 x1 x2 x3))
    ((drop_low _ _ rfl).trans ((drop_low _ _ rfl).trans ((drop_low _ _ rfl).trans ((drop_low _ _ rfl).trans (BitVec.extractLsb'_eq_self)))))
    ((drop_low _ _ rfl).trans ((drop_low _ _ rfl).trans ((drop_low _ _ rfl).trans (take_low _ _))))
    ((drop_low _ _ rfl).trans (take_low _ _))
    (take_low _ _))

theorem vadds (g : Bool) (vd : Spec) (va : Spec) (vb : Spec) (ty : BitVec 4) (rm : BitVec 2) : Statement (.vadds g vd va vb ty rm) := by
  intro slot hs
  obtain rfl := List.mem_singleton.mp hs
  exact (raw4 g _ _ _).trans (cong5 (fun x0 x1 x2 x3 x4 => some (Instr.vadds g x0 x1 x2 x3 x4))
    ((drop_low _ _ rfl).trans ((drop_low _ _ rfl).trans ((drop_low _ _ rfl).trans ((drop_low _ _ rfl).trans (BitVec.extractLsb'_eq_self)))))
    ((drop_low _ _ rfl).trans ((drop_low _ _ rfl).trans ((drop_low _ _ rfl).trans (take_low _ _))))
    ((drop_low _ _ rfl).trans ((drop_low _ _ rfl).trans (take_low _ _)))
    ((drop_low _ _ rfl).trans (take_low _ _))
    (take_low _ _))

theorem vsubs (g : Bool) (vd : Spec) (va : Spec) (vb : Spec) (ty : BitVec 4) (rm : BitVec 2) : Statement (.vsubs g vd va vb ty rm) := by
  intro slot hs
  obtain rfl := List.mem_singleton.mp hs
  exact (raw4 g _ _ _).trans (cong5 (fun x0 x1 x2 x3 x4 => some (Instr.vsubs g x0 x1 x2 x3 x4))
    ((drop_low _ _ rfl).trans ((drop_low _ _ rfl).trans ((drop_low _ _ rfl).trans ((drop_low _ _ rfl).trans (BitVec.extractLsb'_eq_self)))))
    ((drop_low _ _ rfl).trans ((drop_low _ _ rfl).trans ((drop_low _ _ rfl).trans (take_low _ _))))
    ((drop_low _ _ rfl).trans ((drop_low _ _ rfl).trans (take_low _ _)))
    ((drop_low _ _ rfl).trans (take_low _ _))
    (take_low _ _))

theorem vmulh (g : Bool) (vd : Spec) (va : Spec) (vb : Spec) (ty : BitVec 4) : Statement (.vmulh g vd va vb ty) := by
  intro slot hs
  obtain rfl := List.mem_singleton.mp hs
  exact (raw4 g _ _ _).trans (cong4 (fun x0 x1 x2 x3 => some (Instr.vmulh g x0 x1 x2 x3))
    ((drop_low _ _ rfl).trans ((drop_low _ _ rfl).trans ((drop_low _ _ rfl).trans ((drop_low _ _ rfl).trans (BitVec.extractLsb'_eq_self)))))
    ((drop_low _ _ rfl).trans ((drop_low _ _ rfl).trans ((drop_low _ _ rfl).trans (take_low _ _))))
    ((drop_low _ _ rfl).trans ((drop_low _ _ rfl).trans (take_low _ _)))
    ((drop_low _ _ rfl).trans (take_low _ _)))

theorem vand (g : Bool) (vd : Spec) (va : Spec) (vb : Spec) (ty : BitVec 4) : Statement (.vand g vd va vb ty) := by
  intro slot hs
  obtain rfl := List.mem_singleton.mp hs
  exact (raw4 g _ _ _).trans (cong4 (fun x0 x1 x2 x3 => some (Instr.vand g x0 x1 x2 x3))
    ((drop_low _ _ rfl).trans ((drop_low _ _ rfl).trans ((drop_low _ _ rfl).trans ((drop_low _ _ rfl).trans (BitVec.extractLsb'_eq_self)))))
    ((drop_low _ _ rfl).trans ((drop_low _ _ rfl).trans ((drop_low _ _ rfl).trans (take_low _ _))))
    ((drop_low _ _ rfl).trans ((drop_low _ _ rfl).trans (take_low _ _)))
    ((drop_low _ _ rfl).trans (take_low _ _)))

theorem vor (g : Bool) (vd : Spec) (va : Spec) (vb : Spec) (ty : BitVec 4) : Statement (.vor g vd va vb ty) := by
  intro slot hs
  obtain rfl := List.mem_singleton.mp hs
  exact (raw4 g _ _ _).trans (cong4 (fun x0 x1 x2 x3 => some (Instr.vor g x0 x1 x2 x3))
    ((drop_low _ _ rfl).trans ((drop_low _ _ rfl).trans ((drop_low _ _ rfl).trans ((drop_low _ _ rfl).trans (BitVec.extractLsb'_eq_self)))))
    ((drop_low _ _ rfl).trans ((drop_low _ _ rfl).trans ((drop_low _ _ rfl).trans (take_low _ _))))
    ((drop_low _ _ rfl).trans ((drop_low _ _ rfl).trans (take_low _ _)))
    ((drop_low _ _ rfl).trans (take_low _ _)))

theorem vxor (g : Bool) (vd : Spec) (va : Spec) (vb : Spec) (ty : BitVec 4) : Statement (.vxor g vd va vb ty) := by
  intro slot hs
  obtain rfl := List.mem_singleton.mp hs
  exact (raw4 g _ _ _).trans (cong4 (fun x0 x1 x2 x3 => some (Instr.vxor g x0 x1 x2 x3))
    ((drop_low _ _ rfl).trans ((drop_low _ _ rfl).trans ((drop_low _ _ rfl).trans ((drop_low _ _ rfl).trans (BitVec.extractLsb'_eq_self)))))
    ((drop_low _ _ rfl).trans ((drop_low _ _ rfl).trans ((drop_low _ _ rfl).trans (take_low _ _))))
    ((drop_low _ _ rfl).trans ((drop_low _ _ rfl).trans (take_low _ _)))
    ((drop_low _ _ rfl).trans (take_low _ _)))

theorem vshl (g : Bool) (vd : Spec) (va : Spec) (vb : Spec) (ty : BitVec 4) : Statement (.vshl g vd va vb ty) := by
  intro slot hs
  obtain rfl := List.mem_singleton.mp hs
  exact (raw4 g _ _ _).trans (cong4 (fun x0 x1 x2 x3 => some (Instr.vshl g x0 x1 x2 x3))
    ((drop_low _ _ rfl).trans ((drop_low _ _ rfl).trans ((drop_low _ _ rfl).trans ((drop_low _ _ rfl).trans (BitVec.extractLsb'_eq_self)))))
    ((drop_low _ _ rfl).trans ((drop_low _ _ rfl).trans ((drop_low _ _ rfl).trans (take_low _ _))))
    ((drop_low _ _ rfl).trans ((drop_low _ _ rfl).trans (take_low _ _)))
    ((drop_low _ _ rfl).trans (take_low _ _)))

theorem vshr (g : Bool) (vd : Spec) (va : Spec) (vb : Spec) (ty : BitVec 4) : Statement (.vshr g vd va vb ty) := by
  intro slot hs
  obtain rfl := List.mem_singleton.mp hs
  exact (raw4 g _ _ _).trans (cong4 (fun x0 x1 x2 x3 => some (Instr.vshr g x0 x1 x2 x3))
    ((drop_low _ _ rfl).trans ((drop_low _ _ rfl).trans ((drop_low _ _ rfl).trans ((drop_low _ _ rfl).trans (BitVec.extractLsb'_eq_self)))))
    ((drop_low _ _ rfl).trans ((drop_low _ _ rfl).trans ((drop_low _ _ rfl).trans (take_low _ _))))
    ((drop_low _ _ rfl).trans ((drop_low _ _ rfl).trans (take_low _ _)))
    ((drop_low _ _ rfl).trans (take_low _ _)))

theorem vsar (g : Bool) (vd : Spec) (va : Spec) (vb : Spec) (ty : BitVec 4) : Statement (.vsar g vd va vb ty) := by
  intro slot hs
  obtain rfl := List.mem_singleton.mp hs
  exact (raw4 g _ _ _).trans (cong4 (fun x0 x1 x2 x3 => some (Instr.vsar g x0 x1 x2 x3))
    ((drop_low _ _ rfl).trans ((drop_low _ _ rfl).trans ((drop_low _ _ rfl).trans ((drop_low _ _ rfl).trans (BitVec.extractLsb'_eq_self)))))
    ((drop_low _ _ rfl).trans ((drop_low _ _ rfl).trans ((drop_low _ _ rfl).trans (take_low _ _))))
    ((drop_low _ _ rfl).trans ((drop_low _ _ rfl).trans (take_low _ _)))
    ((drop_low _ _ rfl).trans (take_low _ _)))

theorem vcmp (g : Bool) (vd : Spec) (va : Spec) (vb : Spec) (ty : BitVec 4) (cond : BitVec 2) : Statement (.vcmp g vd va vb ty cond) := by
  intro slot hs
  obtain rfl := List.mem_singleton.mp hs
  exact (raw4 g _ _ _).trans (cong5 (fun x0 x1 x2 x3 x4 => some (Instr.vcmp g x0 x1 x2 x3 x4))
    ((drop_low _ _ rfl).trans ((drop_low _ _ rfl).trans ((drop_low _ _ rfl).trans ((drop_low _ _ rfl).trans (BitVec.extractLsb'_eq_self)))))
    ((drop_low _ _ rfl).trans ((drop_low _ _ rfl).trans ((drop_low _ _ rfl).trans (take_low _ _))))
    ((drop_low _ _ rfl).trans ((drop_low _ _ rfl).trans (take_low _ _)))
    ((drop_low _ _ rfl).trans (take_low _ _))
    (take_low _ _))

theorem vsel (g : Bool) (vd : Spec) (va : Spec) (vb : Spec) (ty : BitVec 4) : Statement (.vsel g vd va vb ty) := by
  intro slot hs
  obtain rfl := List.mem_singleton.mp hs
  exact (raw4 g _ _ _).trans (cong4 (fun x0 x1 x2 x3 => some (Instr.vsel g x0 x1 x2 x3))
    ((drop_low _ _ rfl).trans ((drop_low _ _ rfl).trans ((drop_low _ _ rfl).trans ((drop_low _ _ rfl).trans (BitVec.extractLsb'_eq_self)))))
    ((drop_low _ _ rfl).trans ((drop_low _ _ rfl).trans ((drop_low _ _ rfl).trans (take_low _ _))))
    ((drop_low _ _ rfl).trans ((drop_low _ _ rfl).trans (take_low _ _)))
    ((drop_low _ _ rfl).trans (take_low _ _)))

theorem vacs (g : Bool) (vd : Spec) (va : Spec) (vb : Spec) : Statement (.vacs g vd va vb) := by
  intro slot hs
  obtain rfl := List.mem_singleton.mp hs
  exact (raw4 g _ _ _).trans (cong3 (fun x0 x1 x2 => some (Instr.vacs g x0 x1 x2))
    ((drop_low _ _ rfl).trans ((drop_low _ _ rfl).trans ((drop_low _ _ rfl).trans ((drop_low _ _ rfl).trans (BitVec.extractLsb'_eq_self)))))
    ((drop_low _ _ rfl).trans ((drop_low _ _ rfl).trans ((drop_low _ _ rfl).trans (take_low _ _))))
    ((drop_low _ _ rfl).trans ((drop_low _ _ rfl).trans (take_low _ _))))

theorem vrotr (g : Bool) (vd : Spec) (va : Spec) (n : Spec) : Statement (.vrotr g vd va n) := by
  intro slot hs
  obtain rfl := List.mem_singleton.mp hs
  exact (raw4 g _ _ _).trans (cong3 (fun x0 x1 x2 => some (Instr.vrotr g x0 x1 x2))
    ((drop_low _ _ rfl).trans ((drop_low _ _ rfl).trans ((drop_low _ _ rfl).trans (BitVec.extractLsb'_eq_self))))
    ((drop_low _ _ rfl).trans ((drop_low _ _ rfl).trans (take_low _ _)))
    ((drop_low _ _ rfl).trans (take_low _ _)))

theorem vrotc (g : Bool) (vd : Spec) (va : Spec) (n : Spec) : Statement (.vrotc g vd va n) := by
  intro slot hs
  obtain rfl := List.mem_singleton.mp hs
  exact (raw4 g _ _ _).trans (cong3 (fun x0 x1 x2 => some (Instr.vrotc g x0 x1 x2))
    ((drop_low _ _ rfl).trans ((drop_low _ _ rfl).trans ((drop_low _ _ rfl).trans (BitVec.extractLsb'_eq_self))))
    ((drop_low _ _ rfl).trans ((drop_low _ _ rfl).trans (take_low _ _)))
    ((drop_low _ _ rfl).trans (take_low _ _)))

theorem vbcr (g : Bool) (vd : Spec) (va : Spec) (n : Spec) : Statement (.vbcr g vd va n) := by
  intro slot hs
  obtain rfl := List.mem_singleton.mp hs
  exact (raw4 g _ _ _).trans (cong3 (fun x0 x1 x2 => some (Instr.vbcr g x0 x1 x2))
    ((drop_low _ _ rfl).trans ((drop_low _ _ rfl).trans ((drop_low _ _ rfl).trans (BitVec.extractLsb'_eq_self))))
    ((drop_low _ _ rfl).trans ((drop_low _ _ rfl).trans (take_low _ _)))
    ((drop_low _ _ rfl).trans (take_low _ _)))

theorem vbcc (g : Bool) (vd : Spec) (va : Spec) (n : Spec) : Statement (.vbcc g vd va n) := by
  intro slot hs
  obtain rfl := List.mem_singleton.mp hs
  exact (raw4 g _ _ _).trans (cong3 (fun x0 x1 x2 => some (Instr.vbcc g x0 x1 x2))
    ((drop_low _ _ rfl).trans ((drop_low _ _ rfl).trans ((drop_low _ _ rfl).trans (BitVec.extractLsb'_eq_self))))
    ((drop_low _ _ rfl).trans ((drop_low _ _ rfl).trans (take_low _ _)))
    ((drop_low _ _ rfl).trans (take_low _ _)))

theorem vredr (g : Bool) (vd : Spec) (va : Spec) (sat : Bool) (ty : BitVec 4) (kind : BitVec 2) : Statement (.vredr g vd va sat ty kind) := by
  intro slot hs
  obtain rfl := List.mem_singleton.mp hs
  exact (raw4 g _ _ _).trans (cong5 (fun x0 x1 x2 x3 x4 => some (Instr.vredr g x0 x1 x2 x3 x4))
    ((drop_low _ _ rfl).trans ((drop_low _ _ rfl).trans ((drop_low _ _ rfl).trans ((drop_low _ _ rfl).trans ((drop_low _ _ rfl).trans (BitVec.extractLsb'_eq_self))))))
    ((drop_low _ _ rfl).trans ((drop_low _ _ rfl).trans ((drop_low _ _ rfl).trans ((drop_low _ _ rfl).trans (take_low _ _)))))
    ((drop_low_bit _ _ rfl).trans ((drop_low_bit _ _ rfl).trans (take_low_bit _ _)))
    ((drop_low _ _ rfl).trans (take_low _ _))
    (take_low _ _))

theorem vredc (g : Bool) (vd : Spec) (va : Spec) (sat : Bool) (ty : BitVec 4) (kind : BitVec 2) : Statement (.vredc g vd va sat ty kind) := by
  intro slot hs
  obtain rfl := List.mem_singleton.mp hs
  exact (raw4 g _ _ _).trans (cong5 (fun x0 x1 x2 x3 x4 => some (Instr.vredc g x0 x1 x2 x3 x4))
    ((drop_low _ _ rfl).trans ((drop_low _ _ rfl).trans ((drop_low _ _ rfl).trans ((drop_low _ _ rfl).trans ((drop_low _ _ rfl).trans (BitVec.extractLsb'_eq_self))))))
    ((drop_low _ _ rfl).trans ((drop_low _ _ rfl).trans ((drop_low _ _ rfl).trans ((drop_low _ _ rfl).trans (take_low _ _)))))
    ((drop_low_bit _ _ rfl).trans ((drop_low_bit _ _ rfl).trans (take_low_bit _ _)))
    ((drop_low _ _ rfl).trans (take_low _ _))
    (take_low _ _))

theorem vshuf (g : Bool) (vd : Spec) (va : Spec) (vb : Spec) (ty : BitVec 4) : Statement (.vshuf g vd va vb ty) := by
  intro slot hs
  obtain rfl := List.mem_singleton.mp hs
  exact (raw4 g _ _ _).trans (cong4 (fun x0 x1 x2 x3 => some (Instr.vshuf g x0 x1 x2 x3))
    ((drop_low _ _ rfl).trans ((drop_low _ _ rfl).trans ((drop_low _ _ rfl).trans ((drop_low _ _ rfl).trans (BitVec.extractLsb'_eq_self)))))
    ((drop_low _ _ rfl).trans ((drop_low _ _ rfl).trans ((drop_low _ _ rfl).trans (take_low _ _))))
    ((drop_low _ _ rfl).trans ((drop_low _ _ rfl).trans (take_low _ _)))
    ((drop_low _ _ rfl).trans (take_low _ _)))

theorem vtrn (g : Bool) (vd : Spec) (va : Spec) : Statement (.vtrn g vd va) := by
  intro slot hs
  obtain rfl := List.mem_singleton.mp hs
  exact (raw4 g _ _ _).trans (cong2 (fun x0 x1 => some (Instr.vtrn g x0 x1))
    ((drop_low _ _ rfl).trans ((drop_low _ _ rfl).trans (BitVec.extractLsb'_eq_self)))
    ((drop_low _ _ rfl).trans (take_low _ _)))

theorem vmov (g : Bool) (vd : Spec) (va : Spec) : Statement (.vmov g vd va) := by
  intro slot hs
  obtain rfl := List.mem_singleton.mp hs
  exact (raw4 g _ _ _).trans (cong2 (fun x0 x1 => some (Instr.vmov g x0 x1))
    ((drop_low _ _ rfl).trans ((drop_low _ _ rfl).trans (BitVec.extractLsb'_eq_self)))
    ((drop_low _ _ rfl).trans (take_low _ _)))

theorem vsplat (g : Bool) (vd : Spec) (src : Spec) (ty : BitVec 4) : Statement (.vsplat g vd src ty) := by
  intro slot hs
  obtain rfl := List.mem_singleton.mp hs
  exact (raw4 g _ _ _).trans (cong3 (fun x0 x1 x2 => some (Instr.vsplat g x0 x1 x2))
    ((drop_low _ _ rfl).trans ((drop_low _ _ rfl).trans ((drop_low _ _ rfl).trans ((drop_low _ _ rfl).trans (BitVec.extractLsb'_eq_self)))))
    ((drop_low _ _ rfl).trans ((drop_low _ _ rfl).trans (take_low _ _)))
    ((drop_low _ _ rfl).trans (take_low _ _)))

theorem vins (g : Bool) (vd : Spec) (idx : Spec) (src : Spec) (ty : BitVec 4) : Statement (.vins g vd idx src ty) := by
  intro slot hs
  obtain rfl := List.mem_singleton.mp hs
  exact (raw4 g _ _ _).trans (cong4 (fun x0 x1 x2 x3 => some (Instr.vins g x0 x1 x2 x3))
    ((drop_low _ _ rfl).trans ((drop_low _ _ rfl).trans ((drop_low _ _ rfl).trans ((drop_low _ _ rfl).trans (BitVec.extractLsb'_eq_self)))))
    ((drop_low _ _ rfl).trans ((drop_low _ _ rfl).trans ((drop_low _ _ rfl).trans (take_low _ _))))
    ((drop_low _ _ rfl).trans ((drop_low _ _ rfl).trans (take_low _ _)))
    ((drop_low _ _ rfl).trans (take_low _ _)))

theorem vext (g : Bool) (d : Spec) (va : Spec) (idx : Spec) (ty : BitVec 4) : Statement (.vext g d va idx ty) := by
  intro slot hs
  obtain rfl := List.mem_singleton.mp hs
  exact (raw4 g _ _ _).trans (cong4 (fun x0 x1 x2 x3 => some (Instr.vext g x0 x1 x2 x3))
    ((drop_low _ _ rfl).trans ((drop_low _ _ rfl).trans ((drop_low _ _ rfl).trans ((drop_low _ _ rfl).trans (BitVec.extractLsb'_eq_self)))))
    ((drop_low _ _ rfl).trans ((drop_low _ _ rfl).trans ((drop_low _ _ rfl).trans (take_low _ _))))
    ((drop_low _ _ rfl).trans ((drop_low _ _ rfl).trans (take_low _ _)))
    ((drop_low _ _ rfl).trans (take_low _ _)))

theorem viota (g : Bool) (vd : Spec) (ty : BitVec 4) : Statement (.viota g vd ty) := by
  intro slot hs
  obtain rfl := List.mem_singleton.mp hs
  exact (raw4 g _ _ _).trans (cong2 (fun x0 x1 => some (Instr.viota g x0 x1))
    ((drop_low _ _ rfl).trans ((drop_low _ _ rfl).trans ((drop_low _ _ rfl).trans (BitVec.extractLsb'_eq_self))))
    ((drop_low _ _ rfl).trans (take_low _ _)))

theorem vcvt (g : Bool) (vd : Spec) (va : Spec) (dst : BitVec 4) (ty : BitVec 4) (rm : BitVec 2) : Statement (.vcvt g vd va dst ty rm) := by
  intro slot hs
  obtain rfl := List.mem_singleton.mp hs
  exact (raw4 g _ _ _).trans (cong5 (fun x0 x1 x2 x3 x4 => some (Instr.vcvt g x0 x1 x2 x3 x4))
    ((drop_low _ _ rfl).trans ((drop_low _ _ rfl).trans ((drop_low _ _ rfl).trans ((drop_low _ _ rfl).trans ((drop_low _ _ rfl).trans (BitVec.extractLsb'_eq_self))))))
    ((drop_low _ _ rfl).trans ((drop_low _ _ rfl).trans ((drop_low _ _ rfl).trans ((drop_low _ _ rfl).trans (take_low _ _)))))
    ((drop_low _ _ rfl).trans ((drop_low _ _ rfl).trans (take_low _ _)))
    ((drop_low _ _ rfl).trans (take_low _ _))
    (take_low _ _))

theorem vdecmv (g : Bool) (d : Spec) (row : Spec) (half : Bool) : Statement (.vdecmv g d row half) := by
  intro slot hs
  obtain rfl := List.mem_singleton.mp hs
  exact (raw4 g _ _ _).trans (cong3 (fun x0 x1 x2 => some (Instr.vdecmv g x0 x1 x2))
    ((drop_low _ _ rfl).trans ((drop_low _ _ rfl).trans ((drop_low _ _ rfl).trans ((drop_low _ _ rfl).trans (BitVec.extractLsb'_eq_self)))))
    ((drop_low _ _ rfl).trans ((drop_low _ _ rfl).trans (take_low _ _)))
    (take_low_bit _ _))

theorem vexp2 (g : Bool) (vd : Spec) (va : Spec) : Statement (.vexp2 g vd va) := by
  intro slot hs
  obtain rfl := List.mem_singleton.mp hs
  exact (raw4 g _ _ _).trans (cong2 (fun x0 x1 => some (Instr.vexp2 g x0 x1))
    ((drop_low _ _ rfl).trans ((drop_low _ _ rfl).trans (BitVec.extractLsb'_eq_self)))
    ((drop_low _ _ rfl).trans (take_low _ _)))

theorem vlog2 (g : Bool) (vd : Spec) (va : Spec) : Statement (.vlog2 g vd va) := by
  intro slot hs
  obtain rfl := List.mem_singleton.mp hs
  exact (raw4 g _ _ _).trans (cong2 (fun x0 x1 => some (Instr.vlog2 g x0 x1))
    ((drop_low _ _ rfl).trans ((drop_low _ _ rfl).trans (BitVec.extractLsb'_eq_self)))
    ((drop_low _ _ rfl).trans (take_low _ _)))

theorem vrcp (g : Bool) (vd : Spec) (va : Spec) : Statement (.vrcp g vd va) := by
  intro slot hs
  obtain rfl := List.mem_singleton.mp hs
  exact (raw4 g _ _ _).trans (cong2 (fun x0 x1 => some (Instr.vrcp g x0 x1))
    ((drop_low _ _ rfl).trans ((drop_low _ _ rfl).trans (BitVec.extractLsb'_eq_self)))
    ((drop_low _ _ rfl).trans (take_low _ _)))

theorem vrsq (g : Bool) (vd : Spec) (va : Spec) : Statement (.vrsq g vd va) := by
  intro slot hs
  obtain rfl := List.mem_singleton.mp hs
  exact (raw4 g _ _ _).trans (cong2 (fun x0 x1 => some (Instr.vrsq g x0 x1))
    ((drop_low _ _ rfl).trans ((drop_low _ _ rfl).trans (BitVec.extractLsb'_eq_self)))
    ((drop_low _ _ rfl).trans (take_low _ _)))

theorem vectorFill (cx : Nat) (r : Nat) : Statement (.vectorFill cx r) := fun _ h => absurd h List.not_mem_nil

theorem vectorEarlyWriteback (cx : Nat) (r : Nat) : Statement (.vectorEarlyWriteback cx r) := fun _ h => absurd h List.not_mem_nil

theorem mbeat (g : Bool) (push : Bool) (kind : BitVec 2) (src : Spec) (out : BitVec 2) (bank : BitVec 3) (row : BitVec 7) (wload : Bool) (wswap : Bool) : Statement (.mbeat g push kind src out bank row wload wswap) := by
  intro slot hs
  obtain rfl := List.mem_singleton.mp hs
  exact (raw5 g _ _ _).trans (cong8 (fun x0 x1 x2 x3 x4 x5 x6 x7 => some (Instr.mbeat g x0 x1 x2 x3 x4 x5 x6 x7))
    ((drop_low_bit _ _ rfl).trans ((drop_low_bit _ _ rfl).trans ((drop_low_bit _ _ rfl).trans ((drop_low_bit _ _ rfl).trans ((drop_low_bit _ _ rfl).trans ((drop_low_bit _ _ rfl).trans ((drop_low_bit _ _ rfl).trans ((drop_low_bit _ _ rfl).trans (bit_bit _)))))))))
    ((drop_low _ _ rfl).trans ((drop_low _ _ rfl).trans ((drop_low _ _ rfl).trans ((drop_low _ _ rfl).trans ((drop_low _ _ rfl).trans ((drop_low _ _ rfl).trans ((drop_low _ _ rfl).trans (take_low _ _))))))))
    ((drop_low _ _ rfl).trans ((drop_low _ _ rfl).trans ((drop_low _ _ rfl).trans ((drop_low _ _ rfl).trans ((drop_low _ _ rfl).trans ((drop_low _ _ rfl).trans (take_low _ _)))))))
    ((drop_low _ _ rfl).trans ((drop_low _ _ rfl).trans ((drop_low _ _ rfl).trans ((drop_low _ _ rfl).trans ((drop_low _ _ rfl).trans (take_low _ _))))))
    ((drop_low _ _ rfl).trans ((drop_low _ _ rfl).trans ((drop_low _ _ rfl).trans ((drop_low _ _ rfl).trans (take_low _ _)))))
    ((drop_low _ _ rfl).trans ((drop_low _ _ rfl).trans ((drop_low _ _ rfl).trans (take_low _ _))))
    ((drop_low_bit _ _ rfl).trans ((drop_low_bit _ _ rfl).trans (take_low_bit _ _)))
    ((drop_low_bit _ _ rfl).trans (take_low_bit _ _)))

theorem mwsel (g : Bool) (h : Bool) : Statement (.mwsel g h) := by
  intro slot hs
  obtain rfl := List.mem_singleton.mp hs
  exact (raw5 g _ _ _).trans (cong1 (fun x0 => some (Instr.mwsel g x0))
    ((drop_low_bit _ _ rfl).trans (bit_bit _)))

theorem mmode (g : Bool) (afmt : BitVec 4) (wfmt : BitVec 4) (dfmt : BitVec 4) : Statement (.mmode g afmt wfmt dfmt) := by
  intro slot hs
  obtain rfl := List.mem_singleton.mp hs
  exact (raw5 g _ _ _).trans (cong3 (fun x0 x1 x2 => some (Instr.mmode g x0 x1 x2))
    ((drop_low _ _ rfl).trans ((drop_low _ _ rfl).trans ((drop_low _ _ rfl).trans (BitVec.extractLsb'_eq_self))))
    ((drop_low _ _ rfl).trans ((drop_low _ _ rfl).trans (take_low _ _)))
    ((drop_low _ _ rfl).trans (take_low _ _)))

theorem beat (cx : Nat) : Statement (.beat cx) := fun _ h => absurd h List.not_mem_nil

theorem kind1Fetch (cx : Nat) : Statement (.kind1Fetch cx) := fun _ h => absurd h List.not_mem_nil

theorem aget (g : Bool) (vd : Spec) (bank : BitVec 3) (row : BitVec 7) (cvt : BitVec 4) (rm : BitVec 2) : Statement (.aget g vd bank row cvt rm) := by
  intro slot hs
  obtain rfl := List.mem_singleton.mp hs
  exact (raw6 g _ _ _).trans (cong5 (fun x0 x1 x2 x3 x4 => some (Instr.aget g x0 x1 x2 x3 x4))
    ((drop_low _ _ rfl).trans ((drop_low _ _ rfl).trans ((drop_low _ _ rfl).trans ((drop_low _ _ rfl).trans ((drop_low _ _ rfl).trans (BitVec.extractLsb'_eq_self))))))
    ((drop_low _ _ rfl).trans ((drop_low _ _ rfl).trans ((drop_low _ _ rfl).trans ((drop_low _ _ rfl).trans (take_low _ _)))))
    ((drop_low _ _ rfl).trans ((drop_low _ _ rfl).trans ((drop_low _ _ rfl).trans (take_low _ _))))
    ((drop_low _ _ rfl).trans ((drop_low _ _ rfl).trans (take_low _ _)))
    ((drop_low _ _ rfl).trans (take_low _ _)))

theorem aput (g : Bool) (vd : Spec) (bank : BitVec 3) (row : BitVec 7) (cvt : BitVec 4) : Statement (.aput g vd bank row cvt) := by
  intro slot hs
  obtain rfl := List.mem_singleton.mp hs
  exact (raw6 g _ _ _).trans (cong4 (fun x0 x1 x2 x3 => some (Instr.aput g x0 x1 x2 x3))
    ((drop_low _ _ rfl).trans ((drop_low _ _ rfl).trans ((drop_low _ _ rfl).trans ((drop_low _ _ rfl).trans (BitVec.extractLsb'_eq_self)))))
    ((drop_low _ _ rfl).trans ((drop_low _ _ rfl).trans ((drop_low _ _ rfl).trans (take_low _ _))))
    ((drop_low _ _ rfl).trans ((drop_low _ _ rfl).trans (take_low _ _)))
    ((drop_low _ _ rfl).trans (take_low _ _)))

theorem aputa (g : Bool) (vd : Spec) (bank : BitVec 3) (row : BitVec 7) (cvt : BitVec 4) : Statement (.aputa g vd bank row cvt) := by
  intro slot hs
  obtain rfl := List.mem_singleton.mp hs
  exact (raw6 g _ _ _).trans (cong4 (fun x0 x1 x2 x3 => some (Instr.aputa g x0 x1 x2 x3))
    ((drop_low _ _ rfl).trans ((drop_low _ _ rfl).trans ((drop_low _ _ rfl).trans ((drop_low _ _ rfl).trans (BitVec.extractLsb'_eq_self)))))
    ((drop_low _ _ rfl).trans ((drop_low _ _ rfl).trans ((drop_low _ _ rfl).trans (take_low _ _))))
    ((drop_low _ _ rfl).trans ((drop_low _ _ rfl).trans (take_low _ _)))
    ((drop_low _ _ rfl).trans (take_low _ _)))

theorem aclr (g : Bool) (bank : BitVec 3) (row : BitVec 7) : Statement (.aclr g bank row) := by
  intro slot hs
  obtain rfl := List.mem_singleton.mp hs
  exact (raw6 g _ _ _).trans (cong2 (fun x0 x1 => some (Instr.aclr g x0 x1))
    ((drop_low _ _ rfl).trans ((drop_low _ _ rfl).trans (take_low _ _)))
    ((drop_low _ _ rfl).trans (take_low _ _)))

theorem conditionedOpPerform (cx : Nat) (slot : Nat) : Statement (.conditionedOpPerform cx slot) := fun _ h => absurd h List.not_mem_nil

theorem cpy (g : Bool) (t : Tail) (desc : Spec) (ch : BitVec 4) : Statement (.cpy g t desc ch) := by
  intro slot hs
  obtain rfl := List.mem_singleton.mp hs
  exact (raw7 g _ t _ _ _ _).trans (cong1 (fun x0 => some (Instr.cpy g t desc x0))
    (take_low _ _))

theorem stage (g : Bool) (t : Tail) (inc : Spec) : Statement (.stage g t inc) := by
  intro slot hs
  obtain rfl := List.mem_singleton.mp hs
  exact raw7 g _ t _ _ _ _

theorem rinit (g : Bool) (t : Tail) (desc : Spec) (cons : Spec) (ring : BitVec 5) : Statement (.rinit g t desc cons ring) := by
  intro slot hs
  obtain rfl := List.mem_singleton.mp hs
  exact (raw7 g _ t _ _ _ _).trans (cong1 (fun x0 => some (Instr.rinit g t desc cons x0))
    (take_low _ _))

theorem rawait (g : Bool) (t : Tail) (d : Spec) (ring : BitVec 5) : Statement (.rawait g t d ring) := by
  intro slot hs
  obtain rfl := List.mem_singleton.mp hs
  exact (raw7 g _ t _ _ _ _).trans (cong1 (fun x0 => some (Instr.rawait g t d x0))
    (take_low _ _))

theorem rrel (g : Bool) (t : Tail) (word : Spec) (ring : BitVec 5) : Statement (.rrel g t word ring) := by
  intro slot hs
  obtain rfl := List.mem_singleton.mp hs
  exact (raw7 g _ t _ _ _ _).trans (cong1 (fun x0 => some (Instr.rrel g t word x0))
    (take_low _ _))

theorem lease (g : Bool) (t : Tail) (d : Spec) (kind : BitVec 3) (prio : BitVec 2) : Statement (.lease g t d kind prio) := by
  intro slot hs
  obtain rfl := List.mem_singleton.mp hs
  exact (raw7 g _ t _ _ _ _).trans (cong2 (fun x0 x1 => some (Instr.lease g t d x0 x1))
    (take_low _ _)
    ((drop_low _ _ rfl).trans (take_low _ _)))

theorem lcmd (g : Bool) (t : Tail) (h : Spec) (desc : Spec) : Statement (.lcmd g t h desc) := by
  intro slot hs
  obtain rfl := List.mem_singleton.mp hs
  exact raw7 g _ t _ _ _ _

theorem unlease (g : Bool) (t : Tail) (h : Spec) : Statement (.unlease g t h) := by
  intro slot hs
  obtain rfl := List.mem_singleton.mp hs
  exact raw7 g _ t _ _ _ _

theorem lwarm (g : Bool) (t : Tail) (kind : BitVec 3) (keep : Bool) : Statement (.lwarm g t kind keep) := by
  intro slot hs
  obtain rfl := List.mem_singleton.mp hs
  exact (raw7 g _ t _ _ _ _).trans (cong2 (fun x0 x1 => some (Instr.lwarm g t x0 x1))
    (take_low _ _)
    ((drop_low_bit _ _ rfl).trans (take_low_bit _ _)))

theorem launch (g : Bool) (t : Tail) (rec : Spec) (q : BitVec 7) : Statement (.launch g t rec q) := by
  intro slot hs
  obtain rfl := List.mem_singleton.mp hs
  exact (raw7 g _ t _ _ _ _).trans (cong1 (fun x0 => some (Instr.launch g t rec x0))
    (take_low _ _))

theorem wstr (g : Bool) (t : Tail) (h : Spec) (sdesc : Spec) (half : Bool) : Statement (.wstr g t h sdesc half) := by
  intro slot hs
  obtain rfl := List.mem_singleton.mp hs
  exact (raw7 g _ t _ _ _ _).trans (cong1 (fun x0 => some (Instr.wstr g t h sdesc x0))
    (take_low_bit _ _))

theorem bankcfg (g : Bool) (t : Tail) (mask : Spec) (mode : BitVec 2) : Statement (.bankcfg g t mask mode) := by
  intro slot hs
  obtain rfl := List.mem_singleton.mp hs
  exact (raw7 g _ t _ _ _ _).trans (cong1 (fun x0 => some (Instr.bankcfg g t mask x0))
    (take_low _ _))

theorem tload (g : Bool) (t : Tail) (src : Spec) (first : Spec) (count : BitVec 9) : Statement (.tload g t src first count) := by
  intro slot hs
  obtain rfl := List.mem_singleton.mp hs
  exact raw7 g _ t _ _ _ _

theorem pinwin (g : Bool) (t : Tail) (base : Spec) (size : Spec) (d : Spec) : Statement (.pinwin g t base size d) := by
  intro slot hs
  obtain rfl := List.mem_singleton.mp hs
  exact raw7 g _ t _ _ _ _

theorem unpin (g : Bool) (t : Tail) (h : Spec) : Statement (.unpin g t h) := by
  intro slot hs
  obtain rfl := List.mem_singleton.mp hs
  exact raw7 g _ t _ _ _ _

theorem swappg (g : Bool) (t : Tail) (far : Spec) (near : Spec) (d : Spec) : Statement (.swappg g t far near d) := by
  intro slot hs
  obtain rfl := List.mem_singleton.mp hs
  exact raw7 g _ t _ _ _ _

theorem tlbinv (g : Bool) (t : Tail) (va : Spec) (asid : Spec) (mode : BitVec 2) : Statement (.tlbinv g t va asid mode) := by
  intro slot hs
  obtain rfl := List.mem_singleton.mp hs
  exact (raw7 g _ t _ _ _ _).trans (cong1 (fun x0 => some (Instr.tlbinv g t va asid x0))
    (take_low _ _))

theorem mapwin (g : Bool) (t : Tail) (base : Spec) (size : Spec) (w : BitVec 4) (exact : Bool) : Statement (.mapwin g t base size w exact) := by
  intro slot hs
  obtain rfl := List.mem_singleton.mp hs
  exact (raw7 g _ t _ _ _ _).trans (cong2 (fun x0 x1 => some (Instr.mapwin g t base size x0 x1))
    (take_low _ _)
    ((drop_low_bit _ _ rfl).trans (take_low_bit _ _)))

theorem bankSwitchComplete (cl : Nat) : Statement (.bankSwitchComplete cl) := fun _ h => absurd h List.not_mem_nil

theorem copyBegin (cl : Nat) (ch : Nat) : Statement (.copyBegin cl ch) := fun _ h => absurd h List.not_mem_nil

theorem ringSlotBind (cl : Nat) (ch : Nat) : Statement (.ringSlotBind cl ch) := fun _ h => absurd h List.not_mem_nil

theorem copyComplete (cl : Nat) (ch : Nat) : Statement (.copyComplete cl ch) := fun _ h => absurd h List.not_mem_nil

theorem playbookEntryStart (cl : Nat) (l : Nat) : Statement (.playbookEntryStart cl l) := fun _ h => absurd h List.not_mem_nil

theorem rawaitReturn (cx : Nat) : Statement (.rawaitReturn cx) := fun _ h => absurd h List.not_mem_nil

theorem weightStreamWrite (die : Nat) (eng : Nat) : Statement (.weightStreamWrite die eng) := fun _ h => absurd h List.not_mem_nil

theorem benchArrival (die : Nat) (id : Nat) : Statement (.benchArrival die id) := fun _ h => absurd h List.not_mem_nil

theorem holdThresholdPassed (die : Nat) (eng : Nat) : Statement (.holdThresholdPassed die eng) := fun _ h => absurd h List.not_mem_nil

theorem leaseGrant (die : Nat) (eng : Nat) : Statement (.leaseGrant die eng) := fun _ h => absurd h List.not_mem_nil

theorem engineWakeEnd (die : Nat) (eng : Nat) : Statement (.engineWakeEnd die eng) := fun _ h => absurd h List.not_mem_nil

theorem warmEngineSleep (die : Nat) (eng : Nat) : Statement (.warmEngineSleep die eng) := fun _ h => absurd h List.not_mem_nil

theorem dcxDecode (die : Nat) (eng : Nat) : Statement (.dcxDecode die eng) := fun _ h => absurd h List.not_mem_nil

theorem srtSort (die : Nat) (eng : Nat) : Statement (.srtSort die eng) := fun _ h => absurd h List.not_mem_nil

theorem gsxGather (die : Nat) (eng : Nat) : Statement (.gsxGather die eng) := fun _ h => absurd h List.not_mem_nil

theorem gsxScatter (die : Nat) (eng : Nat) : Statement (.gsxScatter die eng) := fun _ h => absurd h List.not_mem_nil

theorem smxSoftmax (die : Nat) (eng : Nat) : Statement (.smxSoftmax die eng) := fun _ h => absurd h List.not_mem_nil

theorem hshCrc32c (die : Nat) (eng : Nat) : Statement (.hshCrc32c die eng) := fun _ h => absurd h List.not_mem_nil

theorem hshSha3256 (die : Nat) (eng : Nat) : Statement (.hshSha3256 die eng) := fun _ h => absurd h List.not_mem_nil

theorem redReduce (die : Nat) (eng : Nat) : Statement (.redReduce die eng) := fun _ h => absurd h List.not_mem_nil

theorem engineCommandComplete (die : Nat) (eng : Nat) : Statement (.engineCommandComplete die eng) := fun _ h => absurd h List.not_mem_nil

theorem sliceFill (q : Nat) (line : Nat) : Statement (.sliceFill q line) := fun _ h => absurd h List.not_mem_nil

theorem pinFadeTick (q : Nat) : Statement (.pinFadeTick q) := fun _ h => absurd h List.not_mem_nil

theorem remapCountUpdate (q : Nat) : Statement (.remapCountUpdate q) := fun _ h => absurd h List.not_mem_nil

theorem swapLineExchange (q : Nat) (r : Nat) : Statement (.swapLineExchange q r) := fun _ h => absurd h List.not_mem_nil

theorem pageWalk (cx : Nat) (va : Word) (kind : BitVec 2) : Statement (.pageWalk cx va kind) := fun _ h => absurd h List.not_mem_nil

theorem drainComplete (cx : Nat) : Statement (.drainComplete cx) := fun _ h => absurd h List.not_mem_nil

theorem persistComplete (cx : Nat) : Statement (.persistComplete cx) := fun _ h => absurd h List.not_mem_nil

theorem remoteAccessAtHome (p : Nat) : Statement (.remoteAccessAtHome p) := fun _ h => absurd h List.not_mem_nil

theorem storeAcknowledgement (p : Nat) : Statement (.storeAcknowledgement p) := fun _ h => absurd h List.not_mem_nil

theorem atomicReply (p : Nat) : Statement (.atomicReply p) := fun _ h => absurd h List.not_mem_nil

theorem selectiveAck (src : Nat) (dst : Nat) (base : Nat) (bits : BitVec 64) : Statement (.selectiveAck src dst base bits) := fun _ h => absurd h List.not_mem_nil

theorem retransmitTimeout (p : Nat) : Statement (.retransmitTimeout p) := fun _ h => absurd h List.not_mem_nil

theorem linkRetrain (die : Nat) (port : Nat) (lanes : Nat) : Statement (.linkRetrain die port lanes) := fun _ h => absurd h List.not_mem_nil

theorem linkWidthChange (die : Nat) (port : Nat) (lanes : Nat) : Statement (.linkWidthChange die port lanes) := fun _ h => absurd h List.not_mem_nil

theorem linkMarkedDown (die : Nat) (port : Nat) : Statement (.linkMarkedDown die port) := fun _ h => absurd h List.not_mem_nil

theorem multicastEntryWrite (die : Nat) (group : Nat) (ports : BitVec 10) : Statement (.multicastEntryWrite die group ports) := fun _ h => absurd h List.not_mem_nil

theorem huddleArrival (p : Nat) : Statement (.huddleArrival p) := fun _ h => absurd h List.not_mem_nil

theorem replySplit (p : Nat) : Statement (.replySplit p) := fun _ h => absurd h List.not_mem_nil

theorem huddleCopyLoss (die : Nat) (e : Nat) (rec : Option Nat) : Statement (.huddleCopyLoss die e rec) := fun _ h => absurd h List.not_mem_nil

theorem atomicUnknownTimeout (p : Nat) : Statement (.atomicUnknownTimeout p) := fun _ h => absurd h List.not_mem_nil

theorem migrationCounterClear (q : Nat) : Statement (.migrationCounterClear q) := fun _ h => absurd h List.not_mem_nil

theorem mtExchange (die : Nat) : Statement (.mtExchange die) := fun _ h => absurd h List.not_mem_nil

theorem disciplineLoss (die : Nat) : Statement (.disciplineLoss die) := fun _ h => absurd h List.not_mem_nil

theorem disciplineRegain (die : Nat) : Statement (.disciplineRegain die) := fun _ h => absurd h List.not_mem_nil

theorem transitAccept (p : Nat) : Statement (.transitAccept p) := fun _ h => absurd h List.not_mem_nil

theorem transitStorePerform (q : Nat) : Statement (.transitStorePerform q) := fun _ h => absurd h List.not_mem_nil

theorem ldnbDueRead (q : Nat) : Statement (.ldnbDueRead q) := fun _ h => absurd h List.not_mem_nil

theorem waitaReread (cx : Nat) : Statement (.waitaReread cx) := fun _ h => absurd h List.not_mem_nil

theorem recordAtHead (m : Nat) (q : Nat) : Statement (.recordAtHead m q) := fun _ h => absurd h List.not_mem_nil

theorem dependenceSatisfied (m : Nat) (q : Nat) (j : Nat) : Statement (.dependenceSatisfied m q j) := fun _ h => absurd h List.not_mem_nil

theorem schedulerPlacement (m : Nat) : Statement (.schedulerPlacement m) := fun _ h => absurd h List.not_mem_nil

theorem ageingStep (l : Nat) : Statement (.ageingStep l) := fun _ h => absurd h List.not_mem_nil

theorem stopRuleTimeout (cx : Nat) : Statement (.stopRuleTimeout cx) := fun _ h => absurd h List.not_mem_nil

theorem saveComplete (l : Nat) : Statement (.saveComplete l) := fun _ h => absurd h List.not_mem_nil

theorem launchCompletion (l : Nat) : Statement (.launchCompletion l) := fun _ h => absurd h List.not_mem_nil

theorem watchdogExpiry (l : Nat) : Statement (.watchdogExpiry l) := fun _ h => absurd h List.not_mem_nil

theorem queueEnable (m : Nat) (q : Nat) (en : Bool) : Statement (.queueEnable m q en) := fun _ h => absurd h List.not_mem_nil

theorem tailDoorbell (m : Nat) (q : Nat) (tail : BitVec 32) : Statement (.tailDoorbell m q tail) := fun _ h => absurd h List.not_mem_nil

theorem preemptWrite (m : Nat) (q : Nat) : Statement (.preemptWrite m q) := fun _ h => absurd h List.not_mem_nil

theorem pmaskWrite (m : Nat) (p : Nat) (v : Word) : Statement (.pmaskWrite m p v) := fun _ h => absurd h List.not_mem_nil

theorem currentLimiterTick (cl : Nat) (sense : Sense) : Statement (.currentLimiterTick cl sense) := fun _ h => absurd h List.not_mem_nil

theorem arbiterInterval (cl : Nat) : Statement (.arbiterInterval cl) := fun _ h => absurd h List.not_mem_nil

theorem moveComplete (cl : Nat) : Statement (.moveComplete cl) := fun _ h => absurd h List.not_mem_nil

theorem powerMailboxWrite (cl : Nat) (step : BitVec 5) : Statement (.powerMailboxWrite cl step) := fun _ h => absurd h List.not_mem_nil

theorem thermalTrip (die : Nat) : Statement (.thermalTrip die) := fun _ h => absurd h List.not_mem_nil

theorem thermalTripClear (die : Nat) : Statement (.thermalTripClear die) := fun _ h => absurd h List.not_mem_nil

theorem groupAnnouncement (cl : Nat) (step : BitVec 5) (mtApply : Nat) : Statement (.groupAnnouncement cl step mtApply) := fun _ h => absurd h List.not_mem_nil

theorem groupStepApply (cl : Nat) : Statement (.groupStepApply cl) := fun _ h => absurd h List.not_mem_nil

theorem hbmTemperatureRead (q : Nat) (temp : Int) : Statement (.hbmTemperatureRead q temp) := fun _ h => absurd h List.not_mem_nil

theorem coolantLimit (m : Nat) (c : CoolantReading) : Statement (.coolantLimit m c) := fun _ h => absurd h List.not_mem_nil

theorem powerComparatorInterval (m : Nat) (watts : Nat) : Statement (.powerComparatorInterval m watts) := fun _ h => absurd h List.not_mem_nil

theorem scratchWordError (cl : Nat) (w : Nat) : Statement (.scratchWordError cl w) := fun _ h => absurd h List.not_mem_nil

theorem tagArrayError (cl : Nat) (w : Nat) (n : Nat) : Statement (.tagArrayError cl w n) := fun _ h => absurd h List.not_mem_nil

theorem mediaError (line : Nat) : Statement (.mediaError line) := fun _ h => absurd h List.not_mem_nil

theorem registerFileError (cx : Nat) (r : Nat) : Statement (.registerFileError cx r) := fun _ h => absurd h List.not_mem_nil

theorem accumulatorRowError (core : Nat) (row : Nat) : Statement (.accumulatorRowError core row) := fun _ h => absurd h List.not_mem_nil

theorem residueMismatch (core : Nat) : Statement (.residueMismatch core) := fun _ h => absurd h List.not_mem_nil

theorem queueParityError (cx : Nat) (slot : Nat) : Statement (.queueParityError cx slot) := fun _ h => absurd h List.not_mem_nil

theorem brownOut (m : Nat) (volts : Nat) : Statement (.brownOut m volts) := fun _ h => absurd h List.not_mem_nil

theorem dieShed (m : Nat) : Statement (.dieShed m) := fun _ h => absurd h List.not_mem_nil

theorem dieRestore (m : Nat) : Statement (.dieRestore m) := fun _ h => absurd h List.not_mem_nil

theorem pwrHalt (m : Nat) (cause : HaltCause) : Statement (.pwrHalt m cause) := fun _ h => absurd h List.not_mem_nil

theorem restart (m : Nat) (sealOk : Bool) (mt : Option Nat) : Statement (.restart m sealOk mt) := fun _ h => absurd h List.not_mem_nil

theorem reserveReady (m : Nat) : Statement (.reserveReady m) := fun _ h => absurd h List.not_mem_nil

theorem parkedRetry (p : Nat) : Statement (.parkedRetry p) := fun _ h => absurd h List.not_mem_nil

theorem parkedTimeout (p : Nat) : Statement (.parkedTimeout p) := fun _ h => absurd h List.not_mem_nil

theorem hostMemoryAccess (m : Nat) (w : HostSide) (off : Nat) (write : Bool) (data : List Byte) : Statement (.hostMemoryAccess m w off write data) := fun _ h => absurd h List.not_mem_nil

theorem cxlLinkDown (m : Nat) : Statement (.cxlLinkDown m) := fun _ h => absurd h List.not_mem_nil

theorem dmaWindowWrite (m : Nat) (w : Nat) (hi : Bool) (v : Word) : Statement (.dmaWindowWrite m w hi v) := fun _ h => absurd h List.not_mem_nil

theorem pwrlimWrite (m : Nat) (v : Word) : Statement (.pwrlimWrite m v) := fun _ h => absurd h List.not_mem_nil

theorem writeImage (m : Nat) (off : Nat) (data : ImageChunk) : Statement (.writeImage m off data) := fun _ h => absurd h List.not_mem_nil

theorem activate (m : Nat) (sigs : Signatures) (secVer : Nat) (imgVer : Nat) : Statement (.activate m sigs secVer imgVer) := fun _ h => absurd h List.not_mem_nil

theorem writeRecord (m : Nat) (r : ConfigRecord) : Statement (.writeRecord m r) := fun _ h => absurd h List.not_mem_nil

theorem readLog (m : Nat) (seq : Nat) : Statement (.readLog m seq) := fun _ h => absurd h List.not_mem_nil

theorem readLifetime (m : Nat) : Statement (.readLifetime m) := fun _ h => absurd h List.not_mem_nil

theorem plainHalt (core : HaltTarget) : Statement (.plainHalt core) := fun _ h => absurd h List.not_mem_nil

theorem quiescedHalt (core : HaltTarget) : Statement (.quiescedHalt core) := fun _ h => absurd h List.not_mem_nil

theorem resume (core : HaltTarget) : Statement (.resume core) := fun _ h => absurd h List.not_mem_nil

theorem clearRetirement (core : Nat) : Statement (.clearRetirement core) := fun _ h => absurd h List.not_mem_nil

theorem bringUp (m : Nat) (mt : Option Nat) : Statement (.bringUp m mt) := fun _ h => absurd h List.not_mem_nil

theorem capAndBoostWrite (cl : Nat) (kind : CapKind) (step : BitVec 5) : Statement (.capAndBoostWrite cl kind step) := fun _ h => absurd h List.not_mem_nil

theorem externalReferenceChange (present : Option Nat) : Statement (.externalReferenceChange present) := fun _ h => absurd h List.not_mem_nil

theorem cxlLinkTrain (m : Nat) (lanes : Nat) (rate : Nat) : Statement (.cxlLinkTrain m lanes rate) := fun _ h => absurd h List.not_mem_nil

end Sys2Proof.Laws.Encodable
end

