-- ==== Sys2Proof/Laws/Scalar.lean ====
section
/-!
SUPPORT. What an op of S1 or S2 issued alone can do, said once: it is held, it traps, it is guarded off, or it has its result.
-/

namespace Sys2Proof.Machine

/-- The four answers of one repetition of an S1 or S2 op (R95, R98, R108). -/
theorem scalarOp_poisoned {g : Bool} {specs : List Spec} {d : Spec} {x : Word} {res : Except Trap (Word × Status)} {r s : State}
    {sp : Spec} (h : firstPoisoned (r.ctx s.cur.cx) specs = some sp) :
    scalarOp g specs d x res r s = .error (poisonTrap s.cur.slot sp) := by
  simp [scalarOp, h]

theorem scalarOp_off {g : Bool} {specs : List Spec} {d : Spec} {x : Word} {res : Except Trap (Word × Status)} {r s : State}
    (h : firstPoisoned (r.ctx s.cur.cx) specs = none) (hg : (g && s.cur.off) = true) :
    scalarOp g specs d x res r s = .ok (s.updCtx s.cur.cx fun c => c.push x) := by
  simp [scalarOp, h, hg]

theorem scalarOp_trap {g : Bool} {specs : List Spec} {d : Spec} {x : Word} {t : Trap} {r s : State}
    (h : firstPoisoned (r.ctx s.cur.cx) specs = none) (hg : (g && s.cur.off) = false) :
    scalarOp g specs d x (.error t) r s = .error t := by
  simp [scalarOp, h, hg]

theorem scalarOp_result {g : Bool} {specs : List Spec} {d : Spec} {x v : Word} {st : Status} {r s : State}
    (h : firstPoisoned (r.ctx s.cur.cx) specs = none) (hg : (g && s.cur.off) = false) :
    scalarOp g specs d x (.ok (v, st)) r s = .ok (s.gives d v st) := by
  simp [scalarOp, h, hg, State.gives]

/-- An op that runs and computes a result has it. -/
theorem alone_gives {i : Instr} {g : Bool} {d : Spec} {specs : List Spec} {x v : Word} {st : Status} {s : State}
    {op : State → State → Except Trap State} (hop : op s s = scalarOp g specs d x (.ok (v, st)) s s) (hs : specs = srcSpecs i)
    (h : s.runs g i) : alone i op s = .next (s.gives d v st) := by
  obtain ⟨h1, h2, h3⟩ := h
  subst hs
  simp [alone, h1, hop, scalarOp_result h2 h3]

/-- An op that runs on an operand it excludes traps. -/
theorem alone_traps {i : Instr} {g : Bool} {d : Spec} {specs : List Spec} {x : Word} {t : Trap} {s : State}
    {op : State → State → Except Trap State} (hop : op s s = scalarOp g specs d x (.error t) s s) (hs : specs = srcSpecs i)
    (h : s.runs g i) : alone i op s = .next (s.takePrecise t) := by
  obtain ⟨h1, h2, h3⟩ := h
  subst hs
  simp [alone, h1, hop, scalarOp_trap h2 h3]

/-- What `State.gives` leaves: every part but the context at hand. -/
theorem gives_onlyCtx (s : State) (d : Spec) (v : Word) (st : Status) : OnlyCtx s.cur.cx s (s.gives d v st) :=
  ⟨rfl, fun _ h => mget_mput_ne _ h _ _⟩

@[simp] theorem gives_here (s : State) (d : Spec) (v : Word) (st : Status) :
    (s.gives d v st).here = ((s.here.push v).writeDest d v).orStatus st := mget_mput_self _ _ _ _

end Sys2Proof.Machine
end

