-- ==== Sys2Proof/Laws/Stream.lean ====
section
/-!
SUPPORT. What a streaming op issued alone can do, said once: it is held, it traps, it is turned off by the guard, or its entry
starts at once and what it writes takes effect.
-/

namespace Sys2Proof.Machine

/-- Two writes of one key are the second. -/
theorem mput_mput {α : Type} (k : Nat) (a b : α) (m : Map α) : mput k b (mput k a m) = mput k b m := by
  induction m with
  | nil => simp [mput]
  | cons p t ih =>
    obtain ⟨j, v⟩ := p
    by_cases h : k < j
    · simp [mput, h]
    · by_cases h' : k = j
      · subst h'; simp [mput]
      · simp [mput, h, h', ih]

theorem updCtx_updCtx (s : State) (cx : Nat) (f g : Ctx → Ctx) : (s.updCtx cx f).updCtx cx g = s.updCtx cx fun c => g (f c) := by
  simp [State.updCtx, State.setCtx, State.ctx, mput_mput]

/-- An op of S3–S6 that is held changes nothing. -/
theorem aloneStream_held {slot : Nat} {g : Bool} {i : Instr} {s : State} (hg : (g && s.cur.off) = false)
    (h : streamHeld slot i s = true) : aloneStream slot g i s = .next s := by simp [aloneStream, h, hg]

/-- One with a poisoned operand traps at its bundle. -/
theorem aloneStream_poisoned {slot : Nat} {g : Bool} {i : Instr} {s : State} {sp : Spec} (hg : (g && s.cur.off) = false)
    (h : streamHeld slot i s = false) (hp : firstPoisoned s.here (srcSpecs i) = some sp) :
    aloneStream slot g i s = .next (s.takePrecise (poisonTrap slot sp)) := by
  simp only [aloneStream, hg, h, Bool.false_eq_true, if_false]
  simp [State.here] at hp
  simp [hp]

/-- One that the guard turns off leaves its stickiness and its cursors. -/
theorem aloneStream_off {slot : Nat} {g : Bool} {i : Instr} {s : State} (hg : (g && s.cur.off) = true) :
    aloneStream slot g i s = .next (s.issueAlone slot i) := by
  simp [aloneStream, hg]

/-- One that issues starts at the head of its queue. -/
theorem aloneStream_starts {slot : Nat} {g : Bool} {i : Instr} {s : State} (h : s.streams slot g i) :
    aloneStream slot g i s = (((s.issueAlone slot i).startHead s.cur.cx slot false).landed).out := by
  obtain ⟨-, h, hp, hg, -⟩ := h
  simp only [aloneStream, hg, h, Bool.false_eq_true, if_false]
  simp [State.here] at hp
  simp [hp]

/-- An update of the context at hand depends on what it makes of that context only. -/
theorem updCtx_congr {s : State} {f g : Ctx → Ctx} (h : f s.here = g s.here) : s.updCtx s.cur.cx f = s.updCtx s.cur.cx g :=
  congrArg (s.setCtx s.cur.cx) h

/-- The due writes of the context at hand take effect in that context. -/
theorem landed_updCtx (s : State) (f : Ctx → Ctx) :
    (s.updCtx s.cur.cx f).landed = s.updCtx s.cur.cx fun c => Ctx.applyOuts (f s.here).outs.length (f c) := by
  have hcx : (s.updCtx s.cur.cx f).cur.cx = s.cur.cx := rfl
  have hc : (s.updCtx s.cur.cx f).ctx s.cur.cx = f s.here := State.ctx_updCtx _ _ _
  unfold State.landed
  rw [hcx, hc, updCtx_updCtx]

/-- The entry of a streaming op that issues alone now. -/
abbrev State.entryOf (s : State) (slot : Nat) (i : Instr) : Entry := s.entryNow slot i

/-- What issue does to the context at hand (R41–R44, R67, R69, R186). -/
def State.issuedCtx (s : State) (slot : Nat) (i : Instr) (c : Ctx) : Ctx :=
  { c.enqueue (s.entryOf slot i) i with
    sticky := if oneShot i then merase slot c.sticky else mput slot (parcelOf i) c.sticky
    cursors := s.stepCursors s.cur.cx slot i c.cursors
    ord := c.ord + 1 }

/-- Issue of a streaming op that the guard leaves on. -/
theorem issueAlone_eq {s : State} {slot : Nat} {i : Instr} (hn : isNop i = false)
    (ho : (s.cur.off && parcelG (encodeParcel i).1) = false) :
    s.issueAlone slot i = s.updCtx s.cur.cx (s.issuedCtx slot i) := by
  have h : (s.cur.off && parcelG (parcelOf i).w0) = false := ho
  simp only [State.issueAlone, State.issueCtx, hn, h, Bool.false_eq_true, if_false]
  rfl

/-- What issue does for an op of S3–S6 that writes one vector register and does not count in `AWC`. -/
theorem enqueue_vec {c : Ctx} {e : Entry} {i : Instr} {vd : Spec} (ht : tailFields i = none) (ha : countsAwc i = false)
    (h1 : nWrite i = none) (h2 : vWrite i = some vd) :
    c.enqueue e i =
      { c with
        vpres := c.vpres &&& ~~~((1 : Word) <<< vd.toNat)
        outs := c.outs ++ [{ ord := e.ord, slot := e.slot, dst := .v vd.toNat, val := none }]
        queues := mset [] e.slot (c.queue e.slot ++ [e]) c.queues } := by
  simp only [Ctx.enqueue, Ctx.captureTokens, ht, ha, Ctx.listOuts, dstsOf, h1, h2]
  rfl

/-- The one outstanding write of a vector register, with its value and no queued reader, takes effect. -/
theorem applyOuts_vec {c : Ctx} {o : Out} {v : OutVal} {n : Nat} (h : c.outs = [o]) (hv : o.val = some v) (hd : o.dst = .v n)
    (hk : v.keep = false) (hq : c.queues = []) :
    Ctx.applyOuts 1 c =
      { c.putVec n v.vec v.poison with
        outs := [], fpstatus := c.fpstatus ||| v.status, vdec := v.vdec.getD c.vdec, awc := if v.awc then c.awc - 1 else c.awc
        vpres := c.vpres ||| ((1 : Word) <<< n) } := by
  have hr : c.outReady o = true := by simp [Ctx.outReady, h, hd, Ctx.queue, hq, mget]
  have hf : (c.outs.find? fun o => o.val.isSome && c.outReady o) = some o := by
    rw [h]; simp [hv, hr]
  rw [Ctx.applyOuts, hf]
  simp only [Ctx.applyOuts, hv, Option.getD_some, Ctx.applyOut, hd, h, hk]
  simp [Ctx.putVec]

theorem set_after_clear (x b : Word) : x &&& ~~~b ||| b = x ||| b := by
  ext i
  simp only [BitVec.getElem_or, BitVec.getElem_and, BitVec.getElem_not]
  cases x[i] <;> cases b[i] <;> rfl

/-- A vector op's own result, as its outstanding write holds it (R140, R141). -/
def VRes.out (r : VRes) : OutVal := { word := r.word, vec := r.vec, status := r.status, vdec := r.vdec }

/-- An S4 op issued with nothing outstanding, its registers ready, has its result at once. -/
theorem aloneStream_vector {g : Bool} {i : Instr} {s : State} {r : VRes} {vd : Spec} (h : s.streams 4 g i) (hv : s.vectorsReady i)
    (hd : decodeParcel 4 (encodeParcel i).1 (encodeParcel i).2 = .ok i) (hg : parcelG (encodeParcel i).1 = g)
    (hn : isNop i = false) (ht : tailFields i = none) (ha : countsAwc i = false)
    (hr : ∀ c : Ctx, c.v = s.here.v → c.vdec = s.here.vdec → vecResult i c (s.captured i) = .ok r)
    (h1 : nWrite i = none) (h2 : vWrite i = some vd) :
    aloneStream 4 g i s =
      .next (s.streamed 4 i fun c => { c.takesVec vd r.vec false r.status with vdec := r.vdec.getD c.vdec }) := by
  rw [aloneStream_starts h]
  obtain ⟨-, -, -, hoff, hq, ho, hgd, hb, -⟩ := h
  rw [issueAlone_eq hn (by rw [hg, Bool.and_comm]; exact hoff)]
  have hc : (s.updCtx s.cur.cx (s.issuedCtx 4 i)).ctx s.cur.cx = s.issuedCtx 4 i s.here := State.ctx_updCtx _ _ _
  have hI : s.issuedCtx 4 i s.here = { s.here with
        vpres := s.here.vpres &&& ~~~((1 : Word) <<< vd.toNat)
        outs := [{ ord := s.here.ord, slot := 4, dst := .v vd.toNat, val := none }]
        queues := [(4, [s.entryOf 4 i])]
        sticky := if oneShot i then merase 4 s.here.sticky else mput 4 (parcelOf i) s.here.sticky
        cursors := s.stepCursors s.cur.cx 4 i s.here.cursors
        ord := s.here.ord + 1 } := by
    rw [State.issuedCtx, enqueue_vec ht ha h1 h2]
    simp only [hq, ho, Ctx.queue]
    rfl
  have hin : (s.entryOf 4 i).instr = some i := by
    simp only [Entry.instr]
    show (match decodeParcel 4 (encodeParcel i).1 (encodeParcel i).2 with | .ok i => some i | .error _ => none) = _
    rw [hd]
  generalize hIdef : s.issuedCtx 4 i s.here = I at hc hI
  generalize hudef : s.updCtx s.cur.cx (s.issuedCtx 4 i) = u at hc
  have hsrc : I.vSources (s.entryOf 4 i).ord i = true := by
    simp only [Ctx.vSources, List.all_eq_true, Ctx.vReady, Ctx.vFilled, hI]
    intro v hvm
    have := (hv v hvm).1
    simp [mkEntry, this, State.here]
  have hpoi : I.vPoisoned i = none := by
    simp only [Ctx.vPoisoned, List.find?_eq_none, hI]
    intro n _ hcon
    simp only [Bool.and_eq_true, List.any_eq_true] at hcon
    obtain ⟨hp, v, hvm, hvn⟩ := hcon
    have := (hv v hvm).2
    simp only [beq_iff_eq] at hvn
    rw [hvn] at this
    simp [this] at hp
  have hw : I.vWritable (s.entryOf 4 i) i = true := by
    simp [Ctx.vWritable, h2, hI, Ctx.queue, mget, mkEntry, State.here]
  have hb2 : I.vdecBusy (s.entryOf 4 i) i = false := by
    unfold Ctx.vdecBusy
    split <;> simp [hI]
  have hmiss : I.vMissing (s.entryOf 4 i).ord i = none := by
    simp only [Ctx.vMissing, List.find?_eq_none, hI, readsV]
    intro n _ hcon
    simp only [Bool.and_eq_true, List.any_eq_true, beq_iff_eq] at hcon
    obtain ⟨⟨⟨v, hvm, hvn⟩, hval⟩, -⟩ := hcon
    have := (hv v hvm).1
    rw [hvn] at this
    simp [this] at hval
  have hvec : vecResult i I (s.entryOf 4 i).vals = .ok r := hr I (by rw [hI]) (by rw [hI])
  have hstart : u.startVec s.cur.cx (s.entryOf 4 i) i =
      .done ((u.setOut s.cur.cx (s.entryOf 4 i) { word := r.word, vec := r.vec, status := r.status, vdec := r.vdec }).updCtx s.cur.cx fun c =>
          c.sign .s4 (bytesOfTile r.vec)) := by
    unfold State.startVec
    rw [hc]
    simp only [hsrc, hw, hb2, hpoi, hvec, h1, Bool.false_or, Bool.not_true, Bool.false_eq_true, if_false, Option.isSome_none]
  have hu : (u.startHead s.cur.cx 4 false).landed = s.streamed 4 i fun c => { c.takesVec vd r.vec false r.status with vdec := r.vdec.getD c.vdec } := by
    have hq4 : (u.ctx s.cur.cx).queue 4 = [s.entryOf 4 i] := by rw [hc, hI]; rfl
    have : u.startHead s.cur.cx 4 false = u.settle s.cur.cx (s.entryOf 4 i) (u.startVec s.cur.cx (s.entryOf 4 i) i) := by
      have ha : u.askFill s.cur.cx (s.entryOf 4 i) i = u := by
        simp only [State.askFill, hc, hmiss, Option.isNone_none, Bool.true_or, if_true]
      unfold State.startHead
      rw [hq4]
      simp only [hin]
      show (u.askFill s.cur.cx (s.entryOf 4 i) i).settle s.cur.cx (s.entryOf 4 i)
        ((u.askFill s.cur.cx (s.entryOf 4 i) i).startEntry s.cur.cx (s.entryOf 4 i) i false) = _
      rw [ha]
      rfl
    rw [this, hstart]
    simp only [State.settle, State.dropEntry, State.setOut, updCtx_updCtx, ← hudef]
    rw [landed_updCtx]
    refine updCtx_congr ?_
    have hX : ∀ X : Ctx, X = { I with queues := [], outs := [{ ord := s.here.ord, slot := 4, dst := .v vd.toNat, val := some { word := r.word, vec := r.vec, status := r.status, vdec := r.vdec } }] } →
        Ctx.applyOuts X.outs.length X = { ({ s.here.takesVec vd r.vec false r.status with vdec := r.vdec.getD s.here.vdec } : Ctx) with
      sticky := if oneShot i then merase 4 s.here.sticky else mput 4 (parcelOf i) s.here.sticky
      cursors := s.stepCursors s.cur.cx 4 i s.here.cursors
      ord := s.here.ord + 1 } := by
      intro X h
      subst h
      rw [List.length_singleton, applyOuts_vec rfl rfl rfl rfl rfl]
      simp only [hI, Ctx.takesVec, Ctx.putVec, set_after_clear, ho, hq, hgd]
      simp
    refine hX _ ?_
    rw [hIdef]
    have hord : (s.entryOf 4 i).ord = s.here.ord := rfl
    have hslot : (s.entryOf 4 i).slot = 4 := rfl
    simp only [hord, hslot, hI, Ctx.setOut, Ctx.sign, hgd]
    simp [Ctx.setQueue, Ctx.queue, mget, mset, merase, hord]
  rw [hu]
  exact out_next (by rw [← hb]; rfl)

end Sys2Proof.Machine
end

