-- ==== Sys2Proof/Tests/Slice0.lean ====
section
/-!
SUPPORT. Tests: ill-formed terms that `Instr.wf` refuses, words of every family written out from the spec's encodings, worked
examples of the spec, and, for the statements with hypotheses, states and operands that meet them.
-/

open Sys2Proof Sys2Proof.Machine

namespace Sys2Proof.Tests

-- One theorem after the other: each thread would take a stack of its own.
set_option Elab.async false

/-! Ill-formed terms, one for each check of `Instr.wf` -/

def tail0 : Tail := { prod := 0, c1 := 0, c2 := 0, c3 := 0, fen := false, fnum := 0 }
def tailBad : Tail := { tail0 with fnum := 3 }

theorem test_wf_bundles : [Instr.fullBundle 0x00008000 [], .fullBundle 0x00000001 [], .fullBundle 0x00000080 [0]].all (fun i => !i.wf) = true := by
  decide +kernel

theorem test_wf_control :
    [Instr.loop false 16 0, .mfs false 0x00D 16, .mfs false 0 0, .mts false 0x130 16].all (fun i => !i.wf) = true := by decide +kernel

theorem test_wf_scalar :
    [Instr.add false 1 16 16, .add false 48 16 16, .exts false 16 16 0 0, .extz false 16 16 33 32, .movk false 0 0 0, .lea false 16 16 16 7,
      .fadd false 15 16 16 0].all (fun i => !i.wf) = true := by decide +kernel

theorem test_wf_memory :
    [Instr.ld false 0 16 0 false 0, .ld false 16 16 3 true 0, .lda false 16 16 3 true 0, .ldfe false 0 16 0 false 0, .ldff false 16 16 3 true 0,
      .ldnb false 0 16 16 0 false, .waita false 16 16 16 false 10, .waita false 5 16 16 false 0, .afaddf false 16 16 16 3, .acas false 0 16 16 false,
      .fpush false 16 32, .fpop false 16 32, .fpop false 0 1, .ldxs false 0 16 false 0].all (fun i => !i.wf) = true := by decide +kernel

theorem test_wf_vector :
    [Instr.vadd false 1 2 3 7 2, .vadd false 1 2 3 9 0, .vmin false 1 2 3 11, .vabs false 1 2 0 1, .vadds false 1 2 3 1 1, .vmulh false 1 2 3 0,
      .vshl false 1 2 3 3, .vredr false 1 2 false 0 3, .vredc false 1 2 true 0 0, .vext false 0 1 16 0, .viota false 1 3, .vcvt false 1 2 1 1 0,
      .vcvt false 1 2 1 5 2, .vdecmv false 0 1 false, .vsel false 1 2 3 12].all (fun i => !i.wf) = true := by decide +kernel

theorem test_wf_matrix :
    [Instr.mbeat false true 3 0 1 0 0 false false, .mbeat false true 0 0 3 0 0 false false, .mbeat false false 1 0 1 0 0 false false,
      .mbeat false true 0 0 0 1 0 false false, .mbeat false true 2 4 1 0 0 false false, .mmode false 0 2 0, .mmode false 2 2 10, .mmode false 11 11 11,
      .aget false 1 0 0 7 0, .aget false 1 0 0 0 1, .aput false 1 0 0 3, .aputa false 1 0 0 3].all (fun i => !i.wf) = true := by decide +kernel

theorem test_wf_engine :
    [Instr.cpy false tailBad 16 0, .rawait false tail0 0 0, .lease false tail0 16 6 0, .lease false tail0 0 0 0, .lwarm false tail0 7 false,
      .pinwin false tail0 16 16 0, .swappg false tail0 16 16 0, .tlbinv false tail0 16 16 3, .unpin false tailBad 16, .stage false tailBad 16].all
      (fun i => !i.wf) = true := by decide +kernel

/-! Words of every family, from the encodings and the worked examples of the spec -/

/-- A decoder's answer for a parcel. -/
def reads (slot : Nat) (w0 w1 : W32) : Option Instr := (decodeParcel slot w0 w1).toOption

/-- R77, R34: `br` −6, `call` +40, `jmp n9`, `loop n4` over 12 units, `mfs n3, CYCLE`, `mts TRAPVEC, n3`. -/
theorem test_decode_s0 :
    reads 0 0x01FFFFFA 0 = some (.br false (-6)) ∧ reads 0 0x02000028 0 = some (.call false 40) ∧
    reads 0 0x03640000 0 = some (.jmp false 25) ∧ reads 0 0x0550000C 0 = some (.loop false 20 12) ∧
    reads 0 0x100224C0 0 = some (.mfs false 0x022 19) ∧ reads 0 0x110024C0 0 = some (.mts false 0x002 19) := by decide +kernel

/-- R109–R121: worked encodings of the scalar families. -/
theorem test_decode_scalar :
    reads 1 0x034D3FF8 0 = some (.addi false 19 19 (-8)) ∧ reads 1 0x05011480 0 = some (.mulh false 0 17 18) ∧
    reads 2 0x155000FF 0 = some (.andi false 20 0 0xFF) ∧ reads 2 0x1D01100C 0 = some (.shri false 0 17 12) ∧
    reads 1 0x22011480 0 = some (.clt false 0 17 18) ∧ reads 2 0x2A011000 0 = some (.popc false 0 17) ∧
    reads 1 0x2E511208 0 = some (.extz false 20 17 8 8) ∧ reads 1 0x30011494 0 = some (.bperm false 0 17 18 20) ∧
    reads 1 0x3101103F 0 = some (.bset false 0 17 63) := by decide +kernel

theorem test_decode_scalar_more :
    reads 1 0x07011480 0 = some (.div false 0 17 18) ∧ reads 2 0x07011480 0 = none ∧
    reads 1 0x40011481 0 = some (.fadd false 0 17 18 1) ∧ reads 1 0x43011493 0 = some (.fma false 0 17 18 19) ∧
    reads 1 0x3859_1494 0 = some (.sel false 22 17 18 20) ∧ reads 1 0x3901_1483 0 = some (.lea false 0 17 18 3) ∧
    reads 1 0x3648_1000 0 = some (.movz false 18 0 0x1000) ∧ reads 1 0x3749_FF00 0 = some (.movk false 18 1 0xFF00) ∧
    reads 2 0x81551480 0 = some (.add true 21 17 18) := by decide +kernel

/-- R29, R36: words written out from the formats MS, MV, MX, MQ and MT. -/
theorem test_decode_memory :
    reads 3 0x014D1DFE 0 = some (.ld false 19 17 3 false (-2)) ∧ reads 3 0x0A1514BF 0 = some (.vld false 5 17 18 (-1)) ∧
    reads 3 0x164D14B0 0 = some (.afadd false 19 17 18 true) ∧ reads 3 0x11400000 0 = some (.fence false 2) ∧
    reads 3 0x0F4D14A8 0 = some (.stt false 19 17 18 2 true) ∧ reads 3 0x214D1A00 0 = some (.ldxs false 19 17 true 0) ∧
    reads 3 0x01592802 0 = some (.ld false 22 18 2 false 2) ∧ reads 3 0x02552C02 0 = some (.st false 21 18 3 2) ∧
    reads 3 0x014D1FFE 0 = none := by decide +kernel

/-- R18–R21, R33: a bundle's header and parcels, low unit first, and a template call. -/
theorem test_decode_units :
    (decode [0x06, 0x00, 0x06, 0x01, 0x80, 0x14, 0x55, 0x81, 0x00, 0x10, 0x01, 0x04]).toOption =
      some (.fullBundle 0x01060006 [0x81551480, 0x04011000], []) ∧
    (decode [0x41, 0x81]).toOption = some (.tcall 5 1, []) ∧ (decode [0x06, 0x00, 0x06]).toOption = none := by decide +kernel

/-- R147, R150–R161: worked encodings of the vector family. -/
theorem test_decode_vector :
    reads 4 0x010420C0 0 = some (.vadd false 1 2 3 0 0) ∧ reads 4 0x010420C5 0 = some (.vadd false 1 2 3 1 1) ∧
    reads 4 0x042020CC 0 = some (.vfma false 8 2 3 3 0) ∧ reads 4 0x0B1461D8 0 = some (.vmulh false 5 6 7 6) ∧
    reads 4 0x1A1020D4 0 = some (.vacs false 4 2 3) ∧ reads 4 0x2E580C81 0 = some (.vdecmv false 22 50 true) ∧
    reads 4 0x2D0810C0 0 = some (.vcvt false 2 1 3 0 0) := by decide +kernel

/-- R173, R188–R192: worked encodings of the matrix and accumulator ops. -/
theorem test_decode_matrix :
    reads 5 0x01824400 0 = some (.mbeat false true 0 4 2 1 0 false false) ∧ reads 5 0x02800000 0 = some (.mwsel false true) ∧
    reads 5 0x03000000 0 = some (.mmode false 0 0 0) ∧ reads 6 0x01250800 0 = some (.aget false 9 2 8 0 0) ∧
    reads 6 0x0401C000 0 = some (.aclr false 3 64) := by decide +kernel

/-- R33, R39: worked encodings of S7 commands, word 0 and word 1. -/
theorem test_decode_commands :
    reads 7 0x0C000000 0x50002403 = some (.bankcfg false { tail0 with fen := true, fnum := 2 } 20 3) ∧
    reads 7 0x0A000000 0x50002205 = some (.launch false { tail0 with fen := true, fnum := 1 } 20 5) ∧
    reads 7 0x14000000 0x51502413 = some (.mapwin false { tail0 with fen := true, fnum := 2 } 20 21 3 true) := by decide +kernel

/-! States for the witnesses -/

def regSet (l : Map Word) : RegSet := { RegSet.init with n := l }

/-- A context that runs at program level: `n1` = 5, `n2` = 3, and a handler at unit 0x100. -/
def ctxA : Ctx := { phase := .running, prog := regSet [(1, 5), (2, 3)], trapvec := 0x8100 }

/-- The domain with one context, 3, at hand. -/
def one (c : Ctx) : State := { ctxs := [(3, c)], cur := { cx := 3, slot := 1, nxt := 2 } }

/-- `n1` = `x`. -/
def withN1 (x : Word) : State := one { ctxA with prog := regSet [(1, x)] }

def scalarOps1 : List Instr :=
  [.add false 0 17 18, .sub false 16 17 18, .addi false 47 17 (-1), .mul false 16 17 18, .mulh false 16 17 18, .mulhw false 16 17 18,
    .min false 16 17 18, .max false 16 17 18, .minw false 16 17 18, .maxw false 16 17 18, .abs false 16 17, .and false 16 17 18, .or false 16 17 18,
    .xor false 16 17 18, .andn false 16 17 18, .orn false 16 17 18, .andi false 16 17 9, .ori false 16 17 9, .xori false 16 17 9]

def scalarOps2 : List Instr :=
  [.shl false 16 17 18, .shr false 16 17 18, .sar false 16 17 18, .rol false 16 17 18, .shli false 16 17 63, .shri false 16 17 0, .sari false 16 17 63,
    .roli false 16 17 1, .ceq false 16 17 18, .cne false 16 17 18, .clt false 16 17 18, .cle false 16 17 18, .cltw false 16 17 18,
    .clew false 16 17 18, .ceqi false 16 17 5, .clti false 16 17 5, .clz false 16 17, .ctz false 16 17, .popc false 16 17, .brev false 16 17,
    .bswap false 16 17]

def scalarOps3 : List Instr :=
  [.exts false 16 17 63 1, .extz false 16 17 1 63, .bset false 16 17 63, .bclr false 16 17 0, .btst false 16 17 2, .bflip false 16 17 2, .mov false 16 17,
    .movz false 16 3 1, .movk false 16 3 1, .sel false 16 17 18 17, .lea false 16 17 18 6, .fadd false 16 17 18 0, .fsub false 16 17 18 1,
    .fmul false 16 17 18 2, .fma false 16 17 18 17, .fmin false 16 17 18, .fmax false 16 17 18, .fcmp false 16 17 18 7, .fcvtf false 16 17 0 3,
    .fcvti false 16 17 3 0, .fabs false 16 17, .fneg false 16 17]

/-- For `IntegerArithmetic`, `LogicAndShifts`, `ComparesAndBitCounting`, `FieldsAndMoves` and `ScalarFloat`: every op runs in one state. -/
theorem witness_scalar :
    (scalarOps1.all (fun i => decide ((one ctxA).runs false i)) && scalarOps2.all (fun i => decide ((one ctxA).runs false i)) &&
      scalarOps3.all (fun i => decide ((one ctxA).runs false i))) = true := by decide +kernel

/-- For `FieldsAndMoves`: fields at the ends of the word; `INS` and `BPERM` with an operand c that is refused, and one that is not. -/
theorem witness_fields :
    (0 < (1 : BitVec 6).toNat ∧ (63 : BitVec 6).toNat + (1 : BitVec 6).toNat ≤ 64) ∧
    ([0, 0x7C2, 0x1000, 0xFC1, 0x7E0].all fun z : Word => decide ((withN1 z).runs false (.ins false 16 17 17 17) ∧ (withN1 z).opnd 17 = z)) = true ∧
    (let n := fun z : Nat => z / 64 % 64
     n 0 = 0 ∧ 64 < 0x7C2 % 64 + n 0xFFF ∧ 4096 ≤ 0x1000 ∧ (0 < n 0xFC1 ∧ 0xFC1 % 64 + n 0xFC1 ≤ 64 ∧ 0xFC1 < 4096)) ∧
    ([0x100000, 0x18, 0x82083].all fun z : Word => decide ((withN1 z).runs false (.bperm false 16 17 17 17) ∧ (withN1 z).opnd 17 = z)) = true ∧
    (2 ^ 20 ≤ 0x100000 ∧ 0x18 / 8 % 4 = 3 ∧ 0x82083 < 2 ^ 20 ∧ ∀ k < 4, 0x82083 / 2 ^ (5 * k) / 8 % 4 ≠ 3) := by decide +kernel

def isFinite : Fv → Bool
  | .fin .. => true
  | _ => false

/-- For `RoundsOnce`, with results worked out by hand: a tie both ways, an overflow, a zero sum, a fused product, and a product below
the least number. -/
theorem witness_rounding :
    ([fp32.decode 0x3F800000, bf16.decode 0x3F81, fp16.decode 0x0001, fp32.decode 0x7F7FFFFF].all isFinite) = true ∧
    fp32.add .rne 0x3F800000 0x33800000 = (0x3F800000, stIX) ∧ fp32.add .rup 0x3F800000 0x33800000 = (0x3F800001, stIX) ∧
    fp32.mul .rne 0x7F7FFFFF 0x40000000 = (0x7F800000, stOF ||| stIX) ∧ fp32.mul .rtz 0x7F7FFFFF 0x40000000 = (0x7F7FFFFF, stOF ||| stIX) ∧
    fp32.sub .rdn 0x3F800000 0x3F800000 = (0x80000000, stNone) ∧ fp32.fma .rne 0x3F800001 0x3F800001 0xBF800000 = (0x34800000, stIX) ∧
    bf16.mul .rne 0x3F81 0x3F81 = (0x3F82, stIX) ∧ fp16.mul .rne 0x0001 0x3800 = (0, stUF ||| stIX) := by decide +kernel

/-- For `PushAndWrite`. -/
theorem witness_push : ctxA.regs.q.length = 16 ∧ isNamed 16 = true ∧ isNamed 47 = true ∧ isNamed 48 = false := by decide +kernel

/-- Whether an outcome is a next state with a property. -/
def steps (o : Host.Outcome State Fault Refusal) (p : State → Bool) : Bool :=
  match o with
  | .next t => p t
  | _ => false

/-- For `ScalarFrameAndPoison`: an op that runs, ones of S0 and S2 that the guard turns off, and one with a poisoned operand. -/
theorem witness_frame :
    steps (exec (.add false 16 17 18) (one ctxA)) (fun t => t == (one ctxA).gives 16 8 stNone) = true ∧ isScalarOp (.add false 16 17 18) = true ∧
    isDivide (.add false 16 17 18) = false := by decide +kernel

theorem witness_off_and_poison :
    (let s := { one ctxA with cur := { cx := 3, off := true } }
     isScalarOp (.sub true 16 17 18) = true ∧ opHeld (.sub true 16 17 18) s = false ∧ firstPoisoned s.here (srcSpecs (.sub true 16 17 18)) = none ∧
      s.cur.off = true ∧ gBitOf (.sub true 16 17 18) = true ∧ (Instr.exit true).slots = [0] ∧ gBitOf (.exit true) = true) ∧
    (let s := one { ctxA with prog := { ctxA.prog with pois := 4 } }
     opHeld (.sub false 16 17 18) s = false ∧ firstPoisoned s.here (srcSpecs (.sub false 16 17 18)) = some 18) := by decide +kernel

/-- For `Divides`, with the worked values of R110: −7 by 2, by zero, and the most negative number by −1. -/
theorem witness_divides :
    (let s := one { ctxA with prog := regSet [(1, -7), (2, 2)] }
     [Instr.div false 16 17 18, .rem false 16 17 18, .divw false 16 17 18, .remw false 0 17 18].all (fun i => decide (s.runs false i)) = true ∧
      s.here.regs.q.length = 16) ∧ isDest 16 = true ∧ isDest 0 = true ∧
    BitVec.ofInt 64 ((-7 : Int).tdiv 2) = BitVec.ofInt 64 (-3) ∧ BitVec.ofInt 64 ((-7 : Int).tmod 2) = BitVec.ofInt 64 (-1) := by decide +kernel

/-! Control flow, flags, traps, system registers -/

/-- At unit `pc` of bank 0, with `n31` = `link` and a loop from 8 to 20. -/
def atPc (pc : Nat) (link : Word) : State :=
  { one { ctxA with prog := regSet [(1, 5), (2, 3), (31, link)], pc := pc, loops := [⟨8, 20, 0, 3⟩] } with cur := { cx := 3, pc := pc, nxt := pc + 2 } }

/-- For `Branches`: targets at both ends of the bank, and one unit past each; links in the bank, in the other bank, past both. -/
theorem witness_branches :
    ((atPc 0 9).runs0 false (.br false 0x3FFF) ∧ (atPc 0 9).runs0 false (.call false 0x3FFF) ∧ (atPc 0 9).runs0 false (.brx false 0x3FFF)) ∧
    (pcBank 0 = 0 ∧ (0x3FFF : BitVec 24).toInt = 16383 ∧ (0x4000 : BitVec 24).toInt = 16384 ∧ (-1 : BitVec 24).toInt = -1) ∧
    ((atPc 0 9).runs0 false (.br false 0x4000) ∧ (atPc 0 9).runs0 false (.call false (-1))) ∧
    ((atPc 0 0x3FFF).runs0 false (.ret false) ∧ (atPc 0 0x4000).runs0 false (.ret false) ∧ (atPc 0 0x8000).runs0 false (.ret false)) ∧
    ((atPc 0 0x3FFF).opnd 47 = 0x3FFF ∧ (atPc 0 0x3FFF).runs0 false (.jmp false 47) ∧ (atPc 0 0x4000).runs0 false (.jmp false 47)) := by decide +kernel

/-- For `Loops`: counts 0, 1, 2^32 − 1 and 2^32, a third loop, a body that ends at the bank's end and one that ends past it; and
a bundle that ends the body at its last and at an earlier round. -/
theorem witness_loops :
    ([0, 1, 0xFFFFFFFF, 0x100000000].all fun v : Word => decide ((withN1 v).runs0 false (.loop false 17 4) ∧ (withN1 v).opnd 17 = v)) = true ∧
    (one { ctxA with loops := [⟨2, 9, 0, 1⟩, ⟨1, 9, 0, 1⟩] }).runs0 false (.loop false 17 4) ∧
    (let s := { one ctxA with cur := { cx := 3, pc := 16380, nxt := 16382 } }
     s.runs0 false (.loop false 17 2) ∧ pcIdx s.cur.nxt + (2 : BitVec 12).toNat = 16384 ∧ 16384 < pcIdx s.cur.nxt + (3 : BitVec 12).toNat) ∧
    (let e : LoopEntry := ⟨2, 9, 0, 2⟩
     e.stop = 9 ∧ 1 < e.count ∧ { e with count := 1 }.count ≤ 1 ∧ e.stop ≠ 8 ∧ ctxA.loops = []) := by decide +kernel

/-- `f0` and `f4` set, `f4` failed. -/
def flagged : State := one { ctxA with flags := 0x11, engfail := 0x10, awc := 2 }

/-- For `FlagOps`: held, failed, complete; a mask of zero. -/
theorem witness_flags :
    ([0x2, 0x10, 0x1, 0].all fun m : BitVec 16 =>
      decide (flagged.runs false (.waitf false m) ∧ flagged.runs false (.peekf false m) ∧ flagged.runs false (.setf false m) ∧
        flagged.runs false (.clrf false m))) = true ∧
    (flagged.here.flags &&& 2 ≠ 2 ∧ flagged.here.flags &&& 0x10 = 0x10 ∧ flagged.here.engfail.setWidth 16 &&& (0x10 : BitVec 16) ≠ 0 ∧
      flagged.here.flags &&& 1 = 1 ∧ flagged.here.engfail.setWidth 16 &&& (1 : BitVec 16) = 0 ∧ flagged.bad = none) := by decide +kernel

/-- At system level, with `n1` = `x` in the shadow set. -/
def system (x : Word) : State := one { ctxA with sys := true, shad := regSet [(1, x)] }

/-- For `WaitsAndExits`. -/
theorem witness_waits :
    (flagged.runs false (.await false 2) ∧ flagged.here.awc ≤ (2 : BitVec 4).toNat) ∧
    ((withN1 0).runs false (.twait false 17) ∧ ((withN1 0).opnd 17).toNat ≤ (withN1 0).mt (dieOf 3)) ∧
    ((one ctxA).runs false (.ckpt false) ∧ (one ctxA).here.queuesEmpty = true ∧ (one ctxA).here.guard = none) ∧
    ((one ctxA).runs false (.fencei false) ∧ (one ctxA).runs false (.yield false)) ∧
    ((system 23).runs false (.pwrreq false 17) ∧ ((system 23).opnd 17).toNat ≤ 23 ∧ (system 24).runs false (.pwrreq false 17) ∧
      23 < ((system 24).opnd 17).toNat ∧ (one ctxA).runs false (.pwrreq false 17) ∧ (one ctxA).here.sys = false) ∧
    ((one ctxA).runs0 false (.exit false) ∧ ∀ p ∈ (one ctxA).cmds, p.2.cx ≠ (one ctxA).cur.cx) := by decide +kernel

/-- Command 4 of context 3, a `LEASE` that waits for its grant in slot 2 and gives token 7 and flag 1; in a handler where `v` is its
`TRAPCAUSE`. -/
def asking (v : Word) : State :=
  let i := Instr.lease false { prod := 7, c1 := 0, c2 := 0, c3 := 0, fen := true, fnum := 1 } 20 0 0
  let s := one { ctxA with sys := v != 0, trapcause := v, ord := 9, tokens := [(7, .pending)], tokOf := [(7, 8)], leases := [(2, { st := .pending, serial := 5 })] }
  { s with cmds := [(4, { cx := 3, cl := 0, entry := { s.entryNow 7 i with ord := 8 }, bound := some (2, 0, 0) })]
           dies := [(0, { benches := [(0, [4])] })] }

/-- For `WaitsAndExits` and `ReturnFromTrap`: a lease request of a context that exits, or returns to its retirement, is withdrawn, its
token failed with FWHY 3 (R83, R265). -/
theorem witness_lease_withdrawn :
    ([(asking 0, Instr.exit false), (asking 0x80000, .rft false)].all fun p => decide (p.1.runs0 false p.2) &&
      (match p.1.cmd 4 with
       | some c => c.cx == p.1.cur.cx && c.area.isNone && c.play.isNone && c.isLease && (c.entry.instr.bind tailFields).isSome
       | none => false) &&
      ((List.range 96).all fun k => !(p.1.engine 0 k).granted) && mget 0 7 p.1.here.tokOf == 8 && p.1.here.tok 7 == .pending &&
      steps (exec p.2 p.1) fun t => t.cmds == [] && t.here.tok 7 == .failed && t.here.flags.getLsbD 1 && t.here.engfail.extractLsb' 25 2 == 3 &&
        mget {} 2 t.here.leases == { serial := 5 } && (mget [] 0 (t.die 0).benches == [])) = true := by decide +kernel

/-- For `Traps`: a context with a handler at program level; one at system level; one without a handler; a launch not yet ending. -/
theorem witness_traps :
    ((one ctxA).here.sys = false ∧ (one ctxA).here.trapvec.getLsbD 15 = true ∧ (system 0).here.sys = true ∧
      (one { ctxA with trapvec := 0x7FFF }).here.trapvec.getLsbD 15 = false) ∧
    (let s := { one { ctxA with launch := some 7 } with launches := [(7, { st := .bound })] }
     s.here.launch = some 7 ∧ (mget {} 7 s.launches : Launch).stop = none) ∧
    ((one ctxA).runs false (.trap false 255) ∧ (one ctxA).runs false (.bkpt false 3) ∧ (one ctxA).runs false (.rft false)) ∧
    ((one ctxA).core (coreOf 3)).armed = false ∧ (({ one ctxA with cores := [(0, { armed := true })] } : State).core (coreOf 3)).armed = true := by
  decide +kernel

/-- A context in its handler, with `TRAPCAUSE` = `v` and a held entry. -/
def handling (v : Word) : State :=
  one { ctxA with sys := true, trapcause := v,
                  held := [{ slot := 3, par := ⟨0, 0⟩, vals := [], cur := 0, cur2 := 0, rep := 0, pc := 0, ord := 0, sys := false, ckpt := false, fault := true,
                             phase := .queued }] }

/-- For `ReturnFromTrap`: with and without `STREAM`, `DROP`, `EXITED` and `MID`. -/
theorem witness_return :
    ([0x00000, 0x10000, 0x30000, 0x80000, 0x1000FE00].all fun v : Word => decide ((handling v).runs0 false (.rft false) ∧ (handling v).here.sys = true)) = true := by
  decide +kernel

/-- For `ReadSystemRegister`: a program-level register read at both levels, the ends of the numbers, every register stated. -/
theorem witness_mfs :
    ([0x100, 0x11F, 0x120, 0x12F, 0, 1, 2, 3, 4, 5, 6, 7, 8, 9, 10, 11, 12, 0x10, 0x11, 0x20, 0x21, 0x22, 0x23, 0x30, 0x31, 0x40, 0x41].all
      fun sr : BitVec 12 => decide ((one ctxA).runs0 false (.mfs false sr 16) ∧ (system 0).runs0 false (.mfs false sr 47))) = true ∧
    (let s := fun (w : Option Nat) => { one { ctxA with launch := some 7 } with launches := [(7, { st := .bound, wdog := w })] }
     (s none).here.launch = some 7 ∧ steps (exec (.mfs false 0x040 16) (s none)) (fun t => t.opnd 16 == 0xFFFFFFFF) = true ∧
      steps (exec (.mfs false 0x040 16) (s (some 4001))) (fun t => t.opnd 16 == 5) = true) ∧
    (let s := fun (m : Option (Nat × Nat)) => { one ctxA with clusters := [(0, { move := m, step := 18 })] }
     ((s none).cluster 0).move = none ∧ ((s (some (31, 5))).cluster 0).move = some (31, 5) ∧ (s none).here.sys = false) ∧
    (one ctxA).here.sys = false ∧ (system 0).here.sys = true ∧ isNamed 16 = true ∧ isNamed 47 = true := by decide +kernel

/-- Context 3 with a register that is dirty, one that is not, and its save area 1 MiB into the near memory of its die. -/
def dirty : Ctx := { ctxA with savebase := 0x100000, vvalid := 6, vdirty := 2, v := [(1, [(0, 7), (1023, 9)])] }

/-- `State.areaTakes`, decided. -/
def takesOk (s : State) : Bool :=
  (List.range 64).all fun r => !(s.here.vvalid.getLsbD r && s.here.vdirty.getLsbD r) ||
    let key := areaKey s.here.savebase + 4096 * r
    populated key && s.granted true key 4096 && (s.die (homeDie key)).remapBase == none

/-- For `WriteSystemRegister` and `RegisterWriteRows`: a write of `SAVEBASE` at each of its three ways, with a dirty register (R102, R145). -/
theorem witness_savebase :
    (let v : Word := 0x0000000000234567
     let s := { one { dirty with sys := true, shad := regSet [(1, v)] } with cur := { cx := 3, slot := 0, nxt := 2 } }
     takesOk s = true ∧ s.bad = none ∧ s.runs0 false (.mts false 0x007 17) ∧ s.opnd 17 = v ∧
      cornerOf (v.extractLsb' 52 12).toNat = cornerOf (dieOf s.cur.cx) ∧ cornerOf ((0x0020000000100000 : Word).extractLsb' 52 12).toNat ≠ cornerOf (dieOf s.cur.cx) ∧
      ([.mts false 0x007 17, .registerWrite (.sys 0x007) v, .savebaseWrite v].all fun i => steps (exec i s) fun t =>
        t.here.vvalid == 0 && t.here.vdirty == 0 && t.here.savebase == 0x200000) = true) := by decide +kernel

/-- For `WriteSystemRegister`. -/
theorem witness_mts :
    ([2, 3, 4, 5, 6, 7, 10, 11, 12, 0x11, 0x30, 0x31, 0x100, 0x11F, 0x120, 0x12F, 0, 1, 8, 9, 0x10, 0x20, 0x21, 0x22, 0x23, 0x40, 0x41].all fun sr : BitVec 12 =>
      decide ((one ctxA).runs0 false (.mts false sr 17) ∧ (system 0).runs0 false (.mts false sr 17))) = true := by decide +kernel

/-- For `RegisterWriteRows`: a save area in the module and one in another. -/
theorem witness_rows :
    let s := one { ctxA with vdirty := 0 }
    s.bad = none ∧ s.here.vdirty = 0 ∧ cornerOf ((0x0020000000100000 : Word).extractLsb' 52 12).toNat ≠ cornerOf (dieOf s.cur.cx) ∧
      cornerOf ((0x0010000000100000 : Word).extractLsb' 52 12).toNat = cornerOf (dieOf s.cur.cx) := by decide +kernel

/-! Vector ops -/

/-- `n1` = `x`, `v1` = 1.0 in column 0. -/
def vectors (x : Word) : State := one { ctxA with prog := regSet [(1, x), (2, 3)], v := [(1, [(0, 0x3F800000)])] }

def vectorOps : List Instr :=
  [.vadd false 1 2 3 0 3, .vsub false 1 2 3 3 0, .vmul false 1 2 3 6 1, .vfma false 1 2 3 4 1, .vmin false 1 2 3 9, .vmax false 1 2 3 7, .vabs false 1 2 5 1,
    .vneg false 1 2 0 0, .vadds false 1 2 3 8 0, .vsubs false 1 2 3 0 2, .vmulh false 1 2 3 2, .vand false 1 2 3 0, .vor false 1 2 3 10, .vxor false 1 2 3 1,
    .vshl false 1 2 3 1, .vshr false 1 2 3 2, .vsar false 1 2 3 5, .vcmp false 1 2 3 0 3, .vsel false 1 2 3 7, .vacs false 1 2 3]

def vectorMoves : List Instr :=
  [.vrotr false 1 2 17, .vrotc false 1 2 17, .vbcr false 1 2 17, .vbcc false 1 2 17, .vtrn false 1 2, .vmov false 1 2, .vshuf false 1 2 3 8,
    .vsplat false 1 17 0, .viota false 1 0, .vredr false 1 2 false 0 0, .vredc false 1 2 true 5 2, .vcvt false 1 2 1 0 0, .vexp2 false 1 2, .vlog2 false 1 2,
    .vrcp false 1 1, .vrsq false 1 2]

/-- `State.streams`, decided. -/
def streamsOk (s : State) (slot : Nat) (g : Bool) (i : Instr) : Bool :=
  i.wf && streamHeld slot i s == false && firstPoisoned s.here (srcSpecs i) == none && (g && s.cur.off) == false && s.here.queues == [] &&
    s.here.outs == [] && s.here.guard == none && s.bad == none && s.net.all fun p => p.2.cx != s.cur.cx

theorem streams_of {s : State} {slot : Nat} {g : Bool} {i : Instr} (h : streamsOk s slot g i = true) : s.streams slot g i := by
  simp only [streamsOk, Bool.and_eq_true, beq_iff_eq, List.all_eq_true, bne_iff_ne] at h
  obtain ⟨⟨⟨⟨⟨⟨⟨⟨h1, h2⟩, h3⟩, h4⟩, h5⟩, h6⟩, h7⟩, h8⟩, h9⟩ := h
  exact ⟨h1, h2, h3, h4, h5, h6, h7, h8, h9⟩

/-- `State.vectorsReady`, decided. -/
def readyOk (s : State) (i : Instr) : Bool := (vReads i).all fun v => s.here.vvalid.getLsbD v.toNat && !s.here.vpois.getLsbD v.toNat

theorem ready_of {s : State} {i : Instr} (h : readyOk s i = true) : s.vectorsReady i := by
  intro v hv
  simpa using List.all_eq_true.mp h v hv

/-- For `VectorArithmetic`, `VectorLogicAndMoves`, `VectorReduceAndConvert` and `VectorFunctions`: every op issues, its registers ready. -/
theorem witness_vector :
    vectorOps.all (fun i => streamsOk (vectors 1) 4 false i && readyOk (vectors 1) i) = true ∧
    vectorMoves.all (fun i => streamsOk (vectors 1) 4 false i && readyOk (vectors 1) i) = true := by decide +kernel

/-- For `VectorLogicAndMoves`: lane and row numbers at the last one and past it. -/
theorem witness_lanes :
    ([1023, 1024].all fun x : Word => streamsOk (vectors x) 4 false (.vins false 1 17 18 0) && readyOk (vectors x) (.vins false 1 17 18 0) &&
      streamsOk (vectors x) 4 false (.vext false 16 1 17 0) && (vectors x).opnd 17 == x) = true ∧
    ([15, 16].all fun x : Word => streamsOk (vectors x) 4 false (.vdecmv false 16 17 true) && (vectors x).opnd 17 == x) = true ∧
    laneCount 0 = 1024 := by decide +kernel

/-- For `IntegerDelivery`: every integer type. For `VectorFunctions`: a signaling NaN, and values at the ends of each range. -/
theorem witness_numbers :
    (∀ t ∈ ([1, 2, 5, 6, 7, 8] : List (BitVec 4)), tyInt t = true) ∧
    (0x7F800001 < 2 ^ 32 ∧ 0x7F800000 < 0x7F800001 % 2 ^ 31) ∧ (0x43000000 ≤ 0x43000000 ∧ 0x43000000 < 0x7F800000) ∧
    (0xC3200000 < 0xC3200001 ∧ 0xC3200001 < 0xFF800000) ∧ (0x80000000 < 0x80000001 ∧ 0x80000001 ≤ 0xFF800000) ∧ (0 < 1 ∧ 1 < 0x7F800000) ∧
    ((-149 : Int) ≤ -149 ∧ (-149 : Int) ≤ 127) ∧ (253 < 254 ∧ 0 < 1) := by decide +kernel

/-! Memory -/

/-- A leaf that grants everything: its `MODE`, `TIER`, frame and `PEER`. -/
def leafOf (mode tier pa peer : Nat) : Word := BitVec.ofNat 64 (0x7F + mode * 256 + tier * 1024 + pa + peer * 2 ^ 52)

def tlbAt (va : Nat) (l : Word) : TlbEntry := { asid := 7, lo := va, bits := 12, leaf := l }

/-- Context 5 of launch 3 with `n2` = `x`, `n3` = `y` and `n4` = 256; pages of every `MODE` at home and one of die 1; a reduction
window; banks in SCRATCH, FIFO (20) and OFF (31); words 0x100–0x17F FULL. -/
def dom (x y : Nat) : State :=
  let rs := regSet [(2, BitVec.ofNat 64 x), (3, BitVec.ofNat 64 y), (4, 256)]
  { cur := { cx := 5, slot := 3, pc := 12, nxt := 13 }
    ctxs := [(5, { phase := .running, prog := rs, shad := rs, asid := 7, pageroot := 1, launch := some 3, ord := 40, trapvec := 0x8100,
                   v := [(1, [(0, 7), (1023, 9)])] })]
    cores := [(1, { tlb := [tlbAt 0x10000 (leafOf 0 0 0x20000 0), tlbAt 0x13000 (leafOf 3 0 0x23000 0), tlbAt 0x15000 (leafOf 1 0 0x25000 1),
                            tlbAt 0x19000 (leafOf 0 0 0x28000 0)] })]
    clusters := [(0, { modes := (List.range 31).map fun b => (b, if b = 20 then 3 else 1), owners := (List.range 31).map fun b => (b, 3)
                       scratch := [(0x800, 0x11), (0x807, 0x22), (0xBF8, 0x33)], full := (List.range 128).map fun i => (0x100 + i, true) })]
    mem := [(0x20000, 1), (0x20007, 2), (0x23000, 3)]
    dies := [(0, { windows := [(1, { base := 0x28000, size := 0x1000, exact := true })], mtskew := 1 })] }

def inWindow (o : Nat) : Nat := windowBase + o

/-- The answer of a plan with a property. -/
def planned {ε α : Type} (e : Except ε α) (p : α → Bool) : Bool :=
  match e with
  | .ok x => p x
  | .error _ => false

def trapped {ε α : Type} (e : Except ε α) : Bool :=
  match e with
  | .ok _ => false
  | .error _ => true

/-- `State.reaches`, decided. -/
def reachesOk (s : State) (cx : Nat) (cached load : Bool) (p : Piece) : Bool :=
  s.refused cx (!load) p == false && s.remotePiece cx cached load p == false

/-- Where a scalar access of an op that issues now goes. -/
def plan (s : State) (i : Instr) (ad : Admit) (kind : AccKind) (va n : Nat) : Except (State × Trap) (State × Piece) :=
  s.planScalar 5 (s.entryNow 3 i) ad kind va n

def ldD : Instr := .ld false 20 19 3 false 0
def stD : Instr := .st false 18 19 3 0

/-- `State.unwaited`, decided. -/
def unwaitedOk (s : State) : Bool := (s.waiters (clusterOf s.cur.cx)).all fun w => !w.holds

def isMem (p : Piece) : Bool :=
  match p.place with
  | .mem .. => true
  | _ => false

def isFifo (p : Piece) : Bool :=
  match p.place with
  | .fifo .. => true
  | _ => false

/-- A piece of memory as an access that bypasses the caches reads it (R349). -/
def piece01 (p : Piece) : Piece :=
  match p.place with
  | .mem key mode => { p with place := .mem key (if mode = 2 then 1 else mode) }
  | _ => p

/-- For `StreamingIssue`: held by an absent operand, poisoned, turned off, issued, in each slot. -/
theorem witness_issue :
    ([(3, Instr.ld true 19 18 3 false 0), (4, .vins true 1 18 18 0), (5, .mbeat true true 1 18 0 0 0 false false), (6, .aclr true 0 0)].all fun p =>
      p.2.slots == [p.1] && gBitOf p.2 && !isNop p.2 && !streamHeld p.1 p.2 (dom 1 0x10000) &&
        firstPoisoned (dom 1 0x10000).here (srcSpecs p.2) == none) = true ∧
    (let s := { one { ctxA with prog := { ctxA.prog with pres := 0 } } with cur := { cx := 3, slot := 3, off := true } }
     streamHeld 3 (.ld true 19 18 3 false 0) s = true ∧ (true && s.cur.off) = true ∧ (true && ({ s with cur := { s.cur with off := false } } : State).cur.off) = false) ∧
    (let s := one { ctxA with prog := { ctxA.prog with pois := 4 } }
     streamHeld 3 (.ld true 19 18 3 false 0) s = false ∧ firstPoisoned s.here (srcSpecs (.ld true 19 18 3 false 0)) = some 18) := by decide +kernel

/-- For `Loads` and `Stores`: no bank at the address switches, and nothing waits to be chosen first. -/
theorem witness_unwaited :
    ([0x10000, 0x50000, inWindow 0x800, inWindow 0x7C0].all fun a => !(dom 9 a).bankWait 5 a 8 && unwaitedOk (dom 9 a)) = true ∧
    (!(dom 9 0x10000).tileWait 5 ((dom 9 0x10000).entryNow 3 (.vld false 2 19 20 0)) 0x10000 256) = true := by decide +kernel

/-- For `Loads` and `Stores`: an address that is not a multiple of the size; one that names no place; memory; scratch. -/
theorem witness_load_store :
    ([0x10000, 0x10001, 0x50000, inWindow 0x800, inWindow 0x7C0].all fun a =>
      streamsOk (dom 9 a) 3 false (.ld false 20 19 3 false 0) && streamsOk (dom 9 a) 3 false (.st false 18 19 3 0)) = true ∧
    (0x10001 % 8 ≠ 0 ∧ trapped (plan (dom 9 0x50000) ldD .plain .read 0x50000 8) = true ∧
      trapped (plan (dom 9 0x50000) stD .plain .write 0x50000 8) = true ∧
      trapped (plan (dom 9 0) ldD .plain .read (inWindow 0x7C0) 8) = true) ∧
    ([0x10000, inWindow 0x800].all fun a =>
      planned (plan (dom 9 a) ldD .plain .read a 8) fun x => !isFifo x.2 && reachesOk x.1 5 true true x.2 && (x.1.readPiece 5 true x.2).isSome) = true ∧
    ([0x10000, inWindow 0x800].all fun a =>
      planned (plan (dom 9 a) stD .plain .write a 8) fun x =>
        !isFifo x.2 && reachesOk x.1 5 true false x.2 && (x.1.writePiece 5 true x.2 (bytesOfWord 8 9) false).isSome) = true := by decide +kernel

/-- The domain with `l` in FIFO 20. -/
def withFifo (l : List (Word × Bool)) : State := (dom 9 (inWindow 0x800500)).updCluster 0 fun k => k.setFifo 20 l

/-- For `Loads` and `Stores`: a FIFO port with an entry, without one, and full; the tags of a word both ways. -/
theorem witness_fifo :
    ([[], [(7, false)]].all fun l =>
      streamsOk (withFifo l) 3 false (.ld false 20 19 3 false 0) && streamsOk (withFifo l) 3 false (.fpop false 20 20) &&
        streamsOk (withFifo l) 3 false (.st false 18 19 3 0) && streamsOk (withFifo l) 3 false (.fpush false 18 20) &&
        ((withFifo l).cluster 0).fifo 20 == l && ((withFifo l).cluster 0).modeFor (some 3) 20 == 3 && !((withFifo l).cluster 0).switching.getLsbD 20 &&
        unwaitedOk (withFifo l) && planned (plan (withFifo l) ldD .plain .read (inWindow 0x800500) 8)
          (fun x => x.1 == withFifo l && x.2 == { place := .fifo 20 0, len := 8 }) &&
        planned (plan (withFifo l) stD .plain .write (inWindow 0x800500) 8)
          (fun x => x.1 == withFifo l && x.2 == { place := .fifo 20 0, len := 8 })) = true := by decide +kernel

theorem witness_fifo_full : 32768 ≤ (List.replicate 32768 ((7 : Word), false)).length := Nat.le_of_eq List.length_replicate.symm

theorem witness_tags :
    ([0x800, 0xBF8, 0xC00].all fun o =>
      streamsOk (dom 9 (inWindow o)) 3 false (.ldfe false 20 19 3 false 0) && streamsOk (dom 9 (inWindow o)) 3 false (.ldff false 20 19 0 true 0) &&
        streamsOk (dom 9 (inWindow o)) 3 false (.stef false 18 19 3 0) && streamsOk (dom 9 (inWindow o)) 3 false (.stff false 18 19 3 0) &&
        effAddr ((dom 9 (inWindow o)).opnd 19) 0 8 0 % 8 == 0 && windowOff (inWindow o) == some o && ((dom 9 0).cluster 0).scratchOk (some 3) o 8 &&
        !((dom 9 0).cluster 0).switchingIn o 8) = true ∧
    ((dom 9 0).cluster 0).wordFull (0xBF8 / 8) = true ∧ ((dom 9 0).cluster 0).wordFull (0xC00 / 8) = false := by decide +kernel

/-- For `Stores`: `FEINIT` of no word, of 64 words, and at an address that is not a multiple of 8. -/
theorem witness_feinit :
    ([(0, 0x800), (64, 0x800), (64, 0x801)].all fun p : Nat × Nat => streamsOk (dom p.1 (inWindow p.2)) 3 false (.feinit false 18 19 true)) = true ∧
    (0 < 64 ∧ inWindow 0x801 % 8 ≠ 0 ∧ 0x800 < 0x800000 ∧ windowOff (inWindow 0x800) = some 0x800 ∧ ((dom 9 0).cluster 0).scratchOk (some 3) 0x800 (8 * 64) = true ∧
      ((dom 9 0).cluster 0).switchingIn 0x800 (8 * 64) = false) := by decide +kernel

/-- For `Loads` and `Stores`: `LDA`, `LDXS`, `STL` on memory of the die. -/
theorem witness_bypass :
    (streamsOk (dom 9 0x10000) 3 false (.lda false 20 19 3 false 6) && streamsOk (dom 9 0x19000) 3 false (.ldxs false 20 19 true 0) &&
      streamsOk (dom 9 0x10000) 3 false (.stl false 18 19 3 7)) = true ∧
    (planned (plan (dom 9 0x10000) (.lda false 20 19 3 false 6) .memOnly .read 0x10000 8) fun x =>
      let u := x.1.bypass 5 false x.2
      isMem x.2 && reachesOk u 5 false true (piece01 x.2) && match u.readPiece 5 false (piece01 x.2) with
        | some (_, _, false) => true
        | _ => false) = true ∧
    (planned (plan (dom 9 0x19000) (.ldxs false 20 19 true 0) .memOnly .read 0x19000 64) fun x =>
      let u := x.1.bypass 5 false x.2
      isMem x.2 && (match (x.1.die 0).windowOf 0x28000 with
        | some w => w.exact
        | none => false) && reachesOk u 5 false true (piece01 x.2) && (u.readPiece 5 false (piece01 x.2)).isSome) = true ∧
    (planned (plan (dom 9 0x10000) (.stl false 18 19 3 7) .memOnly .write 0x10000 8) fun x =>
      let u := (x.1.writeBackAll 0).bypass 5 false x.2
      isMem x.2 && reachesOk u 5 false false x.2 && (u.writePiece 5 false x.2 (bytesOfWord 8 9) false).isSome) = true := by decide +kernel

/-- All banks in SCRATCH, `n` words from 0x100 on FULL. -/
def scratchAll (n : Nat) : State :=
  (dom 9 (inWindow 0x800)).updCluster 0 fun k =>
    { k with modes := (List.range 32).map fun b => (b, 1), owners := (List.range 32).map fun b => (b, 3), full := (List.range n).map fun i => (0x100 + i, true) }

/-- For `Loads` and `Stores`: tiles of memory and of scratch, a base that is not a multiple of 64, FULL words and an EMPTY one (rows that coincide, so that there are few). -/
theorem witness_tiles :
    (let vld := Instr.vld false 2 19 20 0
     let vst := Instr.vst false 1 19 20 0
     ([0x10000, 0x10001].all fun a => streamsOk (dom 9 a) 3 false vld && streamsOk (dom 9 a) 3 false vst) = true ∧
     (planned ((dom 9 0x10000).planTile 5 ((dom 9 0x10000).entryNow 3 vld) .tile .read 0x10000 256) fun x =>
       x.2.all (reachesOk x.1 5 true true) && (x.1.readPieces 5 true x.2).isSome) = true ∧
     trapped ((dom 9 0x10001).planTile 5 ((dom 9 0x10001).entryNow 3 vld) .tile .read 0x10001 256) = true ∧
     (planned ((dom 9 0x10000).planTile 5 ((dom 9 0x10000).entryNow 3 vst) .tile .write 0x10000 256) fun x => x.2.all (reachesOk x.1 5 true false)) = true ∧
     (dom 9 0).here.vvalid.getLsbD 1 = true) := by decide +kernel

theorem witness_tagged_tiles :
    (let vldw := Instr.vldw false 2 19 21 0
     let vstf := Instr.vstf false 1 19 21 0
     (streamsOk (scratchAll 32) 3 false vldw && streamsOk (scratchAll 31) 3 false vldw && streamsOk (scratchAll 32) 3 false vstf) = true ∧
     ([32, 31].all fun n =>
       planned ((scratchAll n).planTile 5 ((scratchAll n).entryNow 3 vldw) .scratchOnly .read ((scratchAll n).opnd 19) 0) fun x =>
         !(scratchAll n).tileWait 5 ((scratchAll n).entryNow 3 vldw) ((scratchAll n).opnd 19) 0 && unwaitedOk (scratchAll n) &&
           x.2.all (fun p => match p.place with
             | .scratch o => ((scratchAll n).cluster 0).allFull (o / 8) 32
             | _ => false) == (n == 32)) = true ∧
     (planned ((scratchAll 32).planTile 5 ((scratchAll 32).entryNow 3 vstf) .scratchOnly .write ((scratchAll 32).opnd 19) 0) fun x =>
       (x.1.writePieces 5 false false x.2 (bytesOfTile ((scratchAll 32).here.vreg 1))).isSome) = true) := by decide +kernel

/-- For `Loads`: the bytes of the tiles are there to read; and for `Stores`: to be written. -/
theorem witness_tile_bytes :
    (planned ((scratchAll 32).planTile 5 ((scratchAll 32).entryNow 3 (.vldw false 2 19 21 0)) .scratchOnly .read ((scratchAll 32).opnd 19) 0) fun x =>
      (x.1.readPieces 5 false x.2).isSome) = true ∧
    (planned ((dom 9 0x10000).planTile 5 ((dom 9 0x10000).entryNow 3 (.vst false 1 19 20 0)) .tile .write 0x10000 256) fun x =>
      (x.1.storeParts 5 ((dom 9 0x10000).entryNow 3 (.vst false 1 19 20 0)) true false (wholeLines x.2) x.2
        (bytesOfTile ((dom 9 0).here.vreg 1))).isSome) = true := by decide +kernel

def atomics : List Instr :=
  [.afadd false 20 19 18 true, .afmin false 0 19 18 true, .afmax false 20 19 18 true, .afand false 20 19 18 true, .afor false 20 19 18 true,
    .afxor false 20 19 18 true, .axchg false 20 19 18 true, .acas false 20 19 18 true]

/-- For `Atomics`: a clean word at home in `MODE` 0 and 3, and a poisoned line. -/
theorem witness_atomics :
    ([0x10000, 0x13000].all fun a => atomics.all fun i => streamsOk (dom 9 a) 3 false i) = true ∧
    ([(0x10000, false), (0x13000, false), (0x10000, true)].all fun q =>
      let s := if q.2 then (dom 9 q.1).setLinePois 0x20000 true else dom 9 q.1
      planned (plan s (.afadd false 20 19 18 true) .memOnly .both q.1 8) fun x =>
        match x.2.place with
        | .mem key mode =>
          let u := x.1.bypass 5 true x.2
          !isHost key && homeDie key == 0 && ((x.1.die 0).windowOf key).isNone &&
            match (if mode = 3 then u.countMigration key 0 else u).homeRead key 8 with
            | some (_, _, b) => b == q.2
            | none => false
        | _ => false) = true := by decide +kernel

/-- For `RequestsSent`: a page of die 1, a load and a store there, a reduction window, a valid and an invalid `MTSKEW`; flow and request numbers free. -/
theorem witness_requests :
    (streamsOk (dom 9 0x15000) 3 false (.stt false 18 19 18 3 true) && streamsOk (dom 9 0x15000) 3 false (.ldnb false 20 19 18 3 false) &&
      streamsOk (dom 9 0x19000) 3 false (.afaddf false 20 19 18 2)) = true ∧
    (planned (plan (dom 9 0x15000) (.stt false 18 19 18 3 true) .memOnly .write 0x15000 8) fun x => isMem x.2) = true ∧
    (planned (plan (dom 9 0x15000) (.ldnb false 20 19 18 3 false) .memOnly .read 0x15000 8) fun x => isMem x.2) = true ∧
    (planned (plan (dom 9 0x19000) (.afaddf false 20 19 18 2) .memOnly .both 0x19000 64) fun x => isMem x.2 && x.2.place == .mem 0x28000 0) = true ∧
    ([(Instr.ld false 20 19 3 false (-2), AccKind.read), (.st false 18 19 3 (-2), .write)].all fun q => streamsOk (dom 9 0x15010) 3 false q.1 &&
      (planned (plan (dom 9 0x15010) q.1 .plain q.2 0x15000 8) fun x => x.2.place == .mem (2 ^ 52 + 0x25000) 1 && x.1.remotePiece 5 true (q.2 == .read) x.2) &&
      steps (exec q.1 (dom 9 0x15010)) fun t => t.nextPkt == 1 && t.here.queue 3 == [] && match t.pkt 0 with
        | some x => x.home == 1 && x.die == 0 && x.cx == 5 && x.pieces.map Piece.key == [some (2 ^ 52 + 0x25000)] && x.bytes == (if q.2 == AccKind.read then [] else bytesOfWord 8 9) &&
            x.kind == (if q.2 == AccKind.read then .load else .store)
        | none => false) = true ∧
    ((dom 9 0).die 0).mtskew.getLsbD 0 = true ∧ (((dom 9 0).updDie 0 fun d => { d with mtskew := 0 }).die 0).mtskew.getLsbD 0 = false ∧
    ((mget {} (flowId 1 .transit) ((dom 9 0).die 0).flows : Flow)).unacked.length < 512 ∧ (((dom 9 0).die 0).windowOf 0x28000).any (fun w => w.exact) = true := by
  decide +kernel

theorem witness_no_requests : ∀ id, (dom 9 0).nextPkt ≤ id → (dom 9 0).pkt id = none := fun _ _ => rfl

/-- For `WaitOnMemory`: each condition on a word that holds 2^57 + 1, some true and some false. -/
theorem witness_waita :
    ([0, 1, 2, 3, 4, 5, 6, 7, 8, 9].all fun c : BitVec 4 => streamsOk (dom 9 0x10000) 3 false (.waita false 20 19 18 true c)) = true ∧
    (planned (plan (dom 9 0x10000) (.waita false 20 19 18 true 6) .memOnly .read 0x10000 8) fun x =>
      let u := x.1.bypass 5 false x.2
      isMem x.2 && reachesOk u 5 false true (piece01 x.2) && match u.readPiece 5 false (piece01 x.2) with
        | some (_, bs, false) => natOfBytes bs == 2 ^ 57 + 1
        | _ => false) = true := by decide +kernel

/-- For `OrderingAndHints`: with and without SCM lines to wait for. -/
theorem witness_ordering :
    (streamsOk (dom 9 0x10000) 3 false (.fence false 7) && streamsOk (dom 9 0x10000) 3 false (.drain false 0) &&
      streamsOk (dom 9 0x10000) 3 false (.persist false 3) && streamsOk (dom 9 0x10000) 3 false (.cflush false 19 0) && streamsOk (dom 9 0x10001) 3 false (.cflush false 19 0) &&
      streamsOk (dom 9 0x50000) 3 false (.pref false true 19 3 0)) = true ∧
    (planned (plan (dom 9 0x10000) (.cflush false 19 0) .memOnly .read 0x10000 8) fun x => isMem x.2) = true ∧
    (dom 9 0).here.unpersisted = [] ∧ ((dom 9 0).updCtx 5 fun c => { c with unpersisted := [0x20000000000] }).here.unpersisted ≠ [] ∧
    (dom 9 0).here.frozen = false ∧ ((dom 9 0).cluster 0).ways (dom 9 0).here.launch = [] := by decide +kernel

/-! The matrix unit, scratch and memory -/

/-- Context 5 at a context with the array (`hold`) or without it; bank 2 has row 9 and a poisoned row 12; the pipeline's oldest entry is a row. -/
def arrayed (hold : Bool) (f : MatArray → MatArray) : State :=
  let s := (dom 0 (inWindow 0x7C0)).updCtx 5 fun c =>
    { c with accbanks := if hold then 0x1FF else 0xFF, cursors := { s5s := 128, s5d := 3, s6 := 9 }, v := [(1, [(0, 0x38)])] }
  s.updCore 1 fun k =>
    { k with
      accPois := [(2 * 128 + 12, true)]
      arr := f { full0 := true, pipe := some { vals := List.replicate 128 1, poison := true } :: List.replicate 129 none } }

/-- The pushes of each kind, and a bubble. -/
def beatsOf (out : BitVec 2) (load swap : Bool) : List Instr :=
  [.mbeat false false 0 0 out 2 9 load swap, .mbeat false true 0 1 out 2 9 load swap, .mbeat false true 1 19 out 2 9 load swap,
    .mbeat false true 2 16 out 2 9 load swap]

/-- For `MatrixBeat`: bubbles and pushes of each kind, with every out-action, with the array and without it. -/
theorem witness_beats :
    ([true, false].all fun h => (beatsOf 1 true true).all fun i => streamsOk (arrayed h id) 5 false i && !(arrayed h id).here.frozen) = true ∧
    ((beatsOf 2 false true).all fun i => streamsOk (arrayed true id) 5 false i && readyOk (arrayed true id) i) = true ∧
    (streamsOk (arrayed true id) 5 false (.mbeat false false 0 0 0 0 0 false false) && (arrayed true id).here.holder && !(arrayed false id).here.holder) = true ∧
    (let k := (arrayed true id).core 1
     k.arr.halfFull = true ∧ k.arr.wload.wswap.activePois = false ∧ k.arr.activePois = false ∧ (k.arr.pipe.head?).join ≠ none ∧
      matInt k.arr.afmt = false ∧ k.accValuesPoisoned 2 128 (matK k.arr.dfmt) = false) ∧
    ((arrayed true fun a => { a with activePois := true, pipe := List.replicate 130 none }).core 1).arr.activePois = true ∧
    ((((arrayed true fun a => { a with pipe := List.replicate 130 none }).core 1).arr.pipe.head?).join) = none := by decide +kernel

/-- For `MatrixBeat`: a vector in scratch, with its words FULL and clean. -/
theorem witness_kind1 :
    (let s := arrayed true id
     let l := s.cluster 0
     let o := 0x840
     (unwaitedOk s && wrap64 ((s.opnd 19).toNat + 128) % 64 == 0 && windowOff (wrap64 ((s.opnd 19).toNat + 128)) == some o &&
       l.scratchOk s.here.launch o (matPitch 0) && !l.switchingIn o (matPitch 0) && l.allFull (o / 8) (matPitch 0 / 8) &&
       !l.scratchPois o (matPitch 0)) = true) := by decide +kernel

/-- For `WeightPlanesAndControl`: pointers at both ends, poisoned and clean rows, with and without the clean-refill flag. -/
theorem witness_planes :
    (let a : MatArray := { poisRows0 := [0, 127], clean := true }
     let c : MatArray := { poisRows0 := [1], clean := false, p := 127 }
     a.halfPois.contains 0 = true ∧ a.halfPois.contains 126 = false ∧ c.halfPois.contains 127 = false ∧ c.p.toNat = 127 ∧ a.p.toNat = 0 ∧
      (0 < 126 ∧ 126 < 127)) ∧
    (streamsOk (arrayed true id) 5 false (.mwsel false true) && streamsOk (arrayed false id) 5 false (.mwsel false true) &&
      streamsOk (arrayed true id) 5 false (.mmode false 8 9 8) && streamsOk (arrayed false id) 5 false (.mmode false 8 9 8)) = true ∧
    (((arrayed true id).core 1).arr.pipe.any (fun x => x.isSome) &&
      ((arrayed true fun a => { a with pipe := List.replicate 130 none }).core 1).arr.pipe.all (fun x => x.isNone)) = true := by decide +kernel

/-- For `MatrixColumns`: a vector and a row of 128 bytes; finite factors; a NaN; 0 × ∞, infinities of both signs and of one (R136), each
with its sum; float groups, with scales and without, the sum of one beat of FP8 ones being 128. -/
theorem witness_columns :
    matInt 2 = true ∧ matInt 10 = true ∧ (List.replicate 128 (0xFF : Byte)).length = 128 ∧ (Plane.row [] 127).w.length = 128 ∧
    Fv.isNan (.nan true) = true ∧
    columnFloat [.inf false, .fin false 1 0] [.fin true 0 0, .fin false 1 0] = 0x7FC00000 ∧
    columnFloat [.inf false, .inf true] [.fin false 1 0, .fin false 3 0] = 0x7FC00000 ∧
    columnFloat [.inf false, .fin false 1 0] [.fin true 1 0, .fin false 1 0] = 0xFF800000 ∧
    ([0, 1, 3, 4, 5, 6, 7, 8, 9].all fun f : BitVec 4 => (matFmt f).isSome) = true ∧
    (columnSums 0 0 (List.replicate 128 0x38) ((List.range 128).foldl (fun p n => mput n { Plane.row p n with w := List.replicate 128 0x38 } p) [])).getD 127 0 = 0x43000000 := by
  decide +kernel

theorem witness_finite_columns :
    let as := [Fv.fin true 1 (-149), Fv.fin false 3 0]
    as.length = [Fv.fin false 1 (-149), Fv.fin false 3 0].length ∧ ∀ x ∈ as ++ [Fv.fin false 1 (-149), Fv.fin false 3 0], ∃ s m e, x = Fv.fin s m e := by
  refine ⟨rfl, ?_⟩
  intro x hx
  simp only [List.cons_append, List.nil_append, List.mem_cons, List.not_mem_nil, or_false] at hx
  rcases hx with h | h | h | h <;> exact ⟨_, _, _, h⟩

/-- For `Accumulators`: each conversion, and rows that pass the end of the bank. -/
theorem witness_accumulators :
    ([0, 1, 2, 3, 4, 5, 6].all fun c : BitVec 4 => streamsOk (arrayed true id) 6 false (.aget false 1 2 125 c (if c.toNat < 3 then 0 else 1))) = true ∧
    ([0, 1, 2].all fun c : BitVec 4 => streamsOk (arrayed true id) 6 false (.aputa false 1 2 125 c)) = true ∧
    (streamsOk (arrayed true id) 6 false (.aput false 1 2 125 0) && streamsOk (arrayed true id) 6 false (.aclr false 2 125)) = true ∧
    (arrayed true id).here.vvalid.getLsbD 1 = true ∧ (∀ n < 8, (((arrayed true id).core 1).accRow 2 (6 + n)).length = 128) := by decide +kernel

/-- For `ScratchWrite` and `HomeWrite`: a write over a whole word and parts of two; a whole line, and its last byte. -/
theorem witness_writes :
    (let off := 5
     let n := 18
     (off ≤ 8 * 1 ∧ 8 * 1 + 8 ≤ off + n) ∧ (8 * 0 < off + n ∧ off < 8 * 0 + 8 ∧ ¬(off ≤ 8 * 0 ∧ 8 * 0 + 8 ≤ off + n)) ∧ off + n ≤ 8 * 3) ∧
    (dom 0 0).remapOff 0x20000 = none ∧ 0x20000 % 128 + 128 ≤ 128 ∧ 0x2007F % 128 + 1 ≤ 128 ∧ lineOf 0x20080 ≠ lineOf 0x2007F ∧
    (∀ i < 128, (dom 0 0).remapOff (0x20000 + i) = none) := by decide +kernel

/-- Context 5's page tables: `p` is the leaf of page 0x30000, `q` the word above it. -/
def tables (p q : Word) : State :=
  let w := fun (at_ : Nat) (v : Word) (s : State) => s.homeWrite (keyOf 0 at_) (bytesOfWord 8 v) false
  w 0x40000 0x41001 (w 0x41000 0x42001 (w 0x42000 0x43001 (w 0x43000 q (w 0x44180 p ((dom 0 0).updCtx 5 fun c => { c with pageroot := 0x40001 })))))

def treeOf (s : State) : Space := s.here.space 5 false

/-- The cause, the level and the leaf a walk ends with. -/
def walked (s : State) (kind : AccKind) (va : Nat) : Nat × Nat × Word :=
  match (s.walk (treeOf s) kind va).2 with
  | .ok w => (0, w.lvl, w.leaf)
  | .error e => (e.cause, e.detail % 8, 0)

/-- For `AddressTranslation`: leaves that grant and refuse, with A and D clear; an invalid root, an address past 2^57, entries of each kind. -/
theorem witness_walks :
    walked (tables 0x5001F 0x44001) .write 0x30FFF = (0, 0, 0x5001F) ∧ walked (tables 0x50017 0x44001) .read 0x30000 = (0, 0, 0x50017) ∧
    walked (tables 0x5001E 0x44001) .read 0x30000 = (7, 0, 0) ∧ walked (tables 0x5001F 0x44005) .read 0x30000 = (9, 1, 0) ∧
    walked (tables 0x5001F 0x2000DF) .read 0x30000 = (0, 1, 0x2000DF) ∧ walked (tables 0x5001F 0x44001) .read (2 ^ 57) = (9, 7, 0) ∧
    walked (dom 0 0) .read 0x30000 ≠ (0, 0, 0) ∧
    (let z := treeOf (dom 0 0)
     leafGrants z .write 0x5001F = true ∧ leafGrants z .write 0x50017 = false ∧ leafGrants z .read 0x5000F = false ∧
      (tables 0x5001F 0x44001).tlbHit z 0x30FFF = none ∧ ((dom 0 0).tlbHit z 0x10FFF).any (fun t => t.leaf.getLsbD 6) = true ∧
      ({ z with root := 0 } : Space).root.getLsbD 0 = false ∧ z.root.getLsbD 0 = true) ∧
    (tables 0x5001F 0x44001).remapOff (keyOf 0 0x44180) = none ∧ keyOf 0 0x44180 % 8 = 0 ∧ keyPa (keyOf 0 0x44180) < 2 ^ 48 := by decide +kernel

/-- For `AddressTranslation`: a poisoned line of entries, and a clean one. -/
theorem witness_entries :
    (tables 0 0).linePois (keyOf 0 0x44180) = false ∧ ((tables 0 0).setLinePois (keyOf 0 0x44180) true).linePois (keyOf 0 0x44180) = true ∧
    tableOk 0x44001 1 = true ∧ tableOk 0x44001 0 = false ∧ (leafOk 0 0x5001F 0 && !(tables 0 0).inHibernation 0x5001F 0) = true ∧
    (leafOk 0 0x5001F 2 && !(tables 0 0).inHibernation 0x5001F 2) = false ∧ (0x5001F : Word).getLsbD 1 = true := by decide +kernel

/-! Commands -/

def tailA : Tail := { prod := 5, c1 := 0, c2 := 7, c3 := 0, fen := true, fnum := 3 }

/-- The domain `dom x y` with command 1 in progress, rings, leases, pins and a swap. -/
def ordering (x y : Nat) : State :=
  let e : Entry :=
    { slot := 7, par := ⟨0, 0⟩, vals := [], cur := 0, cur2 := 0, rep := 0, pc := 0, ord := 3, sys := false, ckpt := false, fault := false, phase := .queued }
  let s := { dom x y with extents := (2, 2, 2), nextCmd := 3, cmds := [(1, { cx := 2, cl := 0, entry := e })] }
  let ring : Ring := { nslot := 4, cons := 2, valid := true, base := 64, slotsz := 64, target := 10, wp := 2, rp := 3, gen := 7, filled := 1, relcnt := 1 }
  let s := s.updCluster 0 fun k =>
    (((k.setRing (ringAt (some 3) 3) ring).setRing (ringAt (some 3) 4) { ring with rp := 2, gen := 9, filled := 0 }).setRing (ringAt (some 3) 6)
      { ring with rp := 2, gen := 9, filled := 2 }).setRing (ringAt (some 3) 5) {}
  let held : LeaseSlot := { st := .held, handle := handleOf 2 0 9, serial := 9 }
  let lost : LeaseSlot := { st := .lost, handle := handleOf 18 1 4, why := 2, serial := 4 }
  let s := s.updCtx 5 fun c =>
    { c with leases := [(0, held), (1, lost), (2, { held with st := .pending })], marks := [(6, 0x80000902)], accbanks := 0x1FF, tsize := 1 }
  let s := s.updDie 0 fun d => { d with engines := [(2, { st := .leased, cx := 5, slot := 0, queue := [] })], warmReqs := [(0, [9, 5]), (1, [3])] }
  s.updQuad 0 fun q =>
    { q with
      pins := [(0, { valid := true, base := 0x100000, size := 0x20000, serial := 3 }), (1, { serial := 8 })]
      swaps := [(0, { far := keyOf 0 (2 ^ 40 + 65536), near := keyOf 0 65536, done := 3, cmd := 1 })] }

/-- `State.commands`, decided. -/
def commandsOk (s : State) (i : Instr) : Bool :=
  streamsOk s 7 (gBitOf i) i && tailFields i == some tailA && [tailA.c1, tailA.c2, tailA.c3].all fun k => s.here.tok k == .complete

theorem commands_of {s : State} {i : Instr} (h : commandsOk s i = true) : s.commands (gBitOf i) i tailA := by
  simp only [commandsOk, Bool.and_eq_true, beq_iff_eq, List.all_eq_true] at h
  exact ⟨streams_of h.1.1, h.1.2, h.2⟩

/-- Every command with operands `n2` and `n3`. -/
def commands : List Instr :=
  [.cpy false tailA 18 4, .stage false tailA 18, .rinit false tailA 18 19 2, .rawait false tailA 18 3, .rrel false tailA 18 3, .tload false tailA 18 19 1,
    .bankcfg false tailA 18 2, .lease false tailA 18 1 2, .lcmd false tailA 18 19, .unlease false tailA 18, .lwarm false tailA 1 true,
    .wstr false tailA 18 19 true, .pinwin false tailA 18 19 17, .unpin false tailA 18, .swappg false tailA 18 19 17, .tlbinv false tailA 18 19 0,
    .mapwin false tailA 18 19 1 true, .launch false tailA 18 9]

/-- For `CopyRingAndBankCommands`, `EngineCommands` and `MemoryCommands`: every command starts, whatever its operands are. -/
theorem witness_commands : ([(0x20, 1), (0x21, 0xFFFFFFFFFF)].all fun p => commands.all (commandsOk (ordering p.1 p.2))) = true := by decide +kernel

/-- For `EngineCommands`: a `LEASE` that starts while its context retires. -/
theorem witness_lease_retiring :
    (let s := (ordering 0 0).updCtx 5 fun c => { c with phase := .retiring }
     commandsOk s (.lease false tailA 18 1 2) && s.here.phase == .retiring) = true := by decide +kernel

/-- For `CopyRingAndBankCommands`: operands at the ends of what is allowed; a ring ready, one empty, one done, one invalid. -/
theorem witness_ring_operands :
    (0x80 % 256 ≠ 0 ∧ 0x100 % 256 = 0 ∧ 0xFFFF < 0x10000) ∧ (((ordering 0 0).cluster 0).chan 4).length < 16 ∧
    16 ≤ (((ordering 0 0).cluster 0 |>.setChan 4 (List.replicate 16 9)).chan 4).length ∧
    (mget ({} : Play) 3 ((ordering 0 0).cluster 0).plays).stage + 0xFFFF < 2 ^ 32 ∧
    (0x20 % 32 = 0 ∧ 32 < 33 ∧ 1 ≤ 32) ∧ (126 + (1 + 1) ≤ 64 * 2 ^ (ordering 0 0).here.tsize.toNat ∧ 64 * 2 ^ (ordering 0 0).here.tsize.toNat < 127 + (1 + 1)) ∧
    (let k := (ordering 0 0).cluster 0
     let c := (ordering 0 0).here
     let r := fun (n : Nat) => k.ring (ringAt c.launch n)
     ((r 5).valid = false ∧ (r 4).filled = 0 ∧ (r 3).valid = true ∧ (r 3).filled = 1 ∧ mget 0 3 c.marks = 0) ∧
      ((mget 0 6 c.marks).getLsbD 31 = true ∧ (mget 0 6 c.marks).extractLsb' 0 24 = (r 6).gen ++ (r 6).rp.setWidth 8) ∧
      ((r 3).rp.toNat + 2 ^ 8 * (r 3).gen.toNat = 0x703 ∧ (0x703 + 2 ^ 24) % 2 ^ 24 = 0x703) ∧
      (r 3).relcnt.toNat + 1 = (r 3).cons.toNat ∧ (r 6).relcnt.toNat + 1 = 2 ∧
      k.bankq = [] ∧ k.owns c.launch 30 = true ∧ k.owns c.launch 31 = false) := by decide +kernel

/-- For `EngineCommands`: a free slot and none; a handle that is held, one lost, and none; a queue with room and a full one. -/
theorem witness_leases :
    (let c := (ordering 0 0).here
     (∀ k < 3, (mget ({} : LeaseSlot) k c.leases).st ≠ .free) ∧ (mget ({} : LeaseSlot) 3 c.leases).st = .free ∧
      (∀ k < 8, (mget ({} : LeaseSlot) k (List.map (fun n => (n, ({ st := .held } : LeaseSlot))) (List.range 8))).st ≠ .free) ∧
      ((c.namedSlot 0x90002).map fun x => (x.1, x.2.st)) = some (0, .held) ∧ ((c.namedSlot 0x40112).map fun x => (x.1, x.2.st)) = some (1, .lost) ∧
      c.namedSlot 5 = none ∧ ((ordering 0 0).engine 0 (16 * (0x90002 / 16 % 8) + 0x90002 % 16)).queue.length < 4 ∧
      c.accbanks.getLsbD 8 = true ∧ 0x90002 / 16 % 8 = 0 ∧ 0x40112 / 16 % 8 ≠ 0) := by decide +kernel

/-- For `EngineCommands`, `UNLEASE`: an engine without commands, whose lease ends at once, and one with commands, for which it waits. -/
theorem witness_unlease :
    (let i := Instr.unlease false tailA 18
     let eng := 16 * (0x90002 / 16 % 8) + 0x90002 % 16
     let s := fun (q : List Nat) => (ordering 0x90002 0).setEngine 0 eng { (ordering 0 0).engine 0 eng with queue := q }
     ([[], [3]].all fun q => streamsOk (s q) 7 false i && ((s q).engine 0 eng).queue == q &&
       steps (exec i (s q)) fun t => (mget ({} : LeaseSlot) 0 t.here.leases).st == (if q.isEmpty then .free else .held) && t.here.queue 7 == [] == q.isEmpty) = true) := by
  decide +kernel

/-- For `MemoryCommands`, `PINWIN` and `UNPIN`: the smallest window, one that overlaps another, one past the end of near memory. -/
theorem witness_pins :
    (let s := ordering 0 0
     let key := keyOf 0 0x200000
     (65536 % 65536 = 0 ∧ 0 < (65536 + 2 ^ 32) / 2 ^ 32 % 256 ∧ (65536 + 2 ^ 32) / 2 ^ 29 % 8 = 0 ∧ (65536 + 2 ^ 32) / 2 ^ 40 = 0) ∧
      (cornerOf 0 = cornerOf (dieOf 5) ∧ regionOf 0x200000 = .near ∧ regionOf (keyPa (key + 65536 - 1)) = .near ∧
        homeQuad (key + 65536 - 1) = homeQuad key ∧ homeQuad key = 0) ∧
      ((s.quad 0).pins.all fun p => !p.2.valid || key + 65536 ≤ p.2.base || p.2.base + p.2.size ≤ key) = true ∧
      ((s.quad 0).pins.all fun p => !p.2.valid || 0x110000 + 65536 ≤ p.2.base || p.2.base + p.2.size ≤ 0x110000) = false ∧
      (s.quad 0).pinnedBytes + 65536 ≤ 2 ^ 28 ∧ (mget ({} : Pin) 1 (s.quad 0).pins).valid = false ∧ (mget ({} : Pin) 0 (s.quad 0).pins).valid = true ∧
      (mget ({} : Pin) 0 (s.quad 0).pins).serial = 3 ∧ 0x300000000 / 2 ^ 32 % 2 ^ 16 = 3 ∧ 0x300000080 / 2 ^ 7 % 2 ≠ 0) := by decide +kernel

/-- For `MemoryCommands`, `SWAPPG`, `TLBINV` and `MAPWIN`: pages that pair, one active, the record after it; windows of a domain of eight dies. -/
theorem witness_swaps_and_windows :
    (let s := ordering 0 0
     (regionOf (2 ^ 40) = .far ∧ regionOf 0 = .near ∧ homeQuad (keyOf 0 (2 ^ 40)) = homeQuad (keyOf 0 0)) ∧
      ((s.quad 0).swaps.any (fun e => e.2.far == keyOf 0 (2 ^ 40) || e.2.near == keyOf 0 0) = false ∧
        (s.quad 0).swaps.any (fun e => e.2.far == keyOf 0 (2 ^ 40 + 65536)) = true ∧ (s.quad 0).swaps.any (fun e => e.1 == 1) = false ∧
        (s.quad 0).swaps.any (fun e => e.1 == 0) = true) ∧
      regionOf 65536 ≠ .far ∧ 0x30000 % 65536 = 0 ∧ 65536 ≤ 2 ^ 36 ∧ (0 ∈ s.domainDies) ∧ (3 ∉ s.domainDies) ∧ 2 ^ 57 ≤ 2 ^ 57 ∧ 0xFFFF < 0x10000 ∧
      ((s.die 0).windows.all fun z => z.1 == 2 || 0x20000 + 65536 ≤ z.2.base || z.2.base + z.2.size ≤ 0x20000) = false ∧
      ((s.die 0).windows.all fun z => z.1 == 2 || 0x30000 + 65536 ≤ z.2.base || z.2.base + z.2.size ≤ 0x30000) = true) := by decide +kernel

/-- A queue of the image that accepts the launches of address space 7, with room or full, or disabled. -/
def queued (en full : Bool) : State :=
  (ordering 0x10000 0).setHwQueue 0 9 { en := en, devok := true, asid := 7, log2 := 2, qaddr := 0x40000, qdie := 0, tail := if full then 7 else 5, oldest := 3 }

/-- For `MemoryCommands`, `LAUNCH`: a descriptor that can be read, poisoned and clean, and one that cannot. -/
theorem witness_launch :
    (let ag : Agent := { cl := 0, l := some 3, sp := (queued true false).here.space 5 false, win := .scratch }
     let reads := fun (s : State) (x : Nat) => (match (s.writeBackAll 0).agentRead ag x 256 with
       | .ok (u, bs, p) => (bs.length == 256, p, (u.queueOf 0 9).en && (u.queueOf 0 9).devok && (u.queueOf 0 9).asid == 7, (u.queueOf 0 9).free,
           populated ((u.queueOf 0 9).slotKey (u.queueOf 0 9).tail) && u.granted true ((u.queueOf 0 9).slotKey (u.queueOf 0 9).tail) 256)
       | .error (.fault _) => (false, false, false, 0, false)
       | .error _ => (false, true, true, 0, true) : Bool × Bool × Bool × Nat × Bool)
     reads (queued true false) 0x10000 = (true, false, true, 2, true) ∧ reads (queued false false) 0x10000 = (true, false, false, 2, true) ∧
      reads (queued true true) 0x10000 = (true, false, true, 0, true) ∧ (reads ((queued true false).setLinePois 0x20080 true) 0x10000).2.1 = true ∧
      reads (queued true false) 0x50000 = (false, false, false, 0, false) ∧ (queued true true).here.asid.setWidth 16 = (7 : BitVec 16)) := by decide +kernel

/-- For `CommandsEnd`: a command turned off, one whose token is pending, one whose token has failed. -/
theorem witness_tokens :
    (let i := Instr.stage true { tailA with c1 := 5 } 18
     let s := fun (k : Tok) => (ordering 0 0).updCtx 5 fun c => { c with tokens := mput 5 k c.tokens }
     i.wf = true ∧ tailFields i = some { tailA with c1 := 5 } ∧ gBitOf i = true ∧
      ([Tok.pending, .failed].all fun k => streamHeld 7 i (s k) == false && firstPoisoned (s k).here (srcSpecs i) == none &&
        streamsOk (s k) 7 true i && (s k).here.tok 5 == k && (s k).here.tok 7 == .complete) = true ∧
      ({ s .pending with cur := { cx := 5, off := true } } : State).cur.off = true ∧
      (steps (exec i { s .pending with cur := { cx := 5, off := true } }) fun t => t.here.tok tailA.prod == .complete && t.cmds == (s .pending).cmds) = true ∧ (s .pending).here.engrec = false ∧
      ((s .pending).here.makeToken 5 40).tok 5 = .pending ∧ mget 0 5 ((s .pending).here.makeToken 5 40).tokOf = 40) := by decide +kernel

/-- Command 9 of context 5, the form `i`, in progress. -/
def ending (x y : Nat) (i : Instr) (f : Command → Command) : State :=
  let s := (ordering x y).updCluster 0 fun k => { k with tlb := [tlbAt 0x10000 (leafOf 0 0 0x20000 0)] }
  { s with cmds := s.cmds ++ [(9, f { cx := 5, cl := 0, entry := s.entryNow 7 i })] }

/-- For `CommandsEnd`: each command is in progress, as its completion finds it. -/
theorem witness_endings :
    (commands.all fun i => match (ending 0x20 1 i id).cmd 9 with
      | some c => c.play.isNone && c.area.isNone && c.entry.instr == some i && tailFields i == some tailA && c.bound.isNone && !c.begun
      | none => false) = true := by decide +kernel

/-- For `CommandsEnd`: a descriptor of a ring, legal and not, one that cannot be read; entries of templates. -/
theorem witness_ending_reads :
    (let s := ending 0x10000 1 (.rinit false tailA 18 19 2) id
     let c : Command := { cx := 5, cl := 0, entry := s.entryNow 7 (.rinit false tailA 18 19 2) }
     let u := (s.homeWrite 0x20000 ([0x40, 0x10, 0, 0, 0, 0, 0, 0] ++ [0x40, 0, 0, 0, 10, 0, 0, 0] ++ 4 :: List.replicate 15 0) false)
     let reads := fun (s : State) (x n : Nat) => match s.agentRead (s.cmdAgent c .rings) x n with
       | .ok (_, bs, p) => !p && bs.length == n
       | .error _ => false
     let legal := fun (s : State) => match s.agentRead (s.cmdAgent c .rings) 0x10000 32 with
       | .ok (_, bs, _) => natOfBytes (bs.take 8) % 64 == 0 && natOfBytes ((bs.drop 8).take 4) == 64 && natOfBytes ((bs.drop 12).take 4) == 10
       | .error _ => false
     s.ringBound 0 (ringAt (some 3) 2) = false ∧ (ending 0 0 (.cpy false tailA 18 2) fun c => { c with bound := some (ringAt (some 3) 2, 0, 0) }).ringBound 0 (ringAt (some 3) 2) = true ∧ s.bad = none ∧ (c.entry.val 0).toNat = 0x10000 ∧
      reads s 0x10000 32 = true ∧ reads s 0x50000 32 = false ∧ reads s 0x10000 64 = true ∧ legal s = false ∧ legal u = true) := by decide +kernel

theorem witness_ending_others :
    (let w := ending 0 0 (.pinwin false tailA 18 19 17) fun c => { c with bound := some (0, 0, 3) }
     ((w.cmd 9).any fun c => c.bound == some (0, 0, 3)) = true ∧ (mget ({} : Pin) 0 (w.quad 0).pins).serial.toNat = 3 ∧
      (w.net.all fun x => !decide (x.1 < 0)) = true ∧ (w.ctxs.all fun x => x.2.held409 == []) = true ∧
      ((ending 0 0 (.swappg false tailA 18 19 17) fun c => { c with begun := true }).cmd 9).any (fun c => c.begun) = true) := by decide +kernel

/-! Bundles and the selector -/

/-- `dom` with its launch bound; template 9 of context 5 is `e`. -/
def issuing (e : BitVec 256) : State :=
  ({ dom 0x10000 3 with launches := [(3, { st := .bound })] }.updCtx 5 fun c => { c with pc := 100, tsize := 0 }).updCore 1 fun k =>
    { k with tmpl := [((dom 0 0).here.tbase + 9, e)] }

/-- `State.mayRun` and `State.issues`, decided. -/
def mayRunOk (s : State) (h : W32) : Bool :=
  s.mayIssue s.cur.cx && !s.mustSwitch (coreOf s.cur.cx) && s.bad.isNone && s.here.guard.isNone && !s.here.draining &&
    s.here.regs.pres.getLsbD (h.extractLsb' 17 5).toNat && !s.here.regs.pois.getLsbD (h.extractLsb' 17 5).toNat &&
    !s.here.energy.stallDue (grantOf (s.core (coreOf s.cur.cx)).bfw (s.cluster (clusterOf s.cur.cx)).limit) ((s.core (coreOf s.cur.cx)).weight h)

def issuesOk (s : State) (h : W32) : Bool := mayRunOk s h && s.here.sticky.isEmpty && !s.here.mid && h.extractLsb' 16 12 == 0

theorem mayRun_of {s : State} {h : W32} (x : mayRunOk s h = true) : s.mayRun h := by
  simp only [mayRunOk, Bool.and_eq_true, Bool.not_eq_true', Option.isNone_iff_eq_none] at x
  obtain ⟨⟨⟨⟨⟨⟨⟨h1, h2⟩, h3⟩, h4⟩, h5⟩, h6⟩, h7⟩, h8⟩ := x
  exact ⟨h1, h2, h3, h4, h5, h6, h7, h8⟩

theorem issues_of {s : State} {h : W32} (x : issuesOk s h = true) : s.issues h := by
  simp only [issuesOk, Bool.and_eq_true, Bool.not_eq_true', beq_iff_eq, List.isEmpty_iff] at x
  obtain ⟨⟨⟨h1, h2⟩, h3⟩, h4⟩ := x
  exact ⟨mayRun_of h1, h2, h3, h4⟩

/-- The template that a bundle of one op of a slot makes. -/
def called (hdr : W32) (slot : Nat) (i : Instr) : BitVec 256 := hdr.setWidth 256 ||| ((encodeParcel i).1.setWidth 256 <<< (32 * slot))

/-- For `Bundles`: a null bundle, a pair of scalar ops, a streaming op and a command, with and without repetitions. -/
theorem witness_bundles :
    ([0, 0x300, 0x30000006, 0x30000008, 0x30000010, 0x30000020, 0x30000040, 0x30000080].all fun h => issuesOk (issuing 0) h) = true ∧
    (let i := Instr.add false 0x11 0x12 0x13
     let j := Instr.sub false 0x14 0x12 0x13
     i.wf = true ∧ j.wf = true ∧ i.slots.contains 1 = true ∧ j.slots.contains 2 = true ∧ isNop i = false ∧ isNop j = false ∧ clash i j = false ∧
      decide ((issuing 0).runs false i) = true ∧ decide ((issuing 0).runs false j) = true) ∧
    (let h : W32 := 0x30000008
     let i := Instr.ld false 19 18 3 false 0
     let s := issuing (called h 3 i)
     let e : BitVec 256 := mget 0 (s.here.tbase + 9) (s.core 1).tmpl
     i.wf = true ∧ i.slots.contains 3 = true ∧ isNop i = false ∧ s.unallotted 5 i = none ∧ privileged i = false ∧ h.extractLsb' 0 8 = 2 ^ 3 ∧
      firstPoisoned s.here (srcSpecs i) = none ∧ streamHeld 3 i s = false ∧ (s.core 1).divider = none ∧ 9 < s.here.tmplEntries ∧
      e.extractLsb' 0 32 = h ∧ e.extractLsb' (32 * 7) 32 = 0 ∧ e.extractLsb' 96 32 = (encodeParcel i).1 ∧ s.here.tmplEntries ≤ 511 ∧
      (pcIdx s.here.pc + 6 ≤ 16384)) := by decide +kernel

/-- For `Bundles`: a load that a guard on `n2` leaves on and one that it turns off, one remembered in its slot, a later repetition; an op
of S0, turned off too, and branches beside the load. -/
theorem witness_bundles_of_one :
    (let ld := fun (g : Bool) => Instr.ld g 20 18 3 false 0
     let word := fun (i : Instr) => (encodeParcel i).1
     let at_ := fun (s : State) (units : Nat) (off : Bool) => { s with cur := { cx := 5, pc := s.here.pc, nxt := s.here.pc + units, off := off, slot := 0 } }
     let s := issuing 0
     let t := s.updCtx 5 fun c => { c with sticky := [(3, parcelOf (ld false))], mid := true, rcLeft := 1 }
     ([(0x30060108, s, true), (0x30070108, s, true), (0x30000008, s, false), (0x30000108, { t with ctxs := t.ctxs }, false)].all fun p : W32 × State × Bool =>
       mayRunOk p.2.1 p.1 && (p.2.1.decodeTrap 5 (fullBundleOf p.1 [word (ld p.2.2)])).isNone && !streamHeld 3 (ld p.2.2) p.2.1 &&
         firstPoisoned p.2.1.here (srcSpecs (ld p.2.2)) == none && p.2.1.here.sticky.all fun q => q.1 == 3) = true ∧
     (mayRunOk t 0x30000100 = true ∧ s.decodeTrap 5 (fullBundleOf 0x30000100 []) = none ∧ t.here.rcLeft = 1 ∧ ((0x30000100 : W32).extractLsb' 8 7).toNat = 1) ∧
     (s.here.regs.get 3).getLsbD 0 = true ∧
     (mayRunOk s 0x30000001 = true ∧ s.here.sticky = [] ∧ s.here.skipS0 = false ∧ (Instr.setf false 3).slots = [0] ∧
       s.decodeTrap 5 (fullBundleOf 0x30000001 [word (.setf false 3)]) = none ∧ s.decodeTrap 5 (fullBundleOf 0x30070001 [word (.setf true 3)]) = none ∧
       (at_ s 4 false).runs0 false (.setf false 3) ∧
       steps (exec (.setf false 3) (at_ s 4 false)) (fun t => t.here.sys == s.here.sys && t.here.phase == .running) = true ∧
       ([Instr.br false (-20), .brx false 40].all fun i => decide ((at_ s 4 false).runs0 false i) &&
         (s.decodeTrap 5 (fullBundleOf 0x30000009 [word i, word (ld false)])).isNone &&
         (0x30000009 : W32).extractLsb' 0 8 == BitVec.ofNat 8 (2 ^ 3 + 1)) = true) ∧
     steps (exec (.fullBundle 0x30000000 []) (s.updCtx 5 fun c => { c with sticky := [(3, parcelOf (ld false))] })) (fun t => t.here.ord == s.here.ord + 1 &&
       !t.here.regs.pres.getLsbD 4 && (t.here.queue 3).length == 1) = true) := by decide +kernel

/-- For `BundlesHeldOrIllegal`; the guard register absent, and poisoned. -/
theorem witness_held_bundles :
    (let s := (issuing 0).updCtx 5 fun c => { c with prog := { c.prog with pres := 0 } }
     let i := Instr.ld false 19 18 3 false 0
     let p := (issuing 0).updCtx 5 fun c => { c with prog := { c.prog with pois := 1 } }
     s.here.regs.pres.getLsbD 0 = false ∧ s.decodeTrap 5 (fullBundleOf 0 []) = none ∧ p.here.regs.pres.getLsbD 0 = true ∧ p.here.regs.pois.getLsbD 0 = true ∧
     p.here.draining = false ∧ p.here.energy.stallDue (grantOf (p.core 1).bfw (p.cluster 0).limit) ((p.core 1).weight 0) = false ∧ p.mayIssue 5 = true ∧
     steps (exec (.fullBundle 0 []) s) (fun t => t == s) = true ∧
     steps (exec (.fullBundle 0 []) p) (fun t => t.here.trapcause.extractLsb' 0 8 == 0x0B && t.here.sys) = true ∧
     s.mayIssue 5 = true ∧ s.mustSwitch 1 = false ∧ s.bad = none ∧ s.here.guard = none ∧ s.here.sticky = [] ∧ s.here.mid = false ∧ streamHeld 3 i s = true ∧ (0x10000 : W32).extractLsb' 16 12 ≠ 0 ∧ (0x10000 : W32).extractLsb' 0 8 = 0 ∧
      pcIdx s.here.pc + 4 ≤ 16384) := by decide +kernel

/-- For `IssueSelector`: the running context ready, or not; the quantum ended, or not; another ready, or none. -/
theorem witness_selector :
    (let s := issuing 0
     (s.core 1).running = 0 ∧ s.ready 4 = false ∧ s.ready 5 = true ∧ ((s.updCore 1 fun k => { k with running := 1 }).ready 5) = true ∧
      ([5, 6, 7].all fun j => (s.updCtx 5 fun c => { c with phase := .free }).ready j == false) = true ∧
      (let k := (s.updCore 1 fun k => { k with hasRun := true, quantum := 0 }).core 1
       k.hasRun = true ∧ k.quantum + 1024000 ≤ ({ s with now := 2000 } : State).millis 0 ∧ s.millis 0 < k.quantum + 1024000) ∧
      ((s.ctx 5).energy.stalls.head? ≠ some true ∧ s.bad = none ∧ coreOf s.cur.cx = 1) ∧
      (({ s.here with energy := { stalls := [true] } } : Ctx).energy.stalls.head? = some true)) := by decide +kernel

/-! The streaming queues -/

/-- `dom` where the op at the head of its queue is `i`, in a phase, with operand `x`; `f` changes the context besides. -/
def headed (slot : Nat) (i : Instr) (ph : EntryPhase) (x : Word) (f : Ctx → Ctx) : State :=
  let e : Entry :=
    { slot := slot, par := parcelOf i, vals := [x, x], cur := 0, cur2 := 0, rep := 2, pc := 33, ord := 40, sys := false, ckpt := false, fault := false,
      phase := ph, root := 1, asid := 7 }
  (issuing 0).updCtx 5 fun c => f { c with queues := [(slot, [e])], outs := [{ ord := 40, slot := slot, dst := .n false 7, val := none }] }

/-- That the head of a queue is as the event finds it. -/
def headOk (s : State) (slot : Nat) (i : Instr) (ph : EntryPhase) : Bool :=
  match s.here.queue slot with
  | e :: es => es.all (fun x => x.ord != e.ord) && e.slot == slot && e.instr == some i && e.phase == ph && !e.fault && !s.here.frozen && s.here.guard.isNone
  | [] => false

/-- For `StreamingEvents`: ops at the head of their queues, waiting, parked; ports with data and without; words FULL and EMPTY. -/
theorem witness_heads :
    (let vm := Instr.vmov false 9 1
     let pop := Instr.fpop false 0x17 20
     let push := Instr.fpush false 17 20
     let ldfe := Instr.ldfe false 0x17 17 3 false 2
     let dr := Instr.drain false 3
     headOk (headed 4 vm .queued 0 id) 4 vm .queued ∧ (headed 4 vm .queued 0 id).here.vvalid.getLsbD 1 = true ∧
      (let s := headed 4 vm .queued 0 id
       let w := headed 4 vm .queued 0 fun c => { c with outs := [{ ord := 39, slot := 3, dst := .v 9, val := none }] }
       (s.core 1).halt = .none ∧ s.here.vReady 40 1 = true ∧ s.here.vpois.getLsbD 1 = false ∧ (s.core 1).fillq = [] ∧
        ((s.here.queue 4).all fun e => s.here.vWritable e vm) = true ∧ ((w.here.queue 4).all fun e => w.here.vWritable e vm) = false) ∧
      (headOk (headed 3 pop (.parked 3) 0 id) 3 pop (.parked 3) && headOk (headed 3 push (.parked 3) 0 id) 3 push (.parked 3) &&
        headOk (headed 3 ldfe (.parked 3) 0 id) 3 ldfe (.parked 3) && headOk (headed 3 dr .queued 0 id) 3 dr .queued) = true ∧
      (let s := headed 3 pop (.parked 3) 0 id
       let k := s.cluster 0
       ((s.here.queue 3).all fun e => s.chosenFirst 0 3 (parkedWords (s.core 1) e) == false) = true ∧ k.modeFor s.here.launch 20 = 3 ∧ k.switching.getLsbD 20 = false ∧
        (k.fifo 20).length < fifoMax ∧ ((k.setFifo 20 [(7, true)]).fifo 20) = [(7, true)]) ∧
      (let a := effAddr (BitVec.ofNat 64 (inWindow 0x7F0)) 2 (2 ^ 3) 0
       let k := (headed 3 ldfe (.parked 3) 0 id).cluster 0
       a % 2 ^ 3 = 0 ∧ windowOff a = some 0x800 ∧ k.scratchOk (some 3) 0x800 (2 ^ 3) = true ∧ k.switchingIn 0x800 (2 ^ 3) = false ∧
        k.wordFull (0x800 / 8) = true ∧ k.wordFull (0x7F8 / 8) = false) ∧
      (headed 3 dr .queued 0 id).drained 5 40 = true) := by decide +kernel

/-- For `StreamingEvents`: writes of both levels and of a vector register, alone and with another due. -/
theorem witness_streaming_writes :
    (let o : Out := { ord := 40, slot := 4, dst := .n false 7, val := some { word := 77, status := 1 } }
     let s := headed 4 (.vmov false 9 1) .queued 0 fun c => { c with outs := [o, { o with ord := 41, dst := .v 9 }, { o with ord := 42, dst := .n true 31 }] }
     s.here.outs[0]? = some o ∧ (s.here.outs.all fun x => x == o || x.dst != o.dst) = true ∧ s.here.guard = none ∧
      ([3, 4, 5, 6].all fun slot => (s.here.queue slot).all fun x => decide (¬x.ord ≤ 39) &&
        x.instr.any (fun i => (vReads i).all fun y => y.toNat != 9)) = true) ∧
    (populated (areaKey 0x300000 + 4096 * 63) = true ∧ 63 < 64 ∧
      (let c := ({ (dom 0 0).here with savebase := 0x300000, vdirty := BitVec.allOnes 64 } : Ctx)
       c.vvalid.getLsbD 1 = true ∧ c.vdirty.getLsbD 1 = true ∧ mrising (mget [] 1 c.v) = true ∧ ((mget [] 1 c.v).all fun x => decide (x.1 < 1024)) = true ∧
        ({ c with vvalid := 0 } : Ctx).vvalid.getLsbD 1 = false)) := by decide +kernel

/-- For `StreamingEvents`: a fault noted, and a context that has retired. -/
theorem witness_trap_and_retirement :
    (let f : SFault := { slot := 4, ord := 40, trap := { cause := 0x0B, slot := 4 }, drop := false }
     let s := headed 4 (.vmov false 9 1) .queued 0 fun c => { c with sfault := [f] }
     s.here.sfault = [f] ∧ s.here.phase = .running ∧ (s.core 1).halt = .none ∧ (s.core 1).divider = none ∧
      (((s.here.queue 4).find? fun x => x.ord = f.ord).isSome) = true ∧ s.here.sys = false ∧ s.here.trapvec.getLsbD 15 = true) ∧
    (let s := (issuing 0).updCtx 5 fun c => { c with phase := .retiring, accbanks := 0x1FF }
     s.retired 5 = true ∧ (issuing 0).retired 5 = false ∧ s.here.guard = none ∧ (s.die 0).benches = [] ∧ s.here.accbanks.getLsbD 8 = true ∧
      ((s.setEngine 0 17 { st := .leased, cx := 5 }).engine 0 17).st = .leased ∧ 17 < 96) := by decide +kernel

/-- For `StreamingEvents`: an op of each slot that issues alone. -/
theorem witness_alone :
    ([(3, Instr.ld false 19 18 3 false 0), (4, .vins false 1 18 18 0), (5, .mwsel false true), (6, .aclr false 0 0), (7, .stage false tailA 18)].all fun p =>
      p.2.slots.contains p.1 && streamsOk (issuing 0) p.1 false p.2 && !(issuing 0).here.frozen) = true ∧ (issuing 0).mayStart7 5 = true := by decide +kernel

/-! Copies, leases and engines -/

/-- Command 9 of context 5, `i` with `n3` = 0x200080, at the head of copy channel 4, of engine `eng` and of the bank queue, on a page of 2 MiB
at 0x200000; each of `puts` is an offset in the page, a size and the value there. `f` changes the command. -/
def atWork (i : Instr) (eng : Nat) (f : Command → Command) (puts : List (Nat × Nat × Nat)) : State :=
  let s := { dom 0x200000 0x200080 with nextCmd := 10, launches := [(3, { st := .bound })] }
  let s := { s with cmds := [(9, f { cx := 5, cl := 0, entry := s.entryNow 7 i })] }
  let s := s.updCluster 0 fun k =>
    { k.setChan 4 [9] with bankq := [9], switching := 0x00000003, tlb := [{ asid := 7, lo := 0x200000, bits := 21, leaf := leafOf 0 0 0x200000 0 }] }
  let s := s.setEngine 0 eng { st := .leased, cx := 5, queue := [9] }
  { puts.foldl (fun s p => s.homeWrite (keyOf 0 (0x200000 + p.1)) (bytesOfNat p.2.1 p.2.2) false) s with quads := [] }

def cmd9 (s : State) : Command := (s.cmd 9).getD { cx := 0, cl := 0, entry := s.entryNow 7 (.mwsel false true) }

/-- A copy of two elements of eight bytes. -/
def copied : State := atWork (.cpy false tailA 18 4) 0 id [(0, 8, 0x200400), (8, 8, 0x200500), (0x10, 8, 7), (0x40, 4, 2), (0x48, 8, 8), (0x50, 8, 8)]

/-- That `n` elements are read and written one after the other, as the chain of states of the statements has it. -/
def chainOk (rd : Nat → State → Except EngErr (State × List Byte × Bool)) (wr : Nat → State → List Byte → Bool → Except EngErr State) :
    Nat → Nat → State → Bool
  | 0, _, _ => true
  | n + 1, i, s =>
    match rd i s with
    | .ok (u, bs, p) =>
      match wr i u bs p with
      | .ok v => chainOk rd wr n (i + 1) v
      | .error _ => false
    | .error _ => false

/-- For `CopyEvents`: descriptors that can be read and not, legal and not; elements that can be moved; a switch in progress. -/
theorem witness_copies :
    (let s := copied
     let c := cmd9 s
     let a := s.cmdAgent c (s.copyWin c)
     let reads := fun (s : State) (x n : Nat) => match s.agentRead a x n with
       | .ok (_, bs, p) => (bs, p)
       | .error _ => ([], true)
     c.play = none ∧ c.area = none ∧ c.begun = false ∧ c.moved = 0 ∧ c.bound = none ∧ (s.cluster 0).chan 4 = [9] ∧ c.entry.instr.bind tailFields = some tailA ∧
      (parseCopy (reads s 0x200000 256).1).any (fun d => d.ring == none && d.conv == 0 && d.dims.length == 1 && d.esize == 8) = true ∧
      parseCopy (reads (atWork (.cpy false tailA 18 4) 0 id []) 0x200000 256).1 = none ∧ (reads s 0x400000 256) = ([], true) ∧
      ((0x200400 + 8) % 8 = 0 ∧ portOf (0x200400 + 8) = none) ∧
      chainOk (fun i u => u.agentRead a (0x200400 + 8 * i) 8) (fun i u bs p => u.agentWrite a (0x200500 + 8 * i) bs p false) 2 0 s = true) := by decide +kernel

/-- For `CopyEvents`: a ring with room, one booked full, one too small; a copy into a slot; the last credit and one before it. -/
theorem witness_ring_copies :
    (let r : Ring := { nslot := 4, cons := 2, valid := true, base := 0x880, slotsz := 64, target := 10 }
     let s := (atWork (.cpy false tailA 18 4) 0 (fun c => { c with begun := true }) []).updCluster 0 fun k => k.setRing (ringAt (some 3) 3) r
     let a := s.cmdAgent (cmd9 s) (s.copyWin (cmd9 s))
     r.filled.toNat < r.nslot.toNat ∧ r.booked.toNat + 10 ≤ r.target.toNat ∧ r.target.toNat < 11 ∧ r.target.toNat < ({ r with booked := 1 } : Ring).booked.toNat + 10 ∧
      ((s.cluster 0).ring (ringAt (some 3) 3)).valid = true ∧ a.l = some 3 ∧ (s.launch 3).rings ≤ 3 ∧
      3 < ({ (s.launch 3) with image := List.replicate 256 0xFF } : Launch).rings ∧ (r.arrive.toNat + 10 = r.target.toNat ∧ r.arrive.toNat + 9 ≠ r.target.toNat) ∧
      chainOk (fun i u => u.agentRead a (0x200400 + 8 * i) 8) (fun i u bs p => u.agentWrite a (windowBase + 0x880 + 8 * i) bs p false) 2 0 s = true) ∧
    (let d := fun (n : Nat) => (parseCopy (bytesOfNat 16 0x200400 ++ bytesOfNat 8 (7 + 2 ^ 11 + 3 * 2 ^ 12) ++ List.replicate 8 0 ++ bytesOfNat 32 n ++
        bytesOfNat 24 (1 + 8 * 2 ^ 64) ++ List.replicate 168 0))
     (d 10).any (fun d => d.ring == some 3 && d.credit == 10) = true) := by decide +kernel

/-- For `CopyEvents`: a switch of two banks that no dirty line delays. -/
theorem witness_switch :
    (let k := (atWork (.bankcfg false tailA 18 2) 0 id []).cluster 0
     k.bankq = [9] ∧ k.cache = [] ∧ k.switching.getLsbD 1 = true ∧ k.switching.getLsbD 2 = false ∧ mwf (0 : Byte) k.scratch = true ∧
      k.switching.getLsbD (bankOfOff 0) = true) := by decide +kernel

/-- For `CopyEvents`: no other byte of a switched bank stands behind a parity byte. -/
theorem witness_parity (q : Nat) : mget (0 : Byte) q ({} : Cluster).scratch = 0 := rfl

/-- A launch whose playbook of two entries in cluster 0 starts at 0x200000; the first entry's stage is `st`. -/
def played (st : Nat) : State :=
  let s := atWork (.cpy false tailA 18 4) 0 id [(0x28, 4, st)]
  { s with launches := [(3, { st := .bound, root := 1, asid := 7, cores := [1], image := List.replicate 0x38 0 ++ bytesOfNat 8 0x200000 ++ List.replicate 0xC0 0,
                              pb := [(0, [2, 0, 0, 0])] })] }

/-- For `CopyEvents`: entries of a playbook whose stage has come and has not; rings ready and not. -/
theorem witness_playbook :
    (let s := played 1
     let x := s.launch 3
     let y := mget ({} : Play) 3 (s.cluster 0).plays
     let a : Agent := { cl := 0, l := some 3, sp := { core := none, cl := 0, root := x.root, asid := x.asid, prog := true }, win := .scratch }
     let reads := fun (s : State) (at_ : Nat) => match s.agentRead a at_ 16 with
       | .ok (_, bs, _) => bytesNum bs 8 4
       | .error _ => 99
     x.st = .bound ∧ s.quiescing 0 3 = false ∧ x.clusterList.contains 0 = true ∧ y.again = [] ∧ y.next < x.pbCount 0 ∧ x.num 0x38 8 + 0x20 + 16 * y.next = 0x200020 ∧
      reads s 0x200020 = 1 ∧ reads (played 0) 0x200020 = 0 ∧ reads s 0x400020 = 99 ∧ y.stage = 0 ∧ ((s.cluster 0).chan 0).length < 16) ∧
    (let i := Instr.rawait false tailA 16 3
     let s := headed 7 i .watching 0 id
     let r : Ring := { nslot := 4, cons := 2, valid := true, rp := 3, gen := 7, filled := 1 }
     s.here.frozen = false ∧ ((s.here.queue 7).all fun e => e.phase == .watching && e.instr == some i) = true ∧ r.valid = true ∧ 0 < r.filled.toNat ∧
      (mget 0 3 s.here.marks).getLsbD 31 = false ∧ ((s.cluster 0).ring (ringAt (some 3) 3)).valid = false) := by decide +kernel

/-- For `LeaseEvents`: engines of a kind warm, asleep and none; one past its threshold; one reserved, waking, warm long enough and not. -/
theorem witness_engine_states :
    (let i := Instr.lease false tailA 18 1 2
     let s := atWork i 0 id []
     let e := fun (x : Engine) => s.setEngine 0 17 x
     (s.cmd 9).any (fun c => c.entry.instr == some i && dieOf c.cx == 0 && c.area == none && !c.begun && c.since + 16 == ({ s with now := 16 } : State).now &&
        s.cmds.filter (fun e => e.2.isLease && !e.2.begun && dieOf e.2.cx = 0 && e.2.since ≤ c.since) == [(9, c)] && s.now < c.since + 16) = true ∧ (s.die 0).benches = [] ∧
      ((e { st := .warm }).engine 0 17).st = .warm ∧ (s.engine 0 16).st = .asleep ∧ (s.die 0).awake < ((s.updDie 0 fun d => { d with budget := 8 }).die 0).budget ∧
      (let u := s.updDie 0 fun d => { d with engines := (List.range 16).map fun n => (16 + n, { st := .leased, prio := 3 }) }
       (List.range 16).all fun m => (u.engine 0 (16 + m)).st == .leased && decide (2 ≤ (u.engine 0 (16 + m)).prio)) = true ∧
      (let x : Engine := { st := .leased, since := 0, prio := 1 }
       x.area = none ∧ x.since + 8192 ≤ ({ s with now := 8192 } : State).now ∧ x.prio < 2 ∧ x.queue = [] ∧ 17 / 16 = 1) ∧
      ((List.range 16).all fun m => m == 1 || ((s.updDie 0 fun d => { d with engines := (List.range 16).map fun n =>
        (16 + n, { st := .leased, prio := 3 }) }).engine 0 (16 + m)).st == .leased) = true ∧
      ((e { st := .reserved, req := 9, ready := 64 }).cmd ((e { st := .reserved, req := 9, ready := 64 }).engine 0 17).req).isSome = true ∧
      (e { st := .reserved, ready := 64 }).now < 64 ∧ ((e { st := .waking }).engine 0 17).st = .waking ∧ ((e { st := .aborting }).engine 0 17).st = .aborting ∧
      mget [] 1 ((s.updDie 0 fun d => { d with benches := [(1, [9])] }).die 0).benches = [9] ∧
 ((e { st := .warm, since := 0 }).die 0).heldWarm 1 = false ∧
      ((s.updDie 0 fun d => { d with warmReqs := [(1, [5])] }).die 0).heldWarm 1 = true) := by decide +kernel

/-- A stream of 128 rows of zeros, byte sparse, named at an offset of the page. -/
def sparse (at_ : Nat) : List (Nat × Nat × Nat) := [(at_, 8, 0x201000), (at_ + 8, 8, 2048), (at_ + 16, 4, 1)]

/-- For `LeaseEvents`: a weight stream that decodes, its half empty and full. -/
theorem witness_weight_stream :
    (let s := atWork (.wstr false tailA 18 19 true) 2 id (sparse 0x80)
     let c := cmd9 s
     s.engHead 0 2 = some (9, c) ∧ c.area = none ∧ s.earlierWstr 9 c = false ∧ c.entry.ckpt = false ∧
      (match s.readStream { s.cmdAgent c .scratch with sp := { (s.cmdAgent c .scratch).sp with prog := true } } (c.entry.val 1).toNat with
       | .ok (_, some rows, len, _) => rows.length == 128 && len == 2048
       | _ => false) = true ∧
      (s.core 1).arr.full1 = false ∧ ({ (s.core 1).arr with full1 := true } : MatArray).full1 = true) := by decide +kernel

/-- The engine 0 of a kind is about to run a command whose descriptor at 0x200080 names the function; each of `fields` is an offset in the descriptor. -/
def engined (kind func : Nat) (fields puts : List (Nat × Nat × Nat)) : State :=
  atWork (.lcmd false tailA 18 19) (16 * kind) (fun c => { c with entry := { c.entry with vals := [BitVec.ofNat 64 (0x200000 + 16 * kind), 0x200080] } })
    ((0x80, 1, kind) :: (0x81, 1, func) :: fields.map (fun p => (p.1 + 0x80, p.2)) ++ puts)

/-- `State.engineRuns`, decided; with its descriptor a property of it. -/
def runsOk (s : State) (kind func : Nat) (p : State → Agent → List Byte → Bool) : Bool :=
  let c := cmd9 s
  let a := s.cmdAgent c .scratch
  match s.agentRead a c.descAddr1 128 with
  | .ok (s1, bs, _) => s.engHead 0 (16 * kind) == some (9, c) && !c.isWstr && engKind (16 * kind) == kind && !c.begun && c.fail.isNone &&
      bytesNum bs 0 1 == kind && bytesNum bs 1 1 == func && bytesZero bs 2 8 && bytesNum bs 8 8 % 8 == 0 && p s1 a bs
  | .error _ => false

/-- The values of an array that a command reads. -/
def arrayOf (s : State) (a : Agent) (base n k : Nat) : List Nat :=
  match State.agentArray a base n 0 k s with
  | .ok (_, l) => l.map Prod.fst
  | .error _ => []

/-- The same bytes written at `n` places one after the other. -/
def writesOk (a : Agent) (at_ : Nat → Nat) (bs : List Byte) (s : State) (n : Nat) : Bool :=
  chainOk (fun _ u => .ok (u, bs, false)) (fun i u bs p => u.agentWrite a (at_ i) bs p false) n 0 s

def srcDst : List (Nat × Nat × Nat) := [(0x10, 8, 0x200400), (0x18, 8, 0x200600)]

/-- For `EngineFunctions`: a decompression (its stream decodes as `witness_weight_stream` shows), all rows written. -/
theorem witness_dcx :
    runsOk (engined 0 0 [(0x10, 8, 0x200440), (0x18, 8, 0x204000)] (sparse 0x440)) 0 0 (fun s a bs =>
      bytesNum bs 0x10 8 % 64 == 0 && bytesNum bs 0x18 8 % 64 == 0 && bytesZero bs 0x20 0x80 && writesOk a (fun i => 0x204000 + 128 * i) (List.replicate 128 0) s 128 &&
        writesOk a (fun i => 0x208000 + 8 * i) (List.replicate 8 0) s 128) = true := by decide +kernel

/-- For `EngineFunctions`: a sort of two keys with their numbers, gathers and scatters with an index past the limit, all written. -/
theorem witness_sort_and_gather :
    runsOk (engined 1 0 (srcDst ++ [(0x20, 8, 0x200700), (0x28, 4, 2), (0x2C, 4, 2), (0x31, 1, 1)]) [(0x400, 4, 5)]) 1 0 (fun s a bs =>
      bytesZero bs 0x32 0x80 && arrayOf s a 0x200400 (keySize 0) 2 == [5, 0] && writesOk a (fun i => 0x200600 + keySize 0 * i) (bytesOfNat (keySize 0) 5) s 2 &&
        writesOk a (fun i => 0x200700 + 4 * i) (bytesOfNat 4 1) s 2) = true ∧
    ([0, 1].all fun f => runsOk (engined 2 f (srcDst ++ [(0x20, 8, 0x200700), (0x28, 4, 2), (0x2C, 4, 8), (0x30, 1, 4), (0x38, 8, 3)]) [(0x700, 4, 3), (0x704, 4, 2)]) 2 f
      fun s a bs => bytesZero bs 0x31 0x38 && bytesZero bs 0x40 0x80 && arrayOf s a 0x200700 4 2 == [3, 2] &&
        chainOk (fun i u => u.agentRead a (0x200400 + 8 * i) 8) (fun i u bs p => u.agentWrite a (0x200600 + 8 * i) bs p false) 3 0 s) = true := by decide +kernel

/-- For `EngineFunctions`: a row of two values, one with a NaN, both written; checksums of 8 bytes. -/
theorem witness_softmax_and_hashes :
    ([0x3F800000, 0x7FC00000].all fun x => runsOk (engined 3 0 (srcDst ++ [(0x28, 4, 1), (0x2C, 4, 2), (0x40, 4, 0x3F800000)]) [(0x400, 4, x)]) 3 0 fun s a bs =>
      bytesNum bs 0x20 8 == 0 && bytesZero bs 0x46 0x80 && arrayOf s a (wrap64 0x200400) 4 2 == [x, 0] && (fp32.decode x).isNan == (x == 0x7FC00000) &&
        writesOk a (fun i => wrap64 0x200600 + 4 * i) [1, 2, 3, 4] s 2) = true ∧
    ([0, 1].all fun f => runsOk (engined 4 f [(0x10, 8, 0x200400), (0x18, 8, 8), (0x20, 8, 0x200600)] []) 4 f fun s a bs =>
      bytesZero bs 0x2C 0x80 && bytesNum bs 0x28 4 == 0 && (match s.agentRead a 0x200400 8 with
        | .ok (_, l, _) => l.length == 8
        | .error _ => false) && writesOk a (fun _ => 0x200600) (List.replicate (if f = 0 then 4 else 32) 1) s 1) = true := by decide +kernel

/-- For `EngineFunctions`: a reduction of two members on one die, one of them joined already. -/
theorem witness_reduction :
    (let f := [(0x10, 8, 0x200400), (0x18, 8, 0x200600), (0x20, 4, 1), (0x28, 8, 0x200700), (0x30, 4, 77), (0x34, 2, 2)]
     let s := engined 5 0 f []
     runsOk s 5 0 (fun s1 a bs => redOk bs && match s1.agentRead a (bytesNum bs 0x28 8) (2 * bytesNum bs 0x34 2) with
       | .ok (s2, ms, _) =>
         let c := cmd9 s2
         let all := bs ++ ms
         let other := { c with begun := true, desc := bs.take 0x36 ++ [1, 0] ++ bs.drop 0x38 ++ ms }
         let s3 := s2.setCmd 9 { c with begun := true, desc := all }
         let s4 := ({ s3 with cmds := s3.cmds ++ [(10, other)] } : State).setEngine 0 81 { st := .leased, cx := 5, queue := [10] }
         let j := s4.redJoined all
         let t := redTag all
         (s4.takeFailed t 0).isNone && ({ s4 with redFails := [(t, [0])] }.takeFailed t 0).isSome &&
         ((s4.setCmd 10 { other with desc := other.desc.set 0x20 9 }).redJoined all).any (fun m => redKey m.2.2.2.desc != redKey all) &&
         c.result.isNone && (s3.redJoined all).length == 1 && j.length == 2 && j.all (fun m => redKey m.2.2.2.desc == redKey all) &&
           (List.range 2).all (fun r => (j.find? fun m => bytesNum m.2.2.2.desc 0x36 2 == r && m.1 == bytesNum all (0x80 + 2 * r) 2).isSome) &&
           (match s4.reduceAll j all with
            | .ok _ => true
            | .error _ => false)
       | .error _ => false) = true) := by decide +kernel

/-- For `EngineFunctions`: streams, masks and sums at their ends; commands that end with a result, one failed, one of another kind. -/
theorem witness_engine_ends :
    (List.replicate 16384 ((0 : Byte), false)).length = 16384 ∧ ([true, false, true].count true = [5, 6].length) ∧
    ([2 ^ 32 - 1, 1].all fun x => decide (x < 2 ^ (8 * redSize 3))) = true ∧
    (let s := engined 4 0 [(8, 8, 0x200600)] []
     s.engHead 0 64 = some (9, cmd9 s) ∧ (cmd9 s).isWstr = false ∧ (cmd9 s).fail = none ∧ writesOk (s.cmdAgent (cmd9 s) .scratch) (fun _ => 0x200600) (bytesOfWord 8 1) s 1 = true ∧
      bytesNum (({ cmd9 s with desc := List.replicate 128 0 } : Command).desc) 8 8 = 0) ∧
    (let s := atWork (.lcmd false tailA 18 19) 16 id [(0x80, 1, 3)]
     (match s.agentRead (s.cmdAgent (cmd9 s) .scratch) (cmd9 s).descAddr1 128 with
      | .ok (_, bs, _) => bytesNum bs 0 1 != 16 / 16
      | .error _ => false) = true) := by decide +kernel

/-! Memory and requests on their own -/

/-- For `MemoryEvents`: a line present and one not; a die shed and not; a pin touched, one that fades, one that ends. -/
theorem witness_quadrants :
    (let s := ordering 0 0
     homeQuad 0x20000 = homeQuad 0x20000 ∧ isHost 0x20000 = false ∧ s.present 0x20000 = false ∧
      (s.updQuad (homeQuad 0x20000) fun z => { z with present := [(lineOf 0x20000, true)] }).present 0x20000 = true ∧
      ((s.quad (homeQuad 0x20000)).inSet 0x20000).length < 16 ∧
      (let ks := (List.range 16).map fun i => (0x20000 + 2 ^ 25 * (i + 1), false)
       16 ≤ (({ present := ks } : Quad).inSet 0x20000).length ∧ ({ present := ks } : Quad).pinned (0x20000 + 2 ^ 25) = false) ∧
      (s.die 0).shed = false ∧ ((s.updDie 0 fun d => { d with shed := true }).die 0).shed = true ∧
      ({ valid := true, count := 1 } : Pin).count - 1 = 0 ∧ granuleQuad 0 ≠ granuleQuad (2 ^ 20)) ∧
    (let z := (ordering 0 0).quad 0
     ((z.swaps.find? fun e => e.1 == 0).any fun e => decide (e.2.done + 1 < 512)) = true ∧ 511 + 1 = 512 ∧
      (granuleOf (keyOf 0 (2 ^ 40 + 65536))).isSome = true ∧ (granuleOf (keyOf 0 65536)).isSome = true ∧
      granuleOf (keyOf 0 (2 ^ 40 + 65536)) ≠ granuleOf (keyOf 0 65536)) ∧
    (((ordering 0 0).cluster 0).mode (bankOfOff (8 * 0x100)) = 1 ∧ 0x100 < 2 ^ 20) ∧
    (∀ i < 8, ((ordering 0 0).cluster 0).mode (bankOfOff (8 * (0x100 + i))) = 1 ∧ 0x100 + i < 2 ^ 20) := by decide +kernel

/-- Request 1 of context 5, of a kind and at a stage, for a doubleword of die 1; `f` changes the request. -/
def requested (i : Instr) (kind : PktKind) (stage : PktStage) (f : Packet → Packet) : State :=
  let e : Entry :=
    { slot := 3, par := parcelOf i, vals := [0x15000, 5, 7], cur := 0, cur2 := 0, rep := 0, pc := 0, ord := 39, sys := false, ckpt := false, fault := false,
      phase := .sent 1 }
  let x : Packet :=
    { cx := 5, die := 0, home := 1, kind := kind, entry := e, pieces := [{ place := .mem (keyOf 1 0x25000) 1, len := 8 }], bytes := [1, 2, 3, 4, 5, 6, 7, 8],
      stage := stage }
  { (dom 0x15000 5).updCtx 5 fun c => { c with queues := [(3, [e])] } with net := [(1, f x)], nextPkt := 2 }

def pkt1 (s : State) : Packet := (s.pkt 1).getD { cx := 0, die := 0, home := 0, kind := .load, entry := s.entryNow 3 (.mwsel false true), pieces := [] }

/-- That request 1 is of an op and a stage, its entry at the head of the queue. -/
def pktOk (s : State) (i : Instr) (kind : PktKind) (stage : PktStage) : Bool :=
  let x := pkt1 s
  s.pkt 1 == some x && x.kind == kind && x.stage == stage && x.entry.instr == some i && !s.behindInFlow 1 x &&
    match s.here.queue 3 with
    | y :: _ => y.ord == x.entry.ord && y.phase == .sent 1
    | [] => false

/-- For `RequestEvents`: loads, stores, atomics and timed accesses at home and answered. -/
theorem witness_requests_at_home :
    (let ld := Instr.ld false 20 19 3 false 0
     let st := Instr.st false 18 19 3 0
     let fa := Instr.afadd false 20 19 18 true
     let stt := Instr.stt false 18 19 18 3 true
     (pktOk (requested ld .load .going id) ld .load .going && pktOk (requested st .store .going id) st .store .going &&
       pktOk (requested fa .atomic .going id) fa .atomic .going && pktOk (requested stt .transit .going id) stt .transit .going &&
       pktOk (requested st .store .performed id) st .store .performed && pktOk (requested fa .atomic .performed id) fa .atomic .performed &&
       pktOk (requested stt .transit .performed id) stt .transit .performed && pktOk (requested ld .load (.parked 0) id) ld .load (.parked 0) &&
       pktOk (requested st .store (.parked 0) id) st .store (.parked 0)) = true ∧
      (let s := requested ld .load .going id
       let x := pkt1 s
       x.windowed = false ∧ (s.die x.home).shed = false ∧ ((s.updDie 1 fun d => { d with shed := true }).die 1).shed = true ∧ s.here.guard = none ∧
        (s.readPieces 5 true x.pieces).isSome = true ∧ (s.writePieces 5 true x.poison x.pieces x.bytes).isSome = true ∧ x.leads = [] ∧
        ((s.homeRead (keyOf 1 0x25000) 8).any fun r => !r.2.2) = true ∧ x.custody = none ∧ x.lost = false ∧ x.acked = false ∧ x.late = 0 ∧
        x.sentAt + 16000 ≤ ({ s with now := 16000 } : State).now ∧ s.now < x.sentAt + 16000 ∧ 50000000 ≤ ({ s with now := 50000000 } : State).now ∧
        (pkt1 (requested ld .load .going fun x => { x with invalid := true, late := 1, custody := some 0, replyPoison := true })).invalid = true)) := by
  decide +kernel

/-- For `RequestEvents`: a packet of a tile that others are gathered with, and the last one; a store that writes a whole line. -/
theorem witness_gathered :
    (let vld := Instr.vld false 2 19 20 0
     let s := requested vld .load .going fun x => { x with gather := some (4, 0) }
     let g : Gather := { cx := 5, entry := (pkt1 s).entry, left := 2, parts := [], poison := false }
     let t := { s with gathers := [(4, g)] }
     pktOk t vld .load .going = true ∧ (pkt1 t).gather = some (4, 0) ∧ t.gathers.find? (fun j => j.1 == 4) = some (4, g) ∧ g.left ≠ 1 ∧
      ({ g with left := 1 } : Gather).left = 1 ∧
      ((t.readPieces 5 true (pkt1 t).pieces).any fun r => r.1.here == t.here && r.1.gathers == t.gathers) = true) ∧
    (let st := Instr.st false 18 19 3 0
     let s := requested st .store .going fun x => { x with whole := true }
     (pkt1 s).whole = true ∧ (pkt1 s).pieces.length = 1 ∧ (s.writePieces 5 true false (pkt1 s).pieces (pkt1 s).bytes).isSome = true) := by decide +kernel

/-- For `RequestEvents`: a timed store early and late at a quadrant with room and a full one; a timed store and a timed load due. -/
theorem witness_transits :
    (let stt := Instr.stt false 18 19 18 3 true
     let s := requested stt .transit .going id
     let t : Transit := { pkt := 1, store := true, time := 7, key := keyOf 1 0x25000, bytes := [1] }
     let at_ := fun (ms : Nat) => ({ s with now := ms } : State).mt 1
     ((pkt1 s).entry.val 2).toNat = 7 ∧ at_ 0 ≤ 7 ∧ 7 < at_ 8 ∧ at_ 7 = 7 ∧
      ((s.quad 4).readAt ≠ some 7 ∧ ((s.updQuad 4 fun y => { y with readAt := some 7 }).quad 4).readAt = some 7) ∧ (pkt1 s).bytes ≠ [] ∧ homeQuad (keyOf 1 0x25000) / 4 = (pkt1 s).home ∧
      (pktOk (requested stt .transit .accepted id) stt .transit .accepted) = true ∧ (s.quad (homeQuad (keyOf 1 0x25000))).transit.length < 256 ∧
      256 ≤ ((s.updQuad 4 fun y => { y with transit := List.replicate 256 t }).quad 4).transit.length ∧
      (((s.updQuad 4 fun y => { y with transit := [t] }).quad 4).transit.all fun u => u.pkt == 1 && u == t && decide (u.time ≤ at_ 8)) = true ∧
      ((s.updQuad 4 fun y => { y with transit := [{ t with store := false }] }).quad 4).transit.all (fun u => !u.store) = true ∧
      (pktOk (requested (.ldnb false 20 19 18 3 false) .transit .accepted id) (.ldnb false 20 19 18 3 false) .transit .accepted) = true ∧
      ((s.homeRead (keyOf 1 0x25000) 8).isSome) = true) ∧
    (let dr := Instr.drain false 3
     headOk (headed 3 dr .queued 0 id) 3 dr .queued = true ∧
      ({ headed 3 dr .queued 0 id with net := (requested (.st false 18 19 3 0) .store .going id).net } : State).drained 5 40 = false) := by decide +kernel

/-- For `RequestEvents`: a `WAITA` that watches a word that meets its condition, and one that does not. -/
theorem witness_watching :
    (let i := Instr.waita false 20 19 18 true 0
     [(1 : Word), 2].all fun w =>
       let s := headed 3 i .watching 0x10000 id
       let y := s.here.queue 3
       headOk s 3 i .watching && (y.all fun y => y.slot == 3) &&
         y.all fun y => planned (s.planScalar 5 y .memOnly .read (wrap64 0x10000) 8) fun x =>
           !x.1.homeShed x.2 && (x.1.updDie 0 fun d => { d with shed := true }).homeShed x.2 == (homeDie ((x.2.key).getD 0) == 0) && !x.1.refused 5 false x.2 && ((x.1.bypass 5 false x.2).homeReadPiece 5 x.2).any fun r =>
             !r.2.2 && r.1.here == s.here && (waitaHolds 0 64 (natOfBytes r.2.1) (2 ^ 57 + 2 - w.toNat) == (w == 1))) = true := by decide +kernel

/-! Links, merged requests, meridian time, the scheduler -/

/-- A request of die 0 in a reduction window of die 1 that stands at die 0's router; `h` is the table of huddles there. -/
def windowed (f : Packet → Packet) (h : Map HudEntry) : State :=
  let s := requested (.afadd false 20 19 18 true) .atomic .going fun x => f { x with windowed := true, sum := 5 }
  { s.updDie 0 (fun d => { d with huddle := h, mtOfs := 3 }) with extents := (2, 2, 2) }

/-- For `FabricEvents`: requests that arrive at a router with an entry free, open, and full; one that goes on; a lead that splits its reply. -/
theorem witness_huddles :
    (let e : HudEntry := { lead := 1, port := 1, isOpen := true, sum := 5, cell := ⟨0, 0, 0⟩, recs := [], copies := 2 }
     let s := windowed id []
     let x := pkt1 s
     let y := { x with arrived := true }
     s.pkt 1 = some x ∧ x.windowed = true ∧ x.stage = .going ∧ x.arrived = false ∧ x.place = 0 ∧ s.openEntry 0 y = none ∧
      (windowed id [(0, e)]).openEntry 0 y = some (0, e) ∧ e.recs.length < 7 ∧
      7 ≤ ({ e with recs := List.replicate 7 { pkt := 1, port := 0, pre := 0, copies := 2 } } : HudEntry).recs.length ∧
      (s.nextHop 0 1 []).isSome = true ∧ (windowed (fun x => { x with arrived := true }) []).openEntry 1 { y with place := 1 } = none ∧ x.leads = [] ∧
      (let r : HudRec := { pkt := 2, port := 0, pre := 3, copies := 1 }
       let t := windowed (fun x => { x with stage := .performed, leads := [(0, 4)] }) [(4, { e with recs := [r], copies := 1 })]
       let u : State := { t with net := t.net ++ [(2, { pkt1 t with leads := [] })] }
       (pkt1 u).stage = .performed ∧ (pkt1 u).leads = [(0, 4)] ∧ (pkt1 u).lost = false ∧
        ((u.die 0).huddle.find? (fun h => h.1 == 4)).any (fun h => h.2.recs == [r] && decide (0 < h.2.copies)) = true ∧ (u.pkt 2).isSome = true ∧
        0 < r.copies ∧ ({ r with copies := 0 } : HudRec).copies = 0)) := by decide +kernel

/-- For `FabricEvents`: ports and widths, a grandmaster and another die, a die in discipline and one out of it; numbers acknowledged. -/
theorem witness_links_and_time :
    (5 < 6 ∧ 255 < 256) ∧ mrising (windowed id []).net = true ∧ ({ dom 0 0 with grandmasters := [0, 0x100] } : State).grandmasters.head? = some 0 ∧
    (dom 0 0).die 0 = (dom 0 0).die 0 ∧ ((dom 0 0).die 0).mtskew.getLsbD 0 = true ∧ ((dom 0 0).die 1).mtskew.getLsbD 0 = false ∧
    (let x := pkt1 (windowed (fun x => { x with stage := .performed, seq := 63 }) [])
     (x.die = 0 ∧ x.home = 1 ∧ x.stage ≠ .going ∧ (0x8000000000000000 : BitVec 64).getLsbD 63 = true ∧ (0 + 63) % 65536 = x.seq.toNat)) := by decide +kernel

/-- A domain of eight dies under power, some of whose links fail. -/
def linked (f : Link → Link) : State :=
  ({ dom 0 0 with extents := (2, 2, 2), mods := [(0, { power := .up })], grandmasters := [1] } : State).updDie 0 fun d => d.setLink 0 (f (d.link 0))

/-- For `FabricEvents`: ways over links that carry, that retrain, and round one that is down; a retrain that has failed long enough, and not. -/
theorem witness_ways :
    (let s := linked id
     let r := linked fun l => { l with failing := some 0 }
     let d := linked fun l => { l with up := false }
     s.minimal 0 1 = some (0, true) ∧ s.linkUp 0 0 true = true ∧ s.linkCarries 0 0 true = true ∧ r.linkUp 0 0 true = true ∧ r.linkCarries 0 0 true = false ∧
      d.minimal 0 1 = some (0, true) ∧ d.linkUp 0 0 true = false ∧ d.detour 0 0 true = some [(1, true), (0, true), (1, false)] ∧ d.linkUp 0 1 true = true ∧
      d.linkCarries 0 1 true = true ∧ ((r.die 0).link 0).failing = some 0 ∧ 1000000 ≤ ({ r with now := 1000000 } : State).now ∧ r.now < 1000000 ∧
      ((s.die 0).link 0).failing = none) := by decide +kernel

/-- For `FabricEvents`: a multicast entry whose oldest version is in use, and one that is not; answers that split to an op that has ended. -/
theorem witness_casts :
    (let g : ThrottleGroup := { dies := [0], leader := 0, anns := [{ ver := 0, step := 5, apply := 9, todo := [0] }] }
     let s := { (linked id).updDie 0 fun d => { d with multicast := [(3, [(1, 5), (0, 4)])] } with groups := [(3, g)] }
     mget [] 3 (s.die 0).multicast = [(1, 5), (0, 4)] ∧ s.castUsed 3 0 = true ∧ ({ s with groups := [] } : State).castUsed 3 0 = false ∧ (s.die 0).castWait = [] ∧
      (pkt1 (windowed (fun x => { x with stage := .done }) [])).stage = .done) := by decide +kernel

/-- For `FabricEvents`: a die that has a grandmaster to exchange with, and none; discipline lost, kept and regained. -/
theorem witness_discipline :
    (let s := linked id
     s.exchanges 0 = true ∧ ({ s with mods := [] } : State).exchanges 0 = false ∧ s.grandmaster 0 = some 1 ∧
      (({ s with extRef := some 4 } : State).exchanges 1 = true ∧ s.grandmaster 1 = some 1 ∧ (s.die 1).mtskew.getLsbD 0 = false) ∧
      ({ s with grandmasters := [] } : State).grandmaster 0 = none ∧ s.skewOk 0 (s.die 0).mtOfs (s.die 0).mtAim = true ∧ (s.die 0).mtskew.getLsbD 0 = true ∧
      ((s.die 0).mtskew.extractLsb' 32 16).toInt.natAbs ≤ 80 ∧ s.now < 62500 * (s.die 0).exchAt + 10000000 ∧
      62500 * (s.die 0).exchAt + 10000000 ≤ ({ s with now := 10000000 } : State).now ∧ (s.die 0).mtAt ≤ s.now ∧
      0 + 1000000 ≤ ({ s with now := 1000000 } : State).now) := by decide +kernel

/-- A record of a launch of one core, written at the slot of number 3 of queue 9, and the page tables of its address space; `puts` changes
the record. -/
def recorded (puts : List (Nat × Nat × Nat)) : State :=
  let x : HwQueue :=
    { en := true, log2 := 2, qaddr := 0x40000, head := 3, tail := 4, oldest := 3, svaddr := 0x40000000, svsize := 0x40000000, root := 0x50001, asid := 7, devok := true }
  let s := { dom 0 0 with mods := [(0, { ready := true, power := .up, pmask := [(0, 3)], queues := [(9, x)] })], ctxs := [] }
  let s := s.updCluster 0 fun k =>
    { k with owners := [], tlb := [{ asid := 7, lo := 0x200000, bits := 21, leaf := leafOf 0 0 0x200000 0 }] }
  let record := ([(0x0C, 2, 0x10), (0x1B, 1, 1), (0x1C, 1, 0x70), (0x40, 8, 0x40000000)] ++ puts).map fun p : Nat × Nat × Nat => (0x40300 + p.1, p.2)
  let tree := [(0x50000, 8, 0x51001), (0x51000, 8, 0x52001), (0x52000, 8, 0x53001), (0x53008, 8, (leafOf 0 0 0x200000 0).toNat)]
  { (tree ++ record).foldl (fun (s : State) (p : Nat × Nat × Nat) => s.homeWrite (keyOf 0 p.1) (bytesOfNat p.2.1 p.2.2) false) s with quads := [] }

/-- The launch of the record, listed, at a stage; `f` changes it. -/
def placed (puts : List (Nat × Nat × Nat)) (f : Launch → Launch) : State :=
  let s := recorded puts
  let x := s.queueOf 0 9
  let id := 9 * 2 ^ 32 + 3
  let l : Launch := { m := 0, q := 9, seq := 3, image := s.homeBytes (x.slotKey 3) 256, root := 0x50001, asid := 7, deps := [true, true, true, true] }
  { s.setHwQueue 0 9 { x with atHead := some id } with launches := [(id, f l)] }

def launchOf (s : State) : Launch := s.launch (9 * 2 ^ 32 + 3)

/-- For `SchedulerEvents`: a record at the head of its queue, sound and broken. -/
theorem witness_records :
    (let s := recorded []
     let y := s.mod 0
     let x := s.queueOf 0 9
     y.ready = true ∧ y.recovery = false ∧ y.power = .up ∧ x.en = true ∧ x.atHead = none ∧ x.head ≠ x.tail ∧ populated (x.slotKey x.head) = true ∧
      (placed [] id).badRecord (launchOf (placed [] id)) = none ∧ (placed [(8, 4, 1)] id).badRecord (launchOf (placed [(8, 4, 1)] id)) = some 1 ∧
      (placed [(0x40, 8, 0x40001000)] id).badRecord (launchOf (placed [(0x40, 8, 0x40001000)] id)) = some 4) := by decide +kernel

/-- For `SchedulerEvents`: a dependence that is met and one that is not; a place for the launch, and nothing to place. -/
theorem witness_placement :
    (let s := placed [(0x60, 8, 0x200000), (0x68, 8, 0xFF)] fun l => { l with deps := [false, true, true, true] }
     let l := launchOf s
     mrising s.launches = true ∧ l.st = .waiting ∧ l.stop = none ∧ l.deps.getD 0 true = false ∧ l.num 0x70 8 = 0 ∧
      (match s.dispRead (l.space 0) (lineParts 9 (l.num 0x60 8) 8) with
       | some (.ok (u, bs)) => natOfBytes bs == 0 && u.launch (9 * 2 ^ 32 + 3) == l
       | _ => false) = true) ∧
    (let s := placed [] fun l => { l with st := .candidate }
     let l := launchOf s
     let l1 := { l with cores := [0], reserve := [], st := LaunchState.bound, placed := s.now }
     s.waitOrder 0 = [(9 * 2 ^ 32 + 3, l)] ∧ (recorded []).waitOrder 0 = [] ∧ s.place? (9 * 2 ^ 32 + 3) l [] = some [0] ∧ l.flag 2 = false ∧
      (match State.readImages l1 l1.dieList s with
       | some (.ok _) => true
       | _ => false) = true ∧ (s.schedule 0).bad = none ∧
      (∀ w ∈ ([] : List (Nat × Launch)), s.victims w.2 = []) ∧ (s.positions l).head? = some [0] ∧ s.fits (9 * 2 ^ 32 + 3) l [] [0] = true ∧
      (s.updCore 0 fun k => { k with retired := true }).fits (9 * 2 ^ 32 + 3) l [] [0] = false) := by decide +kernel

/-- For `SchedulerEvents`: a launch bound, pre-empted and saved, to a host area that is not granted; its context stopped; nothing left of
it. -/
theorem witness_bound_launches :
    (let n := 9 * 2 ^ 32 + 3
     let bound := fun (st : LaunchState) (f : Launch → Launch) =>
       (placed [] fun l => f { l with st := st, cores := [0], since := 0 }).setCtx 0 { phase := .running, launch := some n, savebase := 0x0001000000000000 }
     let s := bound .preempting id
     let b := { bound .bound id with ctxs := [] }
     mrising s.launches = true ∧ s.boundTo n = [0] ∧ s.stopped 0 = true ∧ ((s.saveLaunch n (launchOf s)).core 0).retired = false ∧
      (s.saveLaunch n (launchOf s)).bad = none ∧ (launchOf s).contexts = [0] ∧ (s.ctx 0).closing = false ∧ (s.ctx 0).releasing = false ∧ (s.ctx 0).outs = [] ∧
      (20000 ≤ ({ s with now := 20000 } : State).modMt 0 ∧ s.modMt 0 < 20000) ∧ (s.ctx 0).moving = false ∧
      (let v := s.updCtx 0 fun c => { c with phase := .saving false, frozen := true }
       v.boundTo n = [0] ∧ v.stopped 0 = true ∧ (v.ctx 0).moving = true ∧ ((v.saveLaunch n (launchOf v)).core 0).retired = false ∧
        (v.saveLaunch n (launchOf v)).bad = none) ∧
      ((bound .bound id).boundTo n = [0] ∧ s.resetting 0 0 = false) ∧
      (b.boundTo n = [] ∧ (launchOf b).saved = [] ∧ b.quiet n (launchOf b) = true ∧ b.replays n (launchOf b) = false ∧ (launchOf b).num 0x58 8 = 0 ∧ (b.queueOf 0 9).oldest = 3 ∧
        (b.queueOf 0 9).done = []) ∧
      (launchOf (bound .bound fun l => { l with wdog := some 0 })).wdog = some 0 ∧ (launchOf (bound .bound id)).wdog ≠ some 0 ∧
      ((bound .bound id).cmds = [] ∧ (s.ctx 0).guard = none) ∧
      (let z := bound .saved id
       (launchOf z).aged < (4000000 - (launchOf z).since) / 2000000 ∧ (z.waitOrder 0).map Prod.fst = [n] ∧ (0 - (launchOf z).since) / 2000000 ≤ (launchOf z).aged ∧ ((z.setMod 0 {}).mod 0).ready = false)) := by decide +kernel

/-- For `SchedulerEvents`: a launch that has ended, with no event to write, and with one whose home does not answer; a partition in reset. -/
theorem witness_ended :
    (let s := placed [(0x58, 8, 0x200100)] fun l => { l with st := .ended 0 0, cores := [0] }
     let d := s.updDie 0 fun d => { d with shed := true }
     (launchOf (placed [] fun l => { l with st := .ended 0 0 })).num 0x58 8 = 0 ∧ (launchOf s).st = .ended 0 0 ∧ d.writeEvent (launchOf d) 0 = none ∧
      d.now < 50000000 ∧ s.bad = none) ∧
    (let s := placed [] fun l => { l with st := .bound, stop := some 3 }
     (s.launches.any fun z => z.2.m == 0 && z.2.part == 0 && z.2.stop == some 3) = true ∧ s.waitOrder 0 = []) := by decide +kernel

theorem witness_no_almanac (cl : Nat) : (({ placed [] id with clusters := [] } : State).cluster cl).almanac = none := rfl

/-- For `SchedulerEvents`: a queue that takes records from its doorbell, and two that do not. -/
theorem witness_doorbells :
    (let x := (recorded []).queueOf 0 9
     ({ x with devok := false } : HwQueue).en = true ∧ x.devok = true ∧ ({ x with en := false } : HwQueue).en = false) := by decide +kernel

/-- For `SchedulerEvents`: an event's address, doorbells, sizes and masks at their ends. -/
theorem witness_registers_of_queues :
    (let s := placed [(0x58, 8, 0x200100)] fun l => { l with st := .bound, cores := [0] }
     let l := launchOf s
     (match s.xlate (l.space l.doneCluster) .write (l.num 0x58 8) with
      | .ok (u, t) => !isHost t.key && !(u.die (homeDie t.key)).shed
      | .error _ => false) = true ∧
      (let x := s.queueOf 0 9
       (x.log2.toNat = 2 ∧ 12 < (13 : BitVec 4).toNat ∧ ((s.updMod 0 fun y => { y with ready := true }).mod 0).ready = true ∧ ({} : Module).ready = false) ∧ (x.tail + 3 - x.tail).toNat ≤ 2 ^ x.log2.toNat - (x.tail - x.oldest).toNat ∧
        2 ^ x.log2.toNat - (x.tail - x.oldest).toNat < (x.tail + 4 - x.tail).toNat) ∧
      ((s.mod 0).queues.all fun z => !z.2.en || z.2.part.toNat != 15) = true ∧ (s.launches.all fun z => z.2.part != 15) = true ∧
      ((s.mod 0).pmask.all fun e => e.1 == 15 || e.2 &&& 4 == 0) = true ∧ ((s.mod 0).pmask.any fun e => e.1 != 15 && e.2 &&& 2 != 0) = true ∧
      (s.launches.filter fun p => p.2.m = 0 && p.2.q = 9 && p.2.flag 0) = [] ∧
      ((placed [(0x1F, 1, 1), (0x50, 8, 0x40000000)] id).launches.all fun p => p.2.flag 0) = true) := by decide +kernel

/-! Power, errors, the power-up and power-fail of modules -/

/-- For `PowerEvents`: a die in no group with its budget as wanted; a move in progress; an almanac; a step announced; limits at their ends. -/
theorem witness_power :
    (let s := dom 0 0
     let k := s.cluster 0
     let moves := fun (f : Cluster → Cluster) => s.updCluster 0 f
     s.groupOf 0 = none ∧ (s.die 0).tripped = false ∧ k.move = none ∧ k.almanac = none ∧ s.bad = none ∧
      (s.updDie 0 fun d => { d with budget := s.wantedBudget 0 }).wantedBudget 0 = s.wantedBudget 0 ∧
      ((moves fun k => { k with move := some (23, 1200) }).cluster 0).move = some (23, 1200) ∧ s.now < 1200 ∧
      (populated (0x100000 + 16 * 1023) = true ∧ populated (0x100000 + 16 * 1023 + 8) = true ∧ 0x100000 % 16 = 0 ∧
        s.granted true (0x100000 + 16 * 1023) 8 = true ∧ s.granted true (0x100000 + 16 * 1023 + 8) 8 = true ∧ s.remapOff (0x100000 + 16 * 1023) = none ∧ s.remapOff (0x100000 + 16 * 1023 + 8) = none) ∧
      ((moves fun k => { k with announced := [(5, 7)] }).cluster 0).announced.find? (fun a => decide (a.2 ≤ ({ s with now := 7 } : State).mt 0)) = some (5, 7) ∧
      s.mt 0 < 7 ∧ 7 ≤ ({ s with now := 7 } : State).mt 0 ∧ (s.die 0).mtskew.getLsbD 0 = true ∧ s.powered 0 = false ∧
      ((linked id).powered 0 = true ∧ (linked id).groupOf 0 = none ∧ ((linked id).cluster 0).limAt < ({ linked id with now := 1000 } : State).mt 0 / 1000) ∧
      ((s.mod 0).fwReset ≤ s.now ∧ (s.mod 0).recovery = false) ∧ s.now < ((s.updMod 0 fun m => { m with fwReset := 9, pwrTrip := true }).mod 0).fwReset ∧
      (k.step.toNat < 23 ∧ k.step.toNat ≤ 18 ∧ 23 < 32) ∧ ((650 : Int) < 651 ∧ 39 < 40) ∧
      ((23 : BitVec 5).toNat ≤ 23 ∧ (24 : BitVec 5).toNat ≤ 24) ∧ k.currentCap < 24 ∧
      ((dieClusters 0).all fun c => (s.cluster c).almanac.isNone) = true ∧ ((s.updDie 0 fun d => { d with tripped := true }).die 0).tripped = true ∧
      (s.mod 0).pwrlim < 4801 ∧ 4800 ≤ (s.mod 0).pwrlim ∧ ((linked id).mod 0).pwrAt < ({ linked id with now := 10000 } : State).modMt 0 / 10000 ∧
      (linked id).modMt 0 / 10000 ≤ ((linked id).mod 0).pwrAt) := by decide +kernel

/-- For `PowerEvents` and `CheckpointAndRollback`: errors in a register, an accumulator row, a residue and a queue; a guarded context at its first error. -/
theorem witness_errors :
    (let s := headed 4 (.vmov false 9 1) .queued 0 id
     63 < 64 ∧ s.here.vvalid.getLsbD 63 = true ∧ s.here.guard = none ∧ ([4, 5, 6, 7].all fun h => (s.ctx h).guard.isNone) = true ∧
      ((s.updCore 1 fun k => { k with beatRow := some 3 }).core 1).beatRow = some 3 ∧ (s.core 1).beatRow = none ∧
      s.here.queue 4 ≠ [] ∧ s.here.launch = some 3) ∧
    (let s := (dom 0 0).updCtx 5 fun c => { c with guard := some {} }
     s.here.guard = some {} ∧ ({} : Guard).closing = false ∧ s.here.rrun = 0 ∧ ({} : Guard).wstr = [] ∧ s.bad = none ∧ ({} : Guard).released = false ∧ s.containing 5 = false ∧
      ({ s.here with accbanks := 0x1FF, savebase := 0x300000 } : Ctx).accbanks.getLsbD 8 = true ∧
      populated (({ s.here with accbanks := 0x1FF, savebase := 0x300000 } : Ctx).imageKey + 0x30000) = true ∧
      s.here.vvalid.getLsbD 63 = true) := by decide +kernel

/-- A guarded context at a `CKPT`: `f` changes its guard, `g` the context. -/
def guarded (f : Guard → Guard) (g : Ctx → Ctx) : State := (dom 0 0).updCtx 5 fun c => g { c with guard := some (f {}) }

/-- For `CheckpointAndRollback`: a checkpoint at once, one that waits for a load, one with a store held, one of a rerun, of a second run
that differs, and a context whose bundle is done and one whose is not. -/
theorem witness_checkpoints :
    (let ck := Instr.ckpt false
     let plain := fun (s : State) => decide (s.runs0 false ck) && s.here.guard.any (fun g => g.err.isNone) && s.here.accbanks.getLsbD 8 == false &&
       (List.range 48).all fun n => s.here.vvalid.getLsbD n
     let a := guarded id id
     let opened := guarded (fun g => { g with released := true }) id
     let e := (dom 0 0).entryNow 3 stD
     let h : HeldStore := { entry := e, piece := { place := .mem 0x20000 0, len := 8 }, bytes := bytesOfWord 8 9, poison := false, tick := 0, whole := false }
     let x : Packet := { cx := 5, die := 0, home := 1, kind := .load, entry := { e with ckpt := true }, pieces := [] }
     let waiting := fun (s : State) => { s with net := [(1, x)] }
     let b := guarded (fun g => { g with hold := [h] }) id
     plain a = true ∧ opened.ckptDone 5 = true ∧ (waiting opened).ckptDone 5 = false ∧
      steps (exec ck a) (fun t => t.here.guard.any fun g => g.snap.pc == a.here.pc && g.snap.v == a.here.v && !g.released) = true ∧
      plain (waiting a) = true ∧ steps (exec ck (waiting a)) (fun t => t == waiting opened) = true ∧
      plain b = true ∧ (opened.releaseStore 5 h).any (fun u => u.bad.isNone && u.here.holdEmpty && u.ckptDone 5) = true ∧
      steps (exec ck b) (fun t => t.here.guard.any (fun g => g.hold.isEmpty && !g.released) && t.byte 0x20000 == 9 && t.byte 0x20007 == 0) = true ∧
      (let r := guarded id fun c => { c with rrun := 1, rcount := 4 }
       plain r = true ∧ r.here.rrun = 1 ∧ steps (exec ck r) (fun t => t.here.rrun == 2 && t.here.rcount == 0 && t.here.guard.any fun g => g.runs.map Prod.fst == [4]) = true) ∧
      (let d := guarded (fun g => { g with runs := [(3, {})] }) fun c => { c with rrun := 2, rcount := 4 }
       plain d = true ∧ d.here.rrun ≠ 0 ∧ d.here.rrun ≠ 1 ∧ (d.here.guard.any fun g => g.runs != [(d.here.rcount.toNat, g.sig)]) = true ∧
        steps (exec ck d) (fun t => (t.core 1).retired) = true) ∧
      (let c := (issuing 0).updCtx 5 fun c => { c with guard := some { closing := true } }
       c.here.guard = some { closing := true } ∧ c.mayIssue 5 = true ∧ c.mustSwitch 1 = false ∧ c.bad = none ∧ c.ckptDone 5 = true ∧
        (waiting c).mayIssue 5 = true ∧ (waiting c).mustSwitch 1 = false ∧ (waiting c).ckptDone 5 = false)) := by decide +kernel

/-- The module at corner 0, with power; `f` changes it. -/
def powered (f : Module → Module) : State :=
  { dom 0 0 with mods := [(0, f { power := .up })], ctxs := [], dies := [], clusters := [] }

/-- For `HaltEvents`: a module that is off, up, in a brown-out, halted; with a launch bound and with none; one die shed, none. -/
theorem witness_modules :
    (let s := powered id
     (let a := powered fun m => { m with cxlUp := true, pmask := [(2, 1)] }
      ((a.mod 0).cxlUp = true ∧ (a.mod 0).fwReset ≤ a.now ∧ (a.mod 0).mboxUntil ≤ a.now ∧ (a.mod 0).recovery = false) ∧ (1 / 8 ∈ moduleClusters 0) ∧
       (mget (0 : Word) 2 (a.mod 0).pmask).getLsbD (moduleRank (1 / 8)) = true ∧ (mget (0 : Word) 2 (a.mod 0).pmask).getLsbD (moduleRank (9 / 8)) = false ∧
       steps (exec (.plainHalt (.partition 0 2)) a) (fun t => (t.core 7).halt == .plain && (t.core 8).halt == .none && (t.mod 0).mboxStatus == .success) = true ∧
       steps (exec (.quiescedHalt (.partition 0 2)) a) (fun t => (t.core 7).halt == .quiesced && (t.core 8).halt == .none) = true ∧
       steps (exec (.resume (.core 1)) (a.updCore 1 fun k => { k with halt := .plain })) (fun t => (t.core 1).halt == .none) = true) ∧
     (s.core 1).halt = .none ∧ (s.core 1).divider = none ∧
      (let d : DivOp := { cx := 5, sys := false, pushes := [3], writes := [] }
       let p := s.updCore 1 fun k => { k with halt := .pending, divider := some d }
       (p.core 1).halt = .pending ∧ (p.core 1).divider ≠ none) ∧ (s.ctx 4).phase = .free ∧ (s.ctx 4).launch = none ∧
      ((powered fun m => { m with power := .brownOut }).mod 0).power = .brownOut ∧ (s.mod 0).image = none ∧ (s.mod 0).hibSize = 0 ∧ s.launches = [] ∧
      s.cmds = [] ∧ s.bad = none ∧
      ((moduleDies 0).all fun d => (s.die d).engines.isEmpty && (List.range 4).all fun q => (s.quad (4 * d + q)).swaps.isEmpty && (s.quad (4 * d + q)).present.isEmpty) = true ∧
      ((moduleClusters 0).all fun c => (s.cluster c).cache.isEmpty && (s.cluster c).almanac.isNone) = true ∧
      (s.mod 0).ready = false ∧ ((powered fun m => { m with ready := true }).mod 0).ready = true) ∧
    (let l : Launch := { m := 0, st := .bound }
     let s : State := { powered id with launches := [(3, l)] }
     mrising s.launches = true ∧ l.stop = none ∧ s.launches.contains (3, l) = true) ∧
    (let v := 40
     let s := powered fun m => { m with power := .brownOut, volts := v, pwrPower := 4001, shedOrder := [7, 1] }
     (s.mod 0).shed = [] ∧ 100 * (s.mod 0).volts < (s.mod 0).pwrPower ∧ ((powered fun m => { m with volts := v, pwrPower := 4000 }).mod 0).pwrPower ≤ 100 * v ∧ s.onDie (dieAt 0 7) = [] ∧ s.groupOf (dieAt 0 7) = none ∧
      ((List.range 4).all fun q => (s.quad (4 * dieAt 0 7 + q)).swaps.isEmpty && (s.quad (4 * dieAt 0 7 + q)).transit.isEmpty) = true ∧
      (s.mod 0).brownAt = none ∧ (s.mod 0).heldAt = none ∧ s.now < (s.mod 0).shedAt + 100000 ∧
      (let p : State := { powered fun m => { m with power := .brownOut, volts := 48, shed := [7], heldAt := some 0 } with now := 10000000 }
       (p.mod 0).shed = [7] ∧ (p.mod 0).heldAt = some 0 ∧ 0 + 10000000 ≤ p.now ∧ (p.mod 0).shedAt + 1000000 ≤ p.now ∧
        ((p.updDie (dieAt 0 7) fun d => { d with shed := true }).die (dieAt 0 7)).shed = true)) ∧
    (let s := powered fun m => { m with power := .off }
     (s.mod 0).power = .off ∧ (s.mod 0).records = [] ∧ ((powered fun m => { m with power := .halted }).mod 0).power = .halted ∧ cornerOf 0 = 0) := by
  decide +kernel

/-- For `HaltEvents`: a reserve that holds what a halt takes, and one that does not; an input below 48 V and one at it; a module with an
image of a timed store that waits for its reserve. -/
theorem witness_reserve :
    (let s := powered fun m => { m with reserve := 36000000000000 }
     drainFloor + drainNeed 0 ≤ s.reserveOf 0 ∧ (powered id).reserveOf 0 < drainFloor + drainNeed 0 ∧ (s.mod 0).volts < 48 ∧
      48 ≤ ((powered fun m => { m with volts := 48 }).mod 0).volts ∧
      (let t : Transit := { pkt := 1, store := true, time := 7, key := 0x20000, bytes := [1] }
       let u := powered fun m => { m with reserve := 36000000000000, image := some { timed := [(2, [t])] } }
       (u.mod 0).image = some { timed := [(2, [t])] } ∧ drainFloor + drainNeed (u.mod 0).hibSize ≤ u.reserveOf 0 ∧
        steps (exec (.reserveReady 0) { u with now := 5 }) (fun v => (v.mod 0).ready && (v.quad 2).transit.map Transit.time == [12]) = true)) := by decide +kernel

/-- For `HaltEvents`: a halted module with one record, of a weight table, and with good firmware and bad; timed accesses that a halt has
made late, the store first. -/
theorem witness_one_record :
    (let r : ConfigRecord := { kind := .energy, seq := 5, items := [.ewtable 1 7], sigs := ⟨true, true⟩ }
     let s := powered fun m => { m with power := .halted, records := [r] }
     (s.mod 0).power = .halted ∧ (s.mod 0).records = [r] ∧ (s.mod 0).fwGood = true ∧ s.bad = none ∧ ((powered fun m => { m with fwGood := false }).mod 0).fwGood = false ∧
      (steps (exec (.restart 0 false none) s) fun t => (t.core 1).ewtable == 7 && (t.mod 0).power == .up && ((t.mod 0).log.map LogRec.code).contains .coldStart) = true) ∧
    (let t : Transit := { pkt := 1, store := true, time := 7, key := 0x20000, bytes := [1] }
     restoredDue 9 [{ t with store := false, time := 3 }, { t with time := 8 }, t] = some t ∧ restoredDue 5 [{ t with store := false, time := 3 }, t] = some { t with store := false, time := 3 } ∧
      restoredDue 2 [t] = none) := by decide +kernel

theorem witness_no_guards : ∀ cx, ((powered id).ctx cx).guard = none := fun _ => rfl

theorem length_kmac256 (k n bs : List Byte) : (kmac256 k n bs).length = 64 := by
  have word : ∀ n w, (bytesOfWord n w).length = n := by
    intro n
    induction n with
    | zero => intro w; rfl
    | succ n ih => intro w; simp [bytesOfWord, ih]
  have round : ∀ a rc, (keccakRound a rc).length = 25 := by
    intro a rc
    simp [keccakRound, List.range, List.range.loop]
  have perm : ∀ a, (keccakF a).length = 25 := by
    intro a
    simp [keccakF, keccakRc, round]
  have takes : ∀ n a bs, a.length = 25 → (absorb n a bs).length = 25 := by
    intro n
    induction n with
    | zero => intro a bs h; exact h
    | succ n ih => intro a bs _; exact ih _ _ (perm _)
  have bytes : ∀ l : List (BitVec 64), (l.flatMap (bytesOfWord 8)).length = 8 * l.length := by
    intro l
    induction l with
    | nil => rfl
    | cons a l ih => simp [ih, word]; omega
  simp [kmac256, sponge, bytes, takes]

/-- A halted module whose area starts with a manifest that says RESUMABLE, sealed. -/
def manifest : State :=
  { powered fun m => { m with power := .halted, image := some {}, hibBase := 2 ^ 41, hibSize := 65536, counter := 1 } with
    mem := [(2 ^ 41, 1), (2 ^ 41 + 4, 1), (2 ^ 41 + 8, 1), (2 ^ 41 + 0x21, 1)] }

/-- For `HaltEvents`: a manifest that restores, with the seal of any key. -/
theorem witness_manifest : (manifest.putBytes (2 ^ 41 + 256) (kmac256 (Config.sealKey 0) sealName (manifest.homeBytes (2 ^ 41) 256))).coldCause 0 true = none := by
  generalize hk : kmac256 (Config.sealKey 0) sealName (manifest.homeBytes (2 ^ 41) 256) = k
  have hl : k.length = 64 := hk ▸ length_kmac256 _ _ _
  have die : ∀ key, (manifest.die (keyDie key)).remapBase = none := fun _ => rfl
  have off : ∀ key, (manifest.putBytes (2 ^ 41 + 256) k).remapOff key = none := fun _ => rfl
  have home : ∀ n key, (manifest.putBytes (2 ^ 41 + 256) k).homeBytes key n = (manifest.putBytes (2 ^ 41 + 256) k).bytes key n := by
    intro n
    induction n with
    | zero => intro key; rfl
    | succ n ih => intro key; simp only [State.homeBytes, State.bytes, ih, State.homeByte, off]
  have head : ∀ n key, key + n ≤ 2 ^ 41 + 256 → (manifest.putBytes (2 ^ 41 + 256) k).homeBytes key n = manifest.homeBytes key n := by
    intro n
    induction n with
    | zero => intro key _; rfl
    | succ n ih =>
      intro key h
      have hb : (manifest.putBytes (2 ^ 41 + 256) k).homeByte key = manifest.homeByte key := by
        show (manifest.putBytes (2 ^ 41 + 256) k).byte key = manifest.byte key
        rw [byte_putBytes, if_neg (by omega)]
      simp only [State.homeBytes, hb, ih (key + 1) (by omega)]
  have area : (manifest.putBytes (2 ^ 41 + 256) k).mod 0 = manifest.mod 0 := rfl
  have base : (manifest.mod 0).area 0 = 2 ^ 41 := by decide +kernel
  have facts : bytesNum (manifest.homeBytes (2 ^ 41) 256) 0x20 8 = 256 ∧ (manifest.mod 0).hibSize = 65536 ∧ (manifest.mod 0).image = some {} ∧
      bytesNum (manifest.homeBytes (2 ^ 41) 256) 8 8 = (manifest.mod 0).counter ∧ ((manifest.homeBytes (2 ^ 41) 256).getD 4 0).getLsbD 0 = true := by
    decide +kernel
  obtain ⟨f1, f2, f5, f3, f4⟩ := facts
  have seal_ : (manifest.putBytes (2 ^ 41 + 256) k).homeBytes (2 ^ 41 + 256) 64 = k := by
    rw [home, ← hl]; exact bytes_putBytes _ _ _
  simp only [State.coldCause, area, base, head 256 (2 ^ 41) (by omega), f1, f2, f3, f4, f5, seal_, hk]
  simp

/-- For `HaltEvents`: the manifest names no regions, and its clusters no almanac. -/
theorem witness_no_regions : bytesNum (manifest.homeBytes (2 ^ 41) 256) 0x18 4 = 0 ∧ (manifest.mod 0).power = .halted ∧ (manifest.mod 0).image = some {} := by
  decide +kernel

/-- For `ManagementEvents`: a window of the host with its link up and down; registers that take part; records newer and older; a log. -/
theorem witness_management :
    (let h : HdmWin := { hbase := 0, size := 0x1000, die := 0, pa := 0x20000 }
     let s := powered fun m => { m with hdm := [(2, h)], cxlUp := true }
     ((s.mod 0).hdm.find? (fun e => e.1 == 2)) = some (2, h) ∧ (s.mod 0).cxlUp = true ∧ 0xFC0 + 64 ≤ h.size ∧ regionOf (h.pa + 0xFC0) = .near ∧
      (s.die h.die).shed = false ∧ (h.pa + 0xFC0) % 128 + 64 ≤ 128 ∧ (s.homeRead (keyOf 0 (h.pa + 0xFC0)) 64).isSome = true ∧
      ((powered id).mod 0).cxlUp = false ∧ s.launches = [] ∧ s.ctxs = [] ∧ 15 < 16 ∧ (1000 ≤ 8191 ∧ 4800 < 8191 ∧ 999 % 8192 < 1000 ∧ 1000 % 8192 ≤ 4800)) ∧
    (let s := powered fun m => { m with cxlUp := true }
     regionOf (2 ^ 48 + 0x40 + 2 - 1) = .host ∧ keyOf 0 (2 ^ 48 + 0x40) % 128 + 2 ≤ 128 ∧
      steps (exec (.hostMemoryAccess 0 .own 0x40 true [7, 9]) s) (fun t => t.mem.length == s.mem.length + 2 && t.byte (keyOf 0 (2 ^ 48 + 0x41)) == 9) = true ∧
      ((powered fun m => { m with ready := true }).mod 0).ready = true ∧ 1 ≤ 16 ∧ 128 ≤ 128 ∧ 0x4200 + 16 * 15 < 0x4300) ∧
    (let r : ConfigRecord := { kind := .budget, seq := 5, items := [.threshold 9], sigs := ⟨true, true⟩ }
     let s := powered fun m => { m with cxlUp := true, records := [{ r with seq := 4 }] }
     let fails := fun (i : Instr) (f : Module → Module) (st : MboxStatus) =>
       steps (exec i (powered fun m => f { m with cxlUp := true })) fun t => (t.mod 0).mboxStatus == st
     ((s.mod 0).cxlUp = true ∧ (s.mod 0).fwReset ≤ s.now ∧ (s.mod 0).mboxUntil ≤ s.now ∧ (s.mod 0).recovery = false) ∧
      ((s.mod 0).records.all fun y => y.kind != r.kind || decide (y.seq.toNat < r.seq.toNat)) = true ∧ ((s.mod 0).records.any fun y => y.kind == r.kind && decide (4 ≤ y.seq.toNat)) = true ∧
      r.valid = true ∧ (∃ i ∈ [ConfigItem.threshold 9, .bfw 1 480], i.kind ≠ r.kind) ∧ ({ r with sigs := ⟨true, false⟩ } : ConfigRecord).sigs.mlDsa65 = false ∧
      steps (exec (.writeRecord 0 r) s) (fun t => t.threshold == 9 && (t.mod 0).mboxStatus == .success) = true ∧
      steps (exec (.writeRecord 0 { r with seq := 4 }) s) (fun t => t.threshold == s.threshold && (t.mod 0).records.length == 2) = true ∧
      fails (.readLifetime 0) (fun m => { m with mboxUntil := 1 }) .busy = true ∧ fails (.readLifetime 0) (fun m => { m with recovery := true }) .refused = true ∧
      fails (.activate 0 ⟨true, true⟩ 9 9) id .refused = true ∧ ((powered fun m => { m with fwPending := true }).mod 0).fwPending = true ∧
      (480 : BitVec 9).toNat ≤ 480 ∧ 480 < (481 : BitVec 9).toNat ∧ (2 % 2 = 0 ∧ 16 % 2 = 0 ∧ 3 % 2 ≠ 0) ∧ (0x104000 % 16384 = 0 ∧ 0x100010 % 16384 ≠ 0) ∧
      (hibOk (2 ^ 41) (3072 * 2 ^ 30) && !hibOk (2 ^ 41) (3073 * 2 ^ 30) && !hibOk (2 ^ 41 + 1) (2 ^ 30)) = true ∧ 2 ^ 38 - 96 * 2 ^ 20 + 96 * 2 ^ 20 ≤ 2 ^ 38) ∧
    (let e : LogRec := { mt := 0, code := .coldStart, die := 0, seq := 1, data := logData [0] }
     let s := powered fun m => { m with cxlUp := true, log := [e, { e with seq := 0 }, { e with seq := 0xFFFFFFFF }, { e with seq := 0xFFFFFFFE }] }
     e.data.length = 48 ∧ ([(1 : BitVec 32), 0, 0xFFFFFFFF].all fun q => decide ((q - 0xFFFFFFFF).toNat < 2 ^ 31)) = true ∧ 2 ^ 31 ≤ ((0xFFFFFFFE : BitVec 32) - 0xFFFFFFFF).toNat ∧
      steps (exec (.readLog 0 0xFFFFFFFF) s) (fun t => (t.mod 0).mbox.length == 192 && ((t.mod 0).mbox.drop 12).take 4 == [255, 255, 255, 255] &&
        ((t.mod 0).mbox.drop 140).take 4 == [1, 0, 0, 0]) = true) := by decide +kernel

/-- For `ManagementEvents`: a version the fuses accept. -/
theorem witness_version : Config.fusedVersion 0 ≤ Config.fusedVersion 0 := Nat.le_refl _

/-! Decoding and steps -/

/-- For `DecodeAgreesWithEncode`: instructions of every slot, a bundle and the numbers of a template call at their ends. -/
theorem witness_encodings :
    ([Instr.add true 47 47 47, .ld true 47 47 2 true 255, .vadd true 63 63 63 3 0, .mwsel true true, .aclr true 7 127, .launch true tailA 47 127].all fun i =>
      i.wf && i.slots.any fun _ => true) = true ∧
    (Instr.fullBundle 0x01060006 [0x05011480, 0x81551480]).wf = true := by decide +kernel

/-- For `StepRunsDecoded`: an issue whose units decode, the passing of time, a step of the outside world, and an event. -/
theorem witness_choices :
    (let s := State.reset.withFetchWord 32 0x81551480
     (match s.choice with
      | .issue cx => (decodeUnits ((s.fetchCore cx).unitsFrom (s.ctx cx).pc 20)).toOption.isSome && !(s.ctx cx).mid && (s.ctx cx).guard.isNone
      | _ => false) = true ∧
      (let r := s.updCtx 0 fun c => { c with mid := true, rcLeft := 1, decoded := some ⟨.fullBundle 0 [], 0⟩ }
       r.choice = .issue 0 ∧ (r.ctx 0).mid = true ∧ (r.ctx 0).decoded = some ⟨.fullBundle 0 [], 0⟩) ∧ State.reset.quads = [] ∧ State.reset.choice = .pass ∧
      ({ State.reset with inputs := [.bringUp 0 none] } : State).choice = .input ∧ fromOutside (.bringUp 0 none) = true ∧
      (match ({ s with sched := [s.choices.length - 1] } : State).choice with
       | .event _ => true
       | _ => false) = true) := by decide +kernel

/-- For `StepKeepsMemory`: a step that answers a next state. -/
theorem witness_step : Memory.wf State.reset.mem = true ∧ steps (step State.reset) (fun _ => true) = true := by decide +kernel

/-! Worked examples of the spec -/

/-- What an op pushes or writes first, with `n1`, `n2` and `n4` as given, and the status bits it sets. -/
def gives (i : Instr) (x y z : Word) (p : Word → Status → Bool) : Bool :=
  steps (exec i (one { ctxA with prog := regSet [(1, x), (2, y), (4, z)] })) fun t => p (t.here.regs.q.headD 9) t.here.fpstatus

/-- What a divide pushes once the divider is done. -/
def divides (i : Instr) (x y : Word) (p : Word → Bool) : Bool :=
  steps (exec i (one { ctxA with prog := regSet [(1, x), (2, y)] })) fun t => steps (exec (.divideComplete 0) t) fun u => p (u.here.regs.q.headD 9)

/-- R110: −7 by 2, and a division by zero. -/
theorem test_divide_examples :
    divides (.div false 0 17 18) (-7) 2 (· == -3) = true ∧ divides (.rem false 0 17 18) (-7) 2 (· == -1) = true ∧
    divides (.divw false 0 17 18) 7 0 (· == 0xFFFFFFFFFFFFFFFF) = true ∧ divides (.remw false 0 17 18) 7 0 (· == 7) = true := by decide +kernel

/-- R114, R116: fields of C3A5; the bytes of the example of `BPERM`. -/
theorem test_scalar_examples :
    gives (.extz false 0 17 8 8) 0xC3A5 0 0 (fun v _ => v == 0xC3) = true ∧
    gives (.exts false 0 17 8 8) 0xC3A5 0 0 (fun v _ => v == 0xFFFFFFFFFFFFFFC3) = true ∧
    gives (.bperm false 0 17 18 20) 0x112233448899AABB 0x77665544 0x00082083 (fun v _ => v == 0xFF004488) = true := by decide +kernel

/-- R121: −2.75 to a signed integer of 32 bits and to an unsigned one of 64; 2^24 + 1 to FP32. -/
theorem test_conversion_examples :
    gives (.fcvti false 0 17 2 0) 0xC0300000 0 0 (fun v f => v == 0xFFFFFFFFFFFFFFFD && f == stIX) = true ∧
    gives (.fcvti false 0 17 1 0) 0xC0300000 0 0 (fun v f => v == 0 && f == stIV) = true ∧
    gives (.fcvtf false 0 17 0 0) 0x1000001 0 0 (fun v f => v == 0x4B800000 && f == stIX) = true := by decide +kernel

/-- R84, R85, R93: the breakpoint at unit 0x40 with the handler at unit 0x100 of bank 1. -/
theorem test_breakpoint_example :
    (let s := (one { ctxA with pc := 0x40, trapvec := 0xC100 }).updCore 0 fun k => k
     steps (exec (.bkpt false 3) { s with cur := { cx := 3, pc := 0x40, nxt := 0x46, slot := 0 } }) fun t =>
       t.here.trapcause == 0x08100013 && t.here.trappc == 0x40 && t.here.info0 == 0x00030000 && t.here.sys && archPc t.here.pc == 0x4100) = true := by
  decide +kernel

/-- R22, R41–R43, R53: the repeated bundle `add n5, n1, q0 | ld.w32 n6, [n2, 8] ;; rep 3, ew 2`, its first repetition. -/
theorem test_bundle_example :
    (decode [0x0A, 0x03, 0x00, 0x20, 0x00, 0x10, 0x55, 0x01, 0x02, 0x28, 0x59, 0x01]).toOption = some (.fullBundle 0x2000030A [0x01551000, 0x01592802], []) ∧
    (let r := { regSet [(1, 5), (2, BitVec.ofNat 64 (windowBase + 0x7F8))] with q := 100 :: List.replicate 15 0 }
     let s := (issuing 0).updCtx 5 fun c => { c with prog := r }
     steps (exec (.fullBundle 0x2000030A [0x01551000, 0x01592802]) s) fun t =>
       t.here.regs.get 5 == 105 && t.here.regs.q.take 2 == [105, 100] && t.here.cursors.s3 == 4 && t.here.mid &&
         t.here.rcLeft == 2) = true := by decide +kernel

/-- R133: the worked blocks of MXFP8 E4M3 and MXFP4 E2M1. -/
theorem test_block_examples :
    (let pad := fun (l : List Nat) => (l ++ List.replicate (32 - l.length) 0).map fp32.decode
     let a := mxBlock e4m3 (pad [0x447A0000, 0x3DCCCCCD, 0xC0400000, 0x40880000])
     let b := mxBlock e2m1 (pad [0x3F400000, 0xBE99999A])
     a.1 = 0x80 ∧ a.2.take 5 = [0x7E, 0x15, 0xBC, 0x40, 0] ∧ b.1 = 0x7C ∧ b.2.take 2 = [7, 0xC]) := by decide +kernel

end Sys2Proof.Tests
end

/-! # The canonical form of the memory under a step (R7, R281)

The predicates below say that every state inside a result has its memory in canonical form, one predicate for each type of result of the
model. For each function `f` of the model that takes a state there is one lemma, `State.MemWf.f`: from such a state, `f` gives such a
result. Only the writes of `State.putBytes`, `State.hwPut`, `State.copyRange` and `State.powerDown` change the memory; theirs are the
lemmas `wf_…` above. The lemma of any other function is the composition of the lemmas of the functions it calls. -/

namespace Sys2Proof.Machine

/-! ## Results that carry states -/

/-- The memory of a state is in canonical form. -/
def State.MemWf (s : State) : Prop := Memory.wf s.mem = true

/-- The state of an answer, where there is one, has its memory in canonical form. -/
def OptWf {α : Type} (st : α → State) : Option α → Prop
  | none => True
  | some a => (st a).MemWf

/-- What an op leaves, where it does not trap, has its memory in canonical form. -/
def TrapWf : Except Trap State → Prop
  | .ok s => s.MemWf
  | .error _ => True

/-- A translation leaves the memory in canonical form, whether it succeeds or traps. -/
def PlanWf {α : Type} : Except (State × Trap) (State × α) → Prop
  | .ok a => a.1.MemWf
  | .error a => a.1.MemWf

/-- The state that an agent's fault leaves has its memory in canonical form. -/
def EngErr.MemWf : EngErr → Prop
  | .fault (some s) => s.MemWf
  | _ => True

/-- An agent's access leaves the memory in canonical form, whether it succeeds or fails. -/
def EngWf {α : Type} (st : α → State) : Except EngErr α → Prop
  | .ok a => (st a).MemWf
  | .error e => e.MemWf

/-- An engine's result leaves the memory in canonical form. -/
def EngRes.MemWf (r : EngRes) : Prop := r.s.MemWf ∧ ∀ e, r.err = some e → e.MemWf

/-- What an engine's function gives, where its descriptor is good, leaves the memory in canonical form. -/
def BodyWf : Option EngRes → Prop
  | none => True
  | some r => r.MemWf

/-- The start of an entry leaves the memory in canonical form. -/
def Started.MemWf : Started → Prop
  | .wait => True
  | .phase s _ => s.MemWf
  | .done s => s.MemWf
  | .trap s _ _ => s.MemWf

/-- The next state of an outcome, where there is one, has its memory in canonical form. -/
def OutcomeWf : Host.Outcome State Fault Refusal → Prop
  | .next s => s.MemWf
  | _ => True

section
variable {s t : State} {α β : Type} {st : α → State} {st' : β → State} {c : Prop} [Decidable c]

theorem State.MemWf.of_fst {p : State × α} {x : α} (h : p.1.MemWf) (e : p = (t, x)) : t.MemWf := by
  subst e; exact h

theorem State.MemWf.ite (hs : s.MemWf) (ht : t.MemWf) : (if c then s else t).MemWf := by
  split <;> assumption

theorem State.MemWf.iteFst {p q : State × α} (hp : p.1.MemWf) (hq : q.1.MemWf) : (if c then p else q).1.MemWf := by
  split <;> assumption

theorem State.MemWf.iteElse (h : s.MemWf) (f : s.MemWf → t.MemWf) : (if c then s else t).MemWf := h.ite (f h)

theorem State.MemWf.iteThen (h : s.MemWf) (f : s.MemWf → t.MemWf) : (if c then t else s).MemWf := (f h).ite h

theorem State.MemWf.foldl {f : State → α → State} {l : List α} (h : s.MemWf) (hf : ∀ t a, t.MemWf → (f t a).MemWf) :
    (l.foldl f s).MemWf := wf_foldl hf l h

theorem OptWf.none : OptWf st none := trivial

theorem OptWf.get {o : Option α} {a : α} (h : OptWf st o) (e : o = some a) : (st a).MemWf := by
  subst e; exact h

theorem OptWf.ite {o p : Option α} (ho : OptWf st o) (hp : OptWf st p) : OptWf st (if c then o else p) := by
  split <;> assumption

theorem OptWf.bind {o : Option α} {f : α → Option β} (h : OptWf st o) (hf : ∀ a, (st a).MemWf → OptWf st' (f a)) :
    OptWf st' (o.bind f) := by
  cases o with
  | none => trivial
  | some a => exact hf a h

theorem OptWf.map {o : Option α} {f : α → β} (h : OptWf st o) (hf : ∀ a, (st a).MemWf → (st' (f a)).MemWf) :
    OptWf st' (o.map f) := by
  cases o with
  | none => trivial
  | some a => exact hf a h

theorem OptWf.map_all {o : Option α} {f : α → β} (hf : ∀ a, (st' (f a)).MemWf) : OptWf st' (o.map f) := by
  cases o with
  | none => trivial
  | some a => exact hf a

theorem OptWf.bind_all {o : Option α} {f : α → Option β} (hf : ∀ a, OptWf st' (f a)) : OptWf st' (o.bind f) := by
  cases o with
  | none => trivial
  | some a => exact hf a

theorem OptWf.or {o p : Option α} (ho : OptWf st o) (hp : OptWf st p) : OptWf st (o.or p) := by
  cases o with
  | none => exact hp
  | some a => exact ho

theorem OptWf.getD {o : Option State} (ho : OptWf id o) (hs : s.MemWf) : (o.getD s).MemWf := by
  cases o with
  | none => exact hs
  | some a => exact ho

theorem TrapWf.get {x : Except Trap State} (h : TrapWf x) (e : x = .ok s) : s.MemWf := by
  subst e; exact h

theorem TrapWf.ite {x y : Except Trap State} (hx : TrapWf x) (hy : TrapWf y) : TrapWf (if c then x else y) := by
  split <;> assumption

theorem TrapWf.foldlM {f : State → α → Except Trap State} (hf : ∀ t a, t.MemWf → TrapWf (f t a)) :
    ∀ (l : List α) (s : State), s.MemWf → TrapWf (l.foldlM f s)
  | [], _, h => h
  | a :: l, s, h => by
    have ha := hf s a h
    rw [List.foldlM_cons]
    cases e : f s a with
    | error => trivial
    | ok t => exact TrapWf.foldlM hf l t (ha.get e)

theorem PlanWf.ok {x : Except (State × Trap) (State × α)} {a : State × α} (h : PlanWf x) (e : x = .ok a) : a.1.MemWf := by
  subst e; exact h

theorem PlanWf.error {x : Except (State × Trap) (State × α)} {a : State × Trap} (h : PlanWf x) (e : x = .error a) : a.1.MemWf := by
  subst e; exact h

theorem EngErr.MemWf.getD {w : Option State} (hw : (EngErr.fault w).MemWf) (hs : s.MemWf) : (w.getD s).MemWf := by
  cases w with
  | none => exact hs
  | some t => exact hw

theorem EngWf.ok {x : Except EngErr α} {a : α} (h : EngWf st x) (e : x = .ok a) : (st a).MemWf := by
  subst e; exact h

theorem EngWf.error {x : Except EngErr α} {e : EngErr} (h : EngWf st x) (he : x = .error e) : e.MemWf := by
  subst he; exact h

theorem EngWf.ite {x y : Except EngErr α} (hx : EngWf st x) (hy : EngWf st y) : EngWf st (if c then x else y) := by
  split <;> assumption

theorem EngWf.bind {x : Except EngErr α} {f : α → Except EngErr β} (h : EngWf st x) (hf : ∀ a, (st a).MemWf → EngWf st' (f a)) :
    EngWf st' (x >>= f) := by
  cases x with
  | error e => exact h
  | ok a => exact hf a h

theorem EngWf.foldlM {f : α → β → Except EngErr α} (hf : ∀ a b, (st a).MemWf → EngWf st (f a b)) :
    ∀ (l : List β) (a : α), (st a).MemWf → EngWf st (l.foldlM f a)
  | [], _, h => h
  | b :: l, a, h => (hf a b h).bind fun a' h' => EngWf.foldlM hf l a' h'

theorem BodyWf.none : BodyWf none := trivial

theorem BodyWf.get {x : Option EngRes} {r : EngRes} (h : BodyWf x) (e : x = some r) : r.MemWf := by
  subst e; exact h

theorem BodyWf.ite {x y : Option EngRes} (hx : BodyWf x) (hy : BodyWf y) : BodyWf (if c then x else y) := by
  split <;> assumption

theorem EngErr.MemWf.body {e : EngErr} {w : Word} {p : Bool} (he : e.MemWf) (hs : s.MemWf) :
    BodyWf (some { s := s, result := w, poison := p, err := some e }) :=
  ⟨hs, fun _ h => Option.some.inj h ▸ he⟩

theorem State.MemWf.body {w : Word} {p : Bool} (hs : s.MemWf) : BodyWf (some { s := s, result := w, poison := p }) := ⟨hs, nofun⟩

theorem OutcomeWf.ite {x y : Host.Outcome State Fault Refusal} (hx : OutcomeWf x) (hy : OutcomeWf y) :
    OutcomeWf (if c then x else y) := by
  split <;> assumption

theorem Started.MemWf.ite {x y : Started} (hx : x.MemWf) (hy : y.MemWf) : (if c then x else y : Started).MemWf := by
  split <;> assumption
end

/-! ## Writes to the state's parts, stops and traps -/

section
variable {s : State}

theorem State.MemWf.setCtx {cx : Nat} {c : Ctx} (h : s.MemWf) : (s.setCtx cx c).MemWf := h

theorem State.MemWf.updCtx {cx : Nat} {f : Ctx → Ctx} (h : s.MemWf) : (s.updCtx cx f).MemWf := h

theorem State.MemWf.setCore {k : Nat} {c : Core} (h : s.MemWf) : (s.setCore k c).MemWf := h

theorem State.MemWf.updCore {k : Nat} {f : Core → Core} (h : s.MemWf) : (s.updCore k f).MemWf := h

theorem State.MemWf.updCluster {k : Nat} {f : Cluster → Cluster} (h : s.MemWf) : (s.updCluster k f).MemWf := h

theorem State.MemWf.updQuad {k : Nat} {f : Quad → Quad} (h : s.MemWf) : (s.updQuad k f).MemWf := h

theorem State.MemWf.setDie {k : Nat} {d : Die} (h : s.MemWf) : (s.setDie k d).MemWf := h

theorem State.MemWf.updDie {k : Nat} {f : Die → Die} (h : s.MemWf) : (s.updDie k f).MemWf := h

theorem State.MemWf.retime {cl : Nat} (h : s.MemWf) : (s.retime cl).MemWf := h

theorem State.MemWf.setClock {cl : Nat} {f : Cluster → Cluster} (h : s.MemWf) : (s.setClock cl f).MemWf :=
  (h.ite h.retime).updCluster

theorem State.MemWf.putBytes {key : Nat} {bs : List Byte} (h : s.MemWf) : (s.putBytes key bs).MemWf := wf_putBytes h key bs

theorem State.MemWf.setLinePois {key : Nat} {p : Bool} (h : s.MemWf) : (s.setLinePois key p).MemWf := h

theorem State.MemWf.out (h : s.MemWf) : OutcomeWf s.out := by
  fun_cases State.out s with
  | case2 => trivial
  | _ => exact h

theorem State.MemWf.after {x : Host.Outcome State Fault Refusal} (h : s.MemWf) (hx : OutcomeWf x) : (s.after x).MemWf := by
  cases x with
  | next t => exact hx
  | _ => exact h

theorem State.MemWf.dropEngines {mine : Nat → Option (Nat × Nat) → Bool} (h : s.MemWf) : (s.dropEngines mine).MemWf := h

theorem State.MemWf.stopCtx {cx : Nat} (h : s.MemWf) : (s.stopCtx cx).MemWf := h

theorem State.MemWf.failLaunch {l : Option Nat} {status : Nat} (h : s.MemWf) : (s.failLaunch l status).MemWf := by
  fun_cases State.failLaunch s l status with
  | case2 => exact dropEngines (foldl h fun _ _ ht => ht.stopCtx)
  | _ => exact h

theorem State.MemWf.withdrawLdnb {cx : Nat} (h : s.MemWf) : (s.withdrawLdnb cx).1.MemWf := h

theorem State.MemWf.forgetWaits {cx : Nat} {es : List Entry} (h : s.MemWf) : (s.forgetWaits cx es).MemWf := h

theorem State.MemWf.haltWaits {cx : Nat} (h : s.MemWf) : (s.haltWaits cx).MemWf := h

theorem State.MemWf.plainHalt {core : Nat} (h : s.MemWf) : (s.plainHalt core).MemWf :=
  h.updCore.ite ((h.foldl fun _ _ ht => ht.haltWaits).updCore)

theorem State.MemWf.holdEntries {cx : Nat} {mark : Bool} (h : s.MemWf) : (s.holdEntries cx mark).MemWf := h

theorem State.MemWf.takeTrap {cx : Nat} {t : Trap} {tpc rep rpc rcleft : Nat} {mid stream drop : Bool} (h : s.MemWf) :
    (s.takeTrap cx t tpc rep rpc rcleft mid stream drop).MemWf :=
  h.stopCtx.failLaunch.ite h.holdEntries.updCtx

theorem State.MemWf.takePrecise {t : Trap} (h : s.MemWf) : (s.takePrecise t).MemWf := h.takeTrap
end

/-! ## Home memory, the caches and the slices -/

section
variable {s : State}

theorem State.MemWf.setMod {m : Nat} {x : Module} (h : s.MemWf) : (s.setMod m x).MemWf := h

theorem State.MemWf.updMod {m : Nat} {f : Module → Module} (h : s.MemWf) : (s.updMod m f).MemWf := h

theorem State.MemWf.post {die : Nat} {code : LogCode} {data : List Nat} (h : s.MemWf) : (s.post die code data).MemWf := h

theorem State.MemWf.noteWear {key : Nat} (h : s.MemWf) : (s.noteWear key).MemWf := h.updMod.ite h

theorem State.MemWf.touch {key : Nat} (h : s.MemWf) : (s.touch key).MemWf := h

theorem State.MemWf.mediaAccess {key : Nat} (h : s.MemWf) : (s.mediaAccess key).MemWf := h

theorem State.MemWf.sliceRoom {quad key : Nat} (h : s.MemWf) : (s.sliceRoom quad key).1.MemWf := by
  fun_cases State.sliceRoom s quad key with
  | case3 => exact (h.mediaAccess.noteWear.ite h).updQuad
  | _ => exact h

theorem State.MemWf.fillSlice {key : Nat} (h : s.MemWf) : (s.fillSlice key).MemWf :=
  h.ite ((h.mediaAccess.sliceRoom.iteThen (·.mediaAccess.noteWear)).updQuad)

theorem State.MemWf.servesRead {key : Nat} (h : s.MemWf) : (s.servesRead key).MemWf := h

theorem State.MemWf.homeRead {key n : Nat} (h : s.MemWf) : OptWf Prod.fst (s.homeRead key n) := by
  fun_cases State.homeRead s key n with
  | case2 => exact h.servesRead.fillSlice
  | case3 => exact h.servesRead
  | case4 => trivial
  | _ => exact h

theorem State.MemWf.homeWrite {key : Nat} {bs : List Byte} {poison : Bool} (h : s.MemWf) : (s.homeWrite key bs poison).MemWf :=
  wf_homeWrite h key bs poison

theorem State.MemWf.hwGet {key n : Nat} (h : s.MemWf) : (s.hwGet key n).1.MemWf :=
  h.iteFst (h.foldl fun _ _ ht => ht.servesRead.fillSlice)

theorem State.MemWf.hwPut {key : Nat} {bs : List Byte} (h : s.MemWf) : (s.hwPut key bs).MemWf := wf_hwPut h key bs

theorem State.MemWf.putTile {key : Nat} {cols : Map W32} (h : s.MemWf) : (s.putTile key cols).MemWf := wf_putTile h key cols

theorem State.MemWf.writeBackCached {l : CacheLine} (h : s.MemWf) : (s.writeBackCached l).MemWf := h.homeWrite.ite h

theorem State.MemWf.flushCached {cl key : Nat} (h : s.MemWf) : (s.flushCached cl key).MemWf := by
  fun_cases State.flushCached s cl key with
  | case2 => exact h.writeBackCached.updCluster
  | _ => exact h

theorem State.MemWf.writeBackAll {cl : Nat} (h : s.MemWf) : (s.writeBackAll cl).MemWf :=
  (h.foldl fun _ _ ht => ht.writeBackCached).updCluster

theorem State.MemWf.dropClean {cl : Nat} (h : s.MemWf) : (s.dropClean cl).MemWf := h

theorem State.MemWf.flushAll {cl : Nat} (h : s.MemWf) : (s.flushAll cl).MemWf := h.writeBackAll.updCluster

theorem State.MemWf.cacheFill {cl : Nat} {l : Option Nat} {key : Nat} (h : s.MemWf) : OptWf id (s.cacheFill cl l key) := by
  fun_cases State.cacheFill s cl l key with
  | case1 => exact h.updCluster
  | case3 _ _ _ _ e _ old =>
    have hr := h.flushCached.homeRead.get e
    exact updCluster (by cases old; exacts [hr, hr.flushCached])
  | _ => trivial

theorem State.MemWf.cacheRead {cl : Nat} {l : Option Nat} {key n : Nat} (h : s.MemWf) : OptWf Prod.fst (s.cacheRead cl l key n) := by
  fun_cases State.cacheRead s cl l key n with
  | case3 _ e => exact h.cacheFill.get e
  | _ => trivial

theorem State.MemWf.cacheWrite {cl : Nat} {l : Option Nat} {key : Nat} {bs : List Byte} {poison : Bool} (h : s.MemWf) :
    OptWf id (s.cacheWrite cl l key bs poison) := by
  fun_cases State.cacheWrite s cl l key bs poison with
  | case2 _ e => exact (h.cacheFill.get e).updCluster
  | _ => trivial

theorem State.MemWf.dropCopy {q key : Nat} (h : s.MemWf) : (s.dropCopy q key).MemWf := h

theorem State.MemWf.dropCopies {die key : Nat} (h : s.MemWf) : (s.dropCopies die key).MemWf := h.foldl fun _ _ ht => ht.dropCopy

theorem State.MemWf.copyRead {q key n : Nat} (h : s.MemWf) : OptWf Prod.fst (s.copyRead q key n) := by
  fun_cases State.copyRead s q key n with
  | case3 _ _ _ _ e _ _ e2 => exact (((h.homeRead.get e).sliceRoom).of_fst e2).iteThen (·.updQuad)
  | case2 => trivial
  | _ => exact h

theorem State.MemWf.copyWrite {q key : Nat} {bs : List Byte} {poison : Bool} (h : s.MemWf) : (s.copyWrite q key bs poison).MemWf := by
  fun_cases State.copyWrite s q key bs poison with
  | case1 => exact h.homeWrite
  | case2 => exact h.homeWrite.updQuad

theorem State.MemWf.countMigration {key die : Nat} (h : s.MemWf) : (s.countMigration key die).MemWf := by
  fun_cases State.countMigration s key die with
  | case1 => exact h.updQuad.post.updQuad
  | case2 | case3 => exact h.updQuad

theorem State.MemWf.readPiece {cx : Nat} {cached : Bool} {p : Piece} (h : s.MemWf) : OptWf Prod.fst (s.readPiece cx cached p) := by
  fun_cases State.readPiece s cx cached p with
  | case5 _ _ _ _ _ _ sCounted =>
    have hCounted : sCounted.MemWf := h.countMigration.ite h
    exact (hCounted.copyRead.ite (hCounted.cacheRead.ite hCounted.homeRead)).map fun _ ht => ht
  | _ => exact h

theorem State.MemWf.writePiece {cx : Nat} {cached : Bool} {p : Piece} {bs : List Byte} {poison : Bool} (h : s.MemWf) :
    OptWf id (s.writePiece cx cached p bs poison) := by
  fun_cases State.writePiece s cx cached p bs poison with
  | case1 | case3 => exact h.updCluster
  | case2 => exact h.updCore
  | case5 => exact (h.countMigration.ite h).copyWrite
  | case6 => exact (h.countMigration.ite h).cacheWrite
  | case7 => exact (h.countMigration.ite h).homeWrite
  | _ => exact h

theorem State.MemWf.readPieces {cx : Nat} {cached : Bool} {l : List Piece} (h : s.MemWf) : OptWf Prod.fst (s.readPieces cx cached l) := by
  fun_induction State.readPieces s cx cached l with
  | case1 => exact h
  | case4 _ _ _ _ _ _ e _ _ _ e2 ih => exact ((ih (h.readPiece.get e)).get e2 :)
  | _ => trivial

theorem State.MemWf.cleanLine {cx : Nat} {cached : Bool} {p : Piece} (h : s.MemWf) : (s.cleanLine cx cached p).MemWf := by
  fun_cases State.cleanLine s cx cached p with
  | case1 => exact h.updCluster
  | case2 => exact h.setLinePois.updQuad
  | _ => exact h

theorem State.MemWf.writeParts {cx : Nat} {cached poison : Bool} {whole : List Nat} {ps : List Piece} {bs : List Byte} (h : s.MemWf) :
    OptWf id (s.writeParts cx cached poison whole ps bs) := by
  fun_induction State.writeParts s cx cached poison whole ps bs with
  | case1 => exact h
  | case2 => trivial
  | case3 _ _ _ _ _ e ih => exact ih ((h.writePiece.get e).iteThen (·.cleanLine))

theorem State.MemWf.writePieces {cx : Nat} {cached poison : Bool} {ps : List Piece} {bs : List Byte} (h : s.MemWf) :
    OptWf id (s.writePieces cx cached poison ps bs) :=
  h.writeParts

theorem State.MemWf.bypass {cx : Nat} {drop : Bool} {p : Piece} (h : s.MemWf) : (s.bypass cx drop p).MemWf := by
  fun_cases State.bypass s cx drop p with
  | case1 => exact (h.flushCached.ite h).dropCopy
  | case2 => exact h.flushCached.ite h
  | _ => exact h
end

/-! ## Translation -/

section
variable {s : State}

theorem State.MemWf.walkRead {key : Nat} (h : s.MemWf) : (s.walkRead key).1.MemWf := h.servesRead.fillSlice

theorem State.MemWf.walkWord {cached : Option Word} {key : Nat} {e : Word} {t : State} (h : s.MemWf)
    (he : (match cached with | some w => (s, w) | none => s.walkRead key) = (t, e)) : t.MemWf := by
  cases cached with
  | none => exact h.walkRead.of_fst he
  | some w => exact h.of_fst he

theorem State.MemWf.walkFrom {sp : Space} {kind : AccKind} {va n t : Nat} {up : Bool} {l : List WalkEntry} (h : s.MemWf) :
    (s.walkFrom sp kind va n t up l).1.MemWf := by
  fun_induction State.walkFrom s sp kind va n t up l with
  | case1 => exact h
  | case4 _ _ _ _ _ _ _ _ _ e _ _ _ _ ih => exact ih (h.walkWord e)
  | case2 _ _ _ _ _ _ _ _ _ e | case3 _ _ _ _ _ _ _ _ _ e | case5 _ _ _ _ _ _ _ _ _ e | case6 _ _ _ _ _ _ _ _ _ e
  | case7 _ _ _ _ _ _ _ _ _ e => exact h.walkWord e

theorem State.MemWf.walk {sp : Space} {kind : AccKind} {va : Nat} (h : s.MemWf) : (s.walk sp kind va).1.MemWf :=
  h.iteFst (h.iteFst (h.iteFst h.walkFrom))

theorem State.MemWf.l1Fill {sp : Space} {t : TlbEntry} (h : s.MemWf) : (s.l1Fill sp t).MemWf := by
  fun_cases State.l1Fill s sp t with
  | case1 => exact h.updCore
  | _ => exact h

theorem State.MemWf.hitFill {sp : Space} {va : Nat} {t : TlbEntry} (h : s.MemWf) : (s.hitFill sp va t).MemWf := h.ite h.l1Fill

theorem State.MemWf.tlbFill {sp : Space} {t : TlbEntry} (h : s.MemWf) : (s.tlbFill sp t).MemWf := h.l1Fill.updCluster

theorem State.MemWf.walkFill {sp : Space} {w : WalkRes} (h : s.MemWf) : (s.walkFill sp w).MemWf := h.ite h.updQuad

theorem State.MemWf.walkDone {sp : Space} {kind : AccKind} {va : Nat} {w : WalkRes} (h : s.MemWf) : (s.walkDone sp kind va w).1.MemWf :=
  (h.walkFill.touch.iteElse (·.homeWrite)).iteElse (·.tlbFill)

theorem State.MemWf.xlate {sp : Space} {kind : AccKind} {va : Nat} (h : s.MemWf) : PlanWf (s.xlate sp kind va) := by
  fun_cases State.xlate s sp kind va with
  | case3 => exact h.hitFill
  | case5 _ _ _ _ e | case7 _ _ _ _ e => exact h.walk.of_fst e
  | case6 _ _ _ _ e _ _ _ e2 => exact ((h.walk.of_fst e).walkDone).of_fst e2
  | _ => exact h

theorem State.MemWf.xlatePref {sp : Space} {va : Nat} (h : s.MemWf) : (s.xlatePref sp va).1.MemWf := by
  fun_cases State.xlatePref s sp va with
  | case1 => exact h.hitFill
  | case3 _ _ _ e | case4 _ _ _ e => exact h.walk.of_fst e
  | case5 _ _ _ e => exact ((h.walk.of_fst e).walkFill).iteThen (·.tlbFill)
  | _ => exact h

theorem State.MemWf.execPageWalk {cx : Nat} {va : Word} {kind : BitVec 2} (h : s.MemWf) : OutcomeWf (execPageWalk cx va kind s) := by
  fun_cases Machine.execPageWalk cx va kind s with
  | case1 _ _ _ _ _ e => exact h.walk.of_fst e
  | case2 _ _ _ _ _ e => exact (h.walk.of_fst e).iteThen (·.walkDone)

theorem State.MemWf.tlbInvalidate {m : Nat} {mode : BitVec 2} {va : Nat} {asid : BitVec 16} (h : s.MemWf) :
    (s.tlbInvalidate m mode va asid).MemWf :=
  h
end

/-! ## Accesses of contexts -/

section
variable {s : State}

theorem State.MemWf.setOut {cx : Nat} {e : Entry} {v : OutVal} (h : s.MemWf) : (s.setOut cx e v).MemWf := h

theorem State.MemWf.streamFault {cx : Nat} {e : Entry} {t : Trap} {drop : Bool} (h : s.MemWf) : (s.streamFault cx e t drop).MemWf :=
  h

theorem State.MemWf.planScalar {cx : Nat} {e : Entry} {ad : Admit} {kind : AccKind} {va n : Nat} (h : s.MemWf) :
    PlanWf (s.planScalar cx e ad kind va n) := by
  fun_cases State.planScalar s cx e ad kind va n with
  | case4 _ _ _ _ e => exact h.xlate.ok e
  | case5 _ _ _ e => exact h.xlate.error e
  | _ => exact h

theorem State.MemWf.planParts {cx : Nat} {e : Entry} {ad : Admit} {kind : AccKind} {l : List (Nat × Nat)} (h : s.MemWf) :
    PlanWf (s.planParts cx e ad kind l) := by
  fun_induction State.planParts s cx e ad kind l with
  | case1 => exact h
  | case2 _ _ _ _ _ e => exact h.planScalar.error e
  | case3 _ _ _ _ _ _ e _ e2 ih => exact ((ih (h.planScalar.ok e)).error e2 :)
  | case4 _ _ _ _ _ _ e _ _ e2 ih => exact ((ih (h.planScalar.ok e)).ok e2 :)

theorem State.MemWf.planTile {cx : Nat} {e : Entry} {ad : Admit} {kind : AccKind} {base stride : Word} (h : s.MemWf) :
    PlanWf (s.planTile cx e ad kind base stride) := by
  fun_cases State.planTile s cx e ad kind base stride with
  | case3 => exact h.planParts
  | _ => exact h

theorem State.MemWf.send {p : Packet} (h : s.MemWf) : OptWf Prod.fst (s.send p) := OptWf.ite .none h

theorem State.MemWf.storeParts {cx : Nat} {e : Entry} {cached poison : Bool} {whole : List Nat} {l : List Piece} {bs : List Byte}
    (h : s.MemWf) : OptWf id (s.storeParts cx e cached poison whole l bs) := by
  fun_induction State.storeParts s cx e cached poison whole l bs with
  | case1 => exact h
  | case2 s _ _ _ _ _ ih =>
    exact OptWf.bind (st := id) (.ite (h.send.map fun _ ht => ht) (h.writePiece.map fun _ ht => ht.cleanLine.ite ht)) ih

theorem State.MemWf.storePieces {cx : Nat} {e : Entry} {cached : Bool} {a : Nat} {ps : List Piece} {bs : List Byte} {poison : Bool}
    (h : s.MemWf) :
    (s.storePieces cx e cached a ps bs poison).MemWf := by
  fun_cases State.storePieces s cx e cached a ps bs poison with
  | case2 => exact h.updCtx
  | case6 _ _ _ _ _ _ e => exact (h.storeParts.get e).updCtx
  | case4 | case5 => trivial
  | _ => exact h

theorem State.MemWf.addContained {cx : Nat} (h : s.MemWf) : (s.addContained cx).MemWf := h.ite h.updCore

theorem State.MemWf.noted {cx : Nat} {scratch : Bool} (h : s.MemWf) : (s.noted cx scratch).MemWf := h.addContained.updCtx

theorem State.MemWf.noteError {cx : Nat} (h : s.MemWf) : (s.noteError cx).MemWf := h.noted

theorem State.MemWf.loadParts {cx : Nat} {e : Entry} {cached : Bool} {g n : Nat} {l : List Piece} {y : Gather} (h : s.MemWf) :
    OptWf Prod.fst (s.loadParts cx e cached g n l y) := by
  fun_induction State.loadParts s cx e cached g n l y with
  | case1 => exact h
  | case2 _ _ _ _ _ _ ih => exact OptWf.bind (.ite (h.send.map fun _ ht => ht) (h.readPiece.map fun _ ht => ht)) ih

theorem State.MemWf.loadPieces {cx : Nat} {e : Entry} {cached hold : Bool} {a : Nat} {ps : List Piece}
    {fin : State → List Byte → Bool → Started} (h : s.MemWf) (hf : ∀ t bs p, t.MemWf → (fin t bs p).MemWf) :
    (s.loadPieces cx e cached hold a ps fin).MemWf := by
  refine Started.MemWf.ite h (Started.MemWf.ite trivial (Started.MemWf.ite h.noteError ?_))
  split
  · split
    · trivial
    · next _ _ _ e => exact hf _ _ _ (h.readPieces.get e)
  · split
    · trivial
    · next _ _ e => exact Started.MemWf.ite (h.send.get e) (h.send.get e :)
  · dsimp only
    split
    · trivial
    · next _ _ _ e =>
      have ht := (loadParts (s := { s with nextPkt := s.nextPkt + 1 }) h).get e
      exact Started.MemWf.ite ht ht
end

/-! ## Accesses of engines and ends of commands -/

section
variable {s : State}

theorem State.MemWf.saveBlock {c : Ctx} {held : List Entry} (h : s.MemWf) : (s.saveBlock c held).MemWf := h.hwPut.hwPut

theorem State.MemWf.editArea {keep : Ctx} {f : Ctx → Ctx} (h : s.MemWf) : (s.editArea keep f).1.MemWf := by
  unfold State.editArea
  split
  · exact h
  · dsimp only
    exact h.hwPut

theorem State.MemWf.setCmd {id : Nat} {c : Command} (h : s.MemWf) : (s.setCmd id c).MemWf := h

theorem State.MemWf.updCmd {id : Nat} {f : Command → Command} (h : s.MemWf) : (s.updCmd id f).MemWf := by
  fun_cases State.updCmd s id f with
  | case1 => exact h.setCmd
  | _ => exact h

theorem State.MemWf.updLaunch {l : Nat} {f : Launch → Launch} (h : s.MemWf) : (s.updLaunch l f).MemWf := h

theorem State.MemWf.agentPlan {a : Agent} {kind : AccKind} {va n : Nat} (h : s.MemWf) : EngWf Prod.fst (s.agentPlan a kind va n) := by
  fun_cases State.agentPlan s a kind va n with
  | case10 _ _ _ e => exact h.xlate.error e
  | case11 _ _ _ e | case13 _ _ _ e => exact h.xlate.ok e
  | case3 | case5 | case7 | case8 => exact h
  | _ => trivial

theorem State.MemWf.agentPlans {a : Agent} {kind : AccKind} {l : List (Nat × Nat)} (h : s.MemWf) :
    EngWf Prod.fst (State.agentPlans a kind l s) := by
  fun_induction State.agentPlans a kind l s with
  | case1 => exact h
  | case2 _ _ _ _ ih => exact h.agentPlan.bind fun _ ht => (ih _ ht).bind fun _ hu => hu

theorem State.MemWf.agentReadPiece {a : Agent} {p : Piece} (h : s.MemWf) : EngWf Prod.fst (s.agentReadPiece a p) := by
  fun_cases State.agentReadPiece s a p with
  | case7 => exact h.countMigration.ite h
  | case9 _ _ _ _ _ _ _ _ _ e => exact ((h.countMigration.ite h).homeRead).get e
  | case11 _ _ _ _ _ _ _ e => exact (((h.countMigration.ite h).copyRead).ite ((h.countMigration.ite h).homeRead)).get e
  | case5 | case6 | case8 | case10 => trivial
  | _ => exact h

theorem State.MemWf.noteScm {id : Option Nat} {key : Nat} (h : s.MemWf) : (s.noteScm id key).MemWf := by
  fun_cases State.noteScm s id key with
  | case1 => exact h.setCmd
  | _ => exact h

theorem State.MemWf.agentWritePiece {a : Agent} {p : Piece} {bs : List Byte} {poison : Bool} (h : s.MemWf) :
    (s.agentWritePiece a p bs poison).MemWf := by
  fun_cases State.agentWritePiece s a p bs poison with
  | case1 | case2 => exact h.updCluster
  | case3 => exact h.updCore
  | case4 => exact h.hwPut
  | case7 => exact ((((h.countMigration.ite h).flushCached).dropCopies).homeWrite).noteScm
  | _ => exact h

theorem State.MemWf.agentReadPieces {a : Agent} {l : List Piece} (h : s.MemWf) : EngWf Prod.fst (State.agentReadPieces a l s) := by
  fun_induction State.agentReadPieces a l s with
  | case1 => exact h
  | case2 _ _ _ ih => exact h.agentReadPiece.bind fun _ ht => (ih _ ht).bind fun _ hu => hu

theorem State.MemWf.agentWritePieces {a : Agent} {poison : Bool} {ps : List Piece} {bs : List Byte} (h : s.MemWf) :
    (State.agentWritePieces a poison ps bs s).MemWf := by
  fun_induction State.agentWritePieces a poison ps bs s with
  | case1 => exact h
  | case2 _ _ _ _ ih => exact ih h.agentWritePiece

theorem State.MemWf.agentRead {a : Agent} {va n : Nat} (h : s.MemWf) : EngWf Prod.fst (s.agentRead a va n) :=
  h.agentPlans.bind fun _ ht => ht.agentReadPieces

theorem State.MemWf.agentWrite {a : Agent} {va : Nat} {bs : List Byte} {poison full : Bool} (h : s.MemWf) :
    EngWf id (s.agentWrite a va bs poison full) := by
  refine EngWf.ite trivial (h.agentPlans.bind fun p hp => ?_)
  dsimp only
  split
  · exact hp.agentWritePieces.updCluster
  · exact hp.agentWritePieces

theorem State.MemWf.onCmdCtx {c : Command} {f : Ctx → Ctx} (h : s.MemWf) : (s.onCmdCtx c f).MemWf := by
  fun_cases State.onCmdCtx s c f with
  | case1 => exact h.updCtx
  | case2 _ _ _ _ _ e => exact (h.editArea.of_fst e).updLaunch

theorem State.MemWf.newCmd {c : Command} (h : s.MemWf) : (s.newCmd c).1.MemWf := h

theorem State.MemWf.endCmd {id : Nat} {fail : Option (Nat × Nat)} (h : s.MemWf) : (s.endCmd id fail).MemWf := by
  fun_cases State.endCmd s id fail with
  | case5 => exact onCmdCtx h
  | _ => exact h

theorem State.MemWf.parkCmd {id : Nat} {fail : State} (h : s.MemWf) (hf : fail.MemWf) : (s.parkCmd id fail).MemWf := by
  fun_cases State.parkCmd s id fail with
  | case4 => exact hf
  | _ => exact h

theorem State.MemWf.agentReadTags {a : Agent} {l : List (Nat × Nat)} (h : s.MemWf) : EngWf Prod.fst (State.agentReadTags a l s) := by
  fun_induction State.agentReadTags a l s with
  | case1 => exact h
  | case2 _ _ _ _ ih => exact h.agentRead.bind fun _ ht => (ih _ ht).bind fun _ hu => hu
end

/-! ## Copies -/

section
variable {s : State}

theorem State.MemWf.coverWord {id cl off n : Nat} {poison : Bool} {w : Nat} (h : s.MemWf) :
    (State.coverWord id cl off n poison s w).MemWf := by
  fun_cases State.coverWord id cl off n poison s w with
  | case2 => exact h.setCmd.updCluster
  | case3 => exact h.setCmd
  | _ => exact h

theorem State.MemWf.coverWords {a : Agent} {va n : Nat} {poison : Bool} (h : s.MemWf) : (s.coverWords a va n poison).MemWf := by
  fun_cases State.coverWords s a va n poison with
  | case2 => exact h.foldl fun _ _ ht => ht.coverWord
  | _ => exact h

theorem State.MemWf.destAddr {slot : Option (Nat × Nat)} {off : Int} {n : Nat} (h : s.MemWf) :
    EngWf (fun _ => s) (destAddr slot off n) := by
  fun_cases Machine.destAddr slot off n with
  | case3 => trivial
  | _ => exact h

theorem State.MemWf.copyDescPut {d : CopyDesc} {a : Agent} {slot : Option (Nat × Nat)} {off : Int} {bs : List Byte} {poison : Bool}
    (h : s.MemWf) : EngWf id (d.put a slot off bs poison s) :=
  h.destAddr.bind fun _ ht => ht.agentWrite.bind fun _ hu => hu.coverWords

theorem State.MemWf.copyFifo {a : Agent} {b off esize : Nat} {strides : List Int} {push : Bool} (h : s.MemWf) :
    EngWf (fun _ => s) (s.copyFifo a b off esize strides push) := by
  fun_cases State.copyFifo s a b off esize strides push with
  | case5 => exact h
  | _ => trivial

theorem State.MemWf.putCopyFifo {a : Agent} {b : Nat} {l : List (Word × Bool)} (h : s.MemWf) : (s.putCopyFifo a b l).MemWf := by
  fun_cases State.putCopyFifo s a b l with
  | case1 => exact h.updCluster.setCmd
  | case2 => exact h.updCluster

theorem State.MemWf.copyDescTake {d : CopyDesc} {a : Agent} {src : Nat} (h : s.MemWf) : EngWf Prod.fst (CopyDesc.take d a src s) := by
  fun_cases CopyDesc.take d a src s with
  | case1 => exact h.agentRead
  | case2 _ _ _ _ e => exact h.copyFifo.error e
  | case4 => exact h.putCopyFifo
  | _ => trivial

theorem State.MemWf.copyDescGive {d : CopyDesc} {a : Agent} {slot : Option (Nat × Nat)} {off : Int} {bs : List Byte} {poison : Bool}
    (h : s.MemWf) :
    EngWf id (CopyDesc.give d a slot off bs poison s) := by
  fun_cases CopyDesc.give d a slot off bs poison s with
  | case1 => exact h.copyDescPut
  | case2 _ _ _ _ e => exact h.copyFifo.error e
  | case3 => exact h.putCopyFifo

theorem State.MemWf.copyDescElement {d : CopyDesc} {a : Agent} {slot : Option (Nat × Nat)} {n : Nat} (h : s.MemWf) :
    EngWf id (d.element a slot n s) :=
  .ite trivial (h.copyDescTake.bind fun _ ht => ht.copyDescGive)

theorem State.MemWf.copyDescBlockElems {d : CopyDesc} {a : Agent} {src ss : Int} {i n : Nat} (h : s.MemWf) :
    EngWf Prod.fst (d.blockElems a src ss i n s) := by
  fun_induction CopyDesc.blockElems d a src ss i n s with
  | case1 => exact h
  | case2 => trivial
  | case3 _ _ _ _ _ _ ih => exact h.agentRead.bind fun _ ht => (ih _ ht).bind fun _ hu => hu

theorem State.MemWf.copyDescBlock {d : CopyDesc} {a : Agent} {slot : Option (Nat × Nat)} {n : Nat} (h : s.MemWf) :
    EngWf id (CopyDesc.block d a slot n s) := by
  fun_cases CopyDesc.block d a slot n s with
  | case1 => exact h.copyDescBlockElems.bind fun _ ht => ht.copyDescPut.bind fun _ hu => hu.copyDescPut
  | _ => exact h

theorem State.MemWf.copyDescRun {d : CopyDesc} {a : Agent} {slot : Option (Nat × Nat)} {n i : Nat} (h : s.MemWf) :
    (CopyDesc.run d a slot n i s).1.MemWf := by
  fun_induction CopyDesc.run d a slot n i s with
  | case1 | case3 => exact h
  | case2 _ _ _ _ e => exact ((h.copyDescBlock.ite h.copyDescElement).error e).getD h
  | case4 _ _ _ _ e ih => exact ih ((h.copyDescBlock.ite h.copyDescElement).ok e)

theorem State.MemWf.endCopy {cl ch id : Nat} {failed : Bool} (h : s.MemWf) : (s.endCopy cl ch id failed).MemWf :=
  h.updCluster.endCmd

theorem State.MemWf.execCopyBegin {cl ch : Nat} (h : s.MemWf) : OutcomeWf (execCopyBegin cl ch s) := by
  fun_cases Machine.execCopyBegin cl ch s with
  | case3 => exact h.parkCmd h.endCopy
  | case4 _ _ _ _ _ _ e => exact ((h.agentRead.error e).getD h).endCopy
  | case6 _ _ _ _ _ _ _ _ e | case7 _ _ _ _ _ _ _ _ e => exact (h.agentRead.ok e).endCopy
  | case8 _ _ _ _ _ _ _ _ e => exact (h.agentRead.ok e).setCmd
  | _ => exact h

theorem State.MemWf.execRingSlotBind {cl ch : Nat} (h : s.MemWf) : OutcomeWf (execRingSlotBind cl ch s) := by
  fun_cases Machine.execRingSlotBind cl ch s with
  | case4 => exact h.endCopy
  | case5 => exact h.updCluster.setCmd
  | _ => exact h

theorem State.MemWf.execCopyComplete {cl ch : Nat} (h : s.MemWf) : OutcomeWf (execCopyComplete cl ch s) := by
  fun_cases Machine.execCopyComplete cl ch s with
  | case4 _ _ _ _ _ _ _ _ _ _ e =>
    have ht := h.copyDescRun.of_fst e
    exact endCopy (by split; exacts [ht, ht.updCluster])
  | case5 _ _ _ _ _ _ _ _ _ _ _ e =>
    have ht := h.copyDescRun.of_fst e
    exact endCopy (by split; exacts [ht, ht.updCluster])
  | case6 _ _ _ _ _ _ _ _ _ e => exact (h.copyDescRun.of_fst e).updCmd
  | case7 _ _ _ _ _ _ _ _ _ _ _ e => exact (h.copyDescRun.of_fst e).updCmd
  | case8 _ _ _ _ _ _ _ _ _ _ e =>
    have ht := h.copyDescRun.of_fst e
    exact ht.updCmd.parkCmd (endCopy (by split; exacts [ht, ht.updCluster]))
  | _ => exact h

theorem State.MemWf.execPlaybookEntryStart {cl l : Nat} (h : s.MemWf) : OutcomeWf (execPlaybookEntryStart cl l s) := by
  fun_cases Machine.execPlaybookEntryStart cl l s with
  | case2 _ _ _ _ _ _ _ e => exact (((h.agentRead.error e).getD h).updCluster).updLaunch
  | case6 _ _ _ _ _ _ _ _ _ e _ _ _ _ _ _ e2 => exact (((h.agentRead.ok e).newCmd).of_fst e2).updCluster
  | _ => exact h

theorem State.MemWf.launchCmd {cx : Nat} {e : Entry} {f : Command → Command} (h : s.MemWf) : (s.launchCmd cx e f).1.MemWf :=
  h.newCmd

theorem State.MemWf.startCpy {cx : Nat} {e : Entry} {ch : BitVec 4} (h : s.MemWf) : (s.startCpy cx e ch).MemWf :=
  .ite h (.ite trivial h.launchCmd.updCluster)

theorem State.MemWf.startStage {cx : Nat} {e : Entry} (h : s.MemWf) : (s.startStage cx e).MemWf := .ite h h.updCluster.launchCmd

theorem State.MemWf.startRinit {cx : Nat} {e : Entry} (h : s.MemWf) : (s.startRinit cx e).MemWf := .ite h (.ite h h.launchCmd)

theorem State.MemWf.finishRinit {n : Nat} {c : Command} {r : Nat} (h : s.MemWf) : OptWf id (s.finishRinit n c r) := by
  fun_cases State.finishRinit s n c r with
  | case2 => exact h.parkCmd h.updCluster.endCmd
  | case3 _ _ _ _ e => exact (((h.agentRead.error e).getD h).updCluster).endCmd
  | case5 _ _ _ _ _ _ e => exact ((h.agentRead.ok e).updCluster).endCmd
  | case6 _ _ _ _ _ e => exact ((h.agentRead.ok e).updCluster).endCmd
  | _ => trivial

theorem State.MemWf.rawaitDone {cx : Nat} {e : Entry} {t : Tail} {ht : Nat} (h : s.MemWf) : (s.rawaitDone cx e t ht).MemWf := h

theorem State.MemWf.startRawait {cx : Nat} {e : Entry} {t : Tail} {r : Nat} (h : s.MemWf) : (s.startRawait cx e t r).MemWf :=
  .ite h (.ite h.rawaitDone h)

theorem State.MemWf.startRrel {cx : Nat} {e : Entry} {r : Nat} (h : s.MemWf) : (s.startRrel cx e r).MemWf :=
  .ite h h.updCtx.updCluster.launchCmd

theorem State.MemWf.startTload {cx : Nat} {e : Entry} {count : Nat} (h : s.MemWf) : (s.startTload cx e count).MemWf :=
  .ite h (.ite h h.launchCmd)

theorem State.MemWf.finishTload {n : Nat} {c : Command} {count : Nat} (h : s.MemWf) : OptWf id (s.finishTload n c count) := by
  fun_cases State.finishTload s n c count with
  | case1 => exact h.parkCmd h.endCmd
  | case2 _ _ e => exact ((h.agentRead.error e).getD h).endCmd
  | case4 _ _ _ e =>
    have ht := h.agentRead.ok e
    exact endCmd (by split; exacts [ht.updCore, ht.hwPut])
  | _ => trivial

theorem State.MemWf.execRawaitReturn {cx : Nat} (h : s.MemWf) : OutcomeWf (execRawaitReturn cx s) := by
  fun_cases Machine.execRawaitReturn cx s with
  | case1 => exact h.rawaitDone.updCtx
  | _ => exact h
end

/-! ## Engines, leases and benches -/

section
variable {s : State}

theorem State.MemWf.setEngine {die e : Nat} {x : Engine} (h : s.MemWf) : (s.setEngine die e x).MemWf := h

theorem State.MemWf.onHolder {x : Engine} {f : Ctx → Ctx} (h : s.MemWf) : (s.onHolder x f).MemWf := by
  fun_cases State.onHolder s x f with
  | case1 => exact h.updCtx
  | case2 _ _ _ _ _ e => exact (h.editArea.of_fst e).updLaunch

theorem State.MemWf.failMembers {id die : Nat} {bs : List Byte} (h : s.MemWf) : (s.failMembers id die bs).MemWf :=
  iteElse (foldl h fun _ _ ht => ht.updCmd) fun ht => ht

theorem State.MemWf.takeFailed {tag die : Nat} (h : s.MemWf) : OptWf id (s.takeFailed tag die) := by
  fun_cases State.takeFailed s tag die with
  | case2 => exact h
  | _ => trivial

theorem State.MemWf.failPeers {id : Nat} (h : s.MemWf) : (s.failPeers id).MemWf := by
  fun_cases State.failPeers s id with
  | case3 _ _ _ _ _ e => exact (OptWf.ite .none h.takeFailed).get e
  | case4 => exact h.failMembers
  | _ => exact h

theorem State.MemWf.abortCmds {kind why : Nat} {l : List Nat} (h : s.MemWf) : (s.abortCmds kind why l).MemWf := by
  fun_induction State.abortCmds s kind why l with
  | case1 => exact h
  | case2 _ _ _ ih => exact ih h.failPeers.endCmd

theorem State.MemWf.endLease {die e why : Nat} (h : s.MemWf) : (s.endLease die e why).MemWf := h.abortCmds.onHolder.setEngine

theorem State.MemWf.endGrant {die e : Nat} (h : s.MemWf) : (s.endGrant die e).MemWf := by
  fun_cases State.endGrant s die e with
  | case1 => exact h.setEngine
  | case2 => exact h.onCmdCtx.endCmd.setEngine

theorem State.MemWf.grant {die id : Nat} {c : Command} {e t : Nat} (h : s.MemWf) : (s.grant die id c e t).MemWf := h

theorem State.MemWf.serve {die n : Nat} {c : Command} (h : s.MemWf) : OptWf id (s.serve die n c) := by
  fun_cases State.serve s die n c with
  | case1 | case2 => exact h.grant
  | case3 => exact h.setEngine.grant
  | case5 => exact h.endLease.grant.setEngine
  | case7 => exact h.endLease.setEngine.grant
  | _ => trivial

theorem State.MemWf.serveFirst {die : Nat} {l : List (Nat × Command)} (h : s.MemWf) : OptWf id (s.serveFirst die l) := by
  fun_induction State.serveFirst s die l with
  | case2 _ _ _ ih => exact h.serve.or ih
  | _ => trivial

theorem State.MemWf.wakeWarm {die k : Nat} (h : s.MemWf) : (s.wakeWarm die k).MemWf := h.setEngine.ite h

theorem State.MemWf.arbitrate {die n : Nat} (h : s.MemWf) : (State.arbitrate die n s).MemWf := by
  fun_induction State.arbitrate die n s with
  | case1 => exact h
  | case2 _ _ _ e ih => exact ih (h.serveFirst.get e)
  | case3 => exact h.foldl fun _ _ ht => ht.wakeWarm

theorem State.MemWf.arbiter {die : Nat} (h : s.MemWf) : (s.arbiter die).MemWf := h.arbitrate

theorem State.MemWf.shrink {die n : Nat} (h : s.MemWf) : (State.shrink die n s).MemWf := by
  fun_induction State.shrink die n s with
  | case1 => exact h
  | case2 => exact h
  | case3 _ _ _ _ _ _ ih => exact ih h.setEngine
  | case4 => exact h
  | case5 _ _ _ _ _ _ _ _ ih => exact ih ((h.endLease.ite h.endGrant).setEngine)

theorem State.MemWf.setBudget {die w : Nat} (h : s.MemWf) : (s.setBudget die w).MemWf := h.updDie.shrink.arbiter

theorem State.MemWf.arrive {die id : Nat} {c : Command} (h : s.MemWf) : (s.arrive die id c).MemWf :=
  h.ite h.setCmd.onCmdCtx.updDie

theorem State.MemWf.arriveAll {die : Nat} {l : List (Nat × Command)} (h : s.MemWf) : (State.arriveAll die l s).MemWf := by
  fun_induction State.arriveAll die l s with
  | case1 => exact h
  | case2 _ _ _ _ _ ih => exact ih (h.arrive.ite h.arrive.arbiter)

theorem State.MemWf.execBenchArrival {die id : Nat} (h : s.MemWf) : OutcomeWf (execBenchArrival die id s) := by
  fun_cases Machine.execBenchArrival die id s with
  | case3 => exact h.arriveAll
  | _ => exact h

theorem State.MemWf.execHoldThresholdPassed {die eng : Nat} (h : s.MemWf) : OutcomeWf (execHoldThresholdPassed die eng s) :=
  .ite h.arbiter h

theorem State.MemWf.execLeaseGrant {die eng : Nat} (h : s.MemWf) : OutcomeWf (execLeaseGrant die eng s) := by
  fun_cases Machine.execLeaseGrant die eng s with
  | case2 => exact h.setEngine.arbiter
  | case3 => exact h.onCmdCtx.endCmd.setEngine
  | _ => exact h

theorem State.MemWf.execEngineWakeEnd {die eng : Nat} (h : s.MemWf) : OutcomeWf (execEngineWakeEnd die eng s) :=
  .ite h.setEngine.arbiter h

theorem State.MemWf.execWarmEngineSleep {die eng : Nat} (h : s.MemWf) : OutcomeWf (execWarmEngineSleep die eng s) :=
  .ite h.setEngine.arbiter h

theorem State.MemWf.startLease {cx : Nat} {e : Entry} {kind : BitVec 3} {prio : BitVec 2} (h : s.MemWf) :
    (s.startLease cx e kind prio).MemWf := by
  fun_cases State.startLease s cx e kind prio with
  | case2 _ _ _ _ _ _ e => exact (((h.updCtx.newCmd.of_fst e).updCtx).setOut).endCmd
  | case3 _ _ _ _ _ _ e => exact h.updCtx.newCmd.of_fst e
  | _ => exact h

theorem State.MemWf.startLcmd {cx : Nat} {e : Entry} (h : s.MemWf) : (s.startLcmd cx e).MemWf := by
  fun_cases State.startLcmd s cx e with
  | case5 _ _ _ _ _ _ _ _ _ _ _ _ e => exact (h.newCmd.of_fst e).setEngine
  | case4 => trivial
  | _ => exact h

theorem State.MemWf.startWstr {cx : Nat} {e : Entry} (h : s.MemWf) : (s.startWstr cx e).MemWf := by
  fun_cases State.startWstr s cx e with
  | case2 | case3 | case4 => exact h.newCmd.endCmd
  | case6 _ _ _ _ _ _ _ _ _ _ _ _ _ e => exact (h.newCmd.of_fst e).setEngine
  | case5 => trivial
  | _ => exact h

theorem State.MemWf.startUnlease {cx : Nat} {e : Entry} (h : s.MemWf) : (s.startUnlease cx e).MemWf := by
  fun_cases State.startUnlease s cx e with
  | case2 => exact h.updCtx.newCmd
  | case4 => exact h.updCtx.newCmd.setEngine.arbiter
  | case3 => trivial
  | _ => exact h

theorem State.MemWf.startLwarm {cx : Nat} {e : Entry} {kind : BitVec 3} {keep : Bool} (h : s.MemWf) : (s.startLwarm cx e kind keep).MemWf :=
  h.updDie.newCmd.arbiter

theorem State.MemWf.dropWarm {cx : Nat} (h : s.MemWf) : (s.dropWarm cx).MemWf := h

theorem State.MemWf.withdrawRequests {cx : Nat} {fail : Bool} (h : s.MemWf) : (s.withdrawRequests cx fail).MemWf :=
  h.foldl fun _ _ ht => .ite ht.updDie.updCtx.updCtx.endCmd ht

theorem State.MemWf.releaseLeases {cx : Nat} (h : s.MemWf) : (s.releaseLeases cx).MemWf :=
  (h.foldl fun _ _ ht => ht.setEngine.ite ht).arbiter
end

/-! ## The functions of engines -/

section
variable {s : State}

theorem State.MemWf.endEng {die eng id : Nat} {why : Option Nat} (h : s.MemWf) : (s.endEng die eng id why).MemWf :=
  ((h.failPeers.ite h).setEngine).endCmd

theorem State.MemWf.engSteps {step : Nat → State → Except EngErr State} {n i : Nat}
    (hf : ∀ i t, t.MemWf → EngWf id (step i t)) (h : s.MemWf) : (engSteps step n i s).MemWf := by
  fun_induction Machine.engSteps step n i s with
  | case1 => exact ⟨h, nofun⟩
  | case2 _ _ _ _ e => exact ⟨((hf _ _ h).error e).getD h, by rintro _ ⟨⟩; trivial⟩
  | case3 _ _ _ _ _ e => exact ⟨h, by rintro _ ⟨⟩; exact (hf _ _ h).error e⟩
  | case4 _ _ _ _ e ih => exact ih ((hf _ _ h).ok e)

theorem State.MemWf.runEng {die eng kind func : Nat} {body : Agent → List Byte → State → Option EngRes}
    (hb : ∀ a bs t, t.MemWf → BodyWf (body a bs t)) (h : s.MemWf) : OutcomeWf (s.runEng die eng kind func body) := by
  fun_cases State.runEng s die eng kind func body with
  | case3 | case9 => exact h.parkCmd h.endEng
  | case4 => exact ((h.agentRead.error ‹_›).getD h).endEng
  | case7 => exact (h.agentRead.ok ‹_›).endEng
  | case8 _ _ _ _ _ _ _ _ _ _ _ e => exact ((BodyWf.ite (hb _ _ _ (h.agentRead.ok ‹_›)) .none).get e).1.updCmd
  | case10 _ _ _ _ _ _ _ _ _ _ _ _ e _ ef =>
    obtain ⟨hr, he⟩ := (BodyWf.ite (hb _ _ _ (h.agentRead.ok ‹_›)) .none).get e
    exact endEng (.ite ((he _ ef).getD hr) (h.agentRead.ok ‹_› : State.MemWf _))
  | _ => exact h

theorem State.MemWf.agentArray {a : Agent} {base n i k : Nat} (h : s.MemWf) : EngWf Prod.fst (State.agentArray a base n i k s) := by
  fun_induction State.agentArray a base n i k s with
  | case1 => exact h
  | case2 _ _ _ ih => exact h.agentRead.bind fun _ ht => (ih _ ht).bind fun _ hu => hu

theorem State.MemWf.readStream {a : Agent} {sdesc : Nat} (h : s.MemWf) : EngWf Prod.fst (s.readStream a sdesc) :=
  h.agentRead.bind fun _ ht => .ite ht (.ite ht (ht.agentReadTags.bind fun _ hu => hu))

theorem State.MemWf.execWeightStreamWrite {die eng : Nat} (h : s.MemWf) : OutcomeWf (execWeightStreamWrite die eng s) := by
  fun_cases Machine.execWeightStreamWrite die eng s with
  | case3 => exact h.parkCmd h.endEng
  | case4 _ _ _ _ _ _ _ _ _ _ _ _ _ e => exact ((h.readStream.error e).getD h).endEng
  | case6 _ _ _ _ _ _ _ _ _ _ _ _ _ _ _ _ _ _ e => exact ((h.readStream.ok e).iteElse (·.updCore)).endEng
  | case8 _ _ _ _ _ _ _ _ _ _ _ _ _ _ _ _ _ _ e => exact (((h.readStream.ok e).iteThen (·.updCtx)).updCore).endEng
  | _ => exact h

theorem State.MemWf.dcxBody {a : Agent} {bs : List Byte} (h : s.MemWf) : BodyWf (dcxBody a bs s) := by
  fun_cases Machine.dcxBody a bs s with
  | case1 => trivial
  | case2 _ _ _ e => exact (h.readStream.error e).body h
  | case3 _ _ _ _ _ e => exact EngErr.MemWf.body (e := .fault none) trivial (h.readStream.ok e)
  | case4 => exact engSteps (fun _ _ ht => .ite ht.agentWrite ht.agentWrite) (h.readStream.ok ‹_›)

theorem State.MemWf.execDcxDecode {die eng : Nat} (h : s.MemWf) : OutcomeWf (execDcxDecode die eng s) :=
  h.runEng fun _ _ _ ht => ht.dcxBody

theorem State.MemWf.srtBody {a : Agent} {bs : List Byte} (h : s.MemWf) : BodyWf (srtBody a bs s) := by
  fun_cases Machine.srtBody a bs s with
  | case1 => trivial
  | case2 => exact (h.agentArray.error ‹_›).body h
  | case3 => exact engSteps (fun _ _ ht => ht.agentWrite.bind fun _ hu => .ite hu hu.agentWrite) (h.agentArray.ok ‹_›)

theorem State.MemWf.execSrtSort {die eng : Nat} (h : s.MemWf) : OutcomeWf (execSrtSort die eng s) :=
  h.runEng fun _ _ _ ht => ht.srtBody

theorem State.MemWf.gsxBody {scatter : Bool} {a : Agent} {bs : List Byte} (h : s.MemWf) : BodyWf (gsxBody scatter a bs s) := by
  fun_cases Machine.gsxBody scatter a bs s with
  | case1 => trivial
  | case2 => exact (h.agentArray.error ‹_›).body h
  | case3 =>
    exact engSteps (fun _ _ ht => .ite (.ite ht ht.agentWrite) (ht.agentRead.bind fun _ hu => hu.agentWrite)) (h.agentArray.ok ‹_›)

theorem State.MemWf.execGsxGather {die eng : Nat} (h : s.MemWf) : OutcomeWf (execGsxGather die eng s) :=
  h.runEng fun _ _ _ ht => ht.gsxBody

theorem State.MemWf.execGsxScatter {die eng : Nat} (h : s.MemWf) : OutcomeWf (execGsxScatter die eng s) :=
  h.runEng fun _ _ _ ht => ht.gsxBody

theorem State.MemWf.smxBody {a : Agent} {bs : List Byte} (h : s.MemWf) : BodyWf (smxBody a bs s) := by
  fun_cases Machine.smxBody a bs s with
  | case1 => trivial
  | case2 _ _ _ _ _ _ _ _ _ _ _ _ _ _ step done =>
    have hstep r p (hp : p.1.MemWf) : EngWf Prod.fst (step r p) := by
      refine hp.agentArray.bind fun _ ht => ?_
      split
      extract_lets wide pois
      split
      extract_lets w
      have hw : w.MemWf := engSteps (fun _ _ hu => hu.agentWrite) ht
      split
      · next e => exact hw.2 _ e
      · exact .ite hw.1 (hw.1.agentWrite.bind fun _ hu => hu)
    have hdone : done.1.1.MemWf ∧ ∀ e, done.2 = some e → e.MemWf := by
      refine List.foldlRecOn
        (motive := fun (p : (State × Nat × Bool) × Option EngErr) => p.1.1.MemWf ∧ ∀ e, p.2 = some e → e.MemWf) _ _ ⟨h, nofun⟩ ?_
      rintro acc ⟨hs, he⟩ r -
      split
      · exact ⟨hs, he⟩
      · split
        · next e => exact ⟨(hstep _ _ hs).ok e, nofun⟩
        · next e => exact ⟨hs, by rintro _ ⟨⟩; exact (hstep _ _ hs).error e⟩
    exact hdone

theorem State.MemWf.execSmxSoftmax {die eng : Nat} (h : s.MemWf) : OutcomeWf (execSmxSoftmax die eng s) :=
  h.runEng fun _ _ _ ht => ht.smxBody

theorem State.MemWf.hshBody {sha : Bool} {a : Agent} {bs : List Byte} (h : s.MemWf) : BodyWf (hshBody sha a bs s) := by
  fun_cases Machine.hshBody sha a bs s with
  | case1 => trivial
  | case2 => exact (h.agentRead.error ‹_›).body h
  | case3 => exact ((h.agentRead.ok ‹_›).agentWrite.error ‹_›).body (h.agentRead.ok ‹_›)
  | case4 => exact ((h.agentRead.ok ‹_›).agentWrite.ok ‹_›).body

theorem State.MemWf.execHshCrc32c {die eng : Nat} (h : s.MemWf) : OutcomeWf (execHshCrc32c die eng s) :=
  h.runEng fun _ _ _ ht => ht.hshBody

theorem State.MemWf.execHshSha3256 {die eng : Nat} (h : s.MemWf) : OutcomeWf (execHshSha3256 die eng s) :=
  h.runEng fun _ _ _ ht => ht.hshBody

theorem State.MemWf.reduceAll {ms : List (Nat × Nat × Nat × Command)} {bs : List Byte} (h : s.MemWf) : EngWf id (s.reduceAll ms bs) := by
  refine EngWf.bind (st := Prod.fst) (.foldlM ?_ _ _ h) ?_
  · exact fun _ _ ht => ht.agentArray.bind fun _ hu => hu
  · refine fun _ ht => .foldlM (fun t m hu => ?_) _ _ ht
    extract_lets r
    have hr : r.MemWf := engSteps (fun _ _ hv => hv.agentWrite) hu
    split
    · next e => exact hr.2 _ e
    · exact .ite hr.1 hr.1.agentWrite

theorem State.MemWf.execRedReduce {die eng : Nat} (h : s.MemWf) : OutcomeWf (execRedReduce die eng s) := by
  unfold Machine.execRedReduce
  split
  · exact h
  refine .ite h ?_
  extract_lets failed a read
  have hread : EngWf Prod.fst read := .ite h (h.agentRead.bind fun _ hu => .ite hu (hu.agentRead.bind fun _ hv => hv))
  clear_value read
  cases read with
  | error e =>
    cases e with
    | parked => exact h.parkCmd h.endEng
    | fault w => exact (hread.getD h).endEng
    | _ => exact h
  | ok r =>
    dsimp -zeta only
    extract_lets s' ms failAll
    have hs : s'.MemWf := State.MemWf.setCmd hread
    have hf t (ht : t.MemWf) : (failAll t).MemWf := ht.failMembers.updCmd
    clear_value s' failAll
    split
    · next e => exact ((OptWf.ite .none hs.takeFailed).get e).updCmd
    · refine .ite (hf _ hs) (.ite hs ?_)
      split
      · next e => exact hf _ ((hs.reduceAll.error e).getD hs)
      · exact hs.parkCmd (hf _ hs)
      · exact hs
      · next e => exact foldl (foldl (hs.reduceAll.ok e) fun _ _ hu => hu.updCmd) fun _ _ hu => hu.updDie

theorem State.MemWf.execEngineCommandComplete {die eng : Nat} (h : s.MemWf) : OutcomeWf (execEngineCommandComplete die eng s) := by
  fun_cases Machine.execEngineCommandComplete die eng s with
  | case3 | case4 => exact h.endEng
  | case5 | case10 => exact h.parkCmd h.endEng
  | case6 => exact ((h.agentWrite.error ‹_›).getD h).endEng
  | case8 => exact (h.agentWrite.ok ‹_›).endEng
  | case11 => exact ((h.agentRead.error ‹_›).getD h).endEng
  | case13 => exact (h.agentRead.ok ‹_›).endEng
  | _ => exact h
end

/-! ## Loads, stores and atomics -/

section
variable {s : State}

theorem State.MemWf.performAtomic {key : Nat} {i : Instr} {sum : Int} {cell : Partial} {opd c : Word} (h : s.MemWf) :
    OptWf Prod.fst (s.performAtomic key i sum cell opd c) := by
  unfold State.performAtomic
  split
  · trivial
  · next e =>
    have ht := h.homeRead.get e
    split
    · exact .ite ht ht.homeWrite
    · exact .ite ht (by split; exacts [ht, ht.homeWrite])

theorem State.MemWf.atomicReplied {cx : Nat} {e : Entry} {old : Word} {poison : Bool} (h : s.MemWf) :
    (s.atomicReplied cx e old poison).MemWf :=
  h.setOut.streamFault.ite h.setOut

theorem State.MemWf.startAtomic {cx : Nat} {e : Entry} {i : Instr} (h : s.MemWf) : (s.startAtomic cx e i).MemWf := by
  fun_cases State.startAtomic s cx e i with
  | case2 _ _ _ _ _ _ _ _ _ e => exact h.planScalar.error e
  | case3 _ _ _ _ _ _ _ _ _ e | case4 _ _ _ _ _ _ _ _ _ e | case11 _ _ _ _ _ _ _ _ _ e => exact h.planScalar.ok e
  | case7 _ _ _ _ _ _ _ _ _ e _ _ _ _ _ _ _ _ _ _ _ _ e2 => exact (((h.planScalar.ok e).bypass).send).get e2
  | case9 _ _ _ _ _ _ _ _ _ e _ _ _ _ _ _ _ _ _ _ _ _ _ e2 | case10 _ _ _ _ _ _ _ _ _ e _ _ _ _ _ _ _ _ _ _ _ _ _ _ e2 =>
    exact (((h.planScalar.ok e).bypass.iteThen (·.countMigration)).performAtomic.get e2).setOut
  | case1 => exact h
  | _ => trivial

theorem State.MemWf.park {e : Entry} (h : s.MemWf) : (Entry.park e s).MemWf := by
  fun_cases Entry.park e s with
  | case1 => trivial
  | _ => exact h

theorem State.MemWf.finishLoad {cx : Nat} {e : Entry} {i : Instr} {bs : List Byte} {poison : Bool} (h : s.MemWf) :
    (s.finishLoad cx e i bs poison).MemWf := by
  fun_cases State.finishLoad s cx e i bs poison with
  | case1 | case7 | case8 => exact h.setOut.updCtx
  | case2 | case3 => exact (h.setOut.updCtx.iteThen (·.dropClean)).iteThen (·.updDie)
  | case4 | case5 => exact h.ite h.setOut.updCtx
  | _ => exact h

theorem State.MemWf.startPop {cx : Nat} {e : Entry} {b : Nat} (h : s.MemWf) : (s.startPop cx e b).MemWf := by
  fun_cases State.startPop s cx e b with
  | case1 => exact h.park
  | case2 => exact h.updCluster.setOut.updCtx

theorem State.MemWf.startPush {cx : Nat} {e : Entry} {b : Nat} {v : Word} (h : s.MemWf) : (s.startPush cx e b v).MemWf :=
  h.park.ite h.updCluster

theorem State.MemWf.startLd {cx : Nat} {e : Entry} {i : Instr} {n : Nat} (h : s.MemWf) : (s.startLd cx e i n).MemWf := by
  fun_cases State.startLd s cx e i n with
  | case3 _ _ _ _ _ e => exact h.planScalar.error e
  | case4 _ _ _ _ _ e => exact (h.planScalar.ok e).startPop
  | case5 _ _ _ _ _ e => exact (h.planScalar.ok e).loadPieces fun _ _ _ ht => ht.finishLoad
  | case2 => trivial
  | _ => exact h

theorem State.MemWf.startSt {cx : Nat} {e : Entry} {i : Instr} {n : Nat} (h : s.MemWf) : (s.startSt cx e i n).MemWf := by
  fun_cases State.startSt s cx e i n with
  | case3 _ _ _ _ _ e => exact h.planScalar.error e
  | case4 _ _ _ _ _ e => exact (h.planScalar.ok e).startPush
  | case5 _ _ _ _ _ e => exact (h.planScalar.ok e).storePieces
  | case2 => trivial
  | _ => exact h

theorem State.MemWf.planTagged {cx : Nat} {e : Entry} {kind : AccKind} {a n : Nat} (h : s.MemWf) : PlanWf (s.planTagged cx e kind a n) := by
  fun_cases State.planTagged s cx e kind a n with
  | case2 _ _ e => exact h.planScalar.error e
  | case3 _ _ _ e | case4 _ _ _ e => exact h.planScalar.ok e
  | _ => exact h

theorem State.MemWf.startTagLoad {cx : Nat} {e : Entry} {i : Instr} {n : Nat} {sx empty : Bool} (h : s.MemWf) :
    (s.startTagLoad cx e i n sx empty).MemWf := by
  fun_cases State.startTagLoad s cx e i n sx empty with
  | case2 _ _ _ e => exact h.planTagged.error e
  | case3 _ _ _ e => exact (h.planTagged.ok e).park
  | case4 _ _ _ e => exact (h.planTagged.ok e).noteError
  | case6 _ _ _ e _ _ _ _ _ e2 => exact (((((h.planTagged.ok e).readPiece).get e2).iteThen (·.updCluster)).setOut).updCtx
  | _ => trivial

theorem State.MemWf.startTagStore {cx : Nat} {e : Entry} {i : Instr} {n : Nat} {cond : Bool} (h : s.MemWf) :
    (s.startTagStore cx e i n cond).MemWf := by
  fun_cases State.startTagStore s cx e i n cond with
  | case2 _ _ _ _ e => exact h.planTagged.error e
  | case4 _ _ _ _ e => exact (h.planTagged.ok e).park
  | case5 _ _ _ _ e => exact ((h.planTagged.ok e).updCluster).updCtx
  | _ => trivial

theorem State.MemWf.startFeinit {cx : Nat} {e : Entry} {st : Bool} (h : s.MemWf) : (s.startFeinit cx e st).MemWf := by
  fun_cases State.startFeinit s cx e st with
  | case8 => exact h.updCluster
  | case6 => trivial
  | _ => exact h

theorem State.MemWf.startVld {cx : Nat} {e : Entry} {i : Instr} (h : s.MemWf) : (s.startVld cx e i).MemWf := by
  fun_cases State.startVld s cx e i with
  | case2 _ _ _ e => exact h.planTile.error e
  | case3 _ _ _ e => exact (h.planTile.ok e).loadPieces fun _ _ _ ht => ht.finishLoad
  | _ => trivial

theorem State.MemWf.startVst {cx : Nat} {e : Entry} {i : Instr} {v : Spec} (h : s.MemWf) : (s.startVst cx e i v).MemWf := by
  fun_cases State.startVst s cx e i v with
  | case2 _ _ _ e => exact h.planTile.error e
  | case3 _ _ _ e => exact (h.planTile.ok e).storePieces
  | _ => trivial

theorem State.MemWf.startVldw {cx : Nat} {e : Entry} {i : Instr} (h : s.MemWf) : (s.startVldw cx e i).MemWf := by
  fun_cases State.startVldw s cx e i with
  | case2 _ _ _ e => exact h.planTile.error e
  | case3 _ _ _ e => exact (h.planTile.ok e).park
  | case4 _ _ _ e => exact (h.planTile.ok e).noteError
  | case6 _ _ _ e _ _ _ _ _ e2 => exact (((h.planTile.ok e).readPieces).get e2).finishLoad
  | _ => trivial

theorem State.MemWf.startVstf {cx : Nat} {e : Entry} {i : Instr} {v : Spec} (h : s.MemWf) : (s.startVstf cx e i v).MemWf := by
  fun_cases State.startVstf s cx e i v with
  | case2 _ _ _ e => exact h.planTile.error e
  | case5 _ _ _ e _ _ _ _ e2 => exact ((((h.planTile.ok e).writePieces).get e2).updCluster).updCtx
  | _ => trivial

theorem State.MemWf.startHomeLoad {cx : Nat} {e : Entry} {i : Instr} {n : Nat} {hold : Bool} (h : s.MemWf) :
    (s.startHomeLoad cx e i n hold).MemWf := by
  fun_cases State.startHomeLoad s cx e i n hold with
  | case2 _ _ _ _ e => exact h.planScalar.error e
  | case3 _ _ _ _ e | case5 _ _ _ _ e => exact h.planScalar.ok e
  | case4 _ _ _ _ e => exact ((h.planScalar.ok e).bypass).loadPieces fun _ _ _ ht => ht.finishLoad
  | _ => exact h

theorem State.MemWf.startDrain {cx : Nat} {e : Entry} {scope : BitVec 3} (h : s.MemWf) : (s.startDrain cx e scope).MemWf :=
  .ite (h.writeBackAll.ite h) trivial

theorem State.MemWf.persistLine {key : Nat} (h : s.MemWf) : (s.persistLine key).MemWf :=
  ((((h.ite h.fillSlice).mediaAccess).noteWear).updQuad).ite (h.ite h.fillSlice)

theorem State.MemWf.persistFrom {cl key : Nat} (h : s.MemWf) : (State.persistFrom cl s key).MemWf := by
  fun_cases State.persistFrom cl s key with
  | case1 => exact h.persistLine
  | case2 => exact h.writeBackCached.updCluster.persistLine

theorem State.MemWf.startPersist {cx : Nat} {e : Entry} {scope : BitVec 3} {finish : Bool} (h : s.MemWf) :
    (s.startPersist cx e scope finish).MemWf :=
  have ht := h.writeBackAll.ite h
  .ite trivial (.ite ht (.ite (ht.foldl fun _ _ hu => hu.persistFrom).updCtx trivial))

theorem State.MemWf.startStl {cx : Nat} {e : Entry} {i : Instr} {n : Nat} {scope : BitVec 3} (h : s.MemWf) :
    (s.startStl cx e i n scope).MemWf := by
  fun_cases State.startStl s cx e i n scope with
  | case2 _ _ _ _ e => exact h.planScalar.error e
  | case4 _ _ _ _ e => exact (((h.planScalar.ok e).iteThen (·.writeBackAll)).bypass).storePieces
  | case3 => trivial
  | _ => exact h

theorem State.MemWf.startTimed {cx : Nat} {e : Entry} {i : Instr} {n : Nat} {kind : AccKind} {strict : Bool} {bs : List Byte}
    (h : s.MemWf) :
    (s.startTimed cx e i n kind strict bs).MemWf := by
  fun_cases State.startTimed s cx e i n kind strict bs with
  | case2 _ _ _ _ e => exact h.planScalar.error e
  | case3 _ _ _ _ e | case4 _ _ _ _ e | case9 _ _ _ _ e => exact h.planScalar.ok e
  | case7 _ _ _ _ e _ _ _ _ _ _ _ _ _ _ e2 | case8 _ _ _ _ e _ _ _ _ _ _ _ _ _ _ e2 =>
    exact (((h.planScalar.ok e).bypass.iteThen (·.countMigration)).send.get e2).iteElse (·.updCtx)
  | case1 => exact h
  | _ => trivial

theorem State.MemWf.startPref {cx : Nat} {e : Entry} {i : Instr} {hint : Bool} {n : Nat} (h : s.MemWf) :
    (s.startPref cx e i hint n).MemWf := by
  unfold State.startPref
  refine .ite h ?_
  split
  · next e => exact h.xlatePref.of_fst e
  · next e =>
    have ht := h.xlatePref.of_fst e
    refine .ite ht ?_
    extract_lets u
    have hu : u.MemWf := ht.iteThen (·.countMigration)
    exact .ite (OptWf.getD (hu.copyRead.map fun _ hv => hv) hu)
      (.ite (hu.touch.fillSlice.cacheFill.getD hu.touch.fillSlice) hu.touch.fillSlice)

theorem State.MemWf.startCflush {cx : Nat} {e : Entry} {i : Instr} (h : s.MemWf) : (s.startCflush cx e i).MemWf := by
  fun_cases State.startCflush s cx e i with
  | case2 _ _ _ _ e => exact h.planScalar.error e
  | case3 _ _ _ _ e => exact (h.planScalar.ok e).flushCached
  | case4 _ _ _ _ e => exact h.planScalar.ok e
  | _ => exact h

theorem State.MemWf.startMem {cx : Nat} {e : Entry} {i : Instr} {finish : Bool} (h : s.MemWf) : (s.startMem cx e i finish).MemWf := by
  fun_cases State.startMem s cx e i finish with
  | case1 => exact h.startLd
  | case2 => exact h.startSt
  | case3 | case16 | case23 => exact h.startHomeLoad
  | case4 => exact h.startStl
  | case5 | case6 => exact h.startTagLoad
  | case7 | case8 => exact h.startTagStore
  | case9 => exact h.startFeinit
  | case10 => exact h.startVld
  | case11 => exact h.startVst
  | case12 => exact h.startVldw
  | case13 => exact h.startVstf
  | case14 | case15 => exact h.startTimed
  | case18 => exact h.writeBackAll.ite h
  | case19 => exact h.startDrain
  | case20 => exact h.startPersist
  | case21 => exact h.startPref
  | case22 => exact h.startCflush
  | case26 => exact h.startPush
  | case29 => exact h.startPop
  | case30 | case31 => exact h.startAtomic.ite h
  | case25 | case28 => exact h
  | _ => trivial
end

/-! ## Memory commands -/

section
variable {s : State}

theorem State.MemWf.bankBegin {cl : Nat} (h : s.MemWf) : (s.bankBegin cl).MemWf := by
  fun_cases State.bankBegin s cl with
  | case3 => exact h.updCluster
  | _ => exact h

theorem State.MemWf.startBankcfg {cx : Nat} {e : Entry} (h : s.MemWf) : (s.startBankcfg cx e).MemWf :=
  .ite h (h.newCmd.updCluster.iteThen (·.bankBegin))

theorem State.MemWf.switchBanks {cl : Nat} {bs : List Nat} {mode : BitVec 2} (h : s.MemWf) : (s.switchBanks cl bs mode).MemWf :=
  (h.foldl fun _ _ ht => ht.writeBackCached).updCluster

theorem State.MemWf.execBankSwitchComplete {cl : Nat} (h : s.MemWf) : OutcomeWf (execBankSwitchComplete cl s) := by
  fun_cases Machine.execBankSwitchComplete cl s with
  | case2 => exact h.switchBanks.updCluster.endCmd.bankBegin
  | case3 => exact h.updCluster
  | _ => exact h

theorem State.MemWf.startPinwin {cx : Nat} {e : Entry} (h : s.MemWf) : (s.startPinwin cx e).MemWf := by
  fun_cases State.startPinwin s cx e with
  | case5 | case7 => exact h.setOut.newCmd
  | case6 => exact h.updQuad.setOut.newCmd
  | _ => exact h

theorem State.MemWf.fillLines {key n : Nat} (h : s.MemWf) : (State.fillLines key n s).MemWf := by
  fun_induction State.fillLines key n s with
  | case1 => exact h
  | case2 _ _ _ ih => exact ih h.fillSlice

theorem State.MemWf.finishPinwin {id : Nat} {c : Command} (h : s.MemWf) : (s.finishPinwin id c).MemWf := by
  refine endCmd ?_
  split
  · exact h
  · exact h.fillLines.ite h

theorem State.MemWf.startUnpin {cx : Nat} {e : Entry} (h : s.MemWf) : (s.startUnpin cx e).MemWf :=
  .ite h (h.updQuad.ite h).newCmd

theorem State.MemWf.execPinFadeTick {q : Nat} (h : s.MemWf) : OutcomeWf (execPinFadeTick q s) := .ite h h.updQuad

theorem State.MemWf.execRemapCountUpdate {q : Nat} (h : s.MemWf) : OutcomeWf (execRemapCountUpdate q s) := h.updDie.updQuad

theorem State.MemWf.startSwappg {cx : Nat} {e : Entry} (h : s.MemWf) : (s.startSwappg cx e).MemWf := by
  fun_cases State.startSwappg s cx e with
  | case4 | case6 => exact h.setOut.newCmd
  | case5 _ _ _ _ _ _ _ _ _ _ _ _ _ _ _ _ e => exact ((h.newCmd.of_fst e).updQuad).setOut
  | _ => exact h

theorem State.MemWf.execSwapLineExchange {q r : Nat} (h : s.MemWf) : OutcomeWf (execSwapLineExchange q r s) := by
  fun_cases Machine.execSwapLineExchange q r s with
  | case2 => exact h.mediaAccess.mediaAccess.updQuad
  | case3 => exact h.mediaAccess.mediaAccess.updQuad.updDie.endCmd
  | case4 => exact h.mediaAccess.mediaAccess.updQuad.endCmd
  | _ => exact h

theorem State.MemWf.startTlbinv {cx : Nat} {e : Entry} {mode : BitVec 2} (h : s.MemWf) : (s.startTlbinv cx e mode).MemWf :=
  .ite h (.ite h h.tlbInvalidate.newCmd)

theorem State.MemWf.finishTlbinv {n : Nat} {c : Command} {mode : BitVec 2} (h : s.MemWf) : OptWf id (s.finishTlbinv n c mode) :=
  OptWf.ite .none h.endCmd

theorem State.MemWf.startMapwin {cx : Nat} {e : Entry} {w : Nat} {exact : Bool} (h : s.MemWf) : (s.startMapwin cx e w exact).MemWf :=
  .ite h (.ite h (.ite h (.ite h (h.foldl fun _ _ ht => ht.updDie).newCmd)))

theorem State.MemWf.finishMapwin {id : Nat} {c : Command} {w : Nat} {exact : Bool} (h : s.MemWf) : (s.finishMapwin id c w exact).MemWf :=
  (h.foldl fun _ _ ht => ht.updDie).endCmd

theorem State.MemWf.setHwQueue {m q : Nat} {x : HwQueue} (h : s.MemWf) : (s.setHwQueue m q x).MemWf := h

theorem State.MemWf.addRecord {cx : Nat} {e : Entry} {q : Nat} {bs : List Byte} (h : s.MemWf) : (s.addRecord cx e q bs).MemWf :=
  .ite h ((h.hwPut.setHwQueue.ite h).newCmd).endCmd

theorem State.MemWf.startLaunch {cx : Nat} {e : Entry} {q : Nat} (h : s.MemWf) : (s.startLaunch cx e q).MemWf := by
  fun_cases State.startLaunch s cx e q with
  | case1 => exact h.addRecord
  | case4 | case8 => exact h.writeBackAll
  | case5 _ _ _ _ _ _ _ _ _ e => exact (((h.writeBackAll.agentRead.error e).getD h.writeBackAll).newCmd).endCmd
  | case7 => exact h.writeBackAll.newCmd.endCmd
  | case10 _ _ _ _ _ _ _ _ _ _ _ e => exact ((h.writeBackAll.agentRead.ok e).newCmd).endCmd
  | case11 _ _ _ _ _ _ _ _ _ _ e => exact (h.writeBackAll.agentRead.ok e).addRecord
  | _ => trivial
end

/-! ## Scalar, vector and matrix ops -/

section
variable {s : State}

theorem State.MemWf.scalarOp {g : Bool} {specs : List Spec} {d : Spec} {first : Word} {res : Except Trap (Word × Status)} {r : State}
    (h : s.MemWf) :
    TrapWf (scalarOp g specs d first res r s) := by
  fun_cases Machine.scalarOp g specs d first res r s with
  | case2 | case4 => exact h.updCtx
  | _ => trivial

theorem State.MemWf.alone {i : Instr} {op : State → State → Except Trap State} (h : s.MemWf) (ho : TrapWf (op s s)) :
    OutcomeWf (alone i op s) := by
  fun_cases Machine.alone i op s with
  | case1 => exact h
  | case2 _ _ e => exact ho.get e
  | case3 => exact h.takePrecise

theorem State.MemWf.startDivide {regs : RegSet} {n : Nat} {ws : List Nat} (h : s.MemWf) : (s.startDivide regs n ws).MemWf := h

theorem State.MemWf.aloneDivide {g : Bool} {i : Instr} {op : State → State → Except Trap State} (h : s.MemWf)
    (ho : TrapWf (op s s)) : OutcomeWf (aloneDivide g i op s) := by
  fun_cases Machine.aloneDivide g i op s with
  | case1 => exact h
  | case2 _ _ e => exact ho.get e
  | case3 _ _ e => exact (ho.get e).startDivide
  | case4 => exact h.takePrecise

theorem State.MemWf.alu1 {g : Bool} {d : Spec} {a : Spec} {f : Word → Word} {r : State} (h : s.MemWf) :
    TrapWf (alu1 g d a f r s) := by
  unfold Machine.alu1
  exact h.scalarOp

theorem State.MemWf.alu2 {g : Bool} {d : Spec} {a b : Spec} {f : Word → Word → Word} {r : State} (h : s.MemWf) :
    TrapWf (alu2 g d a b f r s) := by
  unfold Machine.alu2
  exact h.scalarOp

theorem State.MemWf.alu3 {g : Bool} {d : Spec} {a b c : Spec} {f : Word → Word → Word → Except Trap (Word × Status)} {r : State}
    (h : s.MemWf) :
    TrapWf (alu3 g d a b c f r s) := by
  unfold Machine.alu3
  exact h.scalarOp

theorem State.MemWf.fpu1 {g : Bool} {d : Spec} {a : Spec} {f : Word → Word × Status} {r : State} (h : s.MemWf) :
    TrapWf (fpu1 g d a f r s) := by
  unfold Machine.fpu1
  exact h.scalarOp

theorem State.MemWf.fpu2 {g : Bool} {d : Spec} {a b : Spec} {f : Nat → Nat → Nat × Status} {r : State} (h : s.MemWf) :
    TrapWf (fpu2 g d a b f r s) := by
  unfold Machine.fpu2
  exact h.scalarOp

theorem State.MemWf.movkOp {g : Bool} {d : Spec} {p : BitVec 2} {imm : BitVec 16} {r : State} (h : s.MemWf) :
    TrapWf (movkOp g d p imm r s) := by
  unfold Machine.movkOp
  exact h.scalarOp

theorem State.MemWf.scalarEffect {i : Instr} {r : State} (h : s.MemWf) : TrapWf (scalarEffect i r s) := by
  unfold Machine.scalarEffect
  cases i with
  | add | sub | mul | mulh | mulhw | div | divw | rem | remw | min | max | minw | maxw | and | or | xor | andn | orn | shl | shr | sar
  | rol | ceq | cne | clt | cle | cltw | clew | lea => exact h.alu2
  | addi | abs | andi | ori | xori | shli | shri | sari | roli | ceqi | clti | clz | ctz | popc | brev | bswap | exts | extz | bset
  | bclr | btst | bflip | mov => exact h.alu1
  | ins | bperm | sel | fma => exact h.alu3
  | movz => exact h.scalarOp
  | movk => exact h.movkOp
  | fadd | fsub | fmul | fmin | fmax | fcmp => exact h.fpu2
  | fcvtf | fcvti | fabs | fneg => exact h.fpu1
  | _ => exact h

theorem State.MemWf.aloneScalar {i : Instr} (h : s.MemWf) : OutcomeWf (Machine.alone i (Machine.scalarEffect i) s) := h.alone h.scalarEffect

theorem State.MemWf.aloneScalarDivide {g : Bool} {i : Instr} (h : s.MemWf) :
    OutcomeWf (Machine.aloneDivide g i (Machine.scalarEffect i) s) := h.aloneDivide h.scalarEffect
end

/-! ## Control ops and system registers -/

section
variable {s : State}

theorem State.MemWf.writeBack {cx n : Nat} (h : s.MemWf) : (writeBack cx n s).MemWf := by
  fun_induction Machine.writeBack cx n s with
  | case1 => exact h
  | case2 _ _ _ _ ih => exact ih (h.putTile.ite h)

theorem State.MemWf.savebaseWriteOp {v : Word} (h : s.MemWf) : TrapWf (savebaseWriteOp v s) := .ite h.writeBack.updCtx trivial

theorem State.MemWf.flagsWriteOp {v : Word} (h : s.MemWf) : (flagsWriteOp v s).MemWf := h

theorem State.MemWf.engfailWriteOp {v : Word} (h : s.MemWf) : (engfailWriteOp v s).MemWf := h

theorem State.MemWf.fpstatusWriteOp {v : Word} (h : s.MemWf) : (fpstatusWriteOp v s).MemWf := h

theorem State.MemWf.pnWriteOp {i : BitVec 5} {v : Word} (h : s.MemWf) : (pnWriteOp i v s).MemWf := h

theorem State.MemWf.ewtableWriteOp {v : Word} (h : s.MemWf) : (ewtableWriteOp v s).MemWf := h

theorem State.MemWf.sysWrite {n : BitVec 12} {v : Word} (h : s.MemWf) : TrapWf (sysWrite n v s) := by
  fun_cases Machine.sysWrite n v s with
  | case1 => exact h.pnWriteOp
  | case2 => exact h.savebaseWriteOp
  | case3 => exact h.engfailWriteOp
  | case4 => exact h.flagsWriteOp
  | case5 => exact h.fpstatusWriteOp
  | case6 => exact h.ewtableWriteOp
  | case7 => exact h.updCtx

theorem State.MemWf.brOp {off : BitVec 24} (h : s.MemWf) : TrapWf (brOp off s) := .ite h trivial

theorem State.MemWf.brPost {off : BitVec 24} (h : s.MemWf) : (brPost off s).MemWf := h

theorem State.MemWf.callOp {off : BitVec 24} (h : s.MemWf) : TrapWf (callOp off s) := .ite h.updCtx trivial

theorem State.MemWf.callPost {off : BitVec 24} (h : s.MemWf) : (callPost off s).MemWf := h

theorem State.MemWf.jmpOp {a : Spec} {r : State} (h : s.MemWf) : TrapWf (jmpOp a r s) := .ite h trivial

theorem State.MemWf.jmpPost {a : Spec} {r : State} (h : s.MemWf) : (jmpPost a r s).MemWf := h

theorem State.MemWf.retOp {r : State} (h : s.MemWf) : TrapWf (retOp r s) := .ite h trivial

theorem State.MemWf.retPost {r : State} (h : s.MemWf) : (retPost r s).MemWf := h

theorem State.MemWf.loopOp {a : Spec} {len : BitVec 12} {r : State} (h : s.MemWf) : TrapWf (loopOp a len r s) :=
  .ite trivial (.ite trivial h)

theorem State.MemWf.loopPost {a : Spec} {len : BitVec 12} {r : State} (h : s.MemWf) : (loopPost a len r s).MemWf := h

theorem State.MemWf.brxPost {u : BitVec 14} (h : s.MemWf) : (brxPost u s).MemWf := h

theorem State.MemWf.waitfOp {mask : BitVec 16} {r : State} (h : s.MemWf) : TrapWf (waitfOp mask r s) := by
  fun_cases Machine.waitfOp mask r s with
  | case2 => exact h.updCtx
  | _ => trivial

theorem State.MemWf.peekfOp {mask : BitVec 16} {r : State} (h : s.MemWf) : TrapWf (peekfOp mask r s) := by
  fun_cases Machine.peekfOp mask r s with
  | case2 => exact h.updCtx
  | _ => trivial

theorem State.MemWf.setfOp {mask : BitVec 16} (h : s.MemWf) : (setfOp mask s).MemWf := h

theorem State.MemWf.clrfOp {mask : BitVec 16} (h : s.MemWf) : (clrfOp mask s).MemWf := h

theorem State.MemWf.yieldPost (h : s.MemWf) : (yieldPost s).MemWf := h

theorem State.MemWf.exitPost (h : s.MemWf) : (exitPost s).MemWf := h

theorem State.MemWf.softTrap {cx : Nat} {n : BitVec 8} {pc rep nxt : Nat} (h : s.MemWf) : (s.softTrap cx n pc rep nxt).MemWf :=
  h.takeTrap

theorem State.MemWf.trapPost {n : BitVec 8} (h : s.MemWf) : (trapPost n s).MemWf := by
  fun_cases Machine.trapPost n s with
  | case1 => exact h.updCtx.updCore
  | case2 => exact h.updCtx.softTrap

theorem State.MemWf.rftOp (h : s.MemWf) : TrapWf (rftOp s) := .ite h trivial

theorem State.MemWf.rftPost (h : s.MemWf) : (rftPost s).MemWf := h

theorem State.MemWf.mfsOp {sr : BitVec 12} {d : Spec} {r : State} (h : s.MemWf) : TrapWf (mfsOp sr d r s) :=
  .ite trivial h.updCtx

theorem State.MemWf.mtsOp {sr : BitVec 12} {a : Spec} {r : State} (h : s.MemWf) : TrapWf (mtsOp sr a r s) :=
  .ite trivial h.sysWrite

theorem State.MemWf.bkptOp {n : BitVec 8} (h : s.MemWf) : TrapWf (bkptOp n s) := .ite h.plainHalt trivial

theorem State.MemWf.requestStep {cl : Nat} {v : BitVec 5} (h : s.MemWf) : (s.requestStep cl v).MemWf := h.ite h.updCluster

theorem State.MemWf.pwrreqOp {a : Spec} {r : State} (h : s.MemWf) : TrapWf (pwrreqOp a r s) :=
  .ite trivial (.ite trivial h.requestStep)

theorem State.MemWf.s0Effect {i : Instr} {r : State} (h : s.MemWf) : TrapWf (s0Effect i r s) := by
  fun_cases Machine.s0Effect i r s with
  | case1 => exact h.brOp
  | case2 => exact h.callOp
  | case3 => exact h.jmpOp
  | case4 => exact h.retOp
  | case5 => exact h.loopOp
  | case6 => exact h.waitfOp
  | case7 => exact h.peekfOp
  | case8 => exact h.setfOp
  | case9 => exact h.clrfOp
  | case10 => exact h.rftOp
  | case11 => exact h.mfsOp
  | case12 => exact h.mtsOp
  | case13 => exact h.bkptOp
  | case14 => exact h.pwrreqOp
  | _ => exact h

theorem State.MemWf.s0Post {i : Instr} {r : State} (h : s.MemWf) : OptWf id (s0Post i r s) := by
  fun_cases Machine.s0Post i r s with
  | case1 => exact h.brPost
  | case2 => exact h.callPost
  | case3 => exact h.jmpPost
  | case4 => exact h.retPost
  | case5 => exact h.loopPost
  | case6 => exact h.brxPost
  | case7 => exact h.trapPost
  | case8 => exact h.rftPost
  | _ => trivial

theorem State.MemWf.aloneCtl {g : Bool} {i : Instr} {op : State → State → Except Trap State} {post : State → State → State}
    (h : s.MemWf) (ho : TrapWf (op s s)) (hp : ∀ t, t.MemWf → (post s t).MemWf) : OutcomeWf (aloneCtl g i op post s) := by
  fun_cases Machine.aloneCtl g i op post s with
  | case3 | case6 => exact h.takePrecise
  | case7 _ _ _ _ _ e => exact (hp _ (ho.get e)).out
  | _ => exact h

theorem State.MemWf.execSavebaseWrite {v : Word} (h : s.MemWf) : OutcomeWf (execSavebaseWrite v s) := by
  fun_cases Machine.execSavebaseWrite v s with
  | case1 _ e => exact (h.savebaseWriteOp.get e).out
  | case2 => exact h.takePrecise

theorem State.MemWf.execFlagsWrite {v : Word} (h : s.MemWf) : OutcomeWf (execFlagsWrite v s) := h.flagsWriteOp

theorem State.MemWf.execEngfailWrite {v : Word} (h : s.MemWf) : OutcomeWf (execEngfailWrite v s) := h.engfailWriteOp

theorem State.MemWf.execFpstatusWrite {v : Word} (h : s.MemWf) : OutcomeWf (execFpstatusWrite v s) := h.fpstatusWriteOp

theorem State.MemWf.execPnWrite {i : BitVec 5} {v : Word} (h : s.MemWf) : OutcomeWf (execPnWrite i v s) := h.pnWriteOp

theorem State.MemWf.execEwtableWrite {v : Word} (h : s.MemWf) : OutcomeWf (execEwtableWrite v s) := h.ewtableWriteOp
end

/-! ## Links, requests and answers -/

section
variable {s : State}

theorem State.MemWf.setPkt {p : Nat} {x : Packet} (h : s.MemWf) : (s.setPkt p x).MemWf := h

theorem State.MemWf.endPkt {p : Nat} (h : s.MemWf) : (s.endPkt p).MemWf := by
  fun_cases State.endPkt s p with
  | case2 => exact h
  | case3 => exact h.setPkt
  | _ => exact h

theorem State.MemWf.dropEntry {cx : Nat} {e : Entry} (h : s.MemWf) : (s.dropEntry cx e).MemWf := h

theorem State.MemWf.setPhase {cx : Nat} {e : Entry} {ph : EntryPhase} (h : s.MemWf) : (s.setPhase cx e ph).MemWf := h

theorem State.MemWf.settle {cx : Nat} {e : Entry} {x : Started} (h : s.MemWf) (hx : x.MemWf) : (s.settle cx e x).MemWf := by
  cases x with
  | wait => exact h
  | _ => exact hx

theorem State.MemWf.leaveRouter {p : Nat} {x : Packet} (h : s.MemWf) : (s.leaveRouter p x).1.MemWf := by
  fun_cases State.leaveRouter s p x with
  | case3 => exact h.updDie.setPkt
  | _ => exact h

theorem State.MemWf.gathered {x : Packet} {g o : Nat} {bs : List Byte} {poison : Bool} (h : s.MemWf) :
    (s.gathered x g o bs poison).MemWf := by
  fun_cases State.gathered s x g o bs poison with
  | case2 => exact settle h (finishLoad h)
  | _ => exact h

theorem State.MemWf.performPkt {p : Nat} {x : Packet} (h : s.MemWf) : (s.performPkt p x).MemWf := by
  fun_cases State.performPkt s p x with
  | case2 _ _ _ _ _ _ e => exact ((h.readPieces.get e).gathered).endPkt
  | case3 _ _ _ _ _ _ e => exact ((h.readPieces.get e).settle (h.readPieces.get e).finishLoad).endPkt
  | case5 _ _ _ _ e => exact ((h.writePieces.get e).iteThen (·.foldl fun _ _ ht => ht.cleanLine)).setPkt
  | case6 _ _ _ _ _ _ _ _ _ e => exact h.leaveRouter.of_fst e
  | case7 _ _ _ _ _ _ _ _ _ e _ _ _ _ _ _ _ e2 =>
    exact ((((h.leaveRouter.of_fst e).performAtomic).get e2).iteThen (·.countMigration)).setPkt
  | _ => exact h

theorem State.MemWf.execRemoteAccessAtHome {p : Nat} (h : s.MemWf) : OutcomeWf (execRemoteAccessAtHome p s) := by
  fun_cases Machine.execRemoteAccessAtHome p s with
  | case3 => exact h.setPkt
  | case4 => exact h.performPkt
  | _ => exact h

theorem State.MemWf.transitAnswered {p : Nat} {x : Packet} (h : s.MemWf) : (s.transitAnswered p x).MemWf :=
  have ht := h.endPkt.ite h
  ht.streamFault.ite (ht.streamFault.ite ht.dropEntry)

theorem State.MemWf.execStoreAcknowledgement {p : Nat} (h : s.MemWf) : OutcomeWf (execStoreAcknowledgement p s) := by
  fun_cases Machine.execStoreAcknowledgement p s with
  | case2 => exact h.endPkt
  | case3 => exact h.transitAnswered.ite h.endPkt
  | case4 => exact h.transitAnswered.ite h
  | _ => exact h

theorem State.MemWf.execAtomicReply {p : Nat} (h : s.MemWf) : OutcomeWf (execAtomicReply p s) := by
  fun_cases Machine.execAtomicReply p s with
  | case2 => exact h.atomicReplied.endPkt
  | _ => exact h

theorem State.MemWf.execSelectiveAck {src dst base : Nat} {bits : BitVec 64} (h : s.MemWf) :
    OutcomeWf (execSelectiveAck src dst base bits s) := h

theorem State.MemWf.execRetransmitTimeout {p : Nat} (h : s.MemWf) : OutcomeWf (execRetransmitTimeout p s) := by
  fun_cases Machine.execRetransmitTimeout p s with
  | case2 => exact h.setPkt
  | _ => exact h

theorem State.MemWf.execLinkRetrain {die port lanes : Nat} (h : s.MemWf) : OutcomeWf (execLinkRetrain die port lanes s) :=
  .ite h.updDie (.ite h.updMod.updDie h)

theorem State.MemWf.execLinkWidthChange {die port lanes : Nat} (h : s.MemWf) : OutcomeWf (execLinkWidthChange die port lanes s) :=
  .ite h.updDie h

theorem State.MemWf.execLinkMarkedDown {die port : Nat} (h : s.MemWf) : OutcomeWf (execLinkMarkedDown die port s) :=
  .ite h.updDie.post h

theorem State.MemWf.castWrite {die : Nat} {w : Nat × BitVec 10} (h : s.MemWf) : (s.castWrite die w).MemWf := h.setDie.ite h.setDie

theorem State.MemWf.castRetry (h : s.MemWf) : s.castRetry.MemWf :=
  h.foldl fun _ _ ht => ht.updDie.foldl fun _ _ hu => hu.castWrite

theorem State.MemWf.execMulticastEntryWrite {die group : Nat} {ports : BitVec 10} (h : s.MemWf) :
    OutcomeWf (execMulticastEntryWrite die group ports s) :=
  .ite h.castWrite h

theorem State.MemWf.enterRouter {p : Nat} {x : Packet} (h : s.MemWf) : (s.enterRouter p x).MemWf := by
  fun_cases State.enterRouter s p x with
  | case1 | case4 => exact h.updDie.setPkt
  | case2 | case3 => exact h.setPkt

theorem State.MemWf.execHuddleArrival {p : Nat} (h : s.MemWf) : OutcomeWf (execHuddleArrival p s) := by
  fun_cases Machine.execHuddleArrival p s with
  | case3 => exact h.enterRouter
  | case5 _ _ _ _ _ _ _ _ _ _ e => exact (h.leaveRouter.of_fst e).enterRouter
  | _ => exact h

theorem State.MemWf.splitRecs {v : Word} {poison lost : Bool} {l : List HudRec} (h : s.MemWf) : (s.splitRecs v poison lost l).MemWf := by
  fun_induction State.splitRecs s v poison lost l with
  | case1 => exact h
  | case2 s r _ s' ih =>
    refine ih ?_
    unfold s'
    split
    · exact h
    · exact h.ite (h.setPkt.ite h.setPkt)

theorem State.MemWf.execReplySplit {p : Nat} (h : s.MemWf) : OutcomeWf (execReplySplit p s) := by
  fun_cases Machine.execReplySplit p s with
  | case2 => exact h.setPkt
  | case3 => exact h.splitRecs.setPkt.updDie
  | _ => exact h

theorem State.MemWf.execHuddleCopyLoss {die e : Nat} {rec : Option Nat} (h : s.MemWf) : OutcomeWf (execHuddleCopyLoss die e rec s) := by
  fun_cases Machine.execHuddleCopyLoss die e rec s with
  | case2 => exact h.updDie
  | _ => exact h

theorem State.MemWf.execAtomicUnknownTimeout {p : Nat} (h : s.MemWf) : OutcomeWf (execAtomicUnknownTimeout p s) := by
  fun_cases Machine.execAtomicUnknownTimeout p s with
  | case4 => exact h.setOut.streamFault.endPkt
  | _ => exact h

theorem State.MemWf.execMigrationCounterClear {q : Nat} (h : s.MemWf) : OutcomeWf (execMigrationCounterClear q s) := h.updQuad

theorem State.MemWf.execMtExchange {die : Nat} (h : s.MemWf) : OutcomeWf (execMtExchange die s) := by
  fun_cases Machine.execMtExchange die s with
  | case2 | case3 => exact h.updDie
  | _ => exact h

theorem State.MemWf.execDisciplineLoss {die : Nat} (h : s.MemWf) : OutcomeWf (execDisciplineLoss die s) := .ite h.updDie.post h

theorem State.MemWf.execDisciplineRegain {die : Nat} (h : s.MemWf) : OutcomeWf (execDisciplineRegain die s) := .ite h.updDie h

theorem State.MemWf.execExternalReferenceChange {ref : Option Nat} (h : s.MemWf) : OutcomeWf (execExternalReferenceChange ref s) :=
  h

theorem State.MemWf.transitWrite {key : Nat} {bs : List Byte} (h : s.MemWf) : (s.transitWrite key bs).MemWf := h.homeWrite

theorem State.MemWf.transitRead {p : Nat} {x : Packet} {key n : Nat} (h : s.MemWf) : OptWf id (s.transitRead p x key n) := by
  fun_cases State.transitRead s p x key n with
  | case2 _ _ _ e => exact (((((h.homeRead.get e).setOut).updCtx).endPkt).iteThen (·.dropEntry)).iteThen (·.streamFault)
  | _ => trivial

theorem State.MemWf.transitServe {q : Nat} {t : Transit} (h : s.MemWf) : (s.transitServe q t).MemWf := by
  fun_cases State.transitServe s q t with
  | case1 => exact h.updQuad.transitWrite
  | case2 => exact h.updQuad
  | case3 => exact h.updQuad.transitWrite.setPkt
  | case4 => exact h.updQuad.transitWrite.endPkt
  | case5 => exact (h.updQuad.transitRead.or h.updQuad.fillSlice.transitRead).getD h

theorem State.MemWf.serveTransit {q n : Nat} (h : s.MemWf) : (State.serveTransit q n s).MemWf := by
  fun_induction State.serveTransit q n s with
  | case1 => exact h
  | case2 => exact h
  | case3 => exact h
  | case4 _ _ _ _ _ ih => exact ih h.transitServe

theorem State.MemWf.execTransitAccept {p : Nat} (h : s.MemWf) : OutcomeWf (execTransitAccept p s) := by
  fun_cases Machine.execTransitAccept p s with
  | case3 => exact h.setPkt.ite h
  | case4 => exact h.transitWrite.setPkt
  | case5 => exact h.transitRead.getD h
  | case7 => exact h.updQuad.setPkt.serveTransit
  | _ => exact h

theorem State.MemWf.execTransitStorePerform {q : Nat} (h : s.MemWf) : OutcomeWf (execTransitStorePerform q s) := by
  fun_cases Machine.execTransitStorePerform q s with
  | case1 => exact h.transitServe
  | _ => exact h

theorem State.MemWf.execLdnbDueRead {q : Nat} (h : s.MemWf) : OutcomeWf (execLdnbDueRead q s) := by
  fun_cases Machine.execLdnbDueRead q s with
  | case2 => exact h.transitServe
  | _ => exact h

theorem State.MemWf.execParkedRetry {p : Nat} (h : s.MemWf) : OutcomeWf (execParkedRetry p s) := by
  fun_cases Machine.execParkedRetry p s with
  | case3 => exact h.execTransitAccept
  | case4 => exact h.performPkt
  | _ => exact h

theorem State.MemWf.execParkedTimeout {p : Nat} (h : s.MemWf) : OutcomeWf (execParkedTimeout p s) := by
  fun_cases Machine.execParkedTimeout p s with
  | case3 _ _ _ _ _ s' =>
    refine endPkt (streamFault ?_)
    unfold s'
    split <;> exact h
  | _ => exact h

theorem State.MemWf.homeReadPiece {cx : Nat} {p : Piece} (h : s.MemWf) : OptWf Prod.fst (s.homeReadPiece cx p) := by
  fun_cases State.homeReadPiece s cx p with
  | case1 => exact h.homeRead.map fun _ ht => ht
  | _ => trivial

theorem State.MemWf.execWaitaReread {cx : Nat} (h : s.MemWf) : OutcomeWf (execWaitaReread cx s) := by
  fun_cases Machine.execWaitaReread cx s with
  | case1 _ _ _ _ _ _ _ _ e => exact (h.planScalar.error e).streamFault
  | case3 _ _ _ _ _ _ _ _ e => exact ((h.planScalar.ok e).streamFault).ite h
  | case4 _ _ _ _ _ _ _ _ e _ _ _ _ e2 =>
    have ht := (OptWf.ite .none (h.planScalar.ok e).bypass.homeReadPiece).get e2
    exact ht.settle ht.finishLoad
  | _ => exact h

theorem State.MemWf.execSliceFill {q line : Nat} (h : s.MemWf) : OutcomeWf (execSliceFill q line s) := .ite h.fillSlice h

theorem State.MemWf.execMediaError {line : Nat} (h : s.MemWf) : OutcomeWf (execMediaError line s) := h.setLinePois
end

/-! ## Streaming entries -/

section
variable {s : State}

theorem State.MemWf.askFill {cx : Nat} {e : Entry} {i : Instr} (h : s.MemWf) : (s.askFill cx e i).MemWf := h.ite h.updCore

theorem State.MemWf.startVec {cx : Nat} {e : Entry} {i : Instr} (h : s.MemWf) : (s.startVec cx e i).MemWf := by
  fun_cases State.startVec s cx e i with
  | case4 => exact h.setOut.updCtx
  | case1 => trivial
  | _ => exact h

theorem State.MemWf.startAcc {cx : Nat} {e : Entry} {i : Instr} (h : s.MemWf) : (s.startAcc cx e i).MemWf := by
  fun_cases State.startAcc s cx e i with
  | case1 | case2 => exact Started.MemWf.ite trivial h.setOut.updCtx
  | case3 | case4 | case5 | case6 => exact Started.MemWf.ite trivial h.updCore.updCtx.updCtx
  | case8 => exact h.updCore.updCtx
  | case7 => trivial
  | _ => exact h

theorem State.MemWf.startMx {cx : Nat} {x : Entry} {i : Instr} (h : s.MemWf) : (s.startMx cx x i).MemWf := by
  fun_cases State.startMx s cx x i with
  | case2 | case5 => exact h.updCore
  | case6 => trivial
  | _ => exact h

theorem State.MemWf.startBeat {cx : Nat} {e : Entry} {i : Instr} (h : s.MemWf) : (s.startBeat cx e i).MemWf := by
  unfold State.startBeat
  split
  · refine .ite h (.ite trivial (.ite trivial ?_))
    dsimp only
    split
    · trivial
    · exact h
    · exact .ite h (h.setCore.ite h.setCore.updCtx)
  · trivial

theorem State.MemWf.execKind1Fetch {cx : Nat} (h : s.MemWf) : OutcomeWf (execKind1Fetch cx s) := by
  fun_cases Machine.execKind1Fetch cx s with
  | case4 | case5 | case6 | case8 | case11 => exact h.streamFault
  | case9 => exact (by split; exacts [h, h.setPhase])
  | case10 => exact h.noteError.ite h
  | case12 _ _ _ _ _ _ _ _ _ _ _ _ _ _ _ _ _ _ _ _ _ _ _ _ _ _ e => exact ((OptWf.ite .none h.readPiece).get e).setPhase
  | _ => exact h

theorem State.MemWf.execBeat {cx : Nat} (h : s.MemWf) : OutcomeWf (execBeat cx s) := by
  fun_cases Machine.execBeat cx s with
  | case1 => exact h.ite (h.askFill.settle h.askFill.startBeat)
  | _ => exact h

theorem State.MemWf.startEntry {cx : Nat} {e : Entry} {i : Instr} {finish : Bool} (h : s.MemWf) : (s.startEntry cx e i finish).MemWf := by
  fun_cases State.startEntry s cx e i finish with
  | case1 => exact h.startMem
  | case3 => exact h.startVec
  | case4 => exact h.startMx
  | case5 => exact h.startAcc
  | _ => trivial

theorem State.MemWf.startHead {cx slot : Nat} {finish : Bool} (h : s.MemWf) : (s.startHead cx slot finish).MemWf := by
  fun_cases State.startHead s cx slot finish with
  | case1 => exact h.askFill.settle h.askFill.startEntry
  | _ => exact h

theorem State.MemWf.execStreamingWrite {cx i : Nat} (h : s.MemWf) : OutcomeWf (execStreamingWrite cx i s) := by
  fun_cases Machine.execStreamingWrite cx i s with
  | case3 => exact h.setCtx
  | _ => exact h

theorem State.MemWf.execVectorFill {cx r : Nat} (h : s.MemWf) : OutcomeWf (execVectorFill cx r s) := by
  fun_cases Machine.execVectorFill cx r s with
  | case1 => exact h
  | case2 _ _ _ _ _ _ e => exact (h.hwGet.of_fst e).setCtx
  | case3 => trivial

theorem State.MemWf.execVectorEarlyWriteback {cx r : Nat} (h : s.MemWf) : OutcomeWf (execVectorEarlyWriteback cx r s) :=
  h.putTile.setCtx.out.ite h

theorem State.MemWf.execConditionedOpPerform {cx slot : Nat} (h : s.MemWf) : OutcomeWf (execConditionedOpPerform cx slot s) := by
  fun_cases Machine.execConditionedOpPerform cx slot s with
  | case2 => exact h.settle h.startMem
  | case3 => exact h.execKind1Fetch
  | _ => exact h

theorem State.MemWf.execDrainComplete {cx : Nat} (h : s.MemWf) : OutcomeWf (execDrainComplete cx s) := by
  fun_cases Machine.execDrainComplete cx s with
  | case1 | case2 => exact h.startHead
  | _ => exact h

theorem State.MemWf.execPersistComplete {cx : Nat} (h : s.MemWf) : OutcomeWf (execPersistComplete cx s) := by
  fun_cases Machine.execPersistComplete cx s with
  | case1 => exact h.startHead
  | _ => exact h

theorem State.MemWf.issueSlot {r : State} {off ckpt : Bool} {slot : Nat} {par : Parcel} {i : Instr} (h : s.MemWf) :
    (State.issueSlot r off ckpt slot par i s).MemWf :=
  h

theorem State.MemWf.issueAlone {slot : Nat} {i : Instr} (h : s.MemWf) : (s.issueAlone slot i).MemWf := h

theorem State.MemWf.landed (h : s.MemWf) : s.landed.MemWf := h

theorem State.MemWf.aloneNop {slot : Nat} {i : Instr} (h : s.MemWf) : OutcomeWf (aloneNop slot i s) := h.issueAlone

theorem State.MemWf.aloneStream {slot : Nat} {g : Bool} {i : Instr} (h : s.MemWf) : OutcomeWf (aloneStream slot g i s) := by
  fun_cases Machine.aloneStream slot g i s with
  | case1 => exact h.issueAlone
  | case3 => exact h.takePrecise
  | case4 => exact h.issueAlone.startHead.landed.out
  | _ => exact h

theorem State.MemWf.startOp7 {cx : Nat} {e : Entry} {i : Instr} (h : s.MemWf) : (s.startOp7 cx e i).MemWf := by
  fun_cases State.startOp7 s cx e i with
  | case1 => exact h.startCpy
  | case2 => exact h.startStage
  | case3 => exact h.startRinit
  | case4 => exact h.startRawait
  | case5 => exact h.startRrel
  | case6 => exact h.startLease
  | case7 => exact h.startLcmd
  | case8 => exact h.startUnlease
  | case9 => exact h.startLwarm
  | case10 => exact h.startLaunch
  | case11 => exact h.startWstr
  | case12 => exact h.startBankcfg
  | case13 => exact h.startTload
  | case14 => exact h.startPinwin
  | case15 => exact h.startUnpin
  | case16 => exact h.startSwappg
  | case17 => exact h.startTlbinv
  | case18 => exact h.startMapwin
  | _ => exact h

theorem State.MemWf.failDead {cx : Nat} {e : Entry} {i : Instr} (h : s.MemWf) : (s.failDead cx e i).MemWf := by
  fun_cases State.failDead s cx e i with
  | case2 => exact h.setOut.updCtx
  | _ => exact h

theorem State.MemWf.startCmd {cx : Nat} {e : Entry} {i : Instr} (h : s.MemWf) : (s.startCmd cx e i).MemWf :=
  .ite trivial (.ite h.failDead (.ite trivial h.startOp7))

theorem State.MemWf.startHead7 {cx : Nat} (h : s.MemWf) : (s.startHead7 cx).MemWf := by
  fun_cases State.startHead7 s cx with
  | case1 | case2 | case3 => exact h.settle h.startCmd
  | _ => exact h

theorem State.MemWf.execCommandCompletion {id : Nat} (h : s.MemWf) : OutcomeWf (execCommandCompletion id s) := by
  fun_cases Machine.execCommandCompletion id s with
  | case3 | case4 | case5 | case6 | case11 => exact h.endCmd
  | case7 => exact h.endCmd.ite h
  | case8 => exact h.finishRinit.getD h
  | case10 _ _ _ _ _ _ _ _ _ _ e => exact (h.finishTload.get e).out
  | case12 => exact h.finishPinwin
  | case13 => exact h.finishTlbinv.getD h
  | case14 => exact h.finishMapwin
  | _ => exact h

theorem State.MemWf.aloneCommand {g : Bool} {i : Instr} (h : s.MemWf) : OutcomeWf (aloneCommand g i s) := by
  fun_cases Machine.aloneCommand g i s with
  | case1 => exact h.issueAlone
  | case3 => exact h.takePrecise
  | case4 => exact h.issueAlone.startHead7.landed.out
  | _ => exact h
end

/-! ## Checkpoints, rollback and the issue of bundles -/

section
variable {s : State}

/-- The kernel unfolds a match on `State.hwGet` at an address by computing the read, which does not end. The proofs about functions that
match on it therefore replace it by some `get` of which only this is known. -/
theorem exists_hwGet : ∃ get, get = State.hwGet ∧ ∀ {t key n}, t.MemWf → (get t key n).1.MemWf := ⟨_, rfl, fun ht => ht.hwGet⟩

/-- `State.fillSlots` with the read of the save area as a parameter. -/
def fillSlotsWith (get : State → Nat → Nat → State × List Byte) (cx : Nat) : Nat → State → State
  | 0, s => s
  | n + 1, s =>
    let s := fillSlotsWith get cx n s
    let c := s.ctx cx
    let key := areaKey c.savebase + 4096 * n
    if c.vvalid.getLsbD n then s
    else if !populated key then { s with bad := s.bad.or (some key) }
    else
      (get s key 4096).1.setCtx cx
        { c with v := mset [] n (tileOfBytes (get s key 4096).2) c.v, vvalid := c.vvalid ||| ((1 : Word) <<< n) }

theorem fillSlots_eq_fillSlotsWith : State.fillSlots = fillSlotsWith State.hwGet := by
  obtain ⟨get, hget, -⟩ := exists_hwGet
  delta State.fillSlots State.fillSlots._f fillSlotsWith fillSlotsWith._f
  rewrite [← hget]
  rfl

theorem State.MemWf.fillSlotsWith {get : State → Nat → Nat → State × List Byte} {cx n : Nat}
    (hg : ∀ {t key n}, t.MemWf → (get t key n).1.MemWf) (h : s.MemWf) : (fillSlotsWith get cx n s).MemWf := by
  fun_induction Machine.fillSlotsWith get cx n s with
  | case1 => exact h
  | case2 _ _ _ _ _ ih | case3 _ _ _ _ _ _ _ ih => exact ih h
  | case4 _ _ _ _ _ _ _ ih => exact (hg (ih h)).setCtx

theorem State.MemWf.fillSlots {cx n : Nat} (h : s.MemWf) : (State.fillSlots cx n s).MemWf :=
  fillSlots_eq_fillSlotsWith ▸ fillSlotsWith (fun ht => ht.hwGet) h

theorem State.MemWf.takeSnapshot {cx : Nat} (h : s.MemWf) : (s.takeSnapshot cx).MemWf :=
  h.fillSlots.setCtx.updCore.iteThen (·.hwPut)

theorem State.MemWf.restartWstr {p : Nat × Nat × Command} (h : s.MemWf) : (s.restartWstr p).MemWf := h.newCmd.updDie.ite h

theorem State.MemWf.restoreRegion {cx : Nat} {run : BitVec 2} (h : s.MemWf) : (s.restoreRegion cx run).MemWf := by
  fun_cases State.restoreRegion s cx run with
  | case1 => exact h
  | case2 _ _ _ _ _ _ _ e _ _ _ _ _ e2 =>
    have ht := h.withdrawLdnb.of_fst e
    have hu := of_fst (by exact iteFst (hwGet (.ite ht ht)) (.ite ht ht)) e2
    exact foldl hu.updCore.setCtx fun _ _ hv => hv.restartWstr

theorem State.MemWf.countLife {die : Nat} {f : Lifetime → Lifetime} (h : s.MemWf) : (s.countLife die f).MemWf := h

theorem State.MemWf.withdrawPlay {l id : Nat} {c : Command} (h : s.MemWf) : (s.withdrawPlay l id c).MemWf := h

theorem State.MemWf.withdrawPlays {l : Nat} (h : s.MemWf) : (s.withdrawPlays l).MemWf := h.foldl fun _ _ ht => ht.withdrawPlay

theorem State.MemWf.toCheckpoint {cx : Nat} (h : s.MemWf) : (s.toCheckpoint cx).MemWf :=
  h.restoreRegion.ite (h.ite (h.takeSnapshot.ite h))

theorem State.MemWf.preempt {l : Nat} (h : s.MemWf) : (s.preempt l).MemWf :=
  h.ite (withdrawPlays (foldl h fun _ _ ht => ht.toCheckpoint))

theorem State.MemWf.retireCore {cx : Nat} (h : s.MemWf) : (s.retireCore cx).MemWf := by
  fun_cases State.retireCore s cx with
  | case1 => exact (((h.foldl fun _ _ ht => ht.toCheckpoint).updCore).countLife).post
  | case2 => exact ((((h.foldl fun _ _ ht => ht.toCheckpoint).updCore).countLife).post).preempt
  | case3 => exact ((((h.foldl fun _ _ ht => ht.toCheckpoint).updCore).countLife).post).failLaunch

theorem State.MemWf.detected {cx : Nat} {scratch : Bool} (h : s.MemWf) : (s.detected cx scratch).MemWf := by
  fun_cases State.detected s cx scratch with
  | case2 | case4 => exact h.failLaunch
  | case3 => exact h.noted
  | case5 => exact h.retireCore
  | case6 => exact h.addContained.restoreRegion.countLife
  | _ => exact h

theorem State.MemWf.pendingError {cx : Nat} (h : s.MemWf) : OptWf id (s.pendingError cx) := .ite .none (.map_all fun _ => h.detected)

theorem State.MemWf.endRerun {cx : Nat} (h : s.MemWf) : OptWf id (s.endRerun cx) := by
  fun_cases State.endRerun s cx with
  | case3 => exact h.setCtx.restoreRegion.countLife
  | case5 => exact h.retireCore
  | _ => trivial

theorem State.MemWf.releaseStore {cx : Nat} {x : HeldStore} (h : s.MemWf) : OptWf id (s.releaseStore cx x) :=
  .ite .none (.ite (h.send.map fun _ ht => ht) (h.writePieces.map fun _ ht => ht.cleanLine.ite ht))

theorem State.MemWf.releaseHeld {cx n : Nat} (h : s.MemWf) : (State.releaseHeld cx n s).MemWf := by
  fun_induction State.releaseHeld cx n s with
  | case1 => exact h
  | case2 => exact h
  | case3 => exact h
  | case4 => exact h
  | case5 _ _ _ _ _ _ _ _ _ e ih => exact ih (h.setCtx.releaseStore.get e)

theorem State.MemWf.streamSlot {r : State} {off ckpt : Bool} {x : SlotOp} (h : s.MemWf) : (streamSlot r off ckpt s x).MemWf := by
  fun_cases Machine.streamSlot r off ckpt s x with
  | case2 => exact h.issueSlot
  | _ => exact h

theorem State.MemWf.scalarSlots {r : State} {l : List (Nat × Instr)} (h : s.MemWf) : TrapWf (scalarSlots r l s) := by
  refine TrapWf.foldlM (fun _ _ ht => ?_) l s h
  exact scalarEffect ht

theorem State.MemWf.issueRep {b : Bundle} {l : List SlotOp} {ckpt : Bool} (h : s.MemWf) : TrapWf (s.issueRep b l ckpt) := by
  fun_cases State.issueRep s b l ckpt with
  | case7 _ _ _ _ _ _ _ _ _ _ _ _ e _ e2 =>
    have ht := (h.setCtx.s0Effect.get e).scalarSlots.get e2
    exact updCtx (foldl (updCtx (.ite (startDivide ht) (updCtx ht))) fun _ _ hu => hu.streamSlot)
  | _ => trivial

theorem State.MemWf.backToRetiring {cx : Nat} (h : s.MemWf) : (s.backToRetiring cx).MemWf := h.withdrawRequests.ite h

theorem State.MemWf.finishRep {r : State} {b : Bundle} {l : List SlotOp} (h : s.MemWf) : (State.finishRep r s b l).MemWf := by
  unfold State.finishRep
  extract_lets _ _ _ u v s0 x
  have hv : v.MemWf := updCore (updCtx h)
  have hx : x.MemWf := hv.updCtx
  clear_value s0
  refine hv.updCtx.ite ?_
  split
  · next e => exact ((OptWf.bind_all fun _ => hv.s0Post).get e).backToRetiring
  · split
    · exact hx.yieldPost
    · exact hx.exitPost.withdrawRequests
    · exact hx

theorem State.MemWf.releaseAll {cx : Nat} (h : s.MemWf) : (s.releaseAll cx).MemWf := h.updCtx.releaseHeld

theorem State.MemWf.go {b : Bundle} {l : List SlotOp} (h : s.MemWf) : (s.go b l).MemWf := by
  fun_cases State.go s b l with
  | case1 _ _ _ _ e => exact (h.endRerun.ite .none).get e
  | case2 => exact (h.updCtx.ite h).updCtx
  | case3 => exact (h.updCtx.ite h).plainHalt
  | case4 => exact (h.updCtx.ite h).takePrecise
  | case5 => exact (h.updCtx.ite h).iteThen (·.releaseAll)
  | case6 => exact ((h.updCtx.ite h).iteThen (·.releaseAll)).takePrecise
  | case7 _ _ _ _ _ _ _ _ _ _ _ _ _ e => exact ((((h.updCtx.ite h).iteThen (·.releaseAll)).issueRep).get e).finishRep

theorem State.MemWf.issue {b : Bundle} (h : s.MemWf) : (s.issue b).MemWf := by
  fun_cases State.issue s b with
  | case2 => exact h.pendingError.getD h
  | case3 => exact h.takeSnapshot
  | case5 => exact takePrecise h
  | case7 => exact go h
  | _ => exact h

theorem State.MemWf.execFullBundle {hdr : W32} {words : List W32} (h : s.MemWf) : OutcomeWf (execFullBundle hdr words s) :=
  h.issue.out

theorem State.MemWf.execTcall {index : BitVec 9} {rc : BitVec 6} (h : s.MemWf) : OutcomeWf (execTcall index rc s) := h.issue.out

theorem State.MemWf.ckptPost (h : s.MemWf) : (ckptPost s).MemWf := by
  fun_cases Machine.ckptPost s with
  | case2 _ _ _ e => exact (h.pendingError.or h.endRerun).get e
  | case3 => exact h.updCtx.releaseAll.takeSnapshot
  | case4 => exact h.updCtx.releaseAll
  | _ => exact h

theorem State.MemWf.execContextSwitch {core : Nat} (h : s.MemWf) : OutcomeWf (execContextSwitch core s) := by
  fun_cases Machine.execContextSwitch core s with
  | case3 => exact h.setCore
  | _ => exact h

theorem State.MemWf.execQuantumExpiry {core : Nat} (h : s.MemWf) : OutcomeWf (execQuantumExpiry core s) := .ite h.setCore h

theorem State.MemWf.execStreamingEntryStart {cx slot : Nat} (h : s.MemWf) : OutcomeWf (execStreamingEntryStart cx slot s) := by
  unfold Machine.execStreamingEntryStart
  split
  · next e => exact h.pendingError.get e
  · exact (h.startHead7.ite h).ite (h.ite (h.startHead.ite h.startHead.haltWaits))

theorem State.MemWf.execDivideComplete {core : Nat} (h : s.MemWf) : OutcomeWf (execDivideComplete core s) := by
  fun_cases Machine.execDivideComplete core s with
  | case2 => exact (by split; exacts [h.updCore.updCtx, h.updCore.updCtx.softTrap])
  | _ => exact h

theorem State.MemWf.execTrapEntry {cx : Nat} (h : s.MemWf) : OutcomeWf (execTrapEntry cx s) := by
  fun_cases Machine.execTrapEntry cx s with
  | case3 => exact h.setCtx
  | case4 => exact h.setCtx.takeTrap
  | _ => exact h

theorem State.MemWf.execRetirementComplete {cx : Nat} (h : s.MemWf) : OutcomeWf (execRetirementComplete cx s) := by
  fun_cases Machine.execRetirementComplete cx s with
  | case2 _ _ e => exact h.endRerun.get e
  | case3 => exact h.setCtx.releaseLeases.dropWarm.iteThen (·.updCore)
  | _ => exact h
end

/-! ## Launches, records and binding -/

section
variable {s : State}

theorem State.MemWf.freeSlot {id : Nat} {l : Launch} (h : s.MemWf) : (s.freeSlot id l).MemWf := h

theorem State.MemWf.writeEvent {l : Launch} {status : Nat} (h : s.MemWf) : OptWf Prod.fst (s.writeEvent l status) := by
  fun_cases State.writeEvent s l status with
  | case2 _ _ _ _ _ e => exact h.xlate.error e
  | case3 _ _ _ _ _ e => exact h.xlate.ok e
  | case5 _ _ _ _ _ e => exact ((h.xlate.ok e).homeWrite).homeWrite
  | case4 => trivial
  | _ => exact h

theorem State.MemWf.releaseCluster {l cl : Nat} (h : s.MemWf) : (State.releaseCluster l s cl).MemWf :=
  h.flushAll.switchBanks.updCluster

theorem State.MemWf.giveUp {id : Nat} {l : Launch} {status : Nat} (h : s.MemWf) : (s.giveUp id l status).MemWf :=
  ((h.foldl fun _ _ ht => ht.releaseCluster).foldl fun _ _ ht => ht.setCtx).updLaunch

theorem State.MemWf.writeDone {id : Nat} {l : Launch} {status since : Nat} (h : s.MemWf) : (s.writeDone id l status since).MemWf := by
  fun_cases State.writeDone s id l status since with
  | case1 => exact h.post.freeSlot
  | case3 _ e => exact (h.writeEvent.get e).freeSlot
  | case4 _ _ _ e => exact ((h.writeEvent.get e).post).freeSlot
  | _ => exact h

theorem State.MemWf.complete {id : Nat} {l : Launch} {status : Nat} (h : s.MemWf) : (s.complete id l status).MemWf :=
  h.giveUp.writeDone

theorem State.MemWf.abortCmd {id : Nat} {c : Command} (h : s.MemWf) : (s.abortCmd id c).MemWf := updDie (updCluster h.failPeers)

theorem State.MemWf.killLaunch {id : Nat} {l : Launch} (h : s.MemWf) : (s.killLaunch id l).MemWf :=
  have hStop := fun (t : State) cx (ht : t.MemWf) => (ht.stopCtx : (t.stopCtx cx).MemWf)
  foldl (foldl (foldl (foldl (foldl (foldl h hStop) fun _ _ ht => ht.abortCmd) fun _ _ ht => ht.arbiter)
    fun _ _ ht => ht.withdrawLdnb) fun _ _ ht => ht.writeBackAll.updCluster) fun _ _ ht => ht.updCore.ite ht

theorem State.MemWf.execLaunchCompletion {id : Nat} (h : s.MemWf) : OutcomeWf (execLaunchCompletion id s) := by
  fun_cases Machine.execLaunchCompletion id s with
  | case2 => exact h.writeDone.out
  | case3 | case4 => exact h.killLaunch
  | case5 => exact h.killLaunch.complete.out
  | case6 => exact h.complete.out
  | _ => exact h

theorem State.MemWf.reject {id : Nat} {l : Launch} {detail : Nat} (h : s.MemWf) : (s.reject id l detail).MemWf := h

theorem State.MemWf.hwGetIf {c : Prop} [Decidable c] {key n : Nat} (h : s.MemWf) : (if c then s.hwGet key n else (s, [])).1.MemWf :=
  iteFst h.hwGet h

theorem State.MemWf.execRecordAtHead {m q : Nat} (h : s.MemWf) : OutcomeWf (execRecordAtHead m q s) := by
  fun_cases Machine.execRecordAtHead m q s with
  | case3 _ _ _ _ _ _ _ _ e | case4 _ _ _ _ _ _ _ _ e => exact (h.hwGetIf.of_fst e :)
  | case2 => trivial
  | _ => exact h

/-- The state of a dispatcher's read, whether it ends well or with an error whose state `f` takes. -/
def readState {ε α : Type} (f : ε → State) : Except ε (State × α) → State
  | .ok a => a.1
  | .error e => f e

theorem State.MemWf.dispRead {sp : Space} {l : List (Nat × Nat)} (h : s.MemWf) : OptWf (readState id) (s.dispRead sp l) := by
  fun_induction State.dispRead s sp l with
  | case1 => exact h
  | case2 _ _ _ _ _ _ e => exact h.xlate.error e
  | case3 _ _ _ _ _ _ e => exact h.xlate.ok e
  | case6 _ _ _ _ _ _ e _ _ _ _ e2 => exact ((h.xlate.ok e).homeRead.get e2 :)
  | case7 _ _ _ _ _ _ e _ _ _ _ e2 _ _ e3 ih => exact ((ih ((h.xlate.ok e).homeRead.get e2)).get e3 :)
  | case8 _ _ _ _ _ _ e _ _ _ _ e2 _ ih => exact ih ((h.xlate.ok e).homeRead.get e2)
  | _ => trivial

theorem State.MemWf.execDependenceSatisfied {m q j : Nat} (h : s.MemWf) : OutcomeWf (execDependenceSatisfied m q j s) := by
  fun_cases Machine.execDependenceSatisfied m q j s with
  | case4 _ _ _ _ _ _ e => exact (h.dispRead.get e : State.MemWf _).reject
  | case5 _ _ _ _ _ _ _ e => exact (h.dispRead.get e : State.MemWf _).updLaunch
  | case6 _ _ _ _ _ _ _ e => exact (h.dispRead.get e :)
  | _ => exact h

theorem State.MemWf.bindCore {id : Nat} {l : Launch} {code tmpl : List Byte} {m k : Nat} (h : s.MemWf) :
    (s.bindCore id l code tmpl m k).MemWf :=
  h.updCore.foldl fun _ _ ht => ht.setCtx.takeSnapshot.ite ht.setCtx

theorem State.MemWf.bindCluster {id : Nat} {l : Launch} {cl : Nat} (h : s.MemWf) : (State.bindCluster id l s cl).MemWf :=
  (h.flushAll.foldl fun _ _ ht => ht.switchBanks).updCluster

theorem State.MemWf.dispReadIf {c : Prop} [Decidable c] {sp : Space} {l : List (Nat × Nat)} (h : s.MemWf) :
    OptWf (readState id) (if c then s.dispRead sp l else some (.ok (s, []))) := by
  split
  · exact h.dispRead
  · exact h

theorem State.MemWf.dispReadUnless {c : Prop} [Decidable c] {sp : Space} {l : List (Nat × Nat)} (h : s.MemWf) :
    OptWf (readState id) (if c then some (.ok (s, [])) else s.dispRead sp l) := by
  split
  · exact h
  · exact h.dispRead

theorem State.MemWf.readImages {l : Launch} {ds : List Nat} (h : s.MemWf) : OptWf (readState Prod.fst) (State.readImages l ds s) := by
  fun_induction State.readImages l ds s with
  | case1 => exact h
  | case3 _ _ _ _ _ _ e => exact (h.dispReadIf.get e :)
  | case5 _ _ _ _ _ _ _ e _ e2 => exact ((h.dispReadIf.get e).dispRead.get e2 :)
  | case7 _ _ _ _ _ _ _ e _ _ e2 _ e3 => exact (((h.dispReadIf.get e).dispRead.get e2).dispReadUnless.get e3 :)
  | case8 _ _ _ _ _ _ _ e _ _ e2 _ _ e3 => exact (((h.dispReadIf.get e).dispRead.get e2).dispReadUnless.get e3 :)
  | case10 _ _ _ _ _ _ _ e _ _ e2 _ _ e3 _ _ e4 ih | case11 _ _ _ _ _ _ _ e _ _ e2 _ _ e3 _ _ _ e4 ih =>
    exact ((ih (((h.dispReadIf.get e).dispRead.get e2).dispReadUnless.get e3)).get e4 :)
  | _ => trivial

theorem State.MemWf.bind {n : Nat} {l : Launch} {pos : List Nat} (h : s.MemWf) : OptWf id (s.bind n l pos) := by
  fun_cases State.bind s n l pos with
  | case1 => trivial
  | case2 _ _ _ e => exact reject (h.readImages.get e)
  | case3 _ _ _ e =>
    exact foldl (foldl (foldl (setHwQueue (h.readImages.get e)) fun _ _ ht => ht.bindCluster) fun _ _ ht => ht.updDie)
      fun _ _ ht => ht.bindCore

theorem State.MemWf.execStopRuleTimeout {cx : Nat} (h : s.MemWf) : OutcomeWf (execStopRuleTimeout cx s) := by
  fun_cases Machine.execStopRuleTimeout cx s with
  | case3 => exact h.updCtx
  | _ => exact h

theorem State.MemWf.saveAcc {cx row : Nat} (h : s.MemWf) : (State.saveAcc cx s row).MemWf :=
  h.hwPut.foldl fun _ _ ht => ht.setLinePois

theorem State.MemWf.loadAcc {cx row : Nat} (h : s.MemWf) : (State.loadAcc cx s row).MemWf := by
  obtain ⟨get, hget, hg⟩ := exists_hwGet
  obtain ⟨f, hf⟩ : ∃ f, f = State.loadAcc := ⟨_, rfl⟩
  rw [← hf]
  delta State.loadAcc at hf
  rw [← hget] at hf
  subst hf
  exact (hg h).updCore

theorem State.MemWf.saveTiles {cx n : Nat} (h : s.MemWf) : (State.saveTiles cx n s).MemWf := by
  fun_induction State.saveTiles cx n s with
  | case1 => exact h
  | case2 _ _ _ _ _ ih => exact (ih h).putTile
  | case3 _ _ _ _ _ ih => exact ih h
end

/-! ## Saved launches and the scheduler -/

section
variable {s : State}

theorem State.MemWf.withCmds {cmds : Map Command} (h : s.MemWf) : { s with cmds := cmds }.MemWf := h

theorem State.MemWf.saveCtx {id r cx : Nat} (h : s.MemWf) : (s.saveCtx id r cx).MemWf := by
  unfold State.saveCtx
  extract_lets sOuts
  split
  next sBack _ e =>
  have hBack : sBack.MemWf := h.updCtx.withdrawLdnb.of_fst e
  extract_lets sWaits c area sTiles sDec sTmpl sAcc sArr cRest sBlock sLaunch sCmds sDie
  have hTmpl : sTmpl.MemWf := hBack.forgetWaits.saveTiles.hwPut.iteThen (·.hwPut)
  have hArr : sArr.MemWf := (hTmpl.foldl fun _ _ ht => ht.saveAcc).iteThen (·.hwPut)
  have hLaunch : sLaunch.MemWf := hArr.saveBlock.updLaunch
  have hCmds : sCmds.MemWf := hLaunch.withCmds
  have hDie : sDie.MemWf := hCmds.updDie
  exact hDie.dropWarm

theorem State.MemWf.saveLaunch {id : Nat} {l : Launch} (h : s.MemWf) : (s.saveLaunch id l).MemWf :=
  have hImages := (h.foldl fun _ _ ht => ht.saveCtx).iteThen (·.foldl fun _ _ ht => ht.hwPut)
  updLaunch (iteElse (foldl hImages fun _ _ ht => ht.setCtx) (·.foldl fun _ _ ht => ht.updCore))

theorem State.MemWf.resumeBound {id : Nat} {l : Launch} (h : s.MemWf) : (s.resumeBound id l).MemWf :=
  (h.foldl fun _ _ ht => ht.updCtx).updMod

theorem State.MemWf.execSaveComplete {id : Nat} (h : s.MemWf) : OutcomeWf (execSaveComplete id s) := by
  fun_cases Machine.execSaveComplete id s with
  | case3 => exact h.resumeBound
  | case5 => exact h.foldl fun _ _ ht => ht.updCtx
  | case6 => exact (h.saveLaunch.iteThen (·.failLaunch)).out
  | _ => exact h

theorem State.MemWf.rebindCtx {n r cx : Nat} (h : s.MemWf) : OptWf id (s.rebindCtx n r cx) := by
  obtain ⟨get, hget, hg⟩ := exists_hwGet
  obtain ⟨block, hblock⟩ : ∃ block, block = State.loadBlock := ⟨_, rfl⟩
  obtain ⟨f, hf⟩ : ∃ f, f = State.rebindCtx := ⟨_, rfl⟩
  rw [← hf]
  delta State.rebindCtx at hf
  rw [← hget, ← hblock] at hf
  subst hf
  beta_reduce
  extract_lets keep
  split
  next => trivial
  next cBlock _ _ =>
  extract_lets area
  split
  next sBlock _ e =>
  split
  next sDec _ e2 =>
  have hDec : sDec.MemWf := (hg ((hg h).of_fst e)).of_fst e2
  extract_lets cSlots c sCtx sTmpl sAcc sArr sCmds sDie
  have hTmpl : sTmpl.MemWf := iteThen (setCtx hDec) fun ht => (hg ht).updCore
  have hArr : sArr.MemWf := (hTmpl.foldl (f := State.loadAcc cx) fun _ _ ht => ht.loadAcc).iteThen fun ht => (hg ht).updCore
  have hCmds : sCmds.MemWf := hArr.withCmds
  have hDie : sDie.MemWf := hCmds.updDie
  exact updCtx (.ite hDie.takeSnapshot hDie)

theorem State.MemWf.readImagesUnless {c : Prop} [Decidable c] {l : Launch} {ds : List Nat} (h : s.MemWf) :
    OptWf (readState Prod.fst) (if c then some (.ok (s, [])) else State.readImages l ds s) := by
  split
  · exact h
  · exact h.readImages

theorem State.MemWf.rebind {n : Nat} {l : Launch} {pos : List Nat} (h : s.MemWf) : OptWf id (s.rebind n l pos) := by
  obtain ⟨get, hget, hg⟩ := exists_hwGet
  obtain ⟨f, hf⟩ : ∃ f, f = State.rebind := ⟨_, rfl⟩
  rw [← hf]
  delta State.rebind at hf
  rw [← hget] at hf
  subst hf
  beta_reduce
  extract_lets l' put
  have hput : ∀ {t m k code}, t.MemWf → (put t m k code).MemWf := by
    intro t m k code ht
    unfold put
    split
    · exact (hg ht).updCore
    · exact ht.updCore
  clear_value put
  split
  next => trivial
  next e => exact failLaunch (h.readImagesUnless.get e)
  next sRead _ e =>
  have hRead : sRead.MemWf := h.readImagesUnless.get e
  refine updLaunch (foldl (foldl hRead fun _ _ ht => hput ht) fun _ _ ht => ?_)
  split
  next e => exact ht.rebindCtx.get e
  next => exact ht.failLaunch

theorem State.MemWf.serveLaunch {n : Nat} {l : Launch} (h : s.MemWf) : OptWf id (s.serveLaunch n l) := by
  unfold State.serveLaunch
  split
  · exact (OptWf.ite h.rebind h.bind).map fun _ ht => ht.updMod
  · exact .ite .none (.map_all fun _ => foldl h.updLaunch fun _ _ ht => ht.preempt)

theorem State.MemWf.serveList {l : List (Nat × Launch)} (h : s.MemWf) : (s.serveList l).MemWf := by
  fun_induction State.serveList s l with
  | case2 _ _ _ e => exact h.serveLaunch.get e
  | case3 _ _ _ ih => exact ih
  | _ => exact h

theorem State.MemWf.schedule {m : Nat} (h : s.MemWf) : (s.schedule m).MemWf := h.serveList.ite h

theorem State.MemWf.execSchedulerPlacement {m : Nat} (h : s.MemWf) : OutcomeWf (execSchedulerPlacement m s) := h.schedule.out

theorem State.MemWf.execAgeingStep {id : Nat} (h : s.MemWf) : OutcomeWf (execAgeingStep id s) := by
  fun_cases Machine.execAgeingStep id s with
  | case3 => exact h.updLaunch.schedule.out
  | _ => exact h

theorem State.MemWf.almanac {cl t cause : Nat} (h : s.MemWf) : (s.almanac cl t cause).MemWf := by
  fun_cases State.almanac s cl t cause with
  | case2 => exact h.hwPut.hwPut.updCluster
  | _ => exact h

theorem State.MemWf.restartClock {cl : Nat} (h : s.MemWf) : (s.restartClock cl).MemWf := h.setClock.ite h.setClock.almanac

theorem State.MemWf.execWatchdogExpiry {id : Nat} (h : s.MemWf) : OutcomeWf (execWatchdogExpiry id s) := by
  fun_cases Machine.execWatchdogExpiry id s with
  | case3 => exact ((h.foldl fun _ _ ht => ht.failLaunch).foldl fun _ _ ht => ht.updCluster.restartClock).out
  | _ => exact h

theorem State.MemWf.execQueueEnable {m q : Nat} {en : Bool} (h : s.MemWf) : OutcomeWf (execQueueEnable m q en s) :=
  .ite h h.setHwQueue

theorem State.MemWf.execTailDoorbell {m q : Nat} {tail : BitVec 32} (h : s.MemWf) : OutcomeWf (execTailDoorbell m q tail s) :=
  .ite h.setHwQueue h.post

theorem State.MemWf.execPreemptWrite {m q : Nat} (h : s.MemWf) : OutcomeWf (execPreemptWrite m q s) :=
  h.foldl fun _ _ ht => ht.preempt

theorem State.MemWf.execPmaskWrite {m p : Nat} {v : Word} (h : s.MemWf) : OutcomeWf (execPmaskWrite m p v s) :=
  .ite h (.ite h.post h.setMod)
end

/-! ## Power and error events -/

section
variable {s : State}

theorem State.MemWf.execCurrentLimiterTick {cl : Nat} {sense : Sense} (h : s.MemWf) : OutcomeWf (execCurrentLimiterTick cl sense s) :=
  .ite h h.updCluster

theorem State.MemWf.startMove {cl t cause : Nat} (h : s.MemWf) : (s.startMove cl t cause).MemWf :=
  h.setClock.almanac.ite h.setClock

theorem State.MemWf.execMoveComplete {cl : Nat} (h : s.MemWf) : OutcomeWf (execMoveComplete cl s) := by
  fun_cases Machine.execMoveComplete cl s with
  | case3 => exact (h.setClock.ite h.setClock.almanac).out
  | _ => exact h

theorem State.MemWf.withGroups {groups : Map ThrottleGroup} (h : s.MemWf) : { s with groups := groups }.MemWf := h

theorem State.MemWf.groupMin {g : Nat} (h : s.MemWf) : (s.groupMin g).MemWf := .ite h h.withGroups

theorem State.MemWf.sendValue {g : Nat} {x : ThrottleGroup} {cl v : Nat} (h : s.MemWf) : (s.sendValue g x cl v).MemWf :=
  h.withGroups.groupMin

theorem State.MemWf.execArbiterInterval {cl : Nat} (h : s.MemWf) : OutcomeWf (execArbiterInterval cl s) := by
  fun_cases Machine.execArbiterInterval cl s with
  | case1 => exact h
  | case2 _ _ sArb _ sBudget _ _ _ sSent _ _ e =>
    have hBudget : sBudget.MemWf := .ite h.updCluster h.updCluster.setBudget
    have hSent : sSent.MemWf := by
      split at e
      next => exact of_fst (p := (_, _)) (.ite hBudget hBudget.sendValue) e
      next => exact hBudget.of_fst e
    exact out (.ite hSent hSent.startMove)

theorem State.MemWf.takeGroupStep {cl t : Nat} (h : s.MemWf) : (s.takeGroupStep cl t).MemWf :=
  .ite h.updCluster (.ite h.updCluster h.updCluster.startMove)

theorem State.MemWf.received {cl step apply : Nat} (h : s.MemWf) : (s.received cl step apply).MemWf := by
  fun_cases State.received s cl step apply with
  | case1 => exact h
  | case2 => exact h.withGroups.castRetry

theorem State.MemWf.execGroupAnnouncement {cl : Nat} {step : BitVec 5} {mtApply : Nat} (h : s.MemWf) :
    OutcomeWf (execGroupAnnouncement cl step mtApply s) :=
  .ite h.received.takeGroupStep.post.out h.received.updCluster

theorem State.MemWf.execGroupStepApply {cl : Nat} (h : s.MemWf) : OutcomeWf (execGroupStepApply cl s) := by
  fun_cases Machine.execGroupStepApply cl s with
  | case3 => exact h.updCluster.takeGroupStep.out
  | _ => exact h

theorem State.MemWf.mailbox {m : Nat} {loader : Bool} {act : State → Host.Outcome State Fault Refusal}
    (ha : ∀ t, t.MemWf → OutcomeWf (act t)) (h : s.MemWf) : OutcomeWf (s.mailbox m loader act) :=
  .ite h (.ite h.updMod (.ite h.updMod (ha _ h.updMod)))

theorem State.MemWf.execPowerMailboxWrite {cl : Nat} {step : BitVec 5} (h : s.MemWf) : OutcomeWf (execPowerMailboxWrite cl step s) :=
  .ite h.updCluster h

theorem State.MemWf.execCapAndBoostWrite {cl : Nat} {kind : CapKind} {step : BitVec 5} (h : s.MemWf) :
    OutcomeWf (execCapAndBoostWrite cl kind step s) := by
  fun_cases Machine.execCapAndBoostWrite cl kind step s with
  | case2 => exact h.updDie
  | case4 | case6 | case8 | case10 => exact h.updCluster
  | _ => exact h

theorem State.MemWf.execThermalTrip {die : Nat} {x : Host.Outcome State Fault Refusal} (h : s.MemWf) (e : execThermalTrip die s = x) :
    OutcomeWf x := by
  subst e
  unfold Machine.execThermalTrip
  extract_lets sMoved
  have hMoved : sMoved.MemWf := foldl h fun _ _ ht => .ite ht ht.startMove
  clear_value sMoved
  exact hMoved.updDie.post.out

theorem State.MemWf.execThermalTripClear {die : Nat} (h : s.MemWf) : OutcomeWf (execThermalTripClear die s) := .ite h.updDie.post h

theorem State.MemWf.execHbmTemperatureRead {q : Nat} {temp : Int} (h : s.MemWf) : OutcomeWf (execHbmTemperatureRead q temp s) :=
  h.updQuad

theorem State.MemWf.execPowerComparatorInterval {m watts : Nat} (h : s.MemWf) : OutcomeWf (execPowerComparatorInterval m watts s) :=
  .ite h (h.updMod.iteThen (·.foldl fun _ _ ht => ht.updCluster))

theorem State.MemWf.setPower {m : Nat} {p : Power} {volts : Nat} (h : s.MemWf) : (s.setPower m p volts).MemWf := h

theorem State.MemWf.execScratchWordError {cl w : Nat} (h : s.MemWf) : OutcomeWf (execScratchWordError cl w s) := h.updCluster

theorem State.MemWf.execTagArrayError {cl w n : Nat} (h : s.MemWf) : OutcomeWf (execTagArrayError cl w n s) := h.updCluster

theorem State.MemWf.execRegisterFileError {cx r : Nat} (h : s.MemWf) : OutcomeWf (execRegisterFileError cx r s) :=
  .ite h (.ite h.detected.out h.setCtx)

theorem State.MemWf.execAccumulatorRowError {core row : Nat} (h : s.MemWf) : OutcomeWf (execAccumulatorRowError core row s) := by
  fun_cases Machine.execAccumulatorRowError core row s with
  | case2 => exact h.detected.out
  | case3 => exact h.updCore
  | _ => exact h

theorem State.MemWf.execResidueMismatch {core : Nat} (h : s.MemWf) : OutcomeWf (execResidueMismatch core s) := by
  fun_cases Machine.execResidueMismatch core s with
  | case1 => exact h.detected.out
  | case3 => exact h.updCore
  | _ => exact h

theorem State.MemWf.execQueueParityError {cx slot : Nat} (h : s.MemWf) : OutcomeWf (execQueueParityError cx slot s) :=
  .ite h (.ite h.detected.out h.stopCtx.failLaunch)
end

/-! ## Halts, restart and brown-out -/

section
variable {s : State}

theorem State.MemWf.execPlainHalt {tgt : HaltTarget} (h : s.MemWf) : OutcomeWf (execPlainHalt tgt s) := by
  unfold Machine.execPlainHalt
  split
  · exact ite h h.plainHalt
  · exact h.mailbox fun _ ht => foldl ht fun _ _ hu => hu.plainHalt.post

theorem State.MemWf.quiesce {core : Nat} (h : s.MemWf) : (s.quiesce core).MemWf :=
  h.foldl fun _ _ ht => ht.haltWaits.updCtx.ite ht

theorem State.MemWf.execQuiescedHalt {tgt : HaltTarget} (h : s.MemWf) : OutcomeWf (execQuiescedHalt tgt s) := by
  unfold Machine.execQuiescedHalt
  split
  · exact h.quiesce
  · exact h.mailbox fun _ ht => foldl ht fun _ _ hu => hu.updCore.post.quiesce

theorem State.MemWf.resumeCore {core : Nat} (h : s.MemWf) : (s.resumeCore core).MemWf := h.updCore.foldl fun _ _ ht => ht.updCtx

theorem State.MemWf.execResume {tgt : HaltTarget} (h : s.MemWf) : OutcomeWf (execResume tgt s) :=
  h.mailbox fun _ ht => foldl ht fun _ _ hu => hu.resumeCore

theorem State.MemWf.execClearRetirement {core : Nat} (h : s.MemWf) : OutcomeWf (execClearRetirement core s) :=
  h.mailbox fun _ ht => ht.updCore

theorem State.MemWf.haltCmd {id : Nat} {c : Command} (h : s.MemWf) : (s.haltCmd id c).MemWf := by
  unfold State.haltCmd
  extract_lets _ _ _ sOut sLease
  have hOut : sOut.MemWf := h.failPeers.updCluster.updDie
  have hLease : sLease.MemWf := by
    unfold sLease
    split
    · exact hOut.onCmdCtx
    · exact hOut
  exact hLease.endCmd

theorem State.MemWf.revokeAll {die : Nat} (h : s.MemWf) : (s.revokeAll die).MemWf :=
  h.foldl fun _ _ ht => ht.endLease.ite (ht.endGrant.ite ht)

theorem State.MemWf.hostDown {m : Nat} (h : s.MemWf) : (s.hostDown m).MemWf :=
  foldl (foldl h.updMod fun _ _ ht => ht.after ht.execWaitaReread) fun _ _ ht =>
    foldl ht fun _ _ hu => hu.after hu.execDependenceSatisfied

theorem State.MemWf.haltBegin {m : Nat} {cause : HaltCause} (h : s.MemWf) : (s.haltBegin m cause).MemWf := by
  unfold State.haltBegin
  extract_lets _ _ sSaved cmds _ sCmds sEngines sHost _
  have hSaved : sSaved.MemWf := foldl h fun _ _ ht => ht.preempt
  have hCmds : sCmds.MemWf := foldl hSaved fun _ _ ht => by
    split
    · exact ht
    · exact ite ht ht.haltCmd
  have hHost : sHost.MemWf := hostDown (foldl (foldl hCmds fun _ _ ht => ht.revokeAll) fun _ _ ht => ht.flushAll)
  exact post (updMod (setPower hHost))

theorem State.MemWf.copyRange {src dst n : Nat} (h : s.MemWf) : (s.copyRange src dst n).MemWf := wf_copyRange h src dst n

theorem State.MemWf.foldlFst {α β : Type} {f : State × β → α → State × β} (hf : ∀ p a, p.1.MemWf → (f p a).1.MemWf) :
    ∀ (l : List α) (p : State × β), p.1.MemWf → (l.foldl f p).1.MemWf
  | [], _, h => h
  | a :: l, p, h => foldlFst hf l (f p a) (hf p a h)

theorem State.MemWf.drainOne {area size : Nat} {g : Draining} {d : Drain} (h : s.MemWf) : (State.drainOne area size (s, g) d).1.MemWf :=
  .ite h.copyRange h

theorem State.MemWf.sealUp {m : Nat} {cause : HaltCause} {mtHalt : Nat} (h : s.MemWf) : (s.sealUp m cause mtHalt).MemWf := by
  fun_cases State.sealUp s m cause mtHalt with
  | case1 => exact h
  | case2 _ _ _ _ _ _ _ _ _ _ _ _ _ e =>
    have hDrained := of_fst (foldlFst (fun _ _ ht => ht.drainOne) _ (_, _) h) e
    exact updMod hDrained.hwPut.hwPut

theorem State.MemWf.powerDown {m : Nat} (h : s.MemWf) : (s.powerDown m).MemWf := wf_powerDown h m

theorem State.MemWf.haltEnd {m : Nat} {cause : HaltCause} (h : s.MemWf) : (s.haltEnd m cause).MemWf :=
  have hFlushed := fun (l : List Nat) => (h.foldl (l := l) fun _ _ ht => ht.flushAll : (l.foldl State.flushAll s).MemWf)
  .ite h (foldl (setPower (powerDown (.ite (hFlushed _) (sealUp (hFlushed _).updMod)))) fun _ _ ht => ht.updDie)

theorem State.MemWf.execPwrHalt {m : Nat} {cause : HaltCause} (h : s.MemWf) : OutcomeWf (execPwrHalt m cause s) := by
  fun_cases Machine.execPwrHalt m cause s with
  | case3 => exact h.haltEnd.out
  | case4 =>
    have hEnd : ((s.haltBegin m cause).haltEnd m cause).MemWf := h.haltBegin.haltEnd
    generalize (s.haltBegin m cause).haltEnd m cause = t at hEnd
    exact hEnd.out
  | _ => exact h

theorem State.MemWf.execCoolantLimit {m : Nat} {r : CoolantReading} (h : s.MemWf) : OutcomeWf (execCoolantLimit m r s) := by
  fun_cases Machine.execCoolantLimit m r s with
  | case1 => exact h.updMod
  | case2 => exact h.updMod.foldl fun _ _ ht => ht.updCluster
  | case3 => exact (h.updMod.foldl fun _ _ ht => ht.updCluster).execPwrHalt

theorem State.MemWf.configure {m : Nat} {x : ConfigItem} (h : s.MemWf) : (s.configure m x).MemWf := by
  fun_cases State.configure s m x with
  | case1 | case2 => exact h.updCore
  | case9 => exact withGroups (foldl h fun _ _ ht => ht.updCluster)
  | case12 | case20 => exact h.updDie
  | case14 => exact h.updCluster
  | case16 | case18 | case22 => exact h.updMod
  | case19 => exact h.after h.execMulticastEntryWrite
  | _ => exact h

theorem State.MemWf.applyRecord {m : Nat} {r : ConfigRecord} (h : s.MemWf) : (State.applyRecord m s r).MemWf :=
  h.foldl fun _ _ ht => ht.configure

theorem State.MemWf.poisonRange {base n : Nat} (h : s.MemWf) : (s.poisonRange base n).MemWf :=
  h.foldl fun _ _ ht => ht.setLinePois

theorem State.MemWf.restoreOne {area : Nat} {rec_ : List Byte} (h : s.MemWf) : (State.restoreOne area s rec_).MemWf :=
  .ite h (.ite h.poisonRange (.ite h.copyRange h.copyRange.poisonRange))

theorem State.MemWf.restoreRegions {m : Nat} (h : s.MemWf) : (s.restoreRegions m).MemWf := h.foldl fun _ _ ht => ht.restoreOne

theorem State.MemWf.restoreImage {m : Nat} {im : HaltImage} (h : s.MemWf) : (s.restoreImage m im).MemWf := by
  unfold State.restoreImage
  extract_lets sClusters sDies sMod
  have hClusters : sClusters.MemWf := foldl h fun _ _ ht => ht.updCluster
  have hDies : sDies.MemWf := foldl hClusters fun _ _ ht => ht.updDie
  clear_value sDies
  exact hDies

theorem State.MemWf.lock {m t : Nat} (h : s.MemWf) : (s.lock m t).MemWf := h.foldl fun _ _ ht => ht.updDie

theorem State.MemWf.restartClocks {m : Nat} (h : s.MemWf) : (s.restartClocks m).MemWf :=
  h.foldl fun _ _ ht => ht.updCluster.iteThen (·.almanac)

theorem State.MemWf.startUp {m : Nat} (h : s.MemWf) : (s.startUp m).MemWf :=
  (((h.updMod.foldl fun _ _ ht => ht.applyRecord).ite h.updMod).foldl fun _ _ ht => ht.updDie).setPower

theorem State.MemWf.identityRemap {m : Nat} (h : s.MemWf) : (s.identityRemap m).MemWf := h.foldl fun _ _ ht => ht.updDie

theorem State.MemWf.execRestart {m : Nat} {sealOk : Bool} {mt : Option Nat} (h : s.MemWf) : OutcomeWf (execRestart m sealOk mt s) := by
  unfold Machine.execRestart
  split
  case h_2 => exact h
  extract_lets _ _ sLock sBack
  have hLock : sLock.MemWf := h.startUp.lock
  have hBack : sBack.MemWf := by
    unfold sBack
    split
    · exact hLock.restoreRegions.restoreImage
    · exact hLock.identityRemap.updMod.post
  have hClocks : (sBack.restartClocks m).MemWf := hBack.restartClocks
  generalize sBack.restartClocks m = t at hClocks
  exact hClocks.out

theorem State.MemWf.resumeCtx {mtHalt delta l : Nat} {ran : Bool} {p : Nat × Ctx} (h : s.MemWf) :
    (State.resumeCtx mtHalt delta l ran s p).MemWf := by
  unfold State.resumeCtx
  extract_lets _ _ _ sHeld
  have hHeld : sHeld.MemWf := by
    unfold sHeld
    split
    · exact .ite h h.hwPut
    · exact h
  exact hHeld.updLaunch

theorem State.MemWf.agreeSteps {m : Nat} {reds : List (Nat × Nat × Place)} (h : s.MemWf) : (s.agreeSteps m reds).MemWf := by
  unfold State.agreeSteps
  extract_lets stepOf low tags sDies sReds
  have hReds : sReds.MemWf := (foldl h fun _ _ ht => ht.updDie : sDies.MemWf)
  refine foldl hReds fun _ _ ht => ?_
  split
  · exact ht.hwPut
  · exact ht.updCluster
  · exact ht

theorem State.MemWf.execReserveReady {m : Nat} (h : s.MemWf) : OutcomeWf (execReserveReady m s) := by
  unfold Machine.execReserveReady
  extract_lets x _ sImage
  split
  case h_2 => exact h
  split
  · exact h
  have hImage : sImage.MemWf := by
    unfold sImage
    split
    · exact h
    · exact agreeSteps (foldl (foldl h fun _ _ ht => ht.updQuad) fun _ _ ht => foldl ht fun _ _ hu => hu.resumeCtx)
  exact hImage.updMod.out

theorem State.MemWf.execBrownOut {m volts : Nat} (h : s.MemWf) : OutcomeWf (execBrownOut m volts s) := by
  fun_cases Machine.execBrownOut m volts s with
  | case1 => exact h.setPower.updMod.post
  | case2 => exact h.setPower
  | case3 => exact h.setPower.updMod
  | _ => exact h

theorem State.MemWf.endBrownOut {m : Nat} (h : s.MemWf) : (s.endBrownOut m).MemWf := h

theorem State.MemWf.shedDie {die : Nat} (h : s.MemWf) : (s.shedDie die).MemWf := by
  fun_cases State.shedDie s die with
  | case1 => exact h.updDie.groupMin
  | case2 => exact h.updDie
  | _ => exact h

theorem State.MemWf.execDieShed {m : Nat} (h : s.MemWf) : OutcomeWf (execDieShed m s) := by
  fun_cases Machine.execDieShed m s with
  | case1 => exact h.shedDie
  | case4 => exact (h.updMod.foldl fun _ _ ht => ht.preempt).shedDie
  | _ => exact h

theorem State.MemWf.serveDue {q n : Nat} (h : s.MemWf) : (State.serveDue q n s).MemWf := by
  fun_induction State.serveDue q n s with
  | case1 => exact h
  | case2 => exact h
  | case3 _ _ _ _ ih => exact ih h.transitServe

theorem State.MemWf.execDieRestore {m : Nat} (h : s.MemWf) : OutcomeWf (execDieRestore m s) := by
  fun_cases Machine.execDieRestore m s with
  | case1 => exact h.endBrownOut
  | case4 => exact (h.updDie.updMod.iteThen (·.endBrownOut)).foldl fun _ _ ht => ht.updQuad.serveDue
  | _ => exact h
end

/-! ## Host accesses and the mailbox -/

section
variable {s : State}

theorem State.MemWf.execDmaWindowWrite {m w : Nat} {hi : Bool} {v : Word} (h : s.MemWf) : OutcomeWf (execDmaWindowWrite m w hi v s) :=
  .ite h h.updMod

theorem State.MemWf.execPwrlimWrite {m : Nat} {v : Word} (h : s.MemWf) : OutcomeWf (execPwrlimWrite m v s) := .ite h h.updMod

theorem State.MemWf.queueWrite {m q off : Nat} {v : Word} (h : s.MemWf) : (s.queueWrite m q off v).MemWf := by
  fun_cases State.queueWrite s m q off v with
  | case1 _ sPre _ sSet =>
    have hPre : sPre.MemWf := .ite (h.after h.execPreemptWrite) h
    have hSet : sSet.MemWf := hPre.setHwQueue
    exact hSet.after hSet.execQueueEnable
  | case2 | case3 | case4 | case6 | case7 => exact ite h h.setHwQueue
  | case5 => exact h.after h.execTailDoorbell
  | case8 => exact h

theorem State.MemWf.blockWrite {host : Bool} {m off : Nat} {v : Word} (h : s.MemWf) : (s.blockWrite host m off v).MemWf := by
  fun_cases State.blockWrite s host m off v with
  | case2 => exact h.after h.execPmaskWrite
  | case3 => exact h.queueWrite
  | case4 | case5 => exact h.updMod
  | case6 => exact h.after h.execPwrlimWrite
  | case7 => exact h.after h.execDmaWindowWrite
  | case1 | case8 => exact h

theorem State.MemWf.execRegisterWrite {tgt : RegTarget} {v : Word} (h : s.MemWf) : OutcomeWf (execRegisterWrite tgt v s) := by
  fun_cases Machine.execRegisterWrite tgt v s with
  | case1 _ _ e => exact (h.sysWrite.get e).out
  | case2 => exact h.takePrecise
  | case3 => exact h.blockWrite.out

theorem State.MemWf.hostWrite {key : Nat} {data : List Byte} (h : s.MemWf) : (s.hostWrite key data).MemWf :=
  foldlFst (fun _ _ ht => ht.homeWrite) _ (s, data) h

theorem OptWf.foldl {α β : Type} {st : α → State} {f : Option α → β → Option α}
    (hf : ∀ o b, OptWf st o → OptWf st (f o b)) :
    ∀ (l : List β) (o : Option α), OptWf st o → OptWf st (l.foldl f o)
  | [], _, h => h
  | b :: l, o, h => OptWf.foldl hf l (f o b) (hf o b h)

theorem State.MemWf.hostRead {key n : Nat} (h : s.MemWf) : OptWf Prod.fst (s.hostRead key n) :=
  OptWf.foldl (α := State × List Byte) (fun _ _ ho => ho.bind fun _ ht => ht.homeRead.map fun _ hu => hu) _ (some (s, [])) h

theorem State.MemWf.execHostMemoryAccess {m : Nat} {w : HostSide} {off : Nat} {write : Bool} {data : List Byte} (h : s.MemWf) :
    OutcomeWf (execHostMemoryAccess m w off write data s) := by
  fun_cases Machine.execHostMemoryAccess m w off write data s with
  | case2 => exact h.hostWrite
  | case4 _ _ _ _ _ e => exact (h.hostRead.get e).updMod
  | _ => exact h

theorem State.MemWf.execCxlLinkDown {m : Nat} (h : s.MemWf) : OutcomeWf (execCxlLinkDown m s) := h.hostDown

theorem State.MemWf.execCxlLinkTrain {m lanes rate : Nat} (h : s.MemWf) : OutcomeWf (execCxlLinkTrain m lanes rate s) :=
  .ite h.updMod h

theorem State.MemWf.execWriteRecord {m : Nat} {r : ConfigRecord} (h : s.MemWf) : OutcomeWf (execWriteRecord m r s) :=
  h.mailbox fun _ ht => .ite ht.post (out (.ite ht.updMod.applyRecord ht.updMod))

theorem State.MemWf.execWriteImage {m off : Nat} {chunk : ImageChunk} (h : s.MemWf) : OutcomeWf (execWriteImage m off chunk s) :=
  h.mailbox fun _ ht => ht.updMod

theorem State.MemWf.execActivate {m : Nat} {sigs : Signatures} {secVer imgVer : Nat} (h : s.MemWf) :
    OutcomeWf (execActivate m sigs secVer imgVer s) :=
  h.mailbox fun _ ht => .ite ht.updMod (out (.ite (foldl ht.updMod fun _ _ hu => hu.applyRecord) ht.updMod))

theorem State.MemWf.execReadLog {m seq : Nat} (h : s.MemWf) : OutcomeWf (execReadLog m seq s) := h.mailbox fun _ ht => ht.updMod

theorem State.MemWf.execReadLifetime {m : Nat} (h : s.MemWf) : OutcomeWf (execReadLifetime m s) :=
  h.mailbox fun _ ht => ht.updMod.updMod

theorem State.MemWf.execBringUp {m : Nat} {mt : Option Nat} (h : s.MemWf) : OutcomeWf (execBringUp m mt s) := by
  unfold Machine.execBringUp
  split
  · extract_lets sUp
    have hClocks : ((sUp.lock m (sUp.lockTime m mt true 0)).restartClocks m).MemWf := h.startUp.identityRemap.lock.restartClocks
    generalize (sUp.lock m (sUp.lockTime m mt true 0)).restartClocks m = t at hClocks
    exact hClocks.out
  · exact h
end

/-! ## Instructions, events and the step -/

section
variable {s : State}

theorem State.MemWf.run {e : Event} (h : s.MemWf) : OutcomeWf (Event.run e s) := by
  cases e with
  | contextSwitch => exact h.execContextSwitch
  | quantumExpiry => exact h.execQuantumExpiry
  | streamingEntryStart => exact h.execStreamingEntryStart
  | streamingWrite => exact h.execStreamingWrite
  | divideComplete => exact h.execDivideComplete
  | trapEntry => exact h.execTrapEntry
  | retirementComplete => exact h.execRetirementComplete
  | commandCompletion => exact h.execCommandCompletion
  | vectorFill => exact h.execVectorFill
  | disciplineLoss => exact h.execDisciplineLoss
  | disciplineRegain => exact h.execDisciplineRegain
  | plainHalt => exact h.execPlainHalt
  | beat => exact h.execBeat
  | kind1Fetch => exact h.execKind1Fetch
  | conditionedOpPerform => exact h.execConditionedOpPerform
  | bankSwitchComplete => exact h.execBankSwitchComplete
  | copyBegin => exact h.execCopyBegin
  | ringSlotBind => exact h.execRingSlotBind
  | copyComplete => exact h.execCopyComplete
  | playbookEntryStart => exact h.execPlaybookEntryStart
  | rawaitReturn => exact h.execRawaitReturn
  | weightStreamWrite => exact h.execWeightStreamWrite
  | benchArrival => exact h.execBenchArrival
  | holdThresholdPassed => exact h.execHoldThresholdPassed
  | leaseGrant => exact h.execLeaseGrant
  | engineWakeEnd => exact h.execEngineWakeEnd
  | warmEngineSleep => exact h.execWarmEngineSleep
  | dcxDecode => exact h.execDcxDecode
  | srtSort => exact h.execSrtSort
  | gsxGather => exact h.execGsxGather
  | gsxScatter => exact h.execGsxScatter
  | smxSoftmax => exact h.execSmxSoftmax
  | hshCrc32c => exact h.execHshCrc32c
  | hshSha3256 => exact h.execHshSha3256
  | redReduce => exact h.execRedReduce
  | engineCommandComplete => exact h.execEngineCommandComplete
  | sliceFill => exact h.execSliceFill
  | pinFadeTick => exact h.execPinFadeTick
  | remapCountUpdate => exact h.execRemapCountUpdate
  | swapLineExchange => exact h.execSwapLineExchange
  | drainComplete => exact h.execDrainComplete
  | persistComplete => exact h.execPersistComplete
  | remoteAccessAtHome => exact h.execRemoteAccessAtHome
  | storeAcknowledgement => exact h.execStoreAcknowledgement
  | atomicReply => exact h.execAtomicReply
  | selectiveAck => exact h.execSelectiveAck
  | retransmitTimeout => exact h.execRetransmitTimeout
  | huddleArrival => exact h.execHuddleArrival
  | replySplit => exact h.execReplySplit
  | atomicUnknownTimeout => exact h.execAtomicUnknownTimeout
  | migrationCounterClear => exact h.execMigrationCounterClear
  | mtExchange => exact h.execMtExchange
  | transitAccept => exact h.execTransitAccept
  | transitStorePerform => exact h.execTransitStorePerform
  | ldnbDueRead => exact h.execLdnbDueRead
  | waitaReread => exact h.execWaitaReread
  | recordAtHead => exact h.execRecordAtHead
  | dependenceSatisfied => exact h.execDependenceSatisfied
  | schedulerPlacement => exact h.execSchedulerPlacement
  | ageingStep => exact h.execAgeingStep
  | stopRuleTimeout => exact h.execStopRuleTimeout
  | saveComplete => exact h.execSaveComplete
  | launchCompletion => exact h.execLaunchCompletion
  | watchdogExpiry => exact h.execWatchdogExpiry
  | arbiterInterval => exact h.execArbiterInterval
  | moveComplete => exact h.execMoveComplete
  | groupAnnouncement => exact h.execGroupAnnouncement
  | groupStepApply => exact h.execGroupStepApply
  | dieShed => exact h.execDieShed
  | pwrHalt => exact h.execPwrHalt
  | reserveReady => exact h.execReserveReady
  | parkedRetry => exact h.execParkedRetry
  | parkedTimeout => exact h.execParkedTimeout
  | quiescedHalt => exact h.execQuiescedHalt

theorem State.MemWf.passTime {ns : Nat} (h : s.MemWf) : (s.passTime ns).MemWf :=
  foldl h fun _ _ ht => ht.serveTransit

theorem State.MemWf.snapshots (h : s.MemWf) : s.snapshots.MemWf := h.foldl fun _ _ ht => ht.takeSnapshot

theorem State.MemWf.advance (h : s.MemWf) : s.advance.MemWf := passTime h.snapshots

theorem State.MemWf.atHand {cx : Nat} (h : s.MemWf) : (s.atHand cx).MemWf := h

theorem State.MemWf.aloneCtlPost {g : Bool} {i : Instr} {post : State → State → State} (h : s.MemWf)
    (hp : ∀ t, Machine.s0Post i s t = some (post s t)) : OutcomeWf (Machine.aloneCtl g i (Machine.s0Effect i) post s) :=
  h.aloneCtl h.s0Effect fun t ht => ht.s0Post.get (hp t)

theorem State.MemWf.aloneCtlKeep {g : Bool} {i : Instr} (h : s.MemWf) :
    OutcomeWf (Machine.aloneCtl g i (Machine.s0Effect i) (fun _ t => t) s) := h.aloneCtl h.s0Effect fun _ ht => ht

theorem State.MemWf.execBr {g : Bool} {off : BitVec 24} (h : s.MemWf) : OutcomeWf (execBr g off s) := h.aloneCtlPost fun _ => rfl

theorem State.MemWf.execCall {g : Bool} {off : BitVec 24} (h : s.MemWf) : OutcomeWf (execCall g off s) := h.aloneCtlPost fun _ => rfl

theorem State.MemWf.execJmp {g : Bool} {a : Spec} (h : s.MemWf) : OutcomeWf (execJmp g a s) := h.aloneCtlPost fun _ => rfl

theorem State.MemWf.execRet {g : Bool} (h : s.MemWf) : OutcomeWf (execRet g s) := h.aloneCtlPost fun _ => rfl

theorem State.MemWf.execLoop {g : Bool} {a : Spec} {len : BitVec 12} (h : s.MemWf) :
    OutcomeWf (execLoop g a len s) := h.aloneCtlPost fun _ => rfl

theorem State.MemWf.execBrx {g : Bool} {u : BitVec 14} (h : s.MemWf) : OutcomeWf (execBrx g u s) := h.aloneCtlPost fun _ => rfl

theorem State.MemWf.execTrap {g : Bool} {n : BitVec 8} (h : s.MemWf) : OutcomeWf (execTrap g n s) := h.aloneCtlPost fun _ => rfl

theorem State.MemWf.execFencei {g : Bool} (h : s.MemWf) : OutcomeWf (execFencei g s) := h.aloneCtlKeep

theorem State.MemWf.execWaitf {g : Bool} {mask : BitVec 16} (h : s.MemWf) : OutcomeWf (execWaitf g mask s) := h.aloneCtlKeep

theorem State.MemWf.execPeekf {g : Bool} {mask : BitVec 16} (h : s.MemWf) : OutcomeWf (execPeekf g mask s) := h.aloneCtlKeep

theorem State.MemWf.execSetf {g : Bool} {mask : BitVec 16} (h : s.MemWf) : OutcomeWf (execSetf g mask s) := h.aloneCtlKeep

theorem State.MemWf.execClrf {g : Bool} {mask : BitVec 16} (h : s.MemWf) : OutcomeWf (execClrf g mask s) := h.aloneCtlKeep

theorem State.MemWf.execMfs {g : Bool} {sr : BitVec 12} {d : Spec} (h : s.MemWf) : OutcomeWf (execMfs g sr d s) := h.aloneCtlKeep

theorem State.MemWf.execMts {g : Bool} {sr : BitVec 12} {a : Spec} (h : s.MemWf) : OutcomeWf (execMts g sr a s) := h.aloneCtlKeep

theorem State.MemWf.execBkpt {g : Bool} {n : BitVec 8} (h : s.MemWf) : OutcomeWf (execBkpt g n s) := h.aloneCtlKeep

theorem State.MemWf.execPwrreq {g : Bool} {a : Spec} (h : s.MemWf) : OutcomeWf (execPwrreq g a s) := h.aloneCtlKeep

theorem State.MemWf.execAwait {g : Bool} {n : BitVec 4} (h : s.MemWf) : OutcomeWf (execAwait g n s) := h.aloneCtlKeep

theorem State.MemWf.execTwait {g : Bool} {a : Spec} (h : s.MemWf) : OutcomeWf (execTwait g a s) := h.aloneCtlKeep

theorem State.MemWf.execYield {g : Bool} (h : s.MemWf) : OutcomeWf (execYield g s) := h.aloneCtl h fun _ ht => ht.yieldPost

theorem State.MemWf.execExit {g : Bool} (h : s.MemWf) : OutcomeWf (execExit g s) := h.aloneCtl h fun _ ht => ht.exitPost.withdrawRequests

theorem State.MemWf.execRft {g : Bool} (h : s.MemWf) : OutcomeWf (execRft g s) := h.aloneCtl h.rftOp fun _ ht => ht.rftPost.backToRetiring

theorem State.MemWf.execCkpt {g : Bool} (h : s.MemWf) : OutcomeWf (execCkpt g s) := h.aloneCtl h fun _ ht => ht.ckptPost

theorem State.MemWf.exec {i : Instr} (h : s.MemWf) : OutcomeWf (exec i s) := by
  cases i with
  | add | sub | addi | mul | mulh | mulhw | min | max | minw | maxw | abs | and | or | xor | andn | orn | andi | ori | xori | shl | shr | sar | rol |
    shli | shri | sari | roli | ceq | cne | clt | cle | cltw | clew | ceqi | clti | clz | ctz | popc | brev | bswap | exts | extz | ins | bperm | bset
    | bclr | btst | bflip | mov | movz | movk | sel | lea | fadd | fsub | fmul | fma | fmin | fmax | fcmp | fcvtf | fcvti | fabs | fneg =>
    exact h.aloneScalar
  | div | divw | rem | remw => exact h.aloneScalarDivide
  | ld | st | lda | stl | ldfe | ldff | stef | stff | feinit | vld | vst | vldw | vstf | ldnb | stt | waita | fence | drain | persist | pref | cflush
    | afadd | afaddf | afmin | afmax | afand | afor | afxor | axchg | acas | fpush | fpop | ldxs | vadd | vsub | vmul | vfma | vmin | vmax | vabs |
    vneg | vadds | vsubs | vmulh | vand | vor | vxor | vshl | vshr | vsar | vcmp | vsel | vacs | vrotr | vrotc | vbcr | vbcc | vredr | vredc | vshuf |
    vtrn | vmov | vsplat | vins | vext | viota | vcvt | vdecmv | vexp2 | vlog2 | vrcp | vrsq | mbeat | mwsel | mmode | aget | aput | aputa | aclr =>
    exact h.aloneStream
  | cpy | stage | rinit | rawait | rrel | lease | lcmd | unlease | lwarm | launch | wstr | bankcfg | tload | pinwin | unpin | swappg | tlbinv | mapwin
    => exact h.aloneCommand
  | nopMem | nopVec | nopMx | nopAcc | nopEng => exact h.aloneNop
  | nopCtl | nopSa | nopSb => exact h
  | br => exact h.execBr
  | call => exact h.execCall
  | jmp => exact h.execJmp
  | ret => exact h.execRet
  | loop => exact h.execLoop
  | brx => exact h.execBrx
  | trap => exact h.execTrap
  | fencei => exact h.execFencei
  | waitf => exact h.execWaitf
  | peekf => exact h.execPeekf
  | setf => exact h.execSetf
  | clrf => exact h.execClrf
  | mfs => exact h.execMfs
  | mts => exact h.execMts
  | bkpt => exact h.execBkpt
  | pwrreq => exact h.execPwrreq
  | await => exact h.execAwait
  | twait => exact h.execTwait
  | yield => exact h.execYield
  | exit => exact h.execExit
  | rft => exact h.execRft
  | ckpt => exact h.execCkpt
  | fullBundle => exact h.execFullBundle
  | tcall => exact h.execTcall
  | contextSwitch => exact h.execContextSwitch
  | quantumExpiry => exact h.execQuantumExpiry
  | streamingEntryStart => exact h.execStreamingEntryStart
  | streamingWrite => exact h.execStreamingWrite
  | divideComplete => exact h.execDivideComplete
  | trapEntry => exact h.execTrapEntry
  | retirementComplete => exact h.execRetirementComplete
  | commandCompletion => exact h.execCommandCompletion
  | savebaseWrite => exact h.execSavebaseWrite
  | flagsWrite => exact h.execFlagsWrite
  | engfailWrite => exact h.execEngfailWrite
  | fpstatusWrite => exact h.execFpstatusWrite
  | pnWrite => exact h.execPnWrite
  | ewtableWrite => exact h.execEwtableWrite
  | registerWrite => exact h.execRegisterWrite
  | vectorFill => exact h.execVectorFill
  | vectorEarlyWriteback => exact h.execVectorEarlyWriteback
  | beat => exact h.execBeat
  | kind1Fetch => exact h.execKind1Fetch
  | conditionedOpPerform => exact h.execConditionedOpPerform
  | bankSwitchComplete => exact h.execBankSwitchComplete
  | copyBegin => exact h.execCopyBegin
  | ringSlotBind => exact h.execRingSlotBind
  | copyComplete => exact h.execCopyComplete
  | playbookEntryStart => exact h.execPlaybookEntryStart
  | rawaitReturn => exact h.execRawaitReturn
  | weightStreamWrite => exact h.execWeightStreamWrite
  | benchArrival => exact h.execBenchArrival
  | holdThresholdPassed => exact h.execHoldThresholdPassed
  | leaseGrant => exact h.execLeaseGrant
  | engineWakeEnd => exact h.execEngineWakeEnd
  | warmEngineSleep => exact h.execWarmEngineSleep
  | dcxDecode => exact h.execDcxDecode
  | srtSort => exact h.execSrtSort
  | gsxGather => exact h.execGsxGather
  | gsxScatter => exact h.execGsxScatter
  | smxSoftmax => exact h.execSmxSoftmax
  | hshCrc32c => exact h.execHshCrc32c
  | hshSha3256 => exact h.execHshSha3256
  | redReduce => exact h.execRedReduce
  | engineCommandComplete => exact h.execEngineCommandComplete
  | sliceFill => exact h.execSliceFill
  | pinFadeTick => exact h.execPinFadeTick
  | remapCountUpdate => exact h.execRemapCountUpdate
  | swapLineExchange => exact h.execSwapLineExchange
  | pageWalk => exact h.execPageWalk
  | drainComplete => exact h.execDrainComplete
  | persistComplete => exact h.execPersistComplete
  | remoteAccessAtHome => exact h.execRemoteAccessAtHome
  | storeAcknowledgement => exact h.execStoreAcknowledgement
  | atomicReply => exact h.execAtomicReply
  | selectiveAck => exact h.execSelectiveAck
  | retransmitTimeout => exact h.execRetransmitTimeout
  | linkRetrain => exact h.execLinkRetrain
  | linkWidthChange => exact h.execLinkWidthChange
  | linkMarkedDown => exact h.execLinkMarkedDown
  | multicastEntryWrite => exact h.execMulticastEntryWrite
  | huddleArrival => exact h.execHuddleArrival
  | replySplit => exact h.execReplySplit
  | huddleCopyLoss => exact h.execHuddleCopyLoss
  | atomicUnknownTimeout => exact h.execAtomicUnknownTimeout
  | migrationCounterClear => exact h.execMigrationCounterClear
  | mtExchange => exact h.execMtExchange
  | disciplineLoss => exact h.execDisciplineLoss
  | disciplineRegain => exact h.execDisciplineRegain
  | transitAccept => exact h.execTransitAccept
  | transitStorePerform => exact h.execTransitStorePerform
  | ldnbDueRead => exact h.execLdnbDueRead
  | waitaReread => exact h.execWaitaReread
  | recordAtHead => exact h.execRecordAtHead
  | dependenceSatisfied => exact h.execDependenceSatisfied
  | schedulerPlacement => exact h.execSchedulerPlacement
  | ageingStep => exact h.execAgeingStep
  | stopRuleTimeout => exact h.execStopRuleTimeout
  | saveComplete => exact h.execSaveComplete
  | launchCompletion => exact h.execLaunchCompletion
  | watchdogExpiry => exact h.execWatchdogExpiry
  | queueEnable => exact h.execQueueEnable
  | tailDoorbell => exact h.execTailDoorbell
  | preemptWrite => exact h.execPreemptWrite
  | pmaskWrite => exact h.execPmaskWrite
  | currentLimiterTick => exact h.execCurrentLimiterTick
  | arbiterInterval => exact h.execArbiterInterval
  | moveComplete => exact h.execMoveComplete
  | powerMailboxWrite => exact h.execPowerMailboxWrite
  | thermalTrip die =>
    generalize e : Machine.exec (.thermalTrip die) s = x
    exact h.execThermalTrip (die := die) e
  | thermalTripClear => exact h.execThermalTripClear
  | groupAnnouncement => exact h.execGroupAnnouncement
  | groupStepApply => exact h.execGroupStepApply
  | hbmTemperatureRead => exact h.execHbmTemperatureRead
  | coolantLimit => exact h.execCoolantLimit
  | powerComparatorInterval => exact h.execPowerComparatorInterval
  | scratchWordError => exact h.execScratchWordError
  | tagArrayError => exact h.execTagArrayError
  | mediaError => exact h.execMediaError
  | registerFileError => exact h.execRegisterFileError
  | accumulatorRowError => exact h.execAccumulatorRowError
  | residueMismatch => exact h.execResidueMismatch
  | queueParityError => exact h.execQueueParityError
  | brownOut => exact h.execBrownOut
  | dieShed => exact h.execDieShed
  | dieRestore => exact h.execDieRestore
  | pwrHalt => exact h.execPwrHalt
  | restart => exact h.execRestart
  | reserveReady => exact h.execReserveReady
  | parkedRetry => exact h.execParkedRetry
  | parkedTimeout => exact h.execParkedTimeout
  | hostMemoryAccess => exact h.execHostMemoryAccess
  | cxlLinkDown => exact h.execCxlLinkDown
  | dmaWindowWrite => exact h.execDmaWindowWrite
  | pwrlimWrite => exact h.execPwrlimWrite
  | writeImage => exact h.execWriteImage
  | activate => exact h.execActivate
  | writeRecord => exact h.execWriteRecord
  | readLog => exact h.execReadLog
  | readLifetime => exact h.execReadLifetime
  | plainHalt => exact h.execPlainHalt
  | quiescedHalt => exact h.execQuiescedHalt
  | resume => exact h.execResume
  | clearRetirement => exact h.execClearRetirement
  | bringUp => exact h.execBringUp
  | capAndBoostWrite => exact h.execCapAndBoostWrite
  | externalReferenceChange => exact h.execExternalReferenceChange
  | cxlLinkTrain => exact h.execCxlLinkTrain

theorem State.MemWf.act {x : Choice} (h : s.MemWf) : OutcomeWf (s.act x) := by
  cases x with
  | issue cx =>
    unfold State.act
    generalize s.fetch cx = i
    exact h.atHand.exec
  | event => exact h.run
  | input =>
    unfold State.act
    generalize s.nextInput = i
    cases i with
    | none => exact h
    | some => exact exec (s := { s with inputs := s.inputs.drop 1 }) h
  | pass => exact h

theorem OutcomeWf.next {x : Host.Outcome State Fault Refusal} {t : State} (h : OutcomeWf x) (e : x = .next t) : t.MemWf := by
  subst e; exact h

theorem State.MemWf.step {t : State} (h : s.MemWf) (hstep : step s = .next t) : t.MemWf := by
  unfold Machine.step at hstep
  generalize s.choice = x at hstep
  split at hstep
  next u e => exact (h.act.next e).advance.out.next hstep
  all_goals cases hstep
end

/-- Settles O59: each kind of choice keeps the form (`State.MemWf.act`), and so do the snapshots and the passing of time after it
(`State.MemWf.advance`). -/
theorem stepKeepsMemory : Obligations.StepKeepsMemory := by
  unfold Obligations.StepKeepsMemory
  intro s t h hstep
  exact State.MemWf.step h hstep

end Sys2Proof.Machine

/-! # Encodings (R18–R21, R33–R40)

`rawParcel_encodeParcel` collects the laws of the single instructions; the rest of the section is about the stream of units. -/

namespace Sys2Proof

/-- The decoder's map of each slot reads the opcode and the fields of an instruction back from its own words. -/
theorem rawParcel_encodeParcel (i : Instr) : Laws.Encodable.Statement i := by
  cases i with
  | br => exact Laws.Encodable.br _ _
  | call => exact Laws.Encodable.call _ _
  | jmp => exact Laws.Encodable.jmp _ _
  | ret => exact Laws.Encodable.ret _
  | loop => exact Laws.Encodable.loop _ _ _
  | brx => exact Laws.Encodable.brx _ _
  | fencei => exact Laws.Encodable.fencei _
  | waitf => exact Laws.Encodable.waitf _ _
  | peekf => exact Laws.Encodable.peekf _ _
  | setf => exact Laws.Encodable.setf _ _
  | clrf => exact Laws.Encodable.clrf _ _
  | yield => exact Laws.Encodable.yield _
  | exit => exact Laws.Encodable.exit _
  | trap => exact Laws.Encodable.trap _ _
  | rft => exact Laws.Encodable.rft _
  | mfs => exact Laws.Encodable.mfs _ _ _
  | mts => exact Laws.Encodable.mts _ _ _
  | bkpt => exact Laws.Encodable.bkpt _ _
  | pwrreq => exact Laws.Encodable.pwrreq _ _
  | await => exact Laws.Encodable.await _ _
  | twait => exact Laws.Encodable.twait _ _
  | ckpt => exact Laws.Encodable.ckpt _
  | nopCtl => exact Laws.Encodable.nopCtl _
  | nopSa => exact Laws.Encodable.nopSa _
  | nopSb => exact Laws.Encodable.nopSb _
  | nopMem => exact Laws.Encodable.nopMem _
  | nopVec => exact Laws.Encodable.nopVec _
  | nopMx => exact Laws.Encodable.nopMx _
  | nopAcc => exact Laws.Encodable.nopAcc _
  | nopEng => exact Laws.Encodable.nopEng _
  | add => exact Laws.Encodable.add _ _ _ _
  | sub => exact Laws.Encodable.sub _ _ _ _
  | addi => exact Laws.Encodable.addi _ _ _ _
  | mul => exact Laws.Encodable.mul _ _ _ _
  | mulh => exact Laws.Encodable.mulh _ _ _ _
  | mulhw => exact Laws.Encodable.mulhw _ _ _ _
  | div => exact Laws.Encodable.div _ _ _ _
  | divw => exact Laws.Encodable.divw _ _ _ _
  | rem => exact Laws.Encodable.rem _ _ _ _
  | remw => exact Laws.Encodable.remw _ _ _ _
  | min => exact Laws.Encodable.min _ _ _ _
  | max => exact Laws.Encodable.max _ _ _ _
  | minw => exact Laws.Encodable.minw _ _ _ _
  | maxw => exact Laws.Encodable.maxw _ _ _ _
  | abs => exact Laws.Encodable.abs _ _ _
  | and => exact Laws.Encodable.and _ _ _ _
  | or => exact Laws.Encodable.or _ _ _ _
  | xor => exact Laws.Encodable.xor _ _ _ _
  | andn => exact Laws.Encodable.andn _ _ _ _
  | orn => exact Laws.Encodable.orn _ _ _ _
  | andi => exact Laws.Encodable.andi _ _ _ _
  | ori => exact Laws.Encodable.ori _ _ _ _
  | xori => exact Laws.Encodable.xori _ _ _ _
  | shl => exact Laws.Encodable.shl _ _ _ _
  | shr => exact Laws.Encodable.shr _ _ _ _
  | sar => exact Laws.Encodable.sar _ _ _ _
  | rol => exact Laws.Encodable.rol _ _ _ _
  | shli => exact Laws.Encodable.shli _ _ _ _
  | shri => exact Laws.Encodable.shri _ _ _ _
  | sari => exact Laws.Encodable.sari _ _ _ _
  | roli => exact Laws.Encodable.roli _ _ _ _
  | ceq => exact Laws.Encodable.ceq _ _ _ _
  | cne => exact Laws.Encodable.cne _ _ _ _
  | clt => exact Laws.Encodable.clt _ _ _ _
  | cle => exact Laws.Encodable.cle _ _ _ _
  | cltw => exact Laws.Encodable.cltw _ _ _ _
  | clew => exact Laws.Encodable.clew _ _ _ _
  | ceqi => exact Laws.Encodable.ceqi _ _ _ _
  | clti => exact Laws.Encodable.clti _ _ _ _
  | clz => exact Laws.Encodable.clz _ _ _
  | ctz => exact Laws.Encodable.ctz _ _ _
  | popc => exact Laws.Encodable.popc _ _ _
  | brev => exact Laws.Encodable.brev _ _ _
  | bswap => exact Laws.Encodable.bswap _ _ _
  | exts => exact Laws.Encodable.exts _ _ _ _ _
  | extz => exact Laws.Encodable.extz _ _ _ _ _
  | ins => exact Laws.Encodable.ins _ _ _ _ _
  | bperm => exact Laws.Encodable.bperm _ _ _ _ _
  | bset => exact Laws.Encodable.bset _ _ _ _
  | bclr => exact Laws.Encodable.bclr _ _ _ _
  | btst => exact Laws.Encodable.btst _ _ _ _
  | bflip => exact Laws.Encodable.bflip _ _ _ _
  | mov => exact Laws.Encodable.mov _ _ _
  | movz => exact Laws.Encodable.movz _ _ _ _
  | movk => exact Laws.Encodable.movk _ _ _ _
  | sel => exact Laws.Encodable.sel _ _ _ _ _
  | lea => exact Laws.Encodable.lea _ _ _ _ _
  | fadd => exact Laws.Encodable.fadd _ _ _ _ _
  | fsub => exact Laws.Encodable.fsub _ _ _ _ _
  | fmul => exact Laws.Encodable.fmul _ _ _ _ _
  | fma => exact Laws.Encodable.fma _ _ _ _ _
  | fmin => exact Laws.Encodable.fmin _ _ _ _
  | fmax => exact Laws.Encodable.fmax _ _ _ _
  | fcmp => exact Laws.Encodable.fcmp _ _ _ _ _
  | fcvtf => exact Laws.Encodable.fcvtf _ _ _ _ _
  | fcvti => exact Laws.Encodable.fcvti _ _ _ _ _
  | fabs => exact Laws.Encodable.fabs _ _ _
  | fneg => exact Laws.Encodable.fneg _ _ _
  | ld => exact Laws.Encodable.ld _ _ _ _ _ _
  | st => exact Laws.Encodable.st _ _ _ _ _
  | lda => exact Laws.Encodable.lda _ _ _ _ _ _
  | stl => exact Laws.Encodable.stl _ _ _ _ _
  | ldfe => exact Laws.Encodable.ldfe _ _ _ _ _ _
  | ldff => exact Laws.Encodable.ldff _ _ _ _ _ _
  | stef => exact Laws.Encodable.stef _ _ _ _ _
  | stff => exact Laws.Encodable.stff _ _ _ _ _
  | feinit => exact Laws.Encodable.feinit _ _ _ _
  | vld => exact Laws.Encodable.vld _ _ _ _ _
  | vst => exact Laws.Encodable.vst _ _ _ _ _
  | vldw => exact Laws.Encodable.vldw _ _ _ _ _
  | vstf => exact Laws.Encodable.vstf _ _ _ _ _
  | ldnb => exact Laws.Encodable.ldnb _ _ _ _ _ _
  | stt => exact Laws.Encodable.stt _ _ _ _ _ _
  | waita => exact Laws.Encodable.waita _ _ _ _ _ _
  | fence => exact Laws.Encodable.fence _ _
  | drain => exact Laws.Encodable.drain _ _
  | persist => exact Laws.Encodable.persist _ _
  | pref => exact Laws.Encodable.pref _ _ _ _ _
  | cflush => exact Laws.Encodable.cflush _ _ _
  | afadd => exact Laws.Encodable.afadd _ _ _ _ _
  | afaddf => exact Laws.Encodable.afaddf _ _ _ _ _
  | afmin => exact Laws.Encodable.afmin _ _ _ _ _
  | afmax => exact Laws.Encodable.afmax _ _ _ _ _
  | afand => exact Laws.Encodable.afand _ _ _ _ _
  | afor => exact Laws.Encodable.afor _ _ _ _ _
  | afxor => exact Laws.Encodable.afxor _ _ _ _ _
  | axchg => exact Laws.Encodable.axchg _ _ _ _ _
  | acas => exact Laws.Encodable.acas _ _ _ _ _
  | fpush => exact Laws.Encodable.fpush _ _ _
  | fpop => exact Laws.Encodable.fpop _ _ _
  | ldxs => exact Laws.Encodable.ldxs _ _ _ _ _
  | vadd => exact Laws.Encodable.vadd _ _ _ _ _ _
  | vsub => exact Laws.Encodable.vsub _ _ _ _ _ _
  | vmul => exact Laws.Encodable.vmul _ _ _ _ _ _
  | vfma => exact Laws.Encodable.vfma _ _ _ _ _ _
  | vmin => exact Laws.Encodable.vmin _ _ _ _ _
  | vmax => exact Laws.Encodable.vmax _ _ _ _ _
  | vabs => exact Laws.Encodable.vabs _ _ _ _ _
  | vneg => exact Laws.Encodable.vneg _ _ _ _ _
  | vadds => exact Laws.Encodable.vadds _ _ _ _ _ _
  | vsubs => exact Laws.Encodable.vsubs _ _ _ _ _ _
  | vmulh => exact Laws.Encodable.vmulh _ _ _ _ _
  | vand => exact Laws.Encodable.vand _ _ _ _ _
  | vor => exact Laws.Encodable.vor _ _ _ _ _
  | vxor => exact Laws.Encodable.vxor _ _ _ _ _
  | vshl => exact Laws.Encodable.vshl _ _ _ _ _
  | vshr => exact Laws.Encodable.vshr _ _ _ _ _
  | vsar => exact Laws.Encodable.vsar _ _ _ _ _
  | vcmp => exact Laws.Encodable.vcmp _ _ _ _ _ _
  | vsel => exact Laws.Encodable.vsel _ _ _ _ _
  | vacs => exact Laws.Encodable.vacs _ _ _ _
  | vrotr => exact Laws.Encodable.vrotr _ _ _ _
  | vrotc => exact Laws.Encodable.vrotc _ _ _ _
  | vbcr => exact Laws.Encodable.vbcr _ _ _ _
  | vbcc => exact Laws.Encodable.vbcc _ _ _ _
  | vredr => exact Laws.Encodable.vredr _ _ _ _ _ _
  | vredc => exact Laws.Encodable.vredc _ _ _ _ _ _
  | vshuf => exact Laws.Encodable.vshuf _ _ _ _ _
  | vtrn => exact Laws.Encodable.vtrn _ _ _
  | vmov => exact Laws.Encodable.vmov _ _ _
  | vsplat => exact Laws.Encodable.vsplat _ _ _ _
  | vins => exact Laws.Encodable.vins _ _ _ _ _
  | vext => exact Laws.Encodable.vext _ _ _ _ _
  | viota => exact Laws.Encodable.viota _ _ _
  | vcvt => exact Laws.Encodable.vcvt _ _ _ _ _ _
  | vdecmv => exact Laws.Encodable.vdecmv _ _ _ _
  | vexp2 => exact Laws.Encodable.vexp2 _ _ _
  | vlog2 => exact Laws.Encodable.vlog2 _ _ _
  | vrcp => exact Laws.Encodable.vrcp _ _ _
  | vrsq => exact Laws.Encodable.vrsq _ _ _
  | mbeat => exact Laws.Encodable.mbeat _ _ _ _ _ _ _ _ _
  | mwsel => exact Laws.Encodable.mwsel _ _
  | mmode => exact Laws.Encodable.mmode _ _ _ _
  | aget => exact Laws.Encodable.aget _ _ _ _ _ _
  | aput => exact Laws.Encodable.aput _ _ _ _ _
  | aputa => exact Laws.Encodable.aputa _ _ _ _ _
  | aclr => exact Laws.Encodable.aclr _ _ _
  | cpy => exact Laws.Encodable.cpy _ _ _ _
  | stage => exact Laws.Encodable.stage _ _ _
  | rinit => exact Laws.Encodable.rinit _ _ _ _ _
  | rawait => exact Laws.Encodable.rawait _ _ _ _
  | rrel => exact Laws.Encodable.rrel _ _ _ _
  | lease => exact Laws.Encodable.lease _ _ _ _ _
  | lcmd => exact Laws.Encodable.lcmd _ _ _ _
  | unlease => exact Laws.Encodable.unlease _ _ _
  | lwarm => exact Laws.Encodable.lwarm _ _ _ _
  | launch => exact Laws.Encodable.launch _ _ _ _
  | wstr => exact Laws.Encodable.wstr _ _ _ _ _
  | bankcfg => exact Laws.Encodable.bankcfg _ _ _ _
  | tload => exact Laws.Encodable.tload _ _ _ _ _
  | pinwin => exact Laws.Encodable.pinwin _ _ _ _ _
  | unpin => exact Laws.Encodable.unpin _ _ _
  | swappg => exact Laws.Encodable.swappg _ _ _ _ _
  | tlbinv => exact Laws.Encodable.tlbinv _ _ _ _ _
  | mapwin => exact Laws.Encodable.mapwin _ _ _ _ _ _
  | _ => exact fun _ h => absurd h List.not_mem_nil

/-- Only a parcel of S7 has a second word (R33). -/
theorem encodeParcel_snd {slot : Nat} (i : Instr) (hs : slot ∈ i.slots) (h7 : slot ≠ 7) : (encodeParcel i).2 = 0 := by
  cases i with
  | cpy => exact absurd (List.mem_singleton.mp hs) h7
  | stage => exact absurd (List.mem_singleton.mp hs) h7
  | rinit => exact absurd (List.mem_singleton.mp hs) h7
  | rawait => exact absurd (List.mem_singleton.mp hs) h7
  | rrel => exact absurd (List.mem_singleton.mp hs) h7
  | lease => exact absurd (List.mem_singleton.mp hs) h7
  | lcmd => exact absurd (List.mem_singleton.mp hs) h7
  | unlease => exact absurd (List.mem_singleton.mp hs) h7
  | lwarm => exact absurd (List.mem_singleton.mp hs) h7
  | launch => exact absurd (List.mem_singleton.mp hs) h7
  | wstr => exact absurd (List.mem_singleton.mp hs) h7
  | bankcfg => exact absurd (List.mem_singleton.mp hs) h7
  | tload => exact absurd (List.mem_singleton.mp hs) h7
  | pinwin => exact absurd (List.mem_singleton.mp hs) h7
  | unpin => exact absurd (List.mem_singleton.mp hs) h7
  | swappg => exact absurd (List.mem_singleton.mp hs) h7
  | tlbinv => exact absurd (List.mem_singleton.mp hs) h7
  | mapwin => exact absurd (List.mem_singleton.mp hs) h7
  | _ => rfl

theorem decodeParcel_encodeParcel {i : Instr} {slot : Nat} (hwf : i.wf = true) (hs : slot ∈ i.slots) :
    decodeParcel slot (encodeParcel i).1 (encodeParcel i).2 = .ok i := by
  simp [decodeParcel, rawParcel_encodeParcel i slot hs, hwf, hs]

/-- What the decoder accepts is well formed, belongs to the slot, and has these words. -/
theorem of_decodeParcel_eq_ok {slot : Nat} {w0 w1 : W32} {i : Instr} (h : decodeParcel slot w0 w1 = .ok i) :
    i.wf = true ∧ slot ∈ i.slots ∧ encodeParcel i = (w0, w1) := by
  unfold decodeParcel at h
  split at h
  case h_1 => cases h
  case h_2 j _ =>
    split at h
    next hj =>
      cases h
      simp only [Bool.and_eq_true, List.contains_iff_mem, beq_iff_eq] at hj
      obtain ⟨⟨hs, hwf⟩, he⟩ := hj
      exact ⟨hwf, hs, he⟩
    next => cases h

/-! ## The stream of units -/

theorem wordOf_loUnit_hiUnit (w : W32) : wordOf (loUnit w) (hiUnit w) = w := by
  have h : (hiUnit w ++ loUnit w : BitVec 32) = w.extractLsb' 0 32 := BitVec.extractLsb'_append_extractLsb'_eq_extractLsb' rfl
  exact h.trans BitVec.extractLsb'_eq_self

theorem loUnit_getLsbD (w : W32) {k : Nat} (h : k < 16) : (loUnit w).getLsbD k = w.getLsbD k := by
  simp [loUnit, h]

/-- A bundle's words are read back from their units (R21). -/
theorem takeWords_flatMap (ws : List W32) (rest : List HUnit) :
    takeWords ws.length (ws.flatMap unitsOfWord ++ rest) = some (ws, rest) := by
  induction ws with
  | nil => rfl
  | cons w ws ih => simp [unitsOfWord, takeWords, ih, wordOf_loUnit_hiUnit]

theorem decodeUnits_fullBundle {hdr : W32} {ws : List W32} (h : (Instr.fullBundle hdr ws).wf = true) (rest : List HUnit) :
    decodeUnits (encodeUnits (.fullBundle hdr ws) ++ rest) = .ok (.fullBundle hdr ws, rest) := by
  simp only [Instr.wf, Bool.and_eq_true, Bool.not_eq_true', beq_iff_eq] at h
  obtain ⟨hcall, hlen⟩ := h
  have hbit : (loUnit hdr).getLsbD 15 = false := by rw [loUnit_getLsbD hdr (by decide), hcall]
  simp only [encodeUnits, unitsOfWord, List.cons_append, List.nil_append, decodeUnits, hbit, wordOf_loUnit_hiUnit, ← hlen]
  rw [takeWords_flatMap]
  simp

/-- The fields of a call's unit (R19). -/
theorem tcallOf_append (index : BitVec 9) (rc : BitVec 6) : tcallOf (1#1 ++ index ++ rc) = .tcall index rc := by
  unfold tcallOf
  rw [Laws.Encodable.take_low, Laws.Encodable.drop_low _ _ rfl, Laws.Encodable.take_low]

theorem decodeUnits_tcall (index : BitVec 9) (rc : BitVec 6) (rest : List HUnit) :
    decodeUnits (encodeUnits (.tcall index rc) ++ rest) = .ok (.tcall index rc, rest) := by
  have hbit : (1#1 ++ index ++ rc : BitVec 16).getLsbD 15 = true := by
    rw [Laws.Encodable.drop_low_bit _ _ rfl, Laws.Encodable.drop_low_bit _ _ rfl]; rfl
  simp only [encodeUnits, List.cons_append, List.nil_append, decodeUnits, hbit, if_true, tcallOf_append]

theorem unitOf_bytes (u : HUnit) : unitOf (u.extractLsb' 0 8) (u.extractLsb' 8 8) = u := by
  have h : (u.extractLsb' 8 8 ++ u.extractLsb' 0 8 : BitVec 16) = u.extractLsb' 0 16 := BitVec.extractLsb'_append_extractLsb'_eq_extractLsb' rfl
  exact h.trans BitVec.extractLsb'_eq_self

/-- The units of a list of units' bytes are these units (R7). -/
theorem unitsOf_flatMap (us : List HUnit) : unitsOf (us.flatMap bytesOfUnit) = us := by
  induction us with
  | nil => rfl
  | cons u us ih => simp [bytesOfUnit, unitsOf, ih, unitOf_bytes]

theorem decode_encode (i : Instr) : decode (encode i) = decodeUnits (encodeUnits i) := by
  rw [decode, encode, unitsOf_flatMap]

/-- Settles O56: a parcel by the law of its own instruction (`rawParcel_encodeParcel`), since the decoder checks besides only what the
converse says; a bundle by induction on its words; a call by its fields. -/
theorem decodeAgreesWithEncode : Obligations.DecodeAgreesWithEncode := by
  refine ⟨fun i slot hwf hs => decodeParcel_encodeParcel hwf hs, fun i slot hs h7 => encodeParcel_snd i hs h7,
    fun i slot w0 w1 h => of_decodeParcel_eq_ok h, fun hdr ws rest hwf => ⟨decodeUnits_fullBundle hwf rest, ?_⟩,
    fun index rc rest => ⟨decodeUnits_tcall index rc rest, ?_⟩⟩
  · rw [decode_encode, ← List.append_nil (encodeUnits _), decodeUnits_fullBundle hwf]
  · rw [decode_encode, ← List.append_nil (encodeUnits _), decodeUnits_tcall]

/-- Settles O57, word by word. -/
theorem wordsDecode : Obligations.WordsDecode := by
  unfold Obligations.WordsDecode
  decide

end Sys2Proof

/-! # One step (R18–R21, R50) -/

namespace Sys2Proof.Machine

theorem Core.fetch_of_decodes {k : Core} {pc : Nat} {i : Instr} {rest : List HUnit} (h : decodeUnits (k.unitsFrom pc 20) = .ok (i, rest)) :
    k.fetch pc = i := by
  simp only [Core.fetch, h]

/-- While no repetition is left, the instruction at the program counter issues next. -/
theorem fetch_of_first {s : State} {cx : Nat} (h : (s.ctx cx).mid = false ∨ (s.ctx cx).decoded = none) :
    s.fetch cx = (s.fetchCore cx).fetch (s.ctx cx).pc := by
  have hnone : (s.ctx cx).decoded.filter (fun _ => (s.ctx cx).mid) = none := by
    rcases h with h | h
    · cases hd : (s.ctx cx).decoded <;> simp [h]
    · simp [h]
  simp only [State.fetch, hnone]

/-- While repetitions are left, the bundle decoded issues next (R50). -/
theorem fetch_of_mid {s : State} {cx : Nat} {d : Decoded} (hm : (s.ctx cx).mid = true) (hd : (s.ctx cx).decoded = some d) :
    s.fetch cx = d.instr := by
  have hsome : (s.ctx cx).decoded.filter (fun _ => (s.ctx cx).mid) = some d := by simp [hd, hm, Option.filter_some]
  simp only [State.fetch, hsome]

theorem act_input {s : State} {i : Instr} {rest : List Instr} (hi : s.inputs = i :: rest) (ho : fromOutside i = true) :
    s.act .input = exec i { s with inputs := rest } := by
  have hnext : s.nextInput = some i := by simp [State.nextInput, hi, ho, Option.filter_some]
  simp only [State.act, hnext, hi, List.drop_one, List.tail_cons]

theorem snapshots_of_none_due {s : State} (h : ∀ c ∈ s.ctxs, c.2.closing = true → s.ckptDone c.1 = false) : s.snapshots = s := by
  have hdue : (s.ctxs.filter fun p => p.2.closing && s.ckptDone p.1) = [] := by
    simp only [List.filter_eq_nil_iff, Bool.and_eq_true, not_and, Bool.not_eq_true]
    exact h
  simp [State.snapshots, hdue]

/-- Time that no transit buffer has an entry for serves none. -/
theorem passTime_of_no_transit {s : State} (h : ∀ q ∈ s.quads, q.2.transit = []) (ns : Nat) :
    (s.passTime ns).now = s.now + ns ∧ (s.passTime ns).mem = s.mem ∧ (s.passTime ns).ctxs = s.ctxs ∧ (s.passTime ns).cores = s.cores ∧
      (s.passTime ns).clusters = s.clusters := by
  have hdue : (s.quads.filter fun q => !q.2.transit.isEmpty) = [] := by
    simp only [List.filter_eq_nil_iff, Bool.not_eq_true', Bool.not_eq_false, List.isEmpty_iff]
    exact h
  simp only [State.passTime, hdue, List.foldl_nil, and_self]

/-- Settles O58: what is chosen acts, by kind of choice, and then time passes. -/
theorem stepRunsDecoded : Obligations.StepRunsDecoded := by
  unfold Obligations.StepRunsDecoded
  intro s ends
  have ends_act : ∀ {o}, s.act s.choice = o → step s = ends o := by
    rintro _ rfl
    rfl
  refine ⟨?issue, ?fetchCore, ?mid, ?atHand, ?event, ?input, ?pass, ?time⟩
  case issue =>
    intro cx i rest hc hfirst hdec
    apply ends_act
    rw [hc, State.act, fetch_of_first hfirst, Core.fetch_of_decodes hdec]
  case fetchCore =>
    intro cx hg
    simp only [State.fetchCore, hg]
  case mid =>
    intro cx d hc hm hd
    apply ends_act
    rw [hc, State.act, fetch_of_mid hm hd]
  case atHand => exact fun cx => ⟨rfl, fun _ => rfl⟩
  case event =>
    intro e hc
    exact ends_act (congrArg s.act hc)
  case input =>
    intro i rest hc hi ho
    exact ends_act (by rw [hc, act_input hi ho])
  case pass =>
    intro hc
    exact ends_act (congrArg s.act hc)
  case time =>
    refine fun t => ⟨rfl, fun hquads hdue => ?_⟩
    have hp := passTime_of_no_transit hquads (t.delays.head?.getD 1)
    simpa only [State.advance, snapshots_of_none_due hdue] using hp

end Sys2Proof.Machine

/-! # The issue of bundles (R20–R25, R41–R45, R52, R63)

What follows is said once and serves every kind of bundle: which slots a bundle fills, when the decoder has nothing to say of it, when
nothing holds it, and what one repetition leaves. A context without a guard is one of a launch that is not error-guarded. -/

namespace Sys2Proof.Machine

/-! ## What a trap leaves -/

/-- A part of the state that every round of a fold leaves as it was. -/
theorem foldl_keeps {α β : Type} {f : State → α → State} {p : State → β} (h : ∀ s a, p (f s a) = p s) (l : List α) (s : State) :
    p (l.foldl f s) = p s := by
  induction l generalizing s with
  | nil => rfl
  | cons a l ih => exact (ih (f s a)).trans (h s a)

theorem failLaunch_bad (s : State) (l : Option Nat) (status : Nat) : (s.failLaunch l status).bad = s.bad := by
  cases l with
  | none => rfl
  | some k => exact foldl_keeps (f := State.stopCtx) (p := State.bad) (fun _ _ => rfl) _ _

theorem takeTrap_bad (s : State) (cx : Nat) (t : Trap) (tpc rep rpc rcleft : Nat) (mid stream drop : Bool) :
    (s.takeTrap cx t tpc rep rpc rcleft mid stream drop).bad = s.bad := by
  unfold State.takeTrap
  dsimp only
  split
  · exact failLaunch_bad _ _ _
  · rfl

theorem takePrecise_bad (s : State) (t : Trap) : (s.takePrecise t).bad = s.bad := takeTrap_bad ..

theorem takePrecise_out {s : State} (h : s.bad = none) (t : Trap) : (s.takePrecise t).out = .next (s.takePrecise t) :=
  out_next ((takePrecise_bad s t).trans h)

/-! ## The slots that a header names -/

theorem getLsbD_of_low {hdr : W32} {v : BitVec 8} (h : hdr.extractLsb' 0 8 = v) {k : Nat} (hk : k < 8) : hdr.getLsbD k = v.getLsbD k := by
  simp [← h, hk]

/-- The slots present are those of the header's low byte (R20). -/
theorem present_of_low {hdr : W32} {v : BitVec 8} (h : hdr.extractLsb' 0 8 = v) :
    (List.range 8).filter (fun k => hdr.getLsbD k) = (List.range 8).filter fun k => v.getLsbD k :=
  List.filter_congr fun _ hk => getLsbD_of_low h (List.mem_range.mp hk)

/-- The words that follow a header, by its low byte (R21). -/
theorem bundleWords_of_low {hdr : W32} {v : BitVec 8} (h : hdr.extractLsb' 0 8 = v) : bundleWords hdr = bundleWords (v.setWidth 32) := by
  have hv : (v.setWidth 32).extractLsb' 0 8 = v := by
    ext k hk
    simp [BitVec.getLsbD_eq_getElem hk, Nat.lt_trans hk (by decide : 8 < 32)]
  simp only [bundleWords, getLsbD_of_low h, getLsbD_of_low hv, Nat.reduceLT]

/-- The words of an op in its slot (R33). -/
def wordsIn (slot : Nat) (i : Instr) : List W32 :=
  if slot = 7 then [(encodeParcel i).1, (encodeParcel i).2] else [(encodeParcel i).1]

/-- The slot of an op as its own parcel fills it. -/
def slotOp (slot : Nat) (i : Instr) (sticky : Bool) : SlotOp := { slot := slot, par := parcelOf i, dec := .ok i, sticky := sticky }

theorem fullBundleOf_nil {hdr : W32} (h : hdr.extractLsb' 0 8 = 0) :
    fullBundleOf hdr [] = { instr := .fullBundle hdr [], hdr := hdr, rc := (hdr.extractLsb' 8 7).toNat, units := 2 } := by
  have hw : bundleWords hdr = 0 := (bundleWords_of_low h).trans (by decide)
  have hp : (List.range 8).filter (fun k => hdr.getLsbD k) = [] := (present_of_low h).trans (by decide)
  simp [fullBundleOf, hw, hp, splitWords]

/-! ## A bundle that tries to issue -/

section
variable {s : State} {b : Bundle} (hmay : s.mayIssue s.cur.cx = true) (hsw : s.mustSwitch (coreOf s.cur.cx) = false) (hg : s.here.guard = none)

/-- The state in which a bundle issues its next repetition. -/
def State.inRep (s : State) (b : Bundle) : State := { s with cur := s.curOf s.cur.cx b }

include hmay hsw hg

theorem issue_trap {t : Trap} (ht : s.decodeTrap s.cur.cx b = some t) : s.issue b = (s.inRep b).takePrecise t := by
  simp only [State.issue, hmay, hsw, hg, Ctx.closing, Option.bind_none, Option.map_none, Option.isSome_none, Option.getD_none,
    Bool.not_true, Bool.or_self, Bool.false_eq_true, if_false]
  split
  next heq => cases ht.symm.trans heq; rfl
  next heq => cases ht.symm.trans heq

/-- Past the decoder, a bundle issues nothing while it is held, and is carried out otherwise. -/
theorem issue_of_decodes (hd : s.decodeTrap s.cur.cx b = none) :
    s.issue b = if s.holds (s.curOf s.cur.cx b) b (b.slots s.here) then s else (s.inRep b).go b (b.slots s.here) := by
  simp only [State.issue, hmay, hsw, hg, Ctx.closing, Option.bind_none, Option.map_none, Option.isSome_none, Option.getD_none,
    Bool.not_true, Bool.or_self, Bool.false_eq_true, if_false]
  split
  next heq => cases hd.symm.trans heq
  next => rfl
end

end Sys2Proof.Machine

namespace Sys2Proof.Machine

/-! ## What the decoder says of a bundle (R52, R53) -/

theorem firstCondition_eq_none {l : List (Nat × Trap)} : firstCondition l = none ↔ l = [] := by
  cases l with
  | nil => simp [firstCondition]
  | cons x xs =>
    simp only [firstCondition, reduceCtorEq, iff_false]
    split
    · simp
    · split <;> simp

theorem decodeTrap_of_nil {s : State} {cx : Nat} {b : Bundle} (h : s.conditions cx b (b.slots (s.ctx cx)) = []) : s.decodeTrap cx b = none := by
  simp [State.decodeTrap, h, firstCondition]

theorem decodeTrap_of_single {s : State} {cx : Nat} {b : Bundle} {x : Nat × Trap} (hmid : (s.ctx cx).mid = false)
    (h : s.conditions cx b (b.slots (s.ctx cx)) = [x]) : s.decodeTrap cx b = some x.2 := by
  simp [State.decodeTrap, Ctx.inBundle, hmid, h, firstCondition]

/-- The slots of a bundle whose ops all decode, its own or sticky. -/
def slotOps (sticky : Bool) (ops : List (Nat × Instr)) : List SlotOp := ops.map fun p => slotOp p.1 p.2 sticky

theorem opsOf_slotOps (sticky : Bool) (ops : List (Nat × Instr)) : opsOf (slotOps sticky ops) = ops := by
  simp [opsOf, slotOps, slotOp]

/-- What R52 and R53 ask of the ops of a bundle that names no guard: no slot is guarded, none transfers control, each is allotted what it names and
permitted, and no two clash. -/
structure State.Legal (s : State) (cx : Nat) (ops : List (Nat × Instr)) : Prop where
  unguarded : ∀ p ∈ ops, gBitOf p.2 = false
  repeatable : ∀ p ∈ ops, repeatable p.2 = true
  allotted : ∀ p ∈ ops, s.unallotted cx p.2 = none
  permitted : ∀ p ∈ ops, privileged p.2 = false ∨ (s.ctx cx).sys = true
  apart : ∀ p ∈ ops, ∀ q ∈ ops, p.1 < q.1 → clash p.2 q.2 = false ∧ ¬(p.1 = 5 ∧ q.1 = 6)

/-- A bundle whose own fields the decoder passes (R53). -/
structure Bundle.Sound (b : Bundle) (pc : Nat) : Prop where
  head : b.badHead = false
  words : b.badWords = []
  whole : b.cut = false
  room : pcIdx pc + b.units ≤ 16384

theorem nil_append_eq {α : Type} {a b c : List α} (ha : a = []) (h : b = c) : a ++ b = c := by
  rw [ha, List.nil_append, h]

/-- Neither a bundle that is sound nor its ops, where they are legal, give a cause to trap; what remains is the guard field and the template index. -/
theorem conditions_slotOps {s : State} {cx : Nat} {b : Bundle} {sticky : Bool} {ops : List (Nat × Instr)} (hg : (s.ctx cx).guard = none)
    (hb : b.Sound (s.ctx cx).pc) (h : s.Legal cx ops) :
    s.conditions cx b (slotOps sticky ops) =
      (if b.hdr.extractLsb' 16 12 != 0 then [whole 2 0x02] else []) ++ if b.outside then [whole 4 0x04 (BitVec.ofNat 64 (b.index.getD 0))] else [] := by
  obtain ⟨hhead, hwords, hwhole, hroom⟩ := hb
  obtain ⟨hug, hrep, hall, hperm, hapart⟩ := h
  have hgated : ((slotOps sticky ops).filter fun x => parcelG x.par.w0).map SlotOp.slot = [] := by
    simp only [slotOps, List.filter_map, List.map_map, List.map_eq_nil_iff, List.filter_eq_nil_iff]
    intro p hp
    simpa [slotOp, parcelOf, gBitOf] using hug p hp
  have hops : ∀ p ∈ (opsOf (slotOps sticky ops)).filter (fun p => !isNop p.2), p ∈ ops := by
    rw [opsOf_slotOps]
    exact fun p hp => List.mem_of_mem_filter hp
  unfold State.conditions
  simp only [hgated, hhead, hwords, hwhole, List.append_assoc]
  generalize (opsOf (slotOps sticky ops)).filter (fun p => !isNop p.2) = live at hops
  have hpairs : ∀ x ∈ live.flatMap (fun p => (live.filter fun q => p.1 < q.1).map fun q => (p, q)),
      clash x.1.2 x.2.2 = false ∧ ¬(x.1.1 = 5 ∧ x.2.1 = 6) := by
    simp only [List.mem_flatMap, List.mem_map, List.mem_filter, decide_eq_true_eq]
    rintro _ ⟨p, hp, q, ⟨hq, hlt⟩, rfl⟩
    exact hapart p (hops p hp) q (hops q hq) hlt
  generalize live.flatMap (fun p => (live.filter fun q => p.1 < q.1).map fun q => (p, q)) = pairs at hpairs
  refine nil_append_eq rfl <| nil_append_eq rfl <| nil_append_eq ?decoded <| congr (congrArg _ ?guard) <| nil_append_eq ?room <|
    nil_append_eq ?gated <| nil_append_eq ?clash <| nil_append_eq ?banks <| nil_append_eq ?repeated <| nil_append_eq ?target <|
    nil_append_eq ?irrevocable <| nil_append_eq ?privileged <| (congrArg _ ?allotted).trans (List.append_nil _)
  case decoded => simp [slotOps, slotOp]
  case guard => simp
  case room => simp [Nat.not_lt.mpr hroom]
  case gated => simp
  case clash =>
    simp only [List.map_eq_nil_iff, List.filter_eq_nil_iff, Bool.not_eq_true]
    exact fun x hx => (hpairs x hx).1
  case banks =>
    simp only [List.map_eq_nil_iff, List.filter_eq_nil_iff, Bool.and_eq_true, decide_eq_true_eq]
    exact fun x hx hx' => (hpairs x hx).2 hx'.1
  case repeated =>
    simp only [List.map_eq_nil_iff, List.filter_eq_nil_iff, Bool.and_eq_true, Bool.not_eq_true', not_and, Bool.not_eq_false]
    exact fun p hp _ => hrep p (hops p hp)
  case target =>
    simp only [List.map_eq_nil_iff, List.filter_eq_nil_iff]
    intro p hp
    have := hrep p (hops p hp)
    split <;> simp_all [repeatable]
  case irrevocable => simp [Ctx.guarded, hg]
  case privileged =>
    simp only [List.map_eq_nil_iff, List.filter_eq_nil_iff, Bool.and_eq_true, Bool.not_eq_true', not_and, Bool.not_eq_true]
    exact fun p hp hsys => (hperm p (hops p hp)).resolve_right (by simp [hsys])
  case allotted =>
    simp only [List.filterMap_eq_nil_iff, Option.map_eq_none_iff]
    exact fun p hp => hall p (hops p hp)

end Sys2Proof.Machine

namespace Sys2Proof.Machine

/-! ## The slots of a bundle (R20, R21, R33, R43) -/

/-- In the order of their keys, the entries of each key together are the entries of a list that has that order. -/
theorem flatMap_filter_key {α : Type} {f : α → Nat} {l : List α} (h : (l.map f).Pairwise (· < ·)) (n : Nat) :
    ((List.range n).flatMap fun k => l.filter fun x => f x = k) = l.filter fun x => f x < n := by
  induction n with
  | zero => simp
  | succ n ih =>
    rw [List.range_succ, List.flatMap_append, ih, List.flatMap_singleton]
    clear ih
    induction l with
    | nil => rfl
    | cons x xs ih =>
      obtain ⟨hx, hxs⟩ := List.pairwise_cons.mp h
      have ih := ih hxs
      simp only [Nat.lt_succ_iff] at ih ⊢
      rcases Nat.lt_trichotomy (f x) n with hlt | heq | hgt
      · simp [hlt, hlt.ne, hlt.le, ih]
      · have hnone : xs.filter (fun y => decide (f y < n)) = [] := by
          simpa using fun y hy => (heq ▸ hx (f y) (List.mem_map_of_mem hy)).le
        simp [heq, ← ih, hnone]
      · simp [hgt.ne', Nat.not_lt.mpr hgt.le, Nat.not_le.mpr hgt, ih]

/-- Ops that stand in slots of a bundle: in the order of their slots, each in one that its opcode is encoded in. -/
structure Placed (ops : List (Nat × Instr)) : Prop where
  sorted : (ops.map Prod.fst).Pairwise (· < ·)
  wf : ∀ p ∈ ops, p.2.wf = true
  mem : ∀ p ∈ ops, p.1 ∈ p.2.slots

theorem slot_lt {slot : Nat} {i : Instr} (h : slot ∈ i.slots) : slot < 8 := by
  have hall : i.slots.all (· < 8) = true := by cases i <;> rfl
  simpa using List.all_eq_true.mp hall slot h

/-- The words of ops, slot by slot. -/
def wordsOf (ops : List (Nat × Instr)) : List W32 := ops.flatMap fun p => wordsIn p.1 p.2

/-- The parcels of ops. -/
def parcelsOf (ops : List (Nat × Instr)) : List (Nat × Parcel) := ops.map fun p => (p.1, parcelOf p.2)

theorem splitWords_wordsOf {ops : List (Nat × Instr)} (h : Placed ops) : splitWords (ops.map Prod.fst) (wordsOf ops) = parcelsOf ops := by
  obtain ⟨hsort, -, hmem⟩ := h
  induction ops with
  | nil => rfl
  | cons p ps ih =>
    obtain ⟨slot, i⟩ := p
    obtain ⟨hp, hps⟩ := List.pairwise_cons.mp hsort
    have hrest := ih hps fun q hq => hmem q (List.mem_cons_of_mem _ hq)
    by_cases h7 : slot = 7
    · subst h7
      have : ps = [] := List.eq_nil_iff_forall_not_mem.mpr fun q hq =>
        absurd (hp q.1 (List.mem_map_of_mem hq)) (Nat.not_lt.mpr (Nat.le_of_lt_succ (slot_lt (hmem q (List.mem_cons_of_mem _ hq)))))
      subst this
      rfl
    · have hsnd := encodeParcel_snd i (hmem _ List.mem_cons_self) h7
      have hw : wordsOf ((slot, i) :: ps) = (encodeParcel i).1 :: wordsOf ps := by simp [wordsOf, wordsIn, h7]
      rw [hw, List.map_cons, splitWords.eq_3 _ _ _ _ (fun _ _ h _ => h7 h), hrest]
      simp [parcelsOf, parcelOf, hsnd]

/-- A header names the slots of ops. -/
def Names (hdr : W32) (ops : List (Nat × Instr)) : Prop :=
  ((List.range 8).filter fun k => hdr.getLsbD k) = ops.map Prod.fst ∧ bundleWords hdr = (wordsOf ops).length

theorem fullBundleOf_wordsOf {hdr : W32} {ops : List (Nat × Instr)} (hn : Names hdr ops) (h : Placed ops) :
    fullBundleOf hdr (wordsOf ops) =
      { instr := .fullBundle hdr (wordsOf ops), hdr := hdr, rc := (hdr.extractLsb' 8 7).toNat, units := 2 + 2 * (wordsOf ops).length
        own := parcelsOf ops } := by
  simp [fullBundleOf, hn.1, hn.2, splitWords_wordsOf h]

theorem decodeParcel_parcelOf {slot : Nat} {i : Instr} (hwf : i.wf = true) (hs : slot ∈ i.slots) :
    decodeParcel slot (parcelOf i).w0 (parcelOf i).w1 = .ok i := decodeParcel_encodeParcel hwf hs

/-- A bundle's own ops fill its slots, where no other slot is sticky and no return skips S0. -/
theorem slots_of_own {b : Bundle} {c : Ctx} {ops : List (Nat × Instr)} (hb : b.own = parcelsOf ops) (h : Placed ops)
    (hsk : c.skipS0 = false ∨ ∀ p ∈ ops, p.1 ≠ 0) (hst : ∀ p ∈ c.sticky, p.1 ∈ ops.map Prod.fst) : b.slots c = slotOps false ops := by
  obtain ⟨hsort, hwf, hmem⟩ := h
  have hsticky : (c.sticky.filter fun p => !b.own.any fun q => q.1 = p.1) = [] := by
    simp only [hb, parcelsOf, List.filter_eq_nil_iff]
    intro p hp
    obtain ⟨q, hq, he⟩ := List.mem_map.mp (hst p hp)
    simp only [List.any_map, Bool.not_eq_true, Bool.not_eq_false', List.any_eq_true]
    exact ⟨q, hq, by simpa using he⟩
  have hown : (b.own.map fun p =>
      if p.1 = 0 && c.skipS0 then ({ slot := 0, par := p.2, dec := .ok (.nopCtl false), sticky := false } : SlotOp)
      else { slot := p.1, par := p.2, dec := decodeParcel p.1 p.2.w0 p.2.w1, sticky := false }) = slotOps false ops := by
    rw [hb, parcelsOf, List.map_map, slotOps]
    refine List.map_congr_left fun p hp => ?_
    have hno : (decide (p.1 = 0) && c.skipS0) = false := by
      rcases hsk with hsk | hsk
      · simp [hsk]
      · simp [hsk p hp]
    simp only [Function.comp_apply, hno, Bool.false_eq_true, if_false, decodeParcel_parcelOf (hwf p hp) (hmem p hp), slotOp]
  have hkeys : (slotOps false ops).map SlotOp.slot = ops.map Prod.fst := by simp [slotOps, slotOp]
  unfold Bundle.slots
  simp only [hsticky, List.map_nil, List.append_nil, hown]
  rw [flatMap_filter_key (hkeys ▸ hsort), List.filter_eq_self]
  intro x hx
  obtain ⟨p, hp, rfl⟩ := List.mem_map.mp hx
  exact decide_eq_true (slot_lt (hmem p hp))

/-- Where a bundle has no ops of its own, a sticky op alone fills its slots (R43). -/
theorem slots_of_sticky {b : Bundle} {c : Ctx} {slot : Nat} {i : Instr} (hb : b.own = []) (hwf : i.wf = true) (hs : slot ∈ i.slots)
    (hst : c.sticky = [(slot, parcelOf i)]) : b.slots c = slotOps true [(slot, i)] := by
  unfold Bundle.slots
  simp only [hb, hst, List.map_nil, List.nil_append, List.any_nil, Bool.not_false, List.filter_true, List.map_cons,
    decodeParcel_parcelOf hwf hs]
  rw [flatMap_filter_key (List.pairwise_singleton _ _)]
  simp [slotOps, slotOp, slot_lt hs]

theorem names_nil {hdr : W32} (h : hdr.extractLsb' 0 8 = 0) : Names hdr [] :=
  ⟨(present_of_low h).trans (by decide), (bundleWords_of_low h).trans (by decide)⟩

theorem names_one {hdr : W32} {slot : Nat} {i : Instr} (h : hdr.extractLsb' 0 8 = BitVec.ofNat 8 (2 ^ slot)) (hs : slot < 8) :
    Names hdr [(slot, i)] := by
  have hp : ∀ n < 8, ((List.range 8).filter fun k => (BitVec.ofNat 8 (2 ^ n)).getLsbD k) = [n] := by decide
  have hw : ∀ n < 8, bundleWords ((BitVec.ofNat 8 (2 ^ n)).setWidth 32) = if n = 7 then 2 else 1 := by decide
  refine ⟨(present_of_low h).trans (hp slot hs), (bundleWords_of_low h).trans ((hw slot hs).trans ?_)⟩
  simp only [wordsOf, wordsIn, List.flatMap_singleton]
  split <;> rfl

end Sys2Proof.Machine

namespace Sys2Proof.Machine

/-! ## What holds a repetition (R63) -/

theorem liveOps_slotOps (off sticky : Bool) (ops : List (Nat × Instr)) :
    liveOps off (slotOps sticky ops) = ops.filter fun p => !(off && gBitOf p.2) && !isNop p.2 := by
  have hgate : (slotOps sticky ops).filter (fun x => !(off && parcelG x.par.w0)) = slotOps sticky (ops.filter fun p => !(off && gBitOf p.2)) := by
    simp only [slotOps, List.filter_map]
    rfl
  rw [liveOps, hgate, opsOf_slotOps, List.filter_filter]
  exact List.filter_congr fun p _ => Bool.and_comm _ _

/-- Nothing of R63 that concerns one op holds it: its operands are present, so is its destination, its queue has room, its own condition is
met, and it is not one that waits for the divider or the instruction banks. -/
structure State.Unheld (s : State) (p : Nat × Instr) : Prop where
  operands : (srcSpecs p.2).any (specAbsent s.here) = false
  dest : p.1 < 3 → (nWrite p.2).any (specAbsent s.here) = false
  room : 3 ≤ p.1 → (s.here.queue p.1).length < 8 ∧ (countsAwc p.2 = true → s.here.awc < awcMax)
  ready : p.1 = 0 → s0Waits p.2 s = false
  fetches : ∀ g, p.2 ≠ .fencei g
  divides : isDivide p.2 = false

theorem unheld_of_streamHeld {s : State} {slot : Nat} {i : Instr} (hs : slot ∈ i.slots) (h3 : 3 ≤ slot) (h : streamHeld slot i s = false) :
    s.Unheld (slot, i) := by
  simp only [streamHeld, Bool.or_eq_false_iff, Bool.and_eq_false_imp, decide_eq_false_iff_not, Nat.not_le] at h
  obtain ⟨⟨hsrc, hq⟩, hawc⟩ := h
  refine ⟨hsrc, fun hlt => absurd h3 (Nat.not_le.mpr hlt), fun _ => ⟨hq, hawc⟩, fun h0 => absurd h3 (by simp only at h0; omega), ?_, ?_⟩
  · rintro g rfl
    simp [Instr.slots] at hs
    omega
  · have hdiv : (!isDivide i || i.slots.all (· < 3)) = true := by cases i <;> rfl
    rw [Bool.or_eq_true, Bool.not_eq_true'] at hdiv
    exact hdiv.resolve_right fun hall => absurd h3 (by simpa using List.all_eq_true.mp hall slot hs)

/-- A bundle is not held whose guard register is present, where no `DRAIN` and no divide of the context is in progress, and each of whose ops
either is turned off in a slot that then reads nothing or is not held. -/
theorem holds_slotOps_eq_false {s : State} {cur : Cur} {b : Bundle} {sticky : Bool} {ops : List (Nat × Instr)} (hcx : cur.cx = s.cur.cx)
    (hsort : (ops.map Prod.fst).Pairwise (· < ·))
    (hguard : s.here.regs.pres.getLsbD (b.hdr.extractLsb' 17 5).toNat = true) (hdrain : s.here.draining = false)
    (hdivide : s.dividing s.cur.cx = false)
    (hops : ∀ p ∈ ops, isNop p.2 = false → (cur.off && gBitOf p.2) = true ∧ p.1 ≠ 1 ∧ p.1 ≠ 2 ∨ { s with cur := cur }.Unheld p) :
    s.holds cur b (slotOps sticky ops) = false := by
  have hlive : ∀ p ∈ liveOps cur.off (slotOps sticky ops), { s with cur := cur }.Unheld p := by
    rw [liveOps_slotOps]
    intro p hp
    simp only [List.mem_filter, Bool.and_eq_true, Bool.not_eq_true', Bool.and_eq_true] at hp
    obtain ⟨hp, hon, hnop⟩ := hp
    exact (hops p hp hnop).resolve_left fun h => by simp [h.1] at hon
  have hreading : ∀ p ∈ readingOps cur.off (slotOps sticky ops), (srcSpecs p.2).any (specAbsent ({ s with cur := cur } : State).here) = false := by
    intro p hp
    simp only [readingOps, opsOf_slotOps, List.mem_filter, Bool.and_eq_true, Bool.not_eq_true', Bool.or_eq_true, decide_eq_true_eq,
      List.any_eq_true] at hp
    obtain ⟨hp, hnop, hslot⟩ := hp
    refine ((hops p hp hnop).resolve_left fun ⟨hoff, h1, h2⟩ => ?_).operands
    obtain ⟨q, hq, heq⟩ := hslot.resolve_left (by simp [h1, h2])
    rw [liveOps_slotOps] at hq
    obtain ⟨hq, hon⟩ := List.mem_filter.mp hq
    obtain rfl := List.inj_on_of_nodup_map (hsort.imp Nat.ne_of_lt) hq hp heq
    simp [hoff] at hon
  have hdivider : ∀ d, (s.core (coreOf s.cur.cx)).divider = some d → d.cx ≠ s.cur.cx := by
    intro d hd
    simpa [State.dividing, hd] using hdivide
  unfold State.holds
  simp only [Bool.or_eq_false_iff, List.any_eq_false, hcx]
  have hhere : ({ s with cur := cur } : State).ctx s.cur.cx = s.here := rfl
  have hop : ({ s with cur := cur } : State).here = s.here := congrArg s.ctx hcx
  refine ⟨⟨⟨⟨⟨⟨⟨?guard, ?operands⟩, ?dest⟩, ?room⟩, ?ready⟩, ?drain⟩, ?fetches⟩, ?divides⟩
  case guard => rw [hhere, hguard]; rfl
  case operands =>
    intro p hp
    have := hreading p hp
    rw [hhere, ← hop]
    simp only [this, Bool.false_eq_true, not_false_iff]
  case dest =>
    intro p hp
    have := (hlive p hp).dest
    rw [hhere, ← hop]
    simpa using this
  case room =>
    intro p hp
    have := (hlive p hp).room
    rw [hop] at this
    simpa [hhere] using this
  case ready =>
    intro p hp
    simpa using (hlive p hp).ready
  case drain => exact hdrain
  case fetches =>
    rintro ⟨slot, i⟩ hp
    have := (hlive _ hp).fetches
    split
    next heq => exact absurd heq (this _)
    next => simp
  case divides =>
    split
    · rfl
    · rename_i d hd
      have := hdivider d hd
      simpa [this] using fun a i hp => (hlive _ hp).divides

end Sys2Proof.Machine

namespace Sys2Proof.Machine

/-! ## A repetition carried out (R22–R25, R41–R46) -/

section
variable {s : State} {b : Bundle} {l : List SlotOp} (hg : s.here.guard = none)
  (hstall : s.here.energy.stallDue (grantOf (s.core (coreOf s.cur.cx)).bfw (s.cluster (clusterOf s.cur.cx)).limit)
    ((s.core (coreOf s.cur.cx)).weight b.hdr) = false)
  (hbkpt : bkptLive (liveOps s.cur.off l) = false)
include hg hstall hbkpt

theorem go_of_trap {t : Trap} (h : s.issueRep b l false = .error t) : s.go b l = s.takePrecise t := by
  simp only [State.go, Ctx.guarded, hg, hstall, hbkpt, Option.isSome_none, Bool.false_and, Bool.false_eq_true, if_false, h]

theorem go_of_issued {t : State} (h : s.issueRep b l false = .ok t) : s.go b l = State.finishRep s t b l := by
  simp only [State.go, Ctx.guarded, hg, hstall, hbkpt, Option.isSome_none, Bool.false_and, Bool.false_eq_true, if_false, h]
end

section
variable {s t : State} {b : Bundle} {l : List SlotOp} (hmay : s.mayIssue s.cur.cx = true) (hsw : s.mustSwitch (coreOf s.cur.cx) = false)
  (hg : s.here.guard = none)
  (hstall : s.here.energy.stallDue (grantOf (s.core (coreOf s.cur.cx)).bfw (s.cluster (clusterOf s.cur.cx)).limit)
    ((s.core (coreOf s.cur.cx)).weight b.hdr) = false)
  (hd : s.decodeTrap s.cur.cx b = none) (hl : b.slots s.here = l) (hh : s.holds (s.curOf s.cur.cx b) b l = false)
  (hbkpt : bkptLive (liveOps (s.inRep b).cur.off l) = false)
include hmay hsw hg hstall hd hl hh hbkpt

/-- A bundle past the decoder that nothing holds, one of whose ops traps. -/
theorem issue_of_trap {tr : Trap} (h : (s.inRep b).issueRep b l false = .error tr) : s.issue b = (s.inRep b).takePrecise tr := by
  subst hl
  rw [issue_of_decodes hmay hsw hg hd, hh, if_neg Bool.false_ne_true]
  exact go_of_trap (s := s.inRep b) hg hstall hbkpt h

/-- A bundle past the decoder that nothing holds and none of whose ops traps. -/
theorem issue_of_issued (h : (s.inRep b).issueRep b l false = .ok t) : s.issue b = State.finishRep (s.inRep b) t b l := by
  subst hl
  rw [issue_of_decodes hmay hsw hg hd, hh, if_neg Bool.false_ne_true]
  exact go_of_issued (s := s.inRep b) hg hstall hbkpt h
end

theorem specPoisoned_guard (c : Ctx) (hdr : W32) :
    specPoisoned c (BitVec.ofNat 6 (16 + (hdr.extractLsb' 17 5).toNat)) = c.regs.pois.getLsbD (hdr.extractLsb' 17 5).toNat := by
  have hlt : (hdr.extractLsb' 17 5).toNat < 32 := (hdr.extractLsb' 17 5).isLt
  generalize (hdr.extractLsb' 17 5).toNat = n at hlt
  have hn : (BitVec.ofNat 6 (16 + n)).toNat = 16 + n := by simp; omega
  have hnamed : isNamed (BitVec.ofNat 6 (16 + n)) = true := by simp only [isNamed, hn]; simp; omega
  have hidx : namedIdx (BitVec.ofNat 6 (16 + n)) = n := by simp only [namedIdx, hn]; omega
  simp only [specPoisoned, hnamed, hidx, Bool.true_and]

/-- What a streaming slot does to its context in a repetition. -/
def slotCtx (r : State) (off : Bool) (c : Ctx) (x : SlotOp) : Ctx :=
  match x.dec with
  | .error _ => c
  | .ok i => r.issueCtx off false x.slot x.par i c

theorem foldl_streamSlot_updCtx (r : State) (off : Bool) (l : List SlotOp) (f : Ctx → Ctx) (s : State) :
    (l.foldl (streamSlot r off false) s).updCtx s.cur.cx f = s.updCtx s.cur.cx fun c => f (l.foldl (slotCtx r off) c) := by
  induction l generalizing s with
  | nil => rfl
  | cons x xs ih =>
    rw [List.foldl_cons]
    cases hx : x.dec with
    | error e =>
      have hs : streamSlot r off false s x = s := by simp only [streamSlot, hx]
      have hc : ∀ c, slotCtx r off c x = c := fun c => by simp only [slotCtx, hx]
      simpa only [hs, List.foldl_cons, hc] using ih s
    | ok i =>
      have hs : streamSlot r off false s x = s.updCtx s.cur.cx (r.issueCtx off false x.slot x.par i) := by simp only [streamSlot, hx, State.issueSlot]
      have hc : ∀ c, slotCtx r off c x = r.issueCtx off false x.slot x.par i c := fun c => by simp only [slotCtx, hx]
      simp only [hs, List.foldl_cons, hc]
      exact (ih (s.updCtx s.cur.cx _)).trans (updCtx_updCtx s s.cur.cx _ _)

theorem countRegion_of_unguarded {c : Ctx} (h : c.guard = none) (live : List (Nat × Instr)) (cursors : Cursors) :
    c.countRegion live cursors = .ok {} := by
  simp only [Ctx.countRegion, h, Option.map_none, Option.getD_none]

theorem signPushes_of_unguarded {c : Ctx} (h : c.guard = none) (n : Nat) : signPushes n c = c := by
  unfold signPushes
  generalize (c.regs.q.take n).reverse = vs
  induction vs with
  | nil => rfl
  | cons v vs ih => simpa [Ctx.sign, h] using ih

/-- A context with the counts of its guarded region as `g` has them (R407). -/
def Ctx.countedAs (c : Ctx) (g : Guard) : Ctx :=
  { c with guard := c.guard.map fun x =>
      { x with reps := g.reps, holdCount := g.holdCount, rows := g.rows, vregs := g.vregs, closing := x.closing || false } }

theorem countedAs_of_unguarded {c : Ctx} (h : c.guard = none) (g : Guard) : c.countedAs g = c := by
  obtain ⟨⟩ := c
  cases h
  rfl

/-- The state that a repetition's ops read (R41): each op present at the first one starts at a cursor of zero. -/
def State.zeroed (s : State) (b : Bundle) (l : List SlotOp) : State :=
  s.updCtx s.cur.cx fun c => { c with cursors := zeroCursors b s.cur.rep l c.cursors }

/-- S1 and S2 ops of a bundle. -/
def scalarOps (l : List SlotOp) : List (Nat × Instr) := (opsOf l).filter fun p => (p.1 = 1 || p.1 = 2) && !isNop p.2

/-- The S0 op that a repetition executes. -/
def liveS0 (off : Bool) (l : List SlotOp) : Option Instr := ((liveOps off l).find? fun p => p.1 = 0).map Prod.snd

/-- A context at the next place in the program's order. -/
def Ctx.nextOrd (c : Ctx) : Ctx := { c with ord := c.ord + 1 }

/-- A context after a repetition: at the next place in the program's order, and no S0 to skip any more (R84). -/
def Ctx.inOrder (c : Ctx) : Ctx := { c.nextOrd with skipS0 := false }

/-- A context with one repetition of weight `w` counted (R391). -/
def Ctx.weighed (w : Nat) (c : Ctx) : Ctx := { c with energy := c.energy.push w false, rcount := c.rcount + 1 }

/-- A repetition in which no op traps: S0's effect, then those of S1 and S2, then the streaming slots, each from the operands as they were. -/
theorem issueRep_of_effects {s s1 s2 : State} {b : Bundle} {l : List SlotOp} (hg : s.here.guard = none)
    (hguard : s.here.regs.pois.getLsbD (b.hdr.extractLsb' 17 5).toNat = false)
    (h0 : (liveS0 s.cur.off l).bind (fun i => firstPoisoned s.here (srcSpecs i)) = none)
    (h1 : s0Effect ((liveS0 s.cur.off l).getD (.nopCtl false)) (s.zeroed b l) (s.zeroed b l) = .ok s1)
    (h2 : scalarSlots (s.zeroed b l) (scalarOps l) s1 = .ok s2) (hg2 : (s2.ctx s.cur.cx).guard = none)
    (h3 : capturePoison s.here ((liveOps s.cur.off l).filter fun p => 3 ≤ p.1) = none)
    (hdiv : (liveOps s.cur.off l).any (fun p => isDivide p.2) = false) :
    s.issueRep b l false = .ok ({ s2 with cur := s.cur }.updCtx s.cur.cx fun c =>
      ((l.filter fun x : SlotOp => 3 ≤ x.slot).foldl (slotCtx (s.zeroed b l) s.cur.off) c).inOrder) := by
  rw [← specPoisoned_guard] at hguard
  unfold State.issueRep
  simp only [hguard, Bool.false_eq_true, if_false]
  split
  next sp h => cases h0.symm.trans h
  next =>
  split
  next t h => cases h1.symm.trans h
  next u h =>
  cases h1.symm.trans h
  split
  next t h => cases h2.symm.trans h
  next u h =>
  cases h2.symm.trans h
  split
  next t h => cases h3.symm.trans h
  next =>
  rw [countRegion_of_unguarded hg]
  simp only [hdiv, Bool.false_eq_true, if_false]
  refine congrArg Except.ok ((foldl_streamSlot_updCtx (s.zeroed b l) s.cur.off _ Ctx.inOrder _).trans ?_)
  refine (updCtx_updCtx _ s.cur.cx _ _).trans ((updCtx_updCtx _ s.cur.cx _ _).trans (updCtx_congr (s := { s2 with cur := s.cur }) ?_))
  have hsign := signPushes_of_unguarded hg2 (scalarOps l).length
  refine congrArg (fun c => Ctx.inOrder (List.foldl (slotCtx (s.zeroed b l) s.cur.off) c _)) ?_
  exact (congrArg (Ctx.countedAs · {}) hsign).trans (countedAs_of_unguarded hg2 {})

/-- A poisoned guard register traps before any slot (R23, R100). -/
theorem issueRep_of_poisoned_guard {s : State} {b : Bundle} {l : List SlotOp}
    (h : s.here.regs.pois.getLsbD (b.hdr.extractLsb' 17 5).toNat = true) :
    s.issueRep b l false = .error (poisonTrap 0 (BitVec.ofNat 6 (16 + (b.hdr.extractLsb' 17 5).toNat))) := by
  rw [← specPoisoned_guard] at h
  unfold State.issueRep
  simp only [h, if_true]

/-- What a repetition counts, whether it is counted before S0's skip ends or after (R45, R391). -/
theorem counted_inOrder (u : State) (f : Ctx → Ctx) (hdr : W32) :
    (((u.updCtx u.cur.cx fun c => (f c).inOrder).updCtx u.cur.cx (Ctx.weighed ((u.core (coreOf u.cur.cx)).weight hdr))).updCore
      (coreOf u.cur.cx) fun y => if y.hasRun then y else { y with hasRun := true, quantum := u.millis (clusterOf u.cur.cx) }) =
      (u.updCtx u.cur.cx fun c => (f c).nextOrd).counted hdr := by
  refine congrArg (State.updCore · _ _) ?_
  exact (updCtx_updCtx u u.cur.cx _ _).trans (updCtx_updCtx u u.cur.cx (fun c => (f c).nextOrd) fun c =>
    { c.weighed ((u.core (coreOf u.cur.cx)).weight hdr) with skipS0 := false }).symm

/-- After a repetition whose S0 op, if it has one, transfers nothing, it is counted and the bundle goes on (R45, R50). -/
theorem finishRep_inOrder {r u : State} {b : Bundle} {l : List SlotOp} {f : Ctx → Ctx}
    (hw : (r.core (coreOf u.cur.cx)).weight b.hdr = (u.core (coreOf u.cur.cx)).weight b.hdr)
    (hpost : ∀ i, liveS0 u.cur.off l = some i → (∀ t, s0Post i r t = none) ∧ (∀ g, i ≠ .yield g) ∧ ∀ g, i ≠ .exit g) :
    State.finishRep r (u.updCtx u.cur.cx fun c => (f c).inOrder) b l =
      (u.updCtx u.cur.cx fun c => (f c).nextOrd).repeated ⟨b.instr, b.entry⟩ b.hdr u.cur.nxt u.cur.left := by
  have hcount := counted_inOrder u f b.hdr
  rw [← hw] at hcount
  by_cases hleft : u.cur.left = 0
  · have hnext : (u.updCtx u.cur.cx fun c => (f c).nextOrd).repeated ⟨b.instr, b.entry⟩ b.hdr u.cur.nxt u.cur.left =
        ((u.updCtx u.cur.cx fun c => (f c).nextOrd).counted b.hdr).updCtx u.cur.cx fun c => c.fallThrough u.cur.nxt := by
      simp only [State.repeated, hleft, if_true]
      rfl
    rw [hnext, ← hcount]
    unfold State.finishRep
    dsimp only
    rw [if_neg (by simp [hleft])]
    have hkeep : ∀ t, (liveS0 u.cur.off l).bind (fun i => s0Post i r t) = none := by
      cases h : liveS0 u.cur.off l with
      | none => exact fun _ => rfl
      | some i => exact (hpost i h).1
    split
    next heq => cases (hkeep _).symm.trans heq
    next =>
      split
      next heq => exact absurd rfl ((hpost _ heq).2.1 _)
      next heq => exact absurd rfl ((hpost _ heq).2.2 _)
      next => rfl
  · have hnext : (u.updCtx u.cur.cx fun c => (f c).nextOrd).repeated ⟨b.instr, b.entry⟩ b.hdr u.cur.nxt u.cur.left =
        ((u.updCtx u.cur.cx fun c => (f c).nextOrd).counted b.hdr).updCtx u.cur.cx fun c =>
          { c with mid := true, rcLeft := u.cur.left - 1, decoded := some ⟨b.instr, b.entry⟩ } := by
      simp only [State.repeated, hleft, if_false]
      rfl
    rw [hnext, ← hcount]
    unfold State.finishRep
    dsimp only
    rw [if_pos (by simpa using hleft)]
    rfl

end Sys2Proof.Machine

/-! # Bundles that hold or are illegal, and the issue selector (R23, R52, R53, R63–R65, R391) -/

namespace Sys2Proof.Machine

theorem repeatable_of_slot {slot : Nat} {i : Instr} (hs : slot ∈ i.slots) (h0 : slot ≠ 0) : repeatable i = true := by
  have hctl : (repeatable i || i.slots.all (· = 0)) = true := by cases i <;> rfl
  exact (Bool.or_eq_true _ _ ▸ hctl).resolve_right fun hall => h0 (by simpa using List.all_eq_true.mp hall slot hs)

/-- A header without a guard field names the guard register `n0`. -/
theorem guardReg_of_no_field {hdr : W32} (h : hdr.extractLsb' 16 12 = 0) : (hdr.extractLsb' 17 5).toNat = 0 := by
  have hsub : hdr.extractLsb' 17 5 = (hdr.extractLsb' 16 12).extractLsb' 1 5 := by
    ext k hk
    simp [show 1 + k < 12 by omega, ← Nat.add_assoc]
  rw [hsub, h]
  rfl

theorem dividing_of_mayIssue {s : State} {cx : Nat} (h : s.mayIssue cx = true) : s.dividing cx = false := by
  simp only [State.mayIssue, Bool.and_eq_true, Bool.not_eq_true'] at h
  exact h.1.1.2

theorem legal_nil (s : State) (cx : Nat) : s.Legal cx [] := by constructor <;> simp

/-- One streaming op, unguarded, allotted and permitted, is legal alone. -/
theorem legal_one {s : State} {cx slot : Nat} {i : Instr} (hs : slot ∈ i.slots) (h0 : slot ≠ 0) (hg : gBitOf i = false)
    (ha : s.unallotted cx i = none) (hp : privileged i = false ∨ (s.ctx cx).sys = true) : s.Legal cx [(slot, i)] := by
  constructor <;> simp only [List.mem_singleton, forall_eq]
  · exact hg
  · exact repeatable_of_slot hs h0
  · exact ha
  · exact hp
  · simp

theorem placed_nil : Placed [] := by constructor <;> simp

theorem placed_one {slot : Nat} {i : Instr} (hwf : i.wf = true) (hs : slot ∈ i.slots) : Placed [(slot, i)] := by
  constructor <;> simp [hwf, hs]

/-- The ops of a full bundle whose header names their slots. -/
theorem slots_fullBundleOf {hdr : W32} {c : Ctx} {ops : List (Nat × Instr)} (hn : Names hdr ops) (h : Placed ops)
    (hsk : c.skipS0 = false ∨ ∀ p ∈ ops, p.1 ≠ 0) (hst : ∀ p ∈ c.sticky, p.1 ∈ ops.map Prod.fst) :
    (fullBundleOf hdr (wordsOf ops)).slots c = slotOps false ops :=
  slots_of_own (by rw [fullBundleOf_wordsOf hn h]) h hsk hst

theorem sound_fullBundleOf {hdr : W32} {ops : List (Nat × Instr)} (hn : Names hdr ops) (h : Placed ops) {pc : Nat}
    (hroom : pcIdx pc + (2 + 2 * (wordsOf ops).length) ≤ 16384) : (fullBundleOf hdr (wordsOf ops)).Sound pc := by
  rw [fullBundleOf_wordsOf hn h]
  exact ⟨rfl, rfl, rfl, hroom⟩

/-- A full bundle of legal ops has no cause to trap but that of its guard field (R53). -/
theorem conditions_fullBundleOf {hdr : W32} {s : State} {cx : Nat} {ops : List (Nat × Instr)} (hg : (s.ctx cx).guard = none)
    (hn : Names hdr ops) (h : Placed ops) (hroom : pcIdx (s.ctx cx).pc + (2 + 2 * (wordsOf ops).length) ≤ 16384) (hl : s.Legal cx ops) :
    s.conditions cx (fullBundleOf hdr (wordsOf ops)) (slotOps false ops) =
      if hdr.extractLsb' 16 12 != 0 then [whole 2 0x02] else [] := by
  rw [conditions_slotOps hg (sound_fullBundleOf hn h hroom) hl, fullBundleOf_wordsOf hn h]
  simp

theorem exec_fullBundle (hdr : W32) (ws : List W32) (s : State) : exec (.fullBundle hdr ws) s = (s.issue (fullBundleOf hdr ws)).out := rfl

/-- While the guard register is absent, a repetition is held (R63). -/
theorem holds_of_absent_guard {s : State} {cur : Cur} {b : Bundle} {l : List SlotOp} (hcx : cur.cx = s.cur.cx)
    (h : s.here.regs.pres.getLsbD (b.hdr.extractLsb' 17 5).toNat = false) : s.holds cur b l = true := by
  have hctx : ({ s with cur := cur } : State).ctx cur.cx = s.here := congrArg s.ctx hcx
  unfold State.holds
  simp only [hctx, h, Bool.not_false, Bool.true_or]

/-- While a streaming op that it carries out is held, so is the repetition (R63). -/
theorem holds_of_streamHeld {s : State} {cur : Cur} {b : Bundle} {sticky : Bool} {slot : Nat} {i : Instr} (hcx : cur.cx = s.cur.cx)
    (h3 : 3 ≤ slot) (hn : isNop i = false) (hoff : (cur.off && gBitOf i) = false) (h : streamHeld slot i s = true) :
    s.holds cur b (slotOps sticky [(slot, i)]) = true := by
  have hctx : ({ s with cur := cur } : State).ctx cur.cx = s.here := congrArg s.ctx hcx
  have hlive : liveOps cur.off (slotOps sticky [(slot, i)]) = [(slot, i)] := by
    rw [liveOps_slotOps, List.filter_cons_of_pos (by rw [hoff, hn]; rfl), List.filter_nil]
  have hreads : readingOps cur.off (slotOps sticky [(slot, i)]) = [(slot, i)] := by
    simp only [readingOps, hlive, opsOf_slotOps]
    simp [hn]
  simp only [streamHeld, Bool.or_eq_true] at h
  unfold State.holds
  simp only [hctx, hlive, hreads, List.any_cons, List.any_nil, Bool.or_false, h3, decide_true, Bool.true_and, Bool.or_eq_true]
  tauto

/-- What stops the issue of a bundle is an op's trap or nothing: while it is held, the bundle issues nothing. -/
theorem exec_fullBundle_held {hdr : W32} {ws : List W32} {s : State} (hmay : s.mayIssue s.cur.cx = true)
    (hsw : s.mustSwitch (coreOf s.cur.cx) = false) (hg : s.here.guard = none) (hbad : s.bad = none)
    (hd : s.decodeTrap s.cur.cx (fullBundleOf hdr ws) = none)
    (hh : s.holds (s.curOf s.cur.cx (fullBundleOf hdr ws)) (fullBundleOf hdr ws) ((fullBundleOf hdr ws).slots s.here) = true) :
    exec (.fullBundle hdr ws) s = .next s := by
  rw [exec_fullBundle, issue_of_decodes hmay hsw hg hd, if_pos hh, out_next hbad]

/-! ## The selector (R64, R65) -/

theorem quantumOver_iff {s : State} {core : Nat} : s.quantumOver core = true ↔
    (s.core core).quantumEnded = true ∨
      ((s.core core).hasRun = true ∧ (s.core core).quantum + 1024000 ≤ s.millis (clusterOf (4 * core))) := by
  simp [State.quantumOver]

theorem midStall_eq_false {s : State} {cx : Nat} (h : ¬ (s.ctx cx).energy.stalls.head? = some true) : s.midStall cx = false := by
  unfold State.midStall
  cases hs : (s.ctx cx).energy.stalls.head? with
  | none => rfl
  | some b => cases b <;> simp_all

theorem midStall_of_stalled {s : State} {cx : Nat} (h : (s.ctx cx).energy.stalls.head? = some true) (hr : s.ready cx = true) :
    s.midStall cx = true := by simp [State.midStall, h, hr]

/-- The next ready context in turn is the nearest (R64). -/
theorem nextReady_of_nearest {s : State} {core d : Nat} (h1 : 1 ≤ d) (h3 : d ≤ 3)
    (hd : s.ready (4 * core + ((s.core core).running + d) % 4) = true)
    (hlt : ∀ e, 1 ≤ e → e < d → s.ready (4 * core + ((s.core core).running + e) % 4) = false) :
    s.nextReady core = some (((s.core core).running + d) % 4) := by
  have hcases : d = 1 ∨ d = 2 ∨ d = 3 := by omega
  rcases hcases with rfl | rfl | rfl
  · simp [State.nextReady, hd]
  · simp [State.nextReady, hd, hlt 1 (by decide) (by decide)]
  · simp [State.nextReady, hd, hlt 1 (by decide) (by decide), hlt 2 (by decide) (by decide)]

theorem nextReady_eq_none {s : State} {core : Nat}
    (h : ∀ d, 1 ≤ d → d ≤ 3 → s.ready (4 * core + ((s.core core).running + d) % 4) = false) : s.nextReady core = none := by
  simp [State.nextReady, h 1 (by decide) (by decide), h 2 (by decide) (by decide), h 3 (by decide) (by decide)]

/-- The selector is to leave the running context once its quantum is over, no stall is in progress and another one is ready (R65). -/
theorem mustSwitch_of_over {s : State} {core h : Nat} (hq : s.quantumOver core = true)
    (hst : ¬ (s.ctx (4 * core + (s.core core).running)).energy.stalls.head? = some true) (hn : s.nextReady core = some h) :
    s.mustSwitch core = true := by simp [State.mustSwitch, hq, midStall_eq_false hst, hn]

/-- Settles O43: a bundle by what the decoder, `holds` and the guard register say of it before it issues; the selector by its own definition. -/
theorem holdsAndSelection : Obligations.HoldsAndSelection := by
  unfold Obligations.HoldsAndSelection
  refine ⟨fun hdr s i slot hmay hsw hbad hg hst hmid => ⟨?illegal, ?held, ?absent, ?poisoned⟩,
    fun core s => ⟨?leaves, ?stays, ?alone, ?expires, ?runs⟩⟩
  case illegal =>
    intro hlow hfield hroom
    have hslots := slots_fullBundleOf (c := s.here) (names_nil hlow) placed_nil (by simp) (by simp [hst])
    have hcond := conditions_fullBundleOf hg (names_nil hlow) placed_nil hroom (legal_nil s s.cur.cx)
    rw [if_pos (by simpa using hfield), ← hslots] at hcond
    have htrap := issue_trap hmay hsw hg (decodeTrap_of_single hmid hcond)
    refine ⟨s.curOf s.cur.cx (fullBundleOf hdr []), (congrArg State.out htrap).trans (takePrecise_out (s := s.inRep _) hbad _), rfl, rfl, ?_⟩
    simp [State.curOf, hmid]
  case held =>
    intro h3 h6 hwf hs hn hgi hall hperm hlow hfield hroom hheld
    have hs := List.contains_iff_mem.mp hs
    have hnames := names_one (i := i) hlow (slot_lt hs)
    have hplaced := placed_one hwf hs
    have hwords : wordsOf [(slot, i)] = [(encodeParcel i).1] := by
      have : slot ≠ 7 := by omega
      simp [wordsOf, wordsIn, this]
    rw [← hwords]
    have hslots := slots_fullBundleOf (c := s.here) hnames hplaced (.inr (by simp; omega)) (by simp [hst])
    have hcond := conditions_fullBundleOf hg hnames hplaced (hwords ▸ hroom) (legal_one hs (by omega) hgi hall hperm)
    rw [if_neg (by simp [hfield]), ← hslots] at hcond
    refine exec_fullBundle_held hmay hsw hg hbad (decodeTrap_of_nil hcond) ?_
    rw [hslots]
    exact holds_of_streamHeld rfl h3 hn (by rw [hgi, Bool.and_false]) hheld
  case absent => exact fun ws habs hd => exec_fullBundle_held hmay hsw hg hbad hd (holds_of_absent_guard rfl habs)
  case poisoned =>
    intro hpres hpois hlow hfield hroom hdrain hstall
    have hslots := slots_fullBundleOf (c := s.here) (names_nil hlow) placed_nil (by simp) (by simp [hst])
    have hcond := conditions_fullBundleOf hg (names_nil hlow) placed_nil hroom (legal_nil s s.cur.cx)
    rw [if_neg (by simp [hfield]), ← hslots] at hcond
    have hpass : s.holds (s.curOf s.cur.cx (fullBundleOf hdr (wordsOf []))) (fullBundleOf hdr (wordsOf [])) (slotOps false []) = false :=
      holds_slotOps_eq_false rfl List.Pairwise.nil hpres hdrain (dividing_of_mayIssue hmay) (by simp)
    have hissue := issue_of_trap (b := fullBundleOf hdr (wordsOf [])) hmay hsw hg hstall (decodeTrap_of_nil hcond) hslots hpass rfl
      (issueRep_of_poisoned_guard hpois)
    refine ⟨s.curOf s.cur.cx (fullBundleOf hdr []), (congrArg State.out hissue).trans ((takePrecise_out (s := s.inRep _) hbad _).trans ?_),
      rfl, rfl, ?_⟩
    · have htrap : poisonTrap 0 (BitVec.ofNat 6 (16 + (hdr.extractLsb' 17 5).toNat)) = { cause := 0x0B, slot := 0, detail := 16 } := by
        rw [guardReg_of_no_field hfield]
        rfl
      exact congrArg (fun t => Host.Outcome.next ((s.inRep (fullBundleOf hdr [])).takePrecise t)) htrap
    · simp [State.curOf, hmid]
  case leaves =>
    intro d h1 h3 hrun hd hlt
    have hnext := nextReady_of_nearest h1 h3 hd hlt
    refine ⟨?_, fun hended hst hcore hbad hdr ws => ?_⟩
    · have hgo : (s.ready (4 * core + (s.core core).running) && !s.mustSwitch core) = false := by
        rcases hrun with hrun | ⟨hended, hst⟩
        · rw [hrun, Bool.false_and]
        · rw [mustSwitch_of_over (quantumOver_iff.mpr hended) hst hnext, Bool.not_true, Bool.and_false]
      change execContextSwitch core s = _
      simp only [execContextSwitch, hgo, hnext, Bool.false_eq_true, if_false]
    · have hms := mustSwitch_of_over (quantumOver_iff.mpr hended) hst hnext
      rw [exec_fullBundle, State.issue, hcore, hms, Bool.or_true, if_pos rfl, out_next hbad]
  case stays =>
    intro hrun hstay
    have hms : s.mustSwitch core = false := by
      rcases hstay with hstay | hstay
      · rw [State.mustSwitch, Bool.eq_false_iff.mpr (fun hq => hstay (quantumOver_iff.mp hq)), Bool.false_and, Bool.false_and]
      · rw [State.mustSwitch, midStall_of_stalled hstay hrun, Bool.not_true, Bool.and_false, Bool.false_and]
    change execContextSwitch core s = _
    simp only [execContextSwitch, hrun, hms, Bool.not_false, Bool.and_self, if_true]
  case alone =>
    intro hnone
    change execContextSwitch core s = _
    simp only [execContextSwitch, nextReady_eq_none hnone, ite_self]
  case expires =>
    intro hended
    change execQuantumExpiry core s = _
    simp only [execQuantumExpiry, quantumOver_iff.mpr hended, if_true]
  case runs =>
    intro hended
    change execQuantumExpiry core s = _
    simp only [execQuantumExpiry, Bool.eq_false_iff.mpr (fun hq => hended (quantumOver_iff.mp hq)), Bool.false_eq_true, if_false]

end Sys2Proof.Machine

/-! # What a repetition of a bundle does (R18–R25, R41, R43, R45, R50, R53, R94, R98) -/

namespace Sys2Proof.Machine

/-! ## Bundles of one streaming op -/

/-- A streaming op is turned off, or nothing holds it and no operand that it captures is poisoned. -/
def State.StreamsOn (s : State) (off : Bool) (slot : Nat) (i : Instr) : Prop :=
  (off = true ∧ gBitOf i = true) ∨ streamHeld slot i s = false ∧ firstPoisoned s.here (srcSpecs i) = none

theorem liveOps_one {off sticky : Bool} {slot : Nat} {i : Instr} (hn : isNop i = false) :
    liveOps off (slotOps sticky [(slot, i)]) = if (off && gBitOf i) = true then [] else [(slot, i)] := by
  rw [liveOps_slotOps]
  split
  next h => rw [List.filter_cons_of_neg (by simp [h]), List.filter_nil]
  next h => rw [List.filter_cons_of_pos (by simp [h, hn]), List.filter_nil]

theorem liveS0_of_nonzero {off sticky : Bool} {ops : List (Nat × Instr)} (h : ∀ p ∈ ops, p.1 ≠ 0) : liveS0 off (slotOps sticky ops) = none := by
  have hnone : (liveOps off (slotOps sticky ops)).find? (fun p => p.1 = 0) = none := by
    rw [List.find?_eq_none, liveOps_slotOps]
    exact fun p hp => by simpa using h p (List.mem_of_mem_filter hp)
  rw [liveS0, hnone, Option.map_none]

theorem isDivide_of_stream {slot : Nat} {i : Instr} (hs : slot ∈ i.slots) (h3 : 3 ≤ slot) : isDivide i = false := by
  have hdiv : (!isDivide i || i.slots.all (· < 3)) = true := by cases i <;> rfl
  rw [Bool.or_eq_true, Bool.not_eq_true'] at hdiv
  exact hdiv.resolve_right fun hall => absurd h3 (by simpa using List.all_eq_true.mp hall slot hs)

theorem bkptLive_of_nonzero {l : List (Nat × Instr)} (h : ∀ p ∈ l, p.1 ≠ 0 ∧ p.1 ∈ p.2.slots) : bkptLive l = false := by
  simp only [bkptLive, List.any_eq_false]
  rintro ⟨slot, i⟩ hp
  obtain ⟨h0, hs⟩ := h _ hp
  split
  next heq =>
    rw [heq] at hs
    exact absurd (List.mem_singleton.mp hs) h0
  next => simp

theorem scalarOps_of_stream {sticky : Bool} {ops : List (Nat × Instr)} (h : ∀ p ∈ ops, p.1 ≠ 1 ∧ p.1 ≠ 2) :
    scalarOps (slotOps sticky ops) = [] := by
  rw [scalarOps, opsOf_slotOps, List.filter_eq_nil_iff]
  intro p hp
  simp [h p hp]

/-- What a streaming slot leaves of its context: its place in the program's order and its phase. -/
def Ctx.place (c : Ctx) : Nat × Phase := (c.ord, c.phase)

theorem Ctx.makeToken_place (c : Ctx) (k : BitVec 6) (ord : Nat) : (c.makeToken k ord).place = c.place := by
  unfold Ctx.makeToken
  split <;> rfl

theorem Ctx.guardedOff_place (c : Ctx) (i : Instr) : (c.guardedOff i).place = c.place := by
  unfold Ctx.guardedOff Ctx.completeToken
  split
  · rfl
  · split <;> rfl

theorem Ctx.clearPresence_place (c : Ctx) (d : Dst) : (c.clearPresence d).place = c.place := by
  cases d with
  | n sys k => cases sys <;> rfl
  | v k => rfl

theorem Ctx.listOuts_place (c : Ctx) (e : Entry) (i : Instr) : (c.listOuts e i).place = c.place := by
  unfold Ctx.listOuts
  induction dstsOf i e.sys generalizing c with
  | nil => rfl
  | cons d ds ih => exact (ih _).trans (Ctx.clearPresence_place c d)

theorem Ctx.enqueue_place (c : Ctx) (e : Entry) (i : Instr) : (c.enqueue e i).place = c.place := by
  unfold Ctx.enqueue
  dsimp only
  split
  · rw [Ctx.makeToken_place]
    split <;> exact Ctx.listOuts_place _ _ _
  · split <;> exact Ctx.listOuts_place _ _ _

theorem issueCtx_place (r : State) (off ckpt : Bool) (slot : Nat) (par : Parcel) (i : Instr) (c : Ctx) :
    (r.issueCtx off ckpt slot par i c).place = c.place := by
  unfold State.issueCtx
  dsimp only
  split
  · rfl
  · split
    · split
      · exact Ctx.guardedOff_place c i
      · rfl
    · exact Ctx.enqueue_place _ _ _

theorem issueCtx_ord (r : State) (off ckpt : Bool) (slot : Nat) (par : Parcel) (i : Instr) (c : Ctx) :
    (r.issueCtx off ckpt slot par i c).ord = c.ord := congrArg Prod.fst (issueCtx_place r off ckpt slot par i c)

theorem issueCtx_phase (r : State) (off ckpt : Bool) (slot : Nat) (par : Parcel) (i : Instr) (c : Ctx) :
    (r.issueCtx off ckpt slot par i c).phase = c.phase := congrArg Prod.snd (issueCtx_place r off ckpt slot par i c)

theorem issueAlone_eq_nextOrd (z : State) (slot : Nat) (i : Instr) :
    z.issueAlone slot i = z.updCtx z.cur.cx fun c => (z.issueCtx z.cur.off false slot (parcelOf i) i c).nextOrd := by
  refine congrArg (z.updCtx z.cur.cx) (funext fun c => ?_)
  rw [Ctx.nextOrd, issueCtx_ord]

/-- What follows a repetition of one streaming op, carried out in `z` (R45). -/
theorem finishRep_one_stream {r z : State} {b : Bundle} {sticky : Bool} {slot : Nat} {i : Instr} (h3 : 3 ≤ slot) (h0 : slot ≠ 0)
    (hw : (r.core (coreOf z.cur.cx)).weight b.hdr = (z.core (coreOf z.cur.cx)).weight b.hdr) :
    State.finishRep r (z.updCtx z.cur.cx fun c =>
        (((slotOps sticky [(slot, i)]).filter fun x : SlotOp => 3 ≤ x.slot).foldl (slotCtx z z.cur.off) c).inOrder) b (slotOps sticky [(slot, i)]) =
      (z.issueAlone slot i).repeated ⟨b.instr, b.entry⟩ b.hdr z.cur.nxt z.cur.left := by
  have hfilter : (slotOps sticky [(slot, i)]).filter (fun x : SlotOp => 3 ≤ x.slot) = [slotOp slot i sticky] := by
    simp [slotOps, slotOp, h3]
  rw [hfilter, issueAlone_eq_nextOrd]
  refine finishRep_inOrder (f := z.issueCtx z.cur.off false slot (parcelOf i) i) hw fun j hj => ?_
  cases (liveS0_of_nonzero (by simpa using h0)).symm.trans hj

section
variable {s : State} {b : Bundle} (hrun : s.mayRun b.hdr) (hd : s.decodeTrap s.cur.cx b = none)
include hrun hd

/-- A bundle of one streaming op does what the op does alone, from the cursors as the repetition finds them (R24, R41, R43). -/
theorem issue_one_stream {sticky : Bool} {slot : Nat} {i : Instr} (hl : b.slots s.here = slotOps sticky [(slot, i)]) (hs : slot ∈ i.slots)
    (h3 : 3 ≤ slot) (hn : isNop i = false) (hon : s.StreamsOn (s.inRep b).cur.off slot i) :
    s.issue b = (((s.inRep b).zeroed b (slotOps sticky [(slot, i)])).issueAlone slot i).repeated ⟨b.instr, b.entry⟩ b.hdr
      (s.here.pc + b.units) (s.inRep b).cur.left := by
  obtain ⟨hmay, hsw, -, hg, hdrain, hpres, hpois, hstall⟩ := hrun
  have h0 : ∀ p ∈ [(slot, i)], p.1 ≠ 0 := by simp; omega
  have hlive := liveOps_one (off := (s.inRep b).cur.off) (sticky := sticky) (slot := slot) hn
  have hmem : ∀ p ∈ liveOps (s.inRep b).cur.off (slotOps sticky [(slot, i)]), p = (slot, i) := by
    rw [hlive]
    split <;> simp
  have hholds : s.holds (s.curOf s.cur.cx b) b (slotOps sticky [(slot, i)]) = false := by
    refine holds_slotOps_eq_false rfl (List.pairwise_singleton _ _) hpres hdrain (dividing_of_mayIssue hmay) ?_
    rintro _ hp -
    cases List.mem_singleton.mp hp
    refine hon.imp (fun ⟨hoff, hgi⟩ => ⟨Bool.and_eq_true_iff.mpr ⟨hoff, hgi⟩, by simp only; omega, by simp only; omega⟩) fun ⟨hheld, _⟩ => ?_
    exact unheld_of_streamHeld (s := s.inRep b) hs h3 hheld
  have hcap : capturePoison s.here ((liveOps (s.inRep b).cur.off (slotOps sticky [(slot, i)])).filter fun p => 3 ≤ p.1) = none := by
    rw [hlive]
    split
    next => rfl
    next hoff =>
      obtain ⟨-, hpois⟩ := hon.resolve_left (mt Bool.and_eq_true_iff.mpr hoff)
      simp [h3, capturePoison, hpois]
  have hdiv : (liveOps (s.inRep b).cur.off (slotOps sticky [(slot, i)])).any (fun p => isDivide p.2) = false :=
    List.any_eq_false.mpr fun p hp => by simp [hmem p hp, isDivide_of_stream hs h3]
  have hscal : scalarSlots ((s.inRep b).zeroed b (slotOps sticky [(slot, i)])) (scalarOps (slotOps sticky [(slot, i)]))
      ((s.inRep b).zeroed b (slotOps sticky [(slot, i)])) = .ok ((s.inRep b).zeroed b (slotOps sticky [(slot, i)])) := by
    rw [scalarOps_of_stream (by simp; omega)]
    rfl
  have hg' : (((s.inRep b).zeroed b (slotOps sticky [(slot, i)])).ctx (s.inRep b).cur.cx).guard = none := by
    rw [State.zeroed, State.ctx_updCtx]
    exact hg
  have hrep := issueRep_of_effects (s := s.inRep b) (b := b) (l := slotOps sticky [(slot, i)]) hg hpois
    (by rw [liveS0_of_nonzero h0]; rfl) (by rw [liveS0_of_nonzero h0]; rfl) hscal hg' hcap hdiv
  rw [issue_of_issued hmay hsw hg hstall hd hl hholds (bkptLive_of_nonzero fun p hp => hmem p hp ▸ ⟨h0 _ List.mem_cons_self, hs⟩) hrep]
  exact finishRep_one_stream h3 (by omega) rfl

end

end Sys2Proof.Machine

namespace Sys2Proof.Machine

/-- The cursors of a slot's op at its first repetition (R41). -/
def Cursors.zeroed (slot : Nat) (c : Cursors) : Cursors :=
  { s3 := if slot = 3 then 0 else c.s3, s5s := if slot = 5 then 0 else c.s5s, s5d := if slot = 5 then 0 else c.s5d
    s6 := if slot = 6 then 0 else c.s6 }

/-- A context whose slot begins (R41). -/
def Ctx.begun (slot : Nat) (c : Ctx) : Ctx := { c with cursors := c.cursors.zeroed slot }

theorem zeroCursors_of_own_nil {b : Bundle} (h : b.own = []) (rep : Nat) (l : List SlotOp) (c : Cursors) : zeroCursors b rep l c = c := by
  simp [zeroCursors, h]

/-- S0, S1 and S2 have no cursors. -/
theorem zeroCursors_of_precise {l : List SlotOp} (h : ∀ p ∈ opsOf l, p.1 < 3) (b : Bundle) (rep : Nat) (c : Cursors) :
    zeroCursors b rep l c = c := by
  have hnone : ∀ k, 3 ≤ k → ((opsOf l).any fun p => p.1 = k && !isNop p.2) = false := by
    intro k hk
    rw [List.any_eq_false]
    intro p hp
    simp [Nat.ne_of_lt (Nat.lt_of_lt_of_le (h p hp) hk)]
  simp [zeroCursors, hnone 3, hnone 5, hnone 6]

/-- Of the slots with cursors a bundle fills `slot` alone. -/
def Bundle.FillsOnly (b : Bundle) (l : List SlotOp) (slot : Nat) : Prop :=
  ∀ k, k ≠ 0 → (b.own.any (fun p => p.1 = k) && (opsOf l).any fun p => p.1 = k && !isNop p.2) = decide (slot = k)

theorem zeroCursors_of_fillsOnly {b : Bundle} {l : List SlotOp} {slot : Nat} (h : b.FillsOnly l slot) (rep : Nat) (c : Cursors) :
    zeroCursors b rep l c = if rep = 0 then c.zeroed slot else c := by
  simp only [zeroCursors, Bool.and_assoc, h 3 (by decide), h 5 (by decide), h 6 (by decide), Cursors.zeroed]
  by_cases hrep : rep = 0 <;> simp [hrep]

theorem zeroed_of_fillsOnly {s : State} {b : Bundle} {l : List SlotOp} {slot : Nat} (h : b.FillsOnly l slot) :
    s.zeroed b l = s.updCtx s.cur.cx fun c => if s.cur.rep = 0 then c.begun slot else c := by
  refine congrArg (s.updCtx s.cur.cx) (funext fun c => ?_)
  rw [zeroCursors_of_fillsOnly h]
  split <;> rfl

section
variable {s : State} {b : Bundle} (hrun : s.mayRun b.hdr) (hd : s.decodeTrap s.cur.cx b = none)
include hrun hd

/-- A bundle of one streaming op begins at a cursor of zero (R41). -/
theorem issue_present_stream {slot : Nat} {i : Instr} (hb : b.own = [(slot, parcelOf i)]) (hst : ∀ p ∈ s.here.sticky, p.1 = slot)
    (hwf : i.wf = true) (hs : slot ∈ i.slots) (h3 : 3 ≤ slot) (hn : isNop i = false) (hon : s.StreamsOn (s.inRep b).cur.off slot i) :
    s.issue b = (((s.inRep b).updCtx s.cur.cx fun c => if (s.inRep b).cur.rep = 0 then c.begun slot else c).issueAlone slot i).repeated
      ⟨b.instr, b.entry⟩ b.hdr (s.here.pc + b.units) (s.inRep b).cur.left := by
  have hl : b.slots s.here = slotOps false [(slot, i)] := slots_of_own hb (placed_one hwf hs) (.inr (by simp; omega)) (by simpa using hst)
  have hfills : b.FillsOnly (slotOps false [(slot, i)]) slot := by
    intro k _
    simp [hb, opsOf_slotOps, hn]
  rw [issue_one_stream hrun hd hl hs h3 hn hon, zeroed_of_fillsOnly hfills]
  rfl

/-- A streaming op remembered in its slot goes on from its cursor (R43). -/
theorem issue_sticky_stream {slot : Nat} {i : Instr} (hb : b.own = []) (hst : s.here.sticky = [(slot, parcelOf i)])
    (hwf : i.wf = true) (hs : slot ∈ i.slots) (h3 : 3 ≤ slot) (hn : isNop i = false) (hon : s.StreamsOn (s.inRep b).cur.off slot i) :
    s.issue b = (((s.inRep b).updCtx s.cur.cx fun c => c).issueAlone slot i).repeated
      ⟨b.instr, b.entry⟩ b.hdr (s.here.pc + b.units) (s.inRep b).cur.left := by
  have hl : b.slots s.here = slotOps true [(slot, i)] := slots_of_sticky hb hwf hs hst
  rw [issue_one_stream hrun hd hl hs h3 hn hon]
  refine congrArg (fun z : State => (z.issueAlone slot i).repeated _ _ _ _) (congrArg ((s.inRep b).updCtx s.cur.cx) (funext fun c => ?_))
  rw [zeroCursors_of_own_nil hb]
end

/-- Headers and words of one op in its slot. -/
theorem own_of_one {hdr : W32} {slot : Nat} {i : Instr} (hlow : hdr.extractLsb' 0 8 = BitVec.ofNat 8 (2 ^ slot)) (hwf : i.wf = true)
    (hs : slot ∈ i.slots) : fullBundleOf hdr (wordsIn slot i) =
      { instr := .fullBundle hdr (wordsIn slot i), hdr := hdr, rc := (hdr.extractLsb' 8 7).toNat, units := 2 + 2 * (wordsIn slot i).length
        own := [(slot, parcelOf i)] } := by
  have h := fullBundleOf_wordsOf (names_one (i := i) hlow (slot_lt hs)) (placed_one hwf hs)
  rwa [show wordsOf [(slot, i)] = wordsIn slot i from List.append_nil _] at h

end Sys2Proof.Machine

namespace Sys2Proof.Machine

/-! ## Bundles that no guard governs (R23, R53) and template calls (R49, R50) -/

/-- A header without a guard field guards by bit 0 of `n0`, which is to be clear. -/
theorem guard_of_no_field {hdr : W32} (h : hdr.extractLsb' 16 12 = 0) :
    (hdr.extractLsb' 17 5).toNat = 0 ∧ (hdr.extractLsb' 22 6).toNat = 0 ∧ hdr.getLsbD 16 = false := by
  refine ⟨guardReg_of_no_field h, ?_, ?_⟩
  · have hsub : hdr.extractLsb' 22 6 = (hdr.extractLsb' 16 12).extractLsb' 6 6 := by
      ext k hk
      simp [show 6 + k < 12 by omega, ← Nat.add_assoc]
    rw [hsub, h]
    rfl
  · have hbit : hdr.getLsbD 16 = (hdr.extractLsb' 16 12).getLsbD 0 := by simp
    rw [hbit, h]
    rfl

/-- The first repetition of a bundle that no guard governs. -/
theorem curOf_unguarded {s : State} {b : Bundle} (hmid : s.here.mid = false) (h : b.hdr.extractLsb' 16 12 = 0) :
    s.curOf s.cur.cx b =
      { cx := s.cur.cx, pc := s.here.pc, nxt := s.here.pc + b.units, off := (s.here.regs.get 0).getLsbD 0 == false, slot := 0, rep := 0
        left := b.rc } := by
  obtain ⟨hreg, hbit, hsense⟩ := guard_of_no_field h
  have hmid : (s.ctx s.cur.cx).mid = false := hmid
  simp only [State.curOf, hmid, hreg, hbit, hsense, Bool.false_eq_true, if_false, Nat.sub_self]

/-- A bundle past the decoder that nothing holds and none of whose ops traps is what its ops leave and what follows a repetition. -/
theorem issue_of_effects {s s1 s2 : State} {b : Bundle} {sticky : Bool} {ops : List (Nat × Instr)} (hrun : s.mayRun b.hdr)
    (hd : s.decodeTrap s.cur.cx b = none) (hl : b.slots s.here = slotOps sticky ops)
    (hh : s.holds (s.curOf s.cur.cx b) b (slotOps sticky ops) = false)
    (hbkpt : bkptLive (liveOps (s.inRep b).cur.off (slotOps sticky ops)) = false)
    (h0 : (liveS0 (s.inRep b).cur.off (slotOps sticky ops)).bind (fun i => firstPoisoned s.here (srcSpecs i)) = none)
    (h1 : s0Effect ((liveS0 (s.inRep b).cur.off (slotOps sticky ops)).getD (.nopCtl false)) ((s.inRep b).zeroed b (slotOps sticky ops))
      ((s.inRep b).zeroed b (slotOps sticky ops)) = .ok s1)
    (h2 : scalarSlots ((s.inRep b).zeroed b (slotOps sticky ops)) (scalarOps (slotOps sticky ops)) s1 = .ok s2)
    (hg2 : (s2.ctx s.cur.cx).guard = none)
    (h3 : capturePoison s.here ((liveOps (s.inRep b).cur.off (slotOps sticky ops)).filter fun p => 3 ≤ p.1) = none)
    (hdiv : (liveOps (s.inRep b).cur.off (slotOps sticky ops)).any (fun p => isDivide p.2) = false) :
    s.issue b = State.finishRep (s.inRep b) ({ s2 with cur := (s.inRep b).cur }.updCtx s.cur.cx fun c =>
      (((slotOps sticky ops).filter fun x : SlotOp => 3 ≤ x.slot).foldl (slotCtx ((s.inRep b).zeroed b (slotOps sticky ops)) (s.inRep b).cur.off)
        c).inOrder) b (slotOps sticky ops) := by
  obtain ⟨hmay, hsw, -, hg, hdrain, hpres, hpois, hstall⟩ := hrun
  exact issue_of_issued hmay hsw hg hstall hd hl hh hbkpt (issueRep_of_effects (s := s.inRep b) hg hpois h0 h1 h2 hg2 h3 hdiv)

/-- A bundle that carries out none of its ops is counted and goes on. -/
theorem issue_idle {s : State} {b : Bundle} {ops : List (Nat × Instr)} (hrun : s.mayRun b.hdr) (hd : s.decodeTrap s.cur.cx b = none)
    (hl : b.slots s.here = slotOps false ops) (hsort : (ops.map Prod.fst).Pairwise (· < ·)) (h0 : ∀ p ∈ ops, p.1 = 0)
    (hdead : ∀ p ∈ ops, (s.inRep b).cur.off = true ∧ gBitOf p.2 = true) :
    s.issue b = ((s.inRep b).updCtx s.cur.cx Ctx.nextOrd).repeated ⟨b.instr, b.entry⟩ b.hdr (s.here.pc + b.units) (s.inRep b).cur.left := by
  have hlive : liveOps (s.inRep b).cur.off (slotOps false ops) = [] := by
    rw [liveOps_slotOps, List.filter_eq_nil_iff]
    intro p hp
    simp [hdead p hp]
  have hscal : scalarOps (slotOps false ops) = [] := scalarOps_of_stream fun p hp => by simp [h0 p hp]
  have hstream : (slotOps false ops).filter (fun x : SlotOp => 3 ≤ x.slot) = [] := by
    simp only [slotOps, slotOp, List.filter_map, List.map_eq_nil_iff, List.filter_eq_nil_iff]
    intro p hp
    simp [h0 p hp]
  have hS0 : liveS0 (s.inRep b).cur.off (slotOps false ops) = none := by
    rw [liveS0, hlive]
    rfl
  have hh : s.holds (s.curOf s.cur.cx b) b (slotOps false ops) = false :=
    holds_slotOps_eq_false rfl hsort hrun.2.2.2.2.2.1 hrun.2.2.2.2.1 (dividing_of_mayIssue hrun.1) fun p hp _ =>
      .inl ⟨Bool.and_eq_true_iff.mpr (hdead p hp), by simp [h0 p hp], by simp [h0 p hp]⟩
  have hz : (s.inRep b).zeroed b (slotOps false ops) = (s.inRep b).updCtx s.cur.cx fun c => c :=
    congrArg ((s.inRep b).updCtx s.cur.cx) (funext fun c => by rw [zeroCursors_of_precise (by rw [opsOf_slotOps]; intro p hp; rw [h0 p hp]; decide)])
  have hg2 : (((s.inRep b).zeroed b (slotOps false ops)).ctx s.cur.cx).guard = none := by
    rw [hz, State.ctx_updCtx]
    exact hrun.2.2.2.1
  have hissue := issue_of_effects hrun hd hl hh (by rw [hlive]; rfl) (by rw [hS0]; rfl) (by rw [hS0]; rfl) (by rw [hscal]; rfl) hg2
    (by rw [hlive]; rfl) (by rw [hlive]; rfl)
  rw [hissue, hz, hstream]
  refine (congrArg (fun t => State.finishRep (s.inRep b) t b _) (updCtx_updCtx (s.inRep b) s.cur.cx (fun c => c) Ctx.inOrder)).trans ?_
  refine finishRep_inOrder (u := s.inRep b) (f := fun c => c) rfl fun _ h => ?_
  cases hS0.symm.trans h

end Sys2Proof.Machine

namespace Sys2Proof.Machine

theorem templateOf_outside {k : Core} {c : Ctx} {index : BitVec 9} (h : c.tmplEntries ≤ index.toNat) (rc : BitVec 6) :
    k.templateOf c index rc =
      { instr := .tcall index rc, hdr := 0, rc := rc.toNat, units := 1, index := some index.toNat, outside := true } := by
  simp [Core.templateOf, h]

/-- A word of a template entry (R49). -/
def templateWord (e : BitVec 256) (m : Nat) : W32 := e.extractLsb' (32 * m) 32

/-- A template of one op, whose entry is well formed (R49). -/
theorem templateOf_one {k : Core} {c : Ctx} {index : BitVec 9} {rc : BitVec 6} {e : BitVec 256} {hdr : W32} {slot : Nat} {i : Instr}
    (hmid : c.mid = false) (hin : index.toNat < c.tmplEntries) (he : mget 0 (c.tbase + index.toNat) k.tmpl = e) (hhdr : templateWord e 0 = hdr)
    (h7 : templateWord e 7 = 0) (habsent : ∀ m, 1 ≤ m → m ≤ 6 → hdr.getLsbD m = false → templateWord e m = 0)
    (hrc : (hdr.extractLsb' 8 7).toNat = 0) (hcall : hdr.getLsbD 15 = false) (hlow : hdr.extractLsb' 0 8 = BitVec.ofNat 8 (2 ^ slot))
    (h3 : 3 ≤ slot) (h6 : slot ≤ 6) (hs : slot ∈ i.slots) (hword : templateWord e slot = (encodeParcel i).1) :
    k.templateOf c index rc =
      { instr := .tcall index rc, entry := e, hdr := hdr, rc := rc.toNat, units := 1, index := some index.toNat, own := [(slot, parcelOf i)] } := by
  have hentry : (c.decoded.filter fun d => c.mid && d.instr == .tcall index rc) = none := by simp [hmid]
  have hbit : ∀ m < 8, hdr.getLsbD m = decide (m = slot) := by
    intro m hm
    have hall : ∀ n < 8, ∀ m < 8, (BitVec.ofNat 8 (2 ^ n)).getLsbD m = decide (m = n) := by decide
    rw [getLsbD_of_low hlow hm, hall slot (by omega) m hm]
  have hslots : [1, 2, 3, 4, 5, 6].filter (fun n => hdr.getLsbD n) = [slot] := by
    have hall : ∀ n < 7, 3 ≤ n → [1, 2, 3, 4, 5, 6].filter (fun m => decide (m = n)) = [n] := by decide
    rw [← hall slot (by omega) h3]
    exact List.filter_congr fun m hm => hbit m (by simp at hm; omega)
  have hcount : hdr.extractLsb' 8 8 = 0 := by
    have hz : hdr.extractLsb' 8 7 = 0 := BitVec.eq_of_toNat_eq hrc
    refine BitVec.eq_of_getLsbD_eq fun k hk => ?_
    have hk' : (hdr.extractLsb' 8 8).getLsbD k = hdr.getLsbD (8 + k) := by simp [hk]
    rw [hk', show (0 : BitVec 8).getLsbD k = false from BitVec.getLsbD_zero]
    rcases Nat.lt_or_ge k 7 with h | h
    · have hbit : (hdr.extractLsb' 8 7).getLsbD k = hdr.getLsbD (8 + k) := by simp [h]
      rw [← hbit, hz]
      exact BitVec.getLsbD_zero
    · rw [show 8 + k = 15 by omega, hcall]
  have hwords : [1, 2, 3, 4, 5, 6].filter (fun n => !hdr.getLsbD n && templateWord e n != 0) = [] := by
    rw [List.filter_eq_nil_iff]
    intro m hm hm'
    rw [Bool.and_eq_true, Bool.not_eq_true'] at hm'
    obtain ⟨hclear, hword⟩ := hm'
    simp [habsent m (by simp at hm; omega) (by simp at hm; omega) hclear] at hword
  have hpar : parcelOf i = ⟨templateWord e slot, 0⟩ := by
    rw [parcelOf, hword, encodeParcel_snd i hs (by omega)]
  simp only [templateWord] at *
  unfold Core.templateOf
  rw [if_neg (Nat.not_le.mpr hin), hentry]
  simp only [he, hhdr, h7, hslots, hwords, hcount, hpar, hbit 0 (by decide), hbit 7 (by decide)]
  simp [show ¬0 = slot by omega, show ¬7 = slot by omega]

theorem out_repeated {s u : State} {b : Decoded} {hdr : W32} {nxt left : Nat} (h : s = u.repeated b hdr nxt left) (hbad : u.bad = none) :
    s.out = .next (u.repeated b hdr nxt left) := by
  rw [h]
  exact out_next hbad

theorem exec_tcall (index : BitVec 9) (rc : BitVec 6) (s : State) :
    exec (.tcall index rc) s = (s.issue ((s.core (coreOf s.cur.cx)).templateOf s.here index rc)).out := rfl

/-- The state in which a bundle that no guard governs issues its first repetition. -/
def State.firstRep (s : State) (units left : Nat) : State :=
  { s with cur := { cx := s.cur.cx, pc := s.here.pc, nxt := s.here.pc + units, off := (s.here.regs.get 0).getLsbD 0 == false
                    slot := 0, rep := 0, left := left } }

theorem inRep_unguarded {s : State} {b : Bundle} (hmid : s.here.mid = false) (h : b.hdr.extractLsb' 16 12 = 0) :
    s.inRep b = s.firstRep b.units b.rc := by
  rw [State.inRep, curOf_unguarded hmid h]
  rfl

/-- A bundle of one streaming op that no guard governs, and that the decoder passes, begins at a cursor of zero and goes on. -/
theorem issue_unguarded_stream {s : State} {b : Bundle} {slot : Nat} {i : Instr} (hrun : s.issues b.hdr) (hcond : s.conditions s.cur.cx b (slotOps false [(slot, i)]) = [])
    (hb : b.own = [(slot, parcelOf i)]) (hwf : i.wf = true) (hs : slot ∈ i.slots) (h3 : 3 ≤ slot) (hn : isNop i = false)
    (hheld : streamHeld slot i s = false) (hpois : firstPoisoned s.here (srcSpecs i) = none) :
    s.issue b =
      (((s.firstRep b.units b.rc).updCtx s.cur.cx (Ctx.begun slot)).issueAlone slot i).repeated
        ⟨b.instr, b.entry⟩ b.hdr (s.here.pc + b.units) b.rc := by
  obtain ⟨hrun, hst, hmid, hfield⟩ := hrun
  have hl : b.slots s.here = slotOps false [(slot, i)] := slots_of_own hb (placed_one hwf hs) (.inr (by simp; omega)) (by simp [hst])
  rw [issue_present_stream hrun (decodeTrap_of_nil (hl ▸ hcond)) hb (by simp [hst]) hwf hs h3 hn (.inr ⟨hheld, hpois⟩), inRep_unguarded hmid hfield]
  rfl

/-- A call outside the context's window traps (R50). -/
theorem exec_tcall_outside {s : State} {index : BitVec 9} {rc : BitVec 6} {hdr : W32} (hrun : s.issues hdr) (hout : s.here.tmplEntries ≤ index.toNat)
    (hroom : pcIdx s.here.pc + 1 ≤ 16384) :
    exec (.tcall index rc) s =
      .next ((s.firstRep 1 rc.toNat).takePrecise { cause := 0x04, slot := 0, detail := 1, info1 := index.setWidth 64 }) := by
  obtain ⟨⟨hmay, hsw, hbad, hg, -⟩, hst, hmid, -⟩ := hrun
  have hb := templateOf_outside (k := s.core (coreOf s.cur.cx)) hout rc
  rw [exec_tcall, hb]
  generalize hb' : ({ instr := .tcall index rc, hdr := 0, rc := rc.toNat, units := 1, index := some index.toNat, outside := true } : Bundle) = b
  have hsound : b.Sound s.here.pc := by
    subst hb'
    exact ⟨rfl, rfl, rfl, hroom⟩
  have hl : b.slots s.here = slotOps false [] := slots_of_own (by rw [← hb']; rfl) placed_nil (by simp) (by simp [hst])
  have hcond := conditions_slotOps (sticky := false) hg hsound (legal_nil s s.cur.cx)
  have hone : s.conditions s.cur.cx b (slotOps false []) = [whole 4 0x04 (BitVec.ofNat 64 index.toNat)] := hcond.trans (by simp [← hb'])
  rw [issue_trap hmay hsw hg (decodeTrap_of_single hmid (hl ▸ hone)), takePrecise_out (s := s.inRep b) hbad,
    inRep_unguarded hmid (by simp [← hb']), ← hb']
  simp only [whole, BitVec.ofNat_toNat]

/-- A bundle without ops, no guard and nothing sticky is counted and goes on. -/
theorem exec_fullBundle_nil {s : State} {hdr : W32} (hrun : s.issues hdr) (hlow : hdr.extractLsb' 0 8 = 0) (hroom : pcIdx s.here.pc + 2 ≤ 16384) :
    exec (.fullBundle hdr []) s =
      .next (((s.firstRep 2 (hdr.extractLsb' 8 7).toNat).updCtx s.cur.cx Ctx.nextOrd).repeated ⟨.fullBundle hdr [], 0⟩ hdr (s.here.pc + 2)
        (hdr.extractLsb' 8 7).toNat) := by
  obtain ⟨hrun, hst, hmid, hfield⟩ := hrun
  have hcond := conditions_fullBundleOf hrun.2.2.2.1 (names_nil hlow) placed_nil hroom (legal_nil s s.cur.cx)
  have hl := slots_fullBundleOf (c := s.here) (names_nil hlow) placed_nil (by simp) (by simp [hst])
  rw [if_neg (by simp [hfield]), ← hl] at hcond
  have hb := fullBundleOf_nil hlow
  have hissue := issue_idle (b := fullBundleOf hdr []) hrun (decodeTrap_of_nil hcond) hl List.Pairwise.nil (by simp) (by simp)
  rw [inRep_unguarded (b := fullBundleOf hdr []) hmid hfield, hb] at hissue
  rw [exec_fullBundle, hb]
  exact out_repeated hissue hrun.2.2.1

end Sys2Proof.Machine

namespace Sys2Proof.Machine

/-! ## S0 ops in a bundle (R34, R78–R82) -/

theorem stopCtx_free {s : State} {cx k : Nat} (h : (s.ctx cx).phase = .free) : ((s.stopCtx k).ctx cx).phase = .free := by
  change ((s.updCtx k Ctx.stopNow).ctx cx).phase = .free
  rcases eq_or_ne cx k with rfl | hne
  · rw [State.ctx_updCtx]
    rfl
  · rwa [State.ctx_updCtx_ne _ hne]

theorem foldl_stopCtx_free {l : List Nat} {s : State} {cx : Nat} (h : (s.ctx cx).phase = .free) :
    ((l.foldl State.stopCtx s).ctx cx).phase = .free := by
  induction l generalizing s with
  | nil => exact h
  | cons k ks ih => exact ih (stopCtx_free h)

theorem failLaunch_free {s : State} {l : Option Nat} {status cx : Nat} (h : (s.ctx cx).phase = .free) :
    ((s.failLaunch l status).ctx cx).phase = .free := by
  cases l with
  | none => exact h
  | some k => exact foldl_stopCtx_free h

theorem failLaunch_cur (s : State) (l : Option Nat) (status : Nat) : (s.failLaunch l status).cur = s.cur := by
  cases l with
  | none => rfl
  | some k => exact foldl_keeps (f := State.stopCtx) (p := State.cur) (fun _ _ => rfl) _ _

/-- A precise trap is seen: it stops the context, or takes it from program level to system level (R75, R76). -/
theorem takePrecise_seen (s : State) (t : Trap) :
    (s.takePrecise t).here.phase = .free ∨ s.here.sys = false ∧ (s.takePrecise t).here.sys = true := by
  unfold State.takePrecise State.takeTrap
  dsimp only
  split
  next =>
    refine .inl ?_
    rw [State.here, failLaunch_cur]
    refine failLaunch_free ?_
    change ((s.updCtx s.cur.cx Ctx.stopNow).ctx s.cur.cx).phase = .free
    rw [State.ctx_updCtx]
    rfl
  next h =>
    simp only [Ctx.doubleTraps, Bool.not_eq_true, Bool.or_eq_false_iff] at h
    refine .inr ⟨h.1, ?_⟩
    exact congrArg Ctx.sys (State.ctx_updCtx _ s.cur.cx _)

theorem of_out_eq_next {s t : State} (h : s.out = .next t) : t = s ∧ s.bad = none := by
  unfold State.out at h
  split at h
  next hbad =>
    cases h
    exact ⟨rfl, hbad⟩
  next => cases h

/-- The state again, the context at hand written back as it is. -/
def State.restated (s : State) : State := s.updCtx s.cur.cx fun c => c

theorem restated_updCtx (s : State) (f : Ctx → Ctx) : s.restated.updCtx s.cur.cx f = s.updCtx s.cur.cx f := updCtx_updCtx s s.cur.cx _ f

theorem updCtx_restated (s : State) (f : Ctx → Ctx) : (s.updCtx s.cur.cx f).restated = s.updCtx s.cur.cx f := updCtx_updCtx s s.cur.cx f _

theorem restated_ctx (s : State) : s.restated.ctx s.cur.cx = s.here := State.ctx_updCtx _ _ _

theorem specVal_restated (s : State) (sp : Spec) : specVal s.restated s.cur.cx sp = specVal s s.cur.cx sp := by
  unfold specVal
  rw [restated_ctx]
  rfl

theorem ewgrant_restated (s : State) : ewgrant s.restated s.cur.cx = ewgrant s s.cur.cx := by
  unfold ewgrant
  rw [restated_ctx]
  rfl

theorem wdogOf_restated (s : State) : wdogOf s.restated s.cur.cx = wdogOf s s.cur.cx := by
  unfold wdogOf
  rw [restated_ctx]
  rfl

theorem sysRead_restated (s : State) (n : BitVec 12) : sysRead s.restated s.cur.cx n = sysRead s s.cur.cx n := by
  have hcore : s.restated.core (coreOf s.cur.cx) = s.core (coreOf s.cur.cx) := rfl
  have hdie : s.restated.die (dieOf s.cur.cx) = s.die (dieOf s.cur.cx) := rfl
  have hmt : s.restated.mt (dieOf s.cur.cx) = s.mt (dieOf s.cur.cx) := rfl
  unfold sysRead
  simp only [restated_ctx, specVal_restated, ewgrant_restated, wdogOf_restated, hcore, hdie, hmt]

end Sys2Proof.Machine

namespace Sys2Proof.Machine

/-- The S0 ops that act at issue and transfer nothing, but for `MTS`, `FENCEI`, `BKPT` and those that end a quantum or a program. -/
def actsAtIssue : Instr → Bool
  | .waitf .. => true
  | .peekf .. => true
  | .setf .. => true
  | .clrf .. => true
  | .mfs .. => true
  | .await .. => true
  | .twait .. => true
  | .pwrreq .. => true
  | _ => false

/-- The transfers of R78 and R79. -/
def transfers : Instr → Bool
  | .br .. => true
  | .call .. => true
  | .jmp .. => true
  | .ret .. => true
  | .brx .. => true
  | .loop .. => true
  | _ => false

/-- An S0 op's effect at issue leaves the repetition at hand, the cores and the context's guard, and is the same on the state restated. -/
structure State.ActsOn (op : State → State → Except Trap State) (r u : State) : Prop where
  restated : op r.restated r.restated = .ok u.restated
  cur : u.cur = r.cur
  cores : u.cores = r.cores
  guard : u.here.guard = r.here.guard

theorem actsOn_of_check {r u : State} {op : State → State → Except Trap State} {p : State → Bool} {t : State → Trap}
    (hop : ∀ r, op r r = if p r then .ok r else .error (t r)) (hp : p r.restated = p r) (h : op r r = .ok u) : State.ActsOn op r u := by
  rw [hop] at h
  split at h
  next hpr =>
    cases h
    exact ⟨by rw [hop, hp, if_pos hpr], rfl, rfl, rfl⟩
  next => cases h

theorem actsOn_of_update {r u : State} {op : State → State → Except Trap State} {p : State → Bool} {t : State → Trap} {f : State → Ctx → Ctx}
    (hop : ∀ r, op r r = if p r then .ok (r.updCtx r.cur.cx (f r)) else .error (t r)) (hp : p r.restated = p r) (hf : f r.restated = f r)
    (hg : ∀ c, (f r c).guard = c.guard) (h : op r r = .ok u) : State.ActsOn op r u := by
  rw [hop] at h
  split at h
  next hpr =>
    cases h
    refine ⟨?_, rfl, rfl, ?_⟩
    · rw [hop, hp, if_pos hpr, hf, updCtx_restated]
      exact congrArg Except.ok (restated_updCtx r (f r))
    · rw [updCtx_here, hg]
  next => cases h

theorem waitTrap_restated (mask : BitVec 16) (r : State) : waitTrap mask r.restated = waitTrap mask r := by
  have hctx : r.restated.ctx r.restated.cur.cx = r.ctx r.cur.cx := restated_ctx r
  simp only [waitTrap, hctx]

theorem loopOp_actsOn {a : Spec} {len : BitVec 12} {r u : State} (h : loopOp a len r r = .ok u) : State.ActsOn (loopOp a len) r u := by
  have hval : specVal r.restated r.restated.cur.cx a = specVal r r.cur.cx a := specVal_restated r a
  have hctx : r.restated.ctx r.restated.cur.cx = r.ctx r.cur.cx := restated_ctx r
  have hnxt : r.restated.cur.nxt = r.cur.nxt := rfl
  unfold loopOp at h
  dsimp only at h
  split at h
  next => cases h
  next hroom =>
    split at h
    next => cases h
    next hcount =>
      cases h
      refine ⟨?_, rfl, rfl, rfl⟩
      unfold loopOp
      simp only [hval, hctx, hnxt, hroom, hcount, if_false]
      rfl

theorem pwrreqOp_actsOn {a : Spec} {r u : State} (h : pwrreqOp a r r = .ok u) : State.ActsOn (pwrreqOp a) r u := by
  have hval : specVal r.restated r.restated.cur.cx a = specVal r r.cur.cx a := specVal_restated r a
  have hctx : r.restated.ctx r.restated.cur.cx = r.ctx r.cur.cx := restated_ctx r
  have hstep : ∀ cl v, r.restated.requestStep cl v = (r.requestStep cl v).restated ∧ (r.requestStep cl v).cur = r.cur ∧
      (r.requestStep cl v).cores = r.cores ∧ (r.requestStep cl v).ctxs = r.ctxs := by
    intro cl v
    unfold State.requestStep
    have hmgmt : (r.restated.cluster cl).mgmtAt = (r.cluster cl).mgmtAt ∧ r.restated.cycleOf cl = r.cycleOf cl := ⟨rfl, rfl⟩
    rw [hmgmt.1, hmgmt.2]
    split <;> exact ⟨rfl, rfl, rfl, rfl⟩
  unfold pwrreqOp at h
  dsimp only at h
  split at h
  next => cases h
  next hsys =>
    split at h
    next => cases h
    next hrange =>
      cases h
      obtain ⟨hre, hcur, hcores, hctxs⟩ := hstep (clusterOf r.cur.cx) ((specVal r r.cur.cx a).setWidth 5)
      refine ⟨?_, hcur, hcores, ?_⟩
      · unfold pwrreqOp
        simp only [hval, hctx, hsys, hrange, if_false]
        exact congrArg Except.ok hre
      · simp only [State.here, State.ctx, hcur, hctxs]

/-- What the S0 ops of a bundle do at issue. -/
theorem s0Effect_actsOn {i : Instr} {r u : State} (hi : (actsAtIssue i || transfers i) = true) (h : s0Effect i r r = .ok u) :
    State.ActsOn (s0Effect i) r u := by
  have hval : ∀ a, specVal r.restated r.restated.cur.cx a = specVal r r.cur.cx a := specVal_restated r
  have hctx : r.restated.ctx r.restated.cur.cx = r.ctx r.cur.cx := restated_ctx r
  cases i with
  | br g off => exact actsOn_of_check (p := fun r => (relTarget r.cur.pc off).isSome) (fun _ => rfl) rfl h
  | jmp g a => exact actsOn_of_check (p := fun r => (absTarget r.cur.pc (specVal r r.cur.cx a)).isSome) (fun _ => rfl) (by rw [hval]; rfl) h
  | ret g => exact actsOn_of_check (p := fun r => (absTarget r.cur.pc (specVal r r.cur.cx 47)).isSome) (fun _ => rfl) (by rw [hval]; rfl) h
  | brx g u => exact actsOn_of_check (p := fun _ => true) (t := fun _ => trap0 0) (fun _ => rfl) rfl h
  | await g n => exact actsOn_of_check (p := fun _ => true) (t := fun _ => trap0 0) (fun _ => rfl) rfl h
  | twait g a => exact actsOn_of_check (p := fun _ => true) (t := fun _ => trap0 0) (fun _ => rfl) rfl h
  | setf g mask => exact actsOn_of_update (p := fun _ => true) (t := fun _ => trap0 0) (f := fun _ c => c.setFlags mask) (fun _ => rfl) rfl rfl (fun _ => rfl) h
  | clrf g mask => exact actsOn_of_update (p := fun _ => true) (t := fun _ => trap0 0) (f := fun _ c => c.clrFlags mask) (fun _ => rfl) rfl rfl (fun _ => rfl) h
  | call g off =>
    exact actsOn_of_update (p := fun r => (relTarget r.cur.pc off).isSome) (f := fun r c => c.setRegs (c.regs.put 31 (linkOf r))) (fun _ => rfl) rfl rfl
      (fun c => Ctx.setRegs_guard c _) h
  | loop g a len => exact loopOp_actsOn h
  | waitf g mask =>
    refine actsOn_of_update (p := fun r => (waitTrap mask r).isNone) (t := fun r => (waitTrap mask r).getD (trap0 0))
      (f := fun _ c => (c.clrFlags mask).coverFlags mask) (fun r => ?_) (by rw [waitTrap_restated]) rfl (fun _ => rfl) h
    change waitfOp mask r r = _
    unfold waitfOp
    cases waitTrap mask r <;> rfl
  | peekf g mask =>
    refine actsOn_of_update (p := fun r => (waitTrap mask r).isNone) (t := fun r => (waitTrap mask r).getD (trap0 0))
      (f := fun _ c => c.coverFlags mask) (fun r => ?_) (by rw [waitTrap_restated]) rfl (fun _ => rfl) h
    change peekfOp mask r r = _
    unfold peekfOp
    cases waitTrap mask r <;> rfl
  | mfs g sr d =>
    refine actsOn_of_update (p := fun r => !(sysOnly sr && !(r.ctx r.cur.cx).sys)) (t := fun _ => trap0 trapPrivilege)
      (f := fun r c => c.writeDest d (sysRead r r.cur.cx sr)) (fun r => ?_) (by rw [hctx]) ?_ (fun c => Ctx.writeDest_guard c d _) h
    · change mfsOp sr d r r = _
      unfold mfsOp
      cases sysOnly sr && !(r.ctx r.cur.cx).sys <;> rfl
    · exact funext fun c => congrArg (c.writeDest d) (sysRead_restated r sr)
  | pwrreq g a => exact pwrreqOp_actsOn h
  | _ => cases hi

end Sys2Proof.Machine

namespace Sys2Proof.Machine

theorem opHeld_operands {i : Instr} {s : State} (h : opHeld i s = false) :
    (srcSpecs i).any (specAbsent s.here) = false ∧ (nWrite i).any (specAbsent s.here) = false := by
  simp only [opHeld, Bool.or_eq_false_iff] at h
  exact h.1

/-- An S0 op that executes is not held. -/
theorem unheld_of_runs0 {s : State} {g : Bool} {i : Instr} (hi : (actsAtIssue i || transfers i) = true) (h : s.runs0 g i) : s.Unheld (0, i) := by
  obtain ⟨⟨hheld, -, -⟩, hwaits, -⟩ := h
  obtain ⟨hsrc, hdst⟩ := opHeld_operands hheld
  refine ⟨hsrc, fun _ => hdst, fun h3 => absurd h3 (Nat.not_succ_le_zero 2), fun _ => hwaits, ?_, ?_⟩
  · rintro g rfl
    cases hi
  · have hdiv : (!(actsAtIssue i || transfers i) || !isDivide i) = true := by cases i <;> rfl
    simpa [hi] using hdiv

/-- What a bundle's other slots hold beside S0: streaming ops that are turned off or that nothing holds. -/
def State.StreamsBeside (s : State) (off : Bool) (rest : List (Nat × Instr)) : Prop :=
  ∀ p ∈ rest, 3 ≤ p.1 ∧ p.1 ∈ p.2.slots ∧ isNop p.2 = false ∧ s.StreamsOn off p.1 p.2

theorem capturePoison_eq_none {c : Ctx} {l : List (Nat × Instr)} (h : ∀ p ∈ l, firstPoisoned c (srcSpecs p.2) = none) :
    capturePoison c l = none := by
  simp only [capturePoison, List.findSome?_eq_none_iff, Option.map_eq_none_iff]
  exact h

theorem liveOps_ctl {off : Bool} {i : Instr} {rest : List (Nat × Instr)} (hoff : (off && gBitOf i) = false) (hn : isNop i = false) :
    liveOps off (slotOps false ((0, i) :: rest)) = (0, i) :: liveOps off (slotOps false rest) := by
  have hon : (!(off && gBitOf i) && !isNop i) = true := by
    rw [hoff, hn]
    rfl
  rw [liveOps_slotOps, liveOps_slotOps]
  exact List.filter_cons_of_pos hon

theorem liveS0_ctl {off : Bool} {i : Instr} {rest : List (Nat × Instr)} (hoff : (off && gBitOf i) = false) (hn : isNop i = false) :
    liveS0 off (slotOps false ((0, i) :: rest)) = some i := by
  rw [liveS0, liveOps_ctl hoff hn, List.find?_cons_of_pos (by rfl)]
  rfl

/-- A bundle whose S0 op executes, alone or beside streaming ops: S0's effect at issue, then the streaming slots, then what follows. -/
theorem issue_ctl {s s1 : State} {b : Bundle} {i : Instr} {rest : List (Nat × Instr)} (hrun : s.mayRun b.hdr) (hd : s.decodeTrap s.cur.cx b = none)
    (hl : b.slots s.here = slotOps false ((0, i) :: rest)) (hsort : (((0, i) :: rest).map Prod.fst).Pairwise (· < ·))
    (hi : (actsAtIssue i || transfers i) = true) (hn : isNop i = false) (hruns : (s.inRep b).runs0 (gBitOf i) i)
    (hrest : s.StreamsBeside (s.inRep b).cur.off rest)
    (h1 : s0Effect i ((s.inRep b).zeroed b (slotOps false ((0, i) :: rest))) ((s.inRep b).zeroed b (slotOps false ((0, i) :: rest))) = .ok s1)
    (hcur : s1.cur = (s.inRep b).cur) (hg1 : (s1.ctx s.cur.cx).guard = none) :
    s.issue b = State.finishRep (s.inRep b) (s1.updCtx s.cur.cx fun c =>
      (((slotOps false rest).filter fun x : SlotOp => 3 ≤ x.slot).foldl
        (slotCtx ((s.inRep b).zeroed b (slotOps false ((0, i) :: rest))) (s.inRep b).cur.off) c).inOrder) b (slotOps false ((0, i) :: rest)) := by
  have hoff : ((s.inRep b).cur.off && gBitOf i) = false := by rw [Bool.and_comm, hruns.1.2.2]
  have hlive := liveOps_ctl (rest := rest) hoff hn
  have hS0 := liveS0_ctl (rest := rest) hoff hn
  have hbeside : ∀ p ∈ liveOps (s.inRep b).cur.off (slotOps false rest), p ∈ rest ∧ ¬((s.inRep b).cur.off = true ∧ gBitOf p.2 = true) := by
    rw [liveOps_slotOps]
    intro p hp
    obtain ⟨hp, hon⟩ := List.mem_filter.mp hp
    exact ⟨hp, fun ⟨hoff, hgp⟩ => by simp [hoff, hgp] at hon⟩
  have hh : s.holds (s.curOf s.cur.cx b) b (slotOps false ((0, i) :: rest)) = false := by
    refine holds_slotOps_eq_false rfl hsort hrun.2.2.2.2.2.1 hrun.2.2.2.2.1 (dividing_of_mayIssue hrun.1) ?_
    intro p hp _
    rcases List.mem_cons.mp hp with rfl | hp
    · exact .inr (unheld_of_runs0 (s := s.inRep b) hi hruns)
    · obtain ⟨h3, hs, -, hon⟩ := hrest p hp
      exact hon.imp (fun ⟨hoff, hgp⟩ => ⟨Bool.and_eq_true_iff.mpr ⟨hoff, hgp⟩, by omega, by omega⟩) fun ⟨hheld, _⟩ =>
        unheld_of_streamHeld (s := s.inRep b) hs h3 hheld
  have hbkpt : bkptLive (liveOps (s.inRep b).cur.off (slotOps false ((0, i) :: rest))) = false := by
    rw [hlive, bkptLive, List.any_cons, Bool.or_eq_false_iff]
    refine ⟨?_, bkptLive_of_nonzero fun p hp => ⟨?_, ?_⟩⟩
    · cases i with
      | bkpt => cases hi
      | _ => rfl
    · exact Nat.ne_of_gt (Nat.lt_of_lt_of_le (by decide) (hrest p (hbeside p hp).1).1)
    · exact (hrest p (hbeside p hp).1).2.1
  have h2 : scalarSlots ((s.inRep b).zeroed b (slotOps false ((0, i) :: rest))) (scalarOps (slotOps false ((0, i) :: rest))) s1 = .ok s1 := by
    rw [scalarOps_of_stream]
    · rfl
    · intro p hp
      rcases List.mem_cons.mp hp with rfl | hp
      · exact ⟨by simp, by simp⟩
      · have := (hrest p hp).1
        omega
  have h3 : capturePoison s.here ((liveOps (s.inRep b).cur.off (slotOps false ((0, i) :: rest))).filter fun p => 3 ≤ p.1) = none := by
    refine capturePoison_eq_none fun p hp => ?_
    rw [hlive] at hp
    obtain ⟨hp, h3⟩ := List.mem_filter.mp hp
    rcases List.mem_cons.mp hp with rfl | hp
    · simp at h3
    · exact (((hrest p (hbeside p hp).1).2.2.2).resolve_left (hbeside p hp).2).2
  have hdiv : (liveOps (s.inRep b).cur.off (slotOps false ((0, i) :: rest))).any (fun p => isDivide p.2) = false := by
    rw [hlive, List.any_cons, Bool.or_eq_false_iff, List.any_eq_false]
    refine ⟨(unheld_of_runs0 hi hruns).divides, fun p hp => ?_⟩
    obtain ⟨h3, hs, -⟩ := hrest p (hbeside p hp).1
    simp [isDivide_of_stream hs h3]
  have hissue := issue_of_effects hrun hd hl hh hbkpt (by rw [hS0]; exact hruns.1.2.1) (by rw [hS0]; exact h1) h2 hg1 h3 hdiv
  have hkeep : ({ s1 with cur := (s.inRep b).cur } : State) = s1 := by rw [← hcur]
  rw [hissue, hkeep]
  rfl

end Sys2Proof.Machine

namespace Sys2Proof.Machine

theorem zeroed_of_precise {s : State} {b : Bundle} {l : List SlotOp} (h : ∀ p ∈ opsOf l, p.1 < 3) : s.zeroed b l = s.restated :=
  congrArg (s.updCtx s.cur.cx) (funext fun c => by rw [zeroCursors_of_precise h])

/-- What an S0 op that executes alone answers, unless it traps. -/
theorem effect_of_exec {r t : State} {i : Instr} {post : State → State → State} (hexec : exec i r = aloneCtl (gBitOf i) i (s0Effect i) post r)
    (hruns : r.runs0 (gBitOf i) i) (ht : exec i r = .next t) (hsys : t.here.sys = r.here.sys) (hphase : t.here.phase = .running) :
    ∃ u, s0Effect i r r = .ok u ∧ t = post r u ∧ (post r u).bad = none := by
  rw [hexec] at ht
  cases h : s0Effect i r r with
  | ok u =>
    rw [aloneCtl_effect hruns h] at ht
    exact ⟨u, rfl, of_out_eq_next ht⟩
  | error tr =>
    rw [aloneCtl_traps hruns h] at ht
    cases ht
    rcases takePrecise_seen r tr with hfree | ⟨hprog, hsys'⟩
    · cases hfree.symm.trans hphase
    · cases (hprog.symm.trans hsys.symm).trans hsys'

section
variable {s t : State} {b : Bundle} {i : Instr} {post : State → State → State} (hrun : s.mayRun b.hdr) (hd : s.decodeTrap s.cur.cx b = none)
  (hl : b.slots s.here = slotOps false [(0, i)]) (hn : isNop i = false) (hi : (actsAtIssue i || transfers i) = true)
  (hruns : (s.inRep b).runs0 (gBitOf i) i)
include hrun hd hl hn hi hruns

/-- A bundle of one S0 op that executes. -/
theorem issue_one_ctl {u : State} (h : s0Effect i (s.inRep b) (s.inRep b) = .ok u) :
    s.issue b = State.finishRep (s.inRep b) (u.updCtx u.cur.cx Ctx.inOrder) b (slotOps false [(0, i)]) ∧ u.cur = (s.inRep b).cur ∧
      u.cores = (s.inRep b).cores := by
  obtain ⟨hre, hcur, hcores, hguard⟩ := s0Effect_actsOn hi h
  have hcx : u.cur.cx = s.cur.cx := by rw [hcur]; rfl
  have hz : (s.inRep b).zeroed b (slotOps false [(0, i)]) = (s.inRep b).restated := zeroed_of_precise (by simp [opsOf_slotOps])
  have hg1 : (u.restated.ctx s.cur.cx).guard = none := by
    rw [← hcx, restated_ctx, hguard]
    exact hrun.2.2.2.1
  refine ⟨?_, hcur, hcores⟩
  have hissue := issue_ctl (s1 := u.restated) (rest := []) hrun hd hl (List.pairwise_singleton _ _) hi hn hruns (by simp [State.StreamsBeside])
    (by rw [hz]; exact hre) hcur hg1
  rw [hissue, ← hcx]
  exact congrArg (fun v => State.finishRep (s.inRep b) v b _) (restated_updCtx u Ctx.inOrder)

end

/-- The transfer of an S0 op, in its context (R78, R79): operands are those of `r`. -/
def transferCtx (i : Instr) (r : State) (c : Ctx) : Ctx :=
  match i with
  | .br _ off => match relTarget r.cur.pc off with
    | some t => c.goto t
    | none => c
  | .call _ off => match relTarget r.cur.pc off with
    | some t => { c with pc := t, mid := false, rcLeft := 0 }
    | none => c
  | .jmp _ a => match absTarget r.cur.pc (specVal r r.cur.cx a) with
    | some t => c.goto t
    | none => c
  | .ret _ => match absTarget r.cur.pc (specVal r r.cur.cx 47) with
    | some t => c.goto t
    | none => c
  | .loop _ a len =>
    if specVal r r.cur.cx a = 0 then c.fallThrough (r.cur.nxt + len.toNat)
    else
      { c with
        loops := { start := r.cur.nxt, stop := r.cur.nxt + len.toNat, bank := pcBank r.cur.pc
                   count := (specVal r r.cur.cx a).toNat } :: c.loops
        pc := r.cur.nxt, mid := false, rcLeft := 0 }
  | .brx _ u => { c with pc := mkPc (1 - pcBank r.cur.pc) u.toNat, loops := [], mid := false, rcLeft := 0 }
  | _ => c

theorem s0Post_transfer {i : Instr} (hi : transfers i = true) {r u : State} (hcur : u.cur = r.cur) :
    s0Post i r u = some (u.updCtx u.cur.cx (transferCtx i r)) := by
  cases i with
  | br g off =>
    simp only [s0Post, brPost, hcur]
    rfl
  | call g off =>
    simp only [s0Post, callPost, hcur]
    rfl
  | jmp g a =>
    simp only [s0Post, jmpPost, hcur]
    rfl
  | ret g =>
    simp only [s0Post, retPost, hcur]
    rfl
  | loop g a len =>
    simp only [s0Post, loopPost, hcur]
    rfl
  | brx g u =>
    simp only [s0Post, brxPost, hcur]
    rfl
  | _ => cases hi

/-- A context with its place, its weights and S0's skip as `d` has them. -/
def Ctx.tallied (d c : Ctx) : Ctx := { c with energy := d.energy, rcount := d.rcount, ord := d.ord, skipS0 := d.skipS0 }

/-- A transfer neither reads nor changes what a repetition counts. -/
theorem transferCtx_tallied (i : Instr) (r : State) (d c : Ctx) : transferCtx i r (d.tallied c) = d.tallied (transferCtx i r c) := by
  cases i with
  | br g off => simp only [transferCtx]; split <;> rfl
  | call g off => simp only [transferCtx]; split <;> rfl
  | jmp g a => simp only [transferCtx]; split <;> rfl
  | ret g => simp only [transferCtx]; split <;> rfl
  | loop g a len => simp only [transferCtx]; split <;> rfl
  | _ => rfl

/-- What a repetition counts in its context (R45, R391). -/
def Ctx.countedIn (w : Nat) (c : Ctx) : Ctx := { c.weighed w with skipS0 := false }

theorem countedIn_eq_tallied (w : Nat) (c : Ctx) : c.nextOrd.countedIn w = (c.nextOrd.countedIn w).tallied c := by
  simp only [Ctx.tallied, Ctx.countedIn, Ctx.weighed, Ctx.nextOrd]

theorem tallied_countedIn (w : Nat) (c d : Ctx) : (c.nextOrd.countedIn w).tallied d = (c.tallied d).nextOrd.countedIn w := by
  simp only [Ctx.tallied, Ctx.countedIn, Ctx.weighed, Ctx.nextOrd]

theorem transferCtx_counted (i : Instr) (r : State) (w : Nat) (c : Ctx) :
    transferCtx i r (c.nextOrd.countedIn w) = (transferCtx i r c).nextOrd.countedIn w := by
  have hkeeps : transferCtx i r c = c.tallied (transferCtx i r c) := transferCtx_tallied i r c c
  rw [countedIn_eq_tallied, transferCtx_tallied, tallied_countedIn, ← hkeeps]

/-- The quantum of a core's running context, begun now unless it has begun (R65). -/
def State.begunQuantum (u : State) (cl : Nat) (y : Core) : Core := if y.hasRun then y else { y with hasRun := true, quantum := u.millis cl }

theorem counted_updCtx (u : State) (f : Ctx → Ctx) (hdr : W32) : (u.updCtx u.cur.cx f).counted hdr =
    (u.updCtx u.cur.cx fun c => (f c).countedIn ((u.core (coreOf u.cur.cx)).weight hdr)).updCore (coreOf u.cur.cx)
      (u.begunQuantum (clusterOf u.cur.cx)) :=
  congrArg (State.updCore · _ (u.begunQuantum (clusterOf u.cur.cx))) (updCtx_updCtx u u.cur.cx f _)

theorem updCore_updCtx (s : State) (k cx : Nat) (f : Core → Core) (g : Ctx → Ctx) :
    (s.updCore k f).updCtx cx g = (s.updCtx cx g).updCore k f := rfl

/-- A transfer is the same before a repetition is counted and after. -/
theorem counted_transfer (u : State) (f : Ctx → Ctx) (i : Instr) (r : State) (hdr : W32) :
    ((u.updCtx u.cur.cx fun c => (f c).nextOrd).counted hdr).updCtx u.cur.cx (transferCtx i r) =
      (u.updCtx u.cur.cx fun c => (transferCtx i r (f c)).nextOrd).counted hdr := by
  rw [counted_updCtx, counted_updCtx, updCore_updCtx, updCtx_updCtx]
  simp only [transferCtx_counted]

theorem backToRetiring_of_running {s : State} {cx : Nat} (h : (s.ctx cx).phase = .running) : s.backToRetiring cx = s := by
  rw [State.backToRetiring, h]
  rfl

theorem ctx_updCore (s : State) (k cx : Nat) (f : Core → Core) : (s.updCore k f).ctx cx = s.ctx cx := rfl

theorem ctx_counted (u : State) (f : Ctx → Ctx) (hdr : W32) :
    ((u.updCtx u.cur.cx f).counted hdr).ctx u.cur.cx = (f u.here).countedIn ((u.core (coreOf u.cur.cx)).weight hdr) := by
  rw [counted_updCtx, ctx_updCore, State.ctx_updCtx]

/-- After the last repetition of a bundle the transfer of its S0 op follows what is counted (R78, R79). -/
theorem finishRep_of_post {r s s' : State} {b : Bundle} {l : List SlotOp} (hleft : s.cur.left = 0)
    (hpost : (liveS0 s.cur.off l).bind (fun j => s0Post j r ((s.updCtx s.cur.cx (Ctx.weighed ((r.core (coreOf s.cur.cx)).weight b.hdr))).updCore
      (coreOf s.cur.cx) (s.begunQuantum (clusterOf s.cur.cx)))) = some s')
    (hrunning : (s'.ctx s.cur.cx).phase = .running) : State.finishRep r s b l = s' := by
  unfold State.finishRep
  dsimp only
  rw [if_neg (by simp [hleft])]
  split
  next heq =>
    rw [Option.some.inj (heq.symm.trans hpost)]
    exact backToRetiring_of_running hrunning
  next heq => cases hpost.symm.trans heq

theorem phase_countedIn (w : Nat) (c : Ctx) : (c.nextOrd.countedIn w).phase = c.phase := rfl

theorem finishRep_transfer {r u : State} {b : Bundle} {l : List SlotOp} {f : Ctx → Ctx} {i : Instr} (hcur : u.cur = r.cur)
    (hcores : u.cores = r.cores) (hleft : u.cur.left = 0) (hS0 : liveS0 u.cur.off l = some i) (hi : transfers i = true)
    (hphase : (transferCtx i r (f u.here)).phase = .running) :
    State.finishRep r (u.updCtx u.cur.cx fun c => (f c).inOrder) b l =
      (u.updCtx u.cur.cx fun c => (transferCtx i r (f c)).nextOrd).counted b.hdr := by
  have hw : (r.core (coreOf u.cur.cx)).weight b.hdr = (u.core (coreOf u.cur.cx)).weight b.hdr := by simp only [State.core, hcores]
  refine finishRep_of_post (s := u.updCtx u.cur.cx fun c => (f c).inOrder) hleft ?_ ?_
  · have hcount := counted_inOrder u f b.hdr
    rw [← hw] at hcount
    refine (congrArg (fun v => (liveS0 u.cur.off l).bind fun j => s0Post j r v) hcount).trans ?_
    rw [hS0]
    exact (s0Post_transfer (u := (u.updCtx u.cur.cx fun c => (f c).nextOrd).counted b.hdr) hi hcur).trans
      (congrArg some (counted_transfer u f i r b.hdr))
  · exact (congrArg Ctx.phase (ctx_counted u _ b.hdr)).trans ((phase_countedIn _ _).trans hphase)

end Sys2Proof.Machine

namespace Sys2Proof.Machine

theorem actsAtIssue_falls {i : Instr} (h : actsAtIssue i = true) (r t : State) :
    s0Post i r t = none ∧ (∀ g, i ≠ .yield g) ∧ ∀ g, i ≠ .exit g := by
  refine ⟨?_, ?_, ?_⟩
  · cases i with
    | waitf => rfl
    | peekf => rfl
    | setf => rfl
    | clrf => rfl
    | mfs => rfl
    | await => rfl
    | twait => rfl
    | pwrreq => rfl
    | _ => cases h
  · rintro g rfl
    cases h
  · rintro g rfl
    cases h

section
variable {s t : State} {b : Bundle} {i : Instr} {post : State → State → State} (hrun : s.mayRun b.hdr) (hd : s.decodeTrap s.cur.cx b = none)
  (hl : b.slots s.here = slotOps false [(0, i)]) (hn : isNop i = false) (hruns : (s.inRep b).runs0 (gBitOf i) i)
  (hexec : exec i (s.inRep b) = aloneCtl (gBitOf i) i (s0Effect i) post (s.inRep b)) (ht : exec i (s.inRep b) = .next t)
  (hsys : t.here.sys = s.here.sys) (hphase : t.here.phase = .running)
include hrun hd hl hn hruns hexec ht hsys hphase

/-- A bundle of one S0 op that transfers nothing does what the op does alone, and goes on. -/
theorem issue_acting (hi : actsAtIssue i = true) (hpost : ∀ r u, post r u = u) :
    s.issue b = (t.updCtx s.cur.cx Ctx.nextOrd).repeated ⟨b.instr, b.entry⟩ b.hdr (s.here.pc + b.units) (s.inRep b).cur.left := by
  obtain ⟨u, hu, rfl, -⟩ := effect_of_exec hexec hruns ht hsys hphase
  rw [hpost]
  obtain ⟨hissue, hcur, hcores⟩ := issue_one_ctl hrun hd hl hn (by rw [hi]; rfl) hruns hu
  have hw : ((s.inRep b).core (coreOf u.cur.cx)).weight b.hdr = (u.core (coreOf u.cur.cx)).weight b.hdr := by simp only [State.core, hcores]
  have hcx : s.cur.cx = u.cur.cx := by rw [hcur]; rfl
  have hoff : (u.cur.off && gBitOf i) = false := by rw [hcur, Bool.and_comm, hruns.1.2.2]
  rw [hissue, hcx]
  refine (finishRep_inOrder (u := u) (f := fun c => c) hw fun j hj => ?_).trans ?_
  · cases (liveS0_ctl (rest := []) hoff hn).symm.trans hj
    exact ⟨fun t => (actsAtIssue_falls hi _ t).1, (actsAtIssue_falls hi u u).2⟩
  · rw [hcur]
    rfl

/-- The last repetition of a bundle of one S0 op that transfers does what the op does alone. -/
theorem issue_transferring (hi : transfers i = true) (hleft : (s.inRep b).cur.left = 0) (hpost : ∀ r u, s0Post i r u = some (post r u)) :
    s.issue b = (t.updCtx s.cur.cx Ctx.nextOrd).counted b.hdr := by
  obtain ⟨u, hu, rfl, -⟩ := effect_of_exec hexec hruns ht hsys hphase
  obtain ⟨hissue, hcur, hcores⟩ := issue_one_ctl hrun hd hl hn (by rw [hi, Bool.or_true]) hruns hu
  have hcx : s.cur.cx = u.cur.cx := by rw [hcur]; rfl
  have hoff : (u.cur.off && gBitOf i) = false := by rw [hcur, Bool.and_comm, hruns.1.2.2]
  have hp : post (s.inRep b) u = u.updCtx u.cur.cx (transferCtx i (s.inRep b)) :=
    Option.some.inj ((hpost _ _).symm.trans (s0Post_transfer hi hcur))
  rw [hp] at hphase ⊢
  rw [hissue]
  refine (finishRep_transfer (f := fun c => c) hcur hcores (by rw [hcur]; exact hleft) (liveS0_ctl hoff hn) hi ?_).trans ?_
  · rwa [State.here, show (u.updCtx u.cur.cx (transferCtx i (s.inRep b))).cur = u.cur from rfl, State.ctx_updCtx] at hphase
  · rw [hcx, updCtx_updCtx]
end

end Sys2Proof.Machine

namespace Sys2Proof.Machine

/-! ## A transfer beside a streaming op -/

theorem decodeTrap_eq_none {s : State} {cx : Nat} {b : Bundle} (h : s.decodeTrap cx b = none) :
    (s.ctx cx).inBundle b = true ∨ s.conditions cx b (b.slots (s.ctx cx)) = [] := by
  unfold State.decodeTrap at h
  split at h
  next hin => exact .inl hin
  next => exact .inr (firstCondition_eq_none.mp (Option.map_eq_none_iff.mp h))

/-- A bundle that its words do not fill has a cause to trap (R53), as has a branch out of its bank (R17, R78). -/
theorem of_conditions_eq_nil {s : State} {cx : Nat} {b : Bundle} {l : List SlotOp} (h : s.conditions cx b l = []) :
    b.cut = false ∧ ∀ slot g off, (slot, .br g off) ∈ opsOf l → (relTarget (s.ctx cx).pc off).isSome = true := by
  simp only [State.conditions, List.append_eq_nil_iff] at h
  obtain ⟨⟨⟨⟨⟨⟨⟨⟨⟨⟨⟨⟨⟨-, -⟩, -⟩, -⟩, hwhole⟩, -⟩, -⟩, -⟩, -⟩, htarget⟩, -⟩, -⟩, -⟩, -⟩ := h
  refine ⟨?_, fun slot g off hmem => ?_⟩
  · by_contra hcut
    simp [hcut] at hwhole
  · simp only [List.map_eq_nil_iff, List.filter_eq_nil_iff] at htarget
    have := htarget (slot, .br g off) (List.mem_filter.mpr ⟨hmem, rfl⟩)
    simpa [Option.isSome_iff_ne_none] using this

theorem names_two {hdr : W32} {slot : Nat} {i j : Instr} (h : hdr.extractLsb' 0 8 = BitVec.ofNat 8 (2 ^ slot + 1)) (h1 : 1 ≤ slot) (hs : slot < 8) :
    Names hdr [(0, i), (slot, j)] := by
  have hp : ∀ n < 8, 1 ≤ n → ((List.range 8).filter fun k => (BitVec.ofNat 8 (2 ^ n + 1)).getLsbD k) = [0, n] := by decide
  have hw : ∀ n < 8, 1 ≤ n → bundleWords ((BitVec.ofNat 8 (2 ^ n + 1)).setWidth 32) = if n = 7 then 3 else 2 := by decide
  refine ⟨(present_of_low h).trans (hp slot hs h1), (bundleWords_of_low h).trans ((hw slot hs h1).trans ?_)⟩
  simp only [wordsOf, wordsIn, List.flatMap_cons, List.flatMap_nil]
  split <;> rfl

/-- Of two bundles of one header whose words are those of S0 and those of S0 and another slot the first does not fill the header; where the
decoder passes both, so it has decoded the first before, and finds nothing in the second. -/
theorem conditions_of_both {hdr : W32} {s : State} {i j : Instr} {slot : Nat} (hn : Names hdr [(0, i), (slot, j)])
    (h1 : s.decodeTrap s.cur.cx (fullBundleOf hdr [(encodeParcel i).1]) = none)
    (h2 : s.decodeTrap s.cur.cx (fullBundleOf hdr ([(encodeParcel i).1] ++ wordsIn slot j)) = none) :
    s.conditions s.cur.cx (fullBundleOf hdr ([(encodeParcel i).1] ++ wordsIn slot j))
      ((fullBundleOf hdr ([(encodeParcel i).1] ++ wordsIn slot j)).slots s.here) = [] := by
  have hpos : wordsIn slot j ≠ [] := by
    unfold wordsIn
    split <;> simp
  have hcut : (fullBundleOf hdr [(encodeParcel i).1]).cut = true := by
    have hlen := List.length_pos_iff.mpr hpos
    have : bundleWords hdr = 1 + (wordsIn slot j).length := by
      simp only [hn.2, wordsOf, List.flatMap_cons, List.flatMap_nil, List.append_nil, List.length_append]
      rfl
    simpa [fullBundleOf, this] using hlen
  have hin := (decodeTrap_eq_none h1).resolve_right fun h => absurd (hcut.symm.trans (of_conditions_eq_nil h).1) (by decide)
  refine (decodeTrap_eq_none h2).resolve_left fun hin' => hpos ?_
  simp only [Ctx.inBundle, Bool.and_eq_true, beq_iff_eq] at hin hin'
  have := hin.2.symm.trans hin'.2
  simpa [fullBundleOf] using this

theorem phase_of_mayIssue {s : State} {cx : Nat} (h : s.mayIssue cx = true) : (s.ctx cx).phase = .running := by
  simp only [State.mayIssue, Bool.and_eq_true] at h
  exact eq_of_beq h.1.1.1.1.1

theorem transferCtx_nextOrd (i : Instr) (r : State) (c : Ctx) : transferCtx i r c.nextOrd = (transferCtx i r c).nextOrd := by
  have hkeeps : transferCtx i r c = c.tallied (transferCtx i r c) := transferCtx_tallied i r c c
  have hc : c.nextOrd = c.nextOrd.tallied c := by simp only [Ctx.nextOrd, Ctx.tallied]
  have hd : ∀ d : Ctx, c.nextOrd.tallied d = (c.tallied d).nextOrd := fun d => by simp only [Ctx.nextOrd, Ctx.tallied]
  rw [hc, transferCtx_tallied, hd, ← hkeeps]

theorem here_zeroed (s : State) (b : Bundle) (l : List SlotOp) :
    (s.zeroed b l).here = { s.here with cursors := zeroCursors b s.cur.rep l s.here.cursors } := State.ctx_updCtx _ _ _

theorem finishRep_transfer_beside {r z : State} {b : Bundle} {i j : Instr} {slot : Nat} (hcur : z.cur = r.cur) (hcores : z.cores = r.cores)
    (hleft : r.cur.left = 0) (hoff : (r.cur.off && gBitOf i) = false) (hn : isNop i = false) (h3 : 3 ≤ slot) (hi : transfers i = true)
    (hphase : ∀ c, (transferCtx i r c).phase = c.phase) (hrunning : z.here.phase = .running) :
    State.finishRep r (z.updCtx z.cur.cx fun c =>
        (((slotOps false [(slot, j)]).filter fun x : SlotOp => 3 ≤ x.slot).foldl (slotCtx z z.cur.off) c).inOrder) b
        (slotOps false [(0, i), (slot, j)]) =
      ((z.issueAlone slot j).updCtx z.cur.cx (transferCtx i r)).counted b.hdr := by
  have hfilter : (slotOps false [(slot, j)]).filter (fun x : SlotOp => 3 ≤ x.slot) = [slotOp slot j false] := by
    simp [slotOps, slotOp, h3]
  rw [← hcur] at hleft hoff
  rw [hfilter, issueAlone_eq_nextOrd, updCtx_updCtx]
  simp only [transferCtx_nextOrd]
  refine finishRep_transfer (f := z.issueCtx z.cur.off false slot (parcelOf j) j) hcur hcores hleft (liveS0_ctl hoff hn) hi ?_
  rw [hphase, issueCtx_phase, hrunning]

/-- The last repetition of a bundle of a transfer that always acts and a streaming op: the transfer follows the streaming slot. -/
theorem issue_transfer_beside {s : State} {b : Bundle} {i j : Instr} {slot : Nat} (hrun : s.mayRun b.hdr) (hd : s.decodeTrap s.cur.cx b = none)
    (hl : b.slots s.here = slotOps false [(0, i), (slot, j)]) (hfills : b.FillsOnly (slotOps false [(0, i), (slot, j)]) slot)
    (hi : transfers i = true) (hn : isNop i = false) (hruns : (s.inRep b).runs0 (gBitOf i) i) (h3 : 3 ≤ slot) (hs : slot ∈ j.slots)
    (hnj : isNop j = false) (hon : s.StreamsOn (s.inRep b).cur.off slot j) (hleft : (s.inRep b).cur.left = 0)
    (h1 : ∀ z : State, z.cur = (s.inRep b).cur → s0Effect i z z = .ok z) (hphase : ∀ c, (transferCtx i (s.inRep b) c).phase = c.phase) :
    s.issue b = (((((s.inRep b).updCtx s.cur.cx fun c => if (s.inRep b).cur.rep = 0 then c.begun slot else c).issueAlone slot j).updCtx s.cur.cx
      (transferCtx i (s.inRep b))).counted b.hdr) := by
  have hsort : ([(0, i), (slot, j)].map Prod.fst).Pairwise (· < ·) := by simp; omega
  have hz := zeroed_of_fillsOnly (s := s.inRep b) hfills
  have hguard : (((s.inRep b).zeroed b (slotOps false [(0, i), (slot, j)])).ctx s.cur.cx).guard = none :=
    (congrArg Ctx.guard (here_zeroed (s.inRep b) b _)).trans hrun.2.2.2.1
  have hrunning : (((s.inRep b).zeroed b (slotOps false [(0, i), (slot, j)])).ctx s.cur.cx).phase = .running :=
    (congrArg Ctx.phase (here_zeroed (s.inRep b) b _)).trans (phase_of_mayIssue hrun.1)
  have hoff : ((s.inRep b).cur.off && gBitOf i) = false := by rw [Bool.and_comm, hruns.1.2.2]
  have hissue := issue_ctl (rest := [(slot, j)]) hrun hd hl hsort (by rw [hi, Bool.or_true]) hn hruns
    (fun p hp => by cases List.mem_singleton.mp hp; exact ⟨h3, hs, hnj, hon⟩) (h1 _ rfl) rfl hguard
  rw [hissue]
  refine (finishRep_transfer_beside (r := s.inRep b) (z := (s.inRep b).zeroed b (slotOps false [(0, i), (slot, j)])) rfl rfl hleft hoff hn h3 hi
    hphase hrunning).trans ?_
  rw [hz]
  rfl

end Sys2Proof.Machine

namespace Sys2Proof.Machine

/-! ## The bundles of one S0 op as the decoder reads them -/

/-- The state in which a bundle of the context at hand, with the guard that its header names, issues its next repetition. -/
def State.nowRep (s : State) (hdr : W32) (units : Nat) : State :=
  { s with cur := { cx := s.cur.cx, pc := s.here.pc, nxt := s.here.pc + units
                    off := (s.here.regs.get (hdr.extractLsb' 17 5).toNat).getLsbD (hdr.extractLsb' 22 6).toNat == hdr.getLsbD 16
                    slot := 0
                    rep := (hdr.extractLsb' 8 7).toNat - if s.here.mid then s.here.rcLeft else (hdr.extractLsb' 8 7).toNat
                    left := if s.here.mid then s.here.rcLeft else (hdr.extractLsb' 8 7).toNat } }

theorem inRep_fullBundle {s : State} {hdr : W32} {ops : List (Nat × Instr)} (hn : Names hdr ops) (h : Placed ops) :
    s.inRep (fullBundleOf hdr (wordsOf ops)) = s.nowRep hdr (2 + 2 * (wordsOf ops).length) := by
  rw [fullBundleOf_wordsOf hn h]
  rfl

section
variable {s t : State} {hdr : W32} {i : Instr} (hrun : s.mayRun hdr) (hst : s.here.sticky = []) (hsk : s.here.skipS0 = false)
  (hlow : hdr.extractLsb' 0 8 = 1) (hwf : i.wf = true) (hslots : i.slots = [0])

include hlow hwf hslots in
theorem ctl_bundle : fullBundleOf hdr [(encodeParcel i).1] =
      { instr := .fullBundle hdr [(encodeParcel i).1], hdr := hdr, rc := (hdr.extractLsb' 8 7).toNat, units := 4, own := [(0, parcelOf i)] } ∧
    s.inRep (fullBundleOf hdr [(encodeParcel i).1]) = s.nowRep hdr 4 :=
  have hs : 0 ∈ i.slots := hslots ▸ List.mem_singleton.mpr rfl
  ⟨fullBundleOf_wordsOf (names_one hlow (by decide)) (placed_one hwf hs), inRep_fullBundle (names_one (i := i) hlow (by decide)) (placed_one hwf hs)⟩

include hst hsk hlow hwf hslots in
theorem ctl_slots : (fullBundleOf hdr [(encodeParcel i).1]).slots s.here = slotOps false [(0, i)] :=
  have hs : 0 ∈ i.slots := hslots ▸ List.mem_singleton.mpr rfl
  slots_fullBundleOf (names_one (i := i) hlow (by decide)) (placed_one hwf hs) (.inl hsk) (by simp [hst])

variable (hd : s.decodeTrap s.cur.cx (fullBundleOf hdr [(encodeParcel i).1]) = none)
include hrun hst hsk hlow hwf hslots hd

/-- A bundle of one S0 op that the guard turns off. -/
theorem exec_ctl_off (hoff : (s.nowRep hdr 4).cur.off = true) (hgi : gBitOf i = true) :
    exec (.fullBundle hdr [(encodeParcel i).1]) s = .next (((s.nowRep hdr 4).updCtx s.cur.cx Ctx.nextOrd).repeated
      ⟨.fullBundle hdr [(encodeParcel i).1], 0⟩ hdr (s.here.pc + 4) (s.nowRep hdr 4).cur.left) := by
  obtain ⟨hb, hrep⟩ := ctl_bundle (s := s) hlow hwf hslots
  have hissue := issue_idle (b := fullBundleOf hdr [(encodeParcel i).1]) hrun hd (ctl_slots hst hsk hlow hwf hslots) (List.pairwise_singleton _ _)
    (by simp) (by rw [hrep]; simpa using ⟨hoff, hgi⟩)
  rw [hrep] at hissue
  refine out_repeated (hissue.trans ?_) hrun.2.2.1
  rw [hb]

variable {post : State → State → State} (hn : isNop i = false) (hruns : (s.nowRep hdr 4).runs0 (gBitOf i) i)
  (hexec : exec i (s.nowRep hdr 4) = aloneCtl (gBitOf i) i (s0Effect i) post (s.nowRep hdr 4)) (ht : exec i (s.nowRep hdr 4) = .next t)
  (hsys : t.here.sys = s.here.sys) (hphase : t.here.phase = .running)
include hn hruns hexec ht hsys hphase

theorem exec_ctl_acting (hi : actsAtIssue i = true) (hpost : ∀ r u, post r u = u) :
    exec (.fullBundle hdr [(encodeParcel i).1]) s = .next ((t.updCtx s.cur.cx Ctx.nextOrd).repeated
      ⟨.fullBundle hdr [(encodeParcel i).1], 0⟩ hdr (s.here.pc + 4) (s.nowRep hdr 4).cur.left) := by
  obtain ⟨hb, hrep⟩ := ctl_bundle (s := s) hlow hwf hslots
  have hbad : t.bad = none := by
    obtain ⟨u, -, rfl, hbad⟩ := effect_of_exec hexec hruns ht hsys hphase
    exact hbad
  rw [← hrep] at hruns hexec ht
  have hissue := issue_acting (b := fullBundleOf hdr [(encodeParcel i).1]) hrun hd (ctl_slots hst hsk hlow hwf hslots) hn hruns hexec ht hsys hphase
    hi hpost
  rw [hrep] at hissue
  refine out_repeated (hissue.trans ?_) hbad
  rw [hb]

theorem exec_ctl_transferring (hi : transfers i = true) (hleft : (s.nowRep hdr 4).cur.left = 0) (hpost : ∀ r u, s0Post i r u = some (post r u))
    :
    exec (.fullBundle hdr [(encodeParcel i).1]) s = .next ((t.updCtx s.cur.cx Ctx.nextOrd).counted hdr) := by
  obtain ⟨-, hrep⟩ := ctl_bundle (s := s) hlow hwf hslots
  have hbad : t.bad = none := by
    obtain ⟨u, -, rfl, hbad⟩ := effect_of_exec hexec hruns ht hsys hphase
    exact hbad
  rw [← hrep] at hruns hexec ht hleft
  have hissue := issue_transferring (b := fullBundleOf hdr [(encodeParcel i).1]) hrun hd (ctl_slots hst hsk hlow hwf hslots) hn hruns hexec ht hsys
    hphase hi hleft hpost
  rw [exec_fullBundle, hissue]
  exact out_next hbad
end

end Sys2Proof.Machine

namespace Sys2Proof.Machine

open Sys2Proof.Laws.Encodable (parcelG_pk)

/-- An S0 op that acts at issue, alone: its effect and nothing after. -/
theorem exec_of_actsAtIssue {i : Instr} (hi : actsAtIssue i = true) (r : State) :
    exec i r = aloneCtl (gBitOf i) i (s0Effect i) (fun _ u => u) r := by
  have hg : ∀ g op x, parcelG (pk g op x) = g := parcelG_pk
  cases i with
  | waitf g mask => rw [gBitOf, encodeParcel, hg]; rfl
  | peekf g mask => rw [gBitOf, encodeParcel, hg]; rfl
  | setf g mask => rw [gBitOf, encodeParcel, hg]; rfl
  | clrf g mask => rw [gBitOf, encodeParcel, hg]; rfl
  | mfs g sr d => rw [gBitOf, encodeParcel, hg]; rfl
  | await g n => rw [gBitOf, encodeParcel, hg]; rfl
  | twait g a => rw [gBitOf, encodeParcel, hg]; rfl
  | pwrreq g a => rw [gBitOf, encodeParcel, hg]; rfl
  | _ => cases hi

/-- A transfer alone: its effect at issue and then the transfer. -/
theorem exec_of_transfers {i : Instr} (hi : transfers i = true) (r : State) :
    exec i r = aloneCtl (gBitOf i) i (s0Effect i) (fun r u => (s0Post i r u).getD u) r := by
  have hg : ∀ g op x, parcelG (pk g op x) = g := parcelG_pk
  cases i with
  | br g off => rw [gBitOf, encodeParcel, hg]; rfl
  | call g off => rw [gBitOf, encodeParcel, hg]; rfl
  | jmp g a => rw [gBitOf, encodeParcel, hg]; rfl
  | ret g => rw [gBitOf, encodeParcel, hg]; rfl
  | brx g u => rw [gBitOf, encodeParcel, hg]; rfl
  | loop g a len => rw [gBitOf, encodeParcel, hg]; rfl
  | _ => cases hi

theorem s0Post_of_transfers {i : Instr} (hi : transfers i = true) (r u : State) : s0Post i r u = some ((s0Post i r u).getD u) := by
  cases i with
  | br g off => rfl
  | call g off => rfl
  | jmp g a => rfl
  | ret g => rfl
  | brx g u => rfl
  | loop g a len => rfl
  | _ => cases hi

end Sys2Proof.Machine

namespace Sys2Proof.Machine

/-- The transfers that read no operand: `BR` and `BRX`, with no guard. -/
def branches (i : Instr) : Prop := (∃ k, i = .br false k) ∨ ∃ u, i = .brx false u

theorem transfers_of_branches {i : Instr} (h : branches i) : transfers i = true := by
  rcases h with ⟨k, rfl⟩ | ⟨u, rfl⟩ <;> rfl

theorem gBitOf_of_branches {i : Instr} (h : branches i) : gBitOf i = false := by
  rcases h with ⟨k, rfl⟩ | ⟨u, rfl⟩ <;> exact Sys2Proof.Laws.Encodable.parcelG_pk _ _ _

theorem transferCtx_phase {i : Instr} (h : branches i) (r : State) (c : Ctx) : (transferCtx i r c).phase = c.phase := by
  rcases h with ⟨k, rfl⟩ | ⟨u, rfl⟩
  · simp only [transferCtx]
    split <;> rfl
  · rfl

/-- A branch depends on nothing but the place of its bundle. -/
theorem transferCtx_congr {i : Instr} (h : branches i) {r r' : State} (hcur : r.cur = r'.cur) : transferCtx i r = transferCtx i r' := by
  rcases h with ⟨k, rfl⟩ | ⟨u, rfl⟩ <;> funext c <;> simp only [transferCtx, hcur]

theorem s0Effect_of_branches {i : Instr} (h : branches i) {z : State} (ht : ∀ g off, i = .br g off → (relTarget z.cur.pc off).isSome = true) :
    s0Effect i z z = .ok z := by
  rcases h with ⟨k, rfl⟩ | ⟨u, rfl⟩
  · exact if_pos (ht _ _ rfl)
  · rfl

/-- Where no divide of the context is in progress, a branch is not held. -/
theorem runs0_of_branches {i : Instr} (h : branches i) {z : State} (hd : z.dividing z.cur.cx = false) (hbad : z.bad = none) :
    z.runs0 (gBitOf i) i := by
  have hheld : opHeld i z = false := by
    have hsrc : srcSpecs i = [] ∧ nWrite i = none ∧ isDivide i = false := by rcases h with ⟨k, rfl⟩ | ⟨u, rfl⟩ <;> exact ⟨rfl, rfl, rfl⟩
    obtain ⟨hsrc, hdst, hdivide⟩ := hsrc
    simp only [opHeld, hsrc, hdst, hdivide, List.any_nil, Option.any_none, Bool.or_false, Bool.false_or]
    unfold State.dividing at hd
    split
    next => rfl
    next d hdiv =>
      rw [hdiv] at hd
      exact hd
  refine ⟨⟨hheld, ?_, by rw [gBitOf_of_branches h, Bool.false_and]⟩, ?_, hbad⟩
  · rcases h with ⟨k, rfl⟩ | ⟨u, rfl⟩ <;> rfl
  · rcases h with ⟨k, rfl⟩ | ⟨u, rfl⟩ <;> rfl

/-- A branch alone. -/
theorem exec_of_branches {i : Instr} (h : branches i) {z : State} (hd : z.dividing z.cur.cx = false) (hbad : z.bad = none)
    (heff : s0Effect i z z = .ok z) : exec i z = .next (z.updCtx z.cur.cx (transferCtx i z)) := by
  rw [exec_of_transfers (transfers_of_branches h), aloneCtl_effect (runs0_of_branches h hd hbad) heff,
    s0Post_transfer (transfers_of_branches h) rfl]
  exact out_next hbad

theorem placed_two {slot : Nat} {i j : Instr} (hi : i.wf = true) (h0 : 0 ∈ i.slots) (hj : j.wf = true) (hs : slot ∈ j.slots) (h1 : 1 ≤ slot) :
    Placed [(0, i), (slot, j)] := by
  constructor
  · simp; omega
  · simp [hi, hj]
  · simp [h0, hs]

/-- What is left by a branch after `z` and counted is what the branch alone leaves, counted. -/
theorem branch_follows {i : Instr} (h : branches i) {u z r : State} {hdr : W32} (hu : u = (z.updCtx z.cur.cx (transferCtx i r)).counted hdr)
    (hcur : r.cur = z.cur) (hd : z.dividing z.cur.cx = false) (hbad : z.bad = none) (heff : s0Effect i z z = .ok z) :
    ∃ t, exec i z = .next t ∧ u.out = .next (t.counted hdr) := by
  refine ⟨_, exec_of_branches h hd hbad heff, ?_⟩
  rw [hu, transferCtx_congr h hcur]
  exact out_next hbad

/-- A branch beside a streaming op: it does what it does alone after the op's issue. -/
theorem exec_branch_beside {s : State} {hdr : W32} {i j : Instr} {slot : Nat} (hrun : s.mayRun hdr) (hst : s.here.sticky = [])
    (hsk : s.here.skipS0 = false) (hwf : i.wf = true) (hslots : i.slots = [0]) (hn : isNop i = false) (hi : branches i) (h3 : 3 ≤ slot)
    (hj : j.wf = true) (hs : slot ∈ j.slots) (hnj : isNop j = false) (hon : s.StreamsOn (s.nowRep hdr 0).cur.off slot j)
    (hleft : (s.nowRep hdr 0).cur.left = 0) (hlow : hdr.extractLsb' 0 8 = BitVec.ofNat 8 (2 ^ slot + 1))
    (hd1 : s.decodeTrap s.cur.cx (fullBundleOf hdr [(encodeParcel i).1]) = none)
    (hd2 : s.decodeTrap s.cur.cx (fullBundleOf hdr ([(encodeParcel i).1] ++ wordsIn slot j)) = none) :
    ∃ t, exec i (((s.nowRep hdr (4 + 2 * (wordsIn slot j).length)).updCtx s.cur.cx fun c =>
        if (s.nowRep hdr (4 + 2 * (wordsIn slot j).length)).cur.rep = 0 then c.begun slot else c).issueAlone slot j) = .next t ∧
      exec (.fullBundle hdr ([(encodeParcel i).1] ++ wordsIn slot j)) s = .next (t.counted hdr) := by
  have h0 : 0 ∈ i.slots := hslots ▸ List.mem_singleton.mpr rfl
  have hnames := names_two (i := i) (j := j) hlow (by omega) (slot_lt hs)
  have hplaced := placed_two hwf h0 hj hs (by omega)
  have hwords : wordsOf [(0, i), (slot, j)] = [(encodeParcel i).1] ++ wordsIn slot j := by
    simp only [wordsOf, List.flatMap_cons, List.flatMap_nil, List.append_nil]
    rfl
  have hcond := conditions_of_both hnames hd1 hd2
  rw [← hwords] at hd2 hcond ⊢
  have hl := slots_fullBundleOf (c := s.here) hnames hplaced (.inl hsk) (by simp [hst])
  have hb := fullBundleOf_wordsOf hnames hplaced
  have hrep := inRep_fullBundle (s := s) hnames hplaced
  have htarget : ∀ g off, i = .br g off → (relTarget s.here.pc off).isSome = true := fun g off he =>
    (of_conditions_eq_nil hcond).2 0 g off (by rw [hl, opsOf_slotOps, he]; exact List.mem_cons_self)
  have heff : ∀ z : State, z.cur = (s.inRep (fullBundleOf hdr (wordsOf [(0, i), (slot, j)]))).cur → s0Effect i z z = .ok z := fun z hz =>
    s0Effect_of_branches hi fun g off he => by rw [hz]; exact htarget g off he
  have hfills : (fullBundleOf hdr (wordsOf [(0, i), (slot, j)])).FillsOnly (slotOps false [(0, i), (slot, j)]) slot := by
    intro k hk
    simp [hb, parcelsOf, opsOf_slotOps, hn, hnj, Ne.symm hk]
  have hdivide := dividing_of_mayIssue hrun.1
  have hissue := issue_transfer_beside (b := fullBundleOf hdr (wordsOf [(0, i), (slot, j)])) hrun hd2 hl hfills (transfers_of_branches hi) hn
    (runs0_of_branches hi hdivide hrun.2.2.1) h3 hs hnj (by rw [hrep]; exact hon) (by rw [hrep]; exact hleft) heff
    (transferCtx_phase hi _)
  rw [hrep] at hissue heff
  have hunits : 2 + 2 * ([(encodeParcel i).1] ++ wordsIn slot j).length = 4 + 2 * (wordsIn slot j).length := by
    simp only [List.length_append, List.length_singleton]
    omega
  rw [hwords, hunits] at hissue heff
  rw [hwords]
  exact branch_follows hi hissue rfl hdivide hrun.2.2.1 (heff _ rfl)

end Sys2Proof.Machine

namespace Sys2Proof.Machine

open Sys2Proof.Laws.Encodable (parcelG_pk)

/-! ## S1 and S2 ops in a bundle (R94, R98) -/

/-- An S1 or S2 op reads the operands `specs` and computes from their values alone; only the trap that it may raise depends on the slot. -/
def IsScalar (op : State → State → Except Trap State) (g : Bool) (specs : List Spec) : Prop :=
  ∃ (d : Spec) (x : (Spec → Word) → Word) (res : (Spec → Word) → Nat → Except Trap (Word × Status)),
    (∀ r s, op r s = scalarOp g specs d (x (specVal r s.cur.cx)) (res (specVal r s.cur.cx) s.cur.slot) r s) ∧
      ∀ vals k k' y, res vals k = .ok y → res vals k' = .ok y

section
variable {op : State → State → Except Trap State} {g g' : Bool} {d a b c : Spec}

theorem isScalar_of_alu1 {f : Word → Word} (h : ∀ r s, op r s = alu1 g d a f r s) (hg : g' = g) : IsScalar op g' [a] := by
  subst hg
  exact ⟨d, fun v => v a, fun v _ => .ok (f (v a), stNone), h, fun _ _ _ _ h => h⟩

theorem isScalar_of_alu2 {f : Word → Word → Word} (h : ∀ r s, op r s = alu2 g d a b f r s) (hg : g' = g) : IsScalar op g' [a, b] := by
  subst hg
  exact ⟨d, fun v => v a, fun v _ => .ok (f (v a) (v b), stNone), h, fun _ _ _ _ h => h⟩

theorem isScalar_of_fpu1 {f : Word → Word × Status} (h : ∀ r s, op r s = fpu1 g d a f r s) (hg : g' = g) : IsScalar op g' [a] := by
  subst hg
  exact ⟨d, fun v => v a, fun v _ => .ok (f (v a)), h, fun _ _ _ _ h => h⟩

theorem isScalar_of_fpu2 {f : Nat → Nat → Nat × Status} (h : ∀ r s, op r s = fpu2 g d a b f r s) (hg : g' = g) : IsScalar op g' [a, b] := by
  subst hg
  exact ⟨d, fun v => v a, fun v _ => .ok (fpRes (f (fpArg (v a)) (fpArg (v b)))), h, fun _ _ _ _ h => h⟩

/-- An op of three operands, whose result depends on the slot only where it is a trap. -/
theorem isScalar_of_alu3 {f : Nat → Word → Word → Word → Except Trap (Word × Status)}
    (h : ∀ r s, op r s = alu3 g d a b c (f s.cur.slot) r s) (hg : g' = g) (hf : ∀ x y z k k' v, f k x y z = .ok v → f k' x y z = .ok v) :
    IsScalar op g' [a, b, c] := by
  subst hg
  exact ⟨d, fun v => v a, fun v k => f k (v a) (v b) (v c), h, fun _ _ _ _ h => hf _ _ _ _ _ _ h⟩
end

theorem insField_slot {x y z : Word} {k k' : Nat} {v : Word × Status} (h : insField k x y z = .ok v) : insField k' x y z = .ok v := by
  unfold insField at h ⊢
  dsimp only at h ⊢
  split at h
  next => cases h
  next hc => rw [if_neg hc, h]

theorem bpermWord_slot {x y z : Word} {k k' : Nat} {v : Word × Status} (h : bpermWord k x y z = .ok v) : bpermWord k' x y z = .ok v := by
  unfold bpermWord at h ⊢
  dsimp only at h ⊢
  split at h
  next => cases h
  next hc => rw [if_neg hc, h]

/-- Every op of S1 and S2 but the divides computes from its operands. -/
theorem scalarEffect_isScalar {i : Instr} (hi : isScalarOp i = true) (hdiv : isDivide i = false) :
    IsScalar (fun r s => scalarEffect i r s) (gBitOf i) (srcSpecs i) := by
  cases i with
  | add | sub | mul | mulh | mulhw | min | max | minw | maxw | and | or | xor | andn | orn | shl | shr | sar | rol | ceq | cne | clt |
  cle | cltw | clew | lea =>
    simp only [scalarEffect, addOp, subOp, mulOp, mulhOp, mulhwOp, minOp, maxOp, minwOp, maxwOp, andOp, orOp, xorOp, andnOp, ornOp,
      shlOp, shrOp, sarOp, rolOp, ceqOp, cneOp, cltOp, cleOp, cltwOp, clewOp, leaOp]
    exact isScalar_of_alu2 (fun _ _ => rfl) (parcelG_pk _ _ _)
  | addi | abs | andi | ori | xori | shli | shri | sari | roli | ceqi | clti | clz | ctz | popc | brev | bswap | exts | extz | bset |
  bclr | btst | bflip | mov =>
    simp only [scalarEffect, addiOp, absOp, andiOp, oriOp, xoriOp, shliOp, shriOp, sariOp, roliOp, ceqiOp, cltiOp, clzOp, ctzOp, popcOp,
      brevOp, bswapOp, extsOp, extzOp, bsetOp, bclrOp, btstOp, bflipOp, movOp]
    exact isScalar_of_alu1 (fun _ _ => rfl) (parcelG_pk _ _ _)
  | fadd | fsub | fmul | fmin | fmax | fcmp =>
    simp only [scalarEffect, faddOp, fsubOp, fmulOp, fminOp, fmaxOp, fcmpOp]
    exact isScalar_of_fpu2 (fun _ _ => rfl) (parcelG_pk _ _ _)
  | fcvtf | fcvti | fabs | fneg =>
    simp only [scalarEffect, fcvtfOp, fcvtiOp, fabsOp, fnegOp]
    exact isScalar_of_fpu1 (fun _ _ => rfl) (parcelG_pk _ _ _)
  | sel g d a b c =>
    exact isScalar_of_alu3 (f := fun _ x y z => .ok (if z != 0 then x else y, stNone)) (fun _ _ => rfl) (parcelG_pk _ _ _) fun _ _ _ _ _ _ h => h
  | fma g d a b c =>
    exact isScalar_of_alu3 (f := fun _ x y z => .ok (fpRes (fp32.fma .rne (fpArg x) (fpArg y) (fpArg z)))) (fun _ _ => rfl) (parcelG_pk _ _ _)
      fun _ _ _ _ _ _ h => h
  | ins => exact isScalar_of_alu3 (f := insField) (fun _ _ => rfl) (parcelG_pk _ _ _) fun _ _ _ _ _ _ => insField_slot
  | bperm => exact isScalar_of_alu3 (f := bpermWord) (fun _ _ => rfl) (parcelG_pk _ _ _) fun _ _ _ _ _ _ => bpermWord_slot
  | movz g d h imm =>
    have hg : gBitOf (.movz g d h imm) = g := parcelG_pk _ _ _
    rw [hg]
    exact ⟨d, fun _ => 0, fun _ _ => .ok ((imm.setWidth 64 : Word) <<< (16 * h.toNat), stNone), fun _ _ => rfl, fun _ _ _ _ h => h⟩
  | movk g d h imm =>
    have hg : gBitOf (.movk g d h imm) = g := parcelG_pk _ _ _
    rw [hg]
    exact ⟨d, fun v => v d, fun v _ => .ok (movkWord (v d) h imm, stNone), fun _ _ => rfl, fun _ _ _ _ h => h⟩
  | div | divw | rem | remw => cases hdiv
  | _ => exact absurd hi Bool.false_ne_true

/-- Every op of S1 and S2 but the divides is its effect, where nothing holds it. -/
theorem exec_scalar {i : Instr} (hi : isScalarOp i = true) (hdiv : isDivide i = false) (s : State) : exec i s = alone i (scalarEffect i) s := by
  cases i with
  | add | sub | mul | mulh | mulhw | min | max | minw | maxw | and | or | xor | andn | orn | shl | shr | sar | rol | ceq | cne | clt |
  cle | cltw | clew | lea | addi | abs | andi | ori | xori | shli | shri | sari | roli | ceqi | clti | clz | ctz | popc | brev | bswap |
  exts | extz | bset | bclr | btst | bflip | mov | fadd | fsub | fmul | fmin | fmax | fcmp | fcvtf | fcvti | fabs | fneg | sel | fma |
  ins | bperm | movz | movk => rfl
  | div | divw | rem | remw => cases hdiv
  | _ => exact absurd hi Bool.false_ne_true

end Sys2Proof.Machine

namespace Sys2Proof.Machine

/-- A context with the result of an S1 or S2 op (R94). -/
def Ctx.gains (d : Spec) (v : Word) (st : Status) (c : Ctx) : Ctx := ((c.push v).writeDest d v).orStatus st

/-- What an S1 or S2 op that computes has computed where it runs: the value and the status are as claimed, in its own destination. -/
theorem result_of_computes {i : Instr} {dr d : Spec} {x : (Spec → Word) → Word} {res : (Spec → Word) → Nat → Except Trap (Word × Status)}
    {f : State → Word × Status} (hi : isScalarOp i = true) (hdiv : isDivide i = false)
    (hop : ∀ r s, scalarEffect i r s = scalarOp false (srcSpecs i) dr (x (specVal r s.cur.cx)) (res (specVal r s.cur.cx) s.cur.slot) r s)
    (hc : Computes i false d f) {s : State} (hruns : s.runs false i) (hphase : s.here.phase = .running) :
    ∃ v st, res (specVal s s.cur.cx) s.cur.slot = .ok (v, st) ∧ s.here.gains dr v st = s.here.gains d (f s).1 (f s).2 := by
  have hexec := hc s hruns
  rw [exec_scalar hi hdiv] at hexec
  cases hres : res (specVal s s.cur.cx) s.cur.slot with
  | ok y =>
    obtain ⟨v, st⟩ := y
    rw [alone_gives ((hop s s).trans (by rw [hres])) rfl hruns] at hexec
    refine ⟨v, st, rfl, ?_⟩
    have := congrArg State.here (Host.Outcome.next.inj hexec)
    rwa [gives_here, gives_here] at this
  | error t =>
    rw [alone_traps ((hop s s).trans (by rw [hres])) rfl hruns] at hexec
    have heq := Host.Outcome.next.inj hexec
    rcases takePrecise_seen s t with hfree | ⟨hprog, hsys⟩
    · rw [heq, gives_here, Ctx.orStatus_phase, Ctx.writeDest_phase, Ctx.push_phase, hphase] at hfree
      cases hfree
    · rw [heq, gives_here, Ctx.orStatus_sys, Ctx.writeDest_sys, Ctx.push_sys, hprog] at hsys
      cases hsys

/-- Registers in which a write to `k` or `k'` shows, and which of the two it was, whatever the value. -/
def tellingRegs (k k' : Nat) : Map Word := [(k + k' + 1, 0), (k, 0), (k', 0)]

theorem mset_telling {k k' m : Nat} (hm : m ∈ [k, k']) (v : Word) :
    mset 0 m v (tellingRegs k k') = if v = 0 then merase m (tellingRegs k k') else (m, v) :: tellingRegs k k' := by
  have hlt : m < k + k' + 1 := by
    simp only [List.mem_cons, List.not_mem_nil, or_false] at hm
    omega
  rw [mset]
  refine if_congr Iff.rfl rfl ?_
  rw [tellingRegs, mput, if_pos hlt]

theorem mem_telling {k k' m : Nat} (hm : m ∈ [k, k']) : (m, (0 : Word)) ∈ tellingRegs k k' := by
  simp only [List.mem_cons, List.not_mem_nil, or_false] at hm
  rcases hm with rfl | rfl <;> simp [tellingRegs]

theorem not_mem_merase {α : Type} (k : Nat) (v : α) (m : Map α) : (k, v) ∉ merase k m := by simp [merase]

theorem mset_telling_ne {k k' m : Nat} (hm : m ∈ [k, k']) (v : Word) : mset 0 m v (tellingRegs k k') ≠ tellingRegs k k' := by
  rw [mset_telling hm]
  intro h
  split at h
  · exact not_mem_merase m 0 _ (h ▸ mem_telling hm)
  · exact absurd (congrArg List.length h) (by simp)

theorem mset_telling_inj {k k' : Nat} {v : Word} (h : mset 0 k v (tellingRegs k k') = mset 0 k' v (tellingRegs k k')) : k = k' := by
  rw [mset_telling List.mem_cons_self, mset_telling (List.mem_cons_of_mem _ List.mem_cons_self)] at h
  split at h
  · by_contra hne
    refine not_mem_merase k (0 : Word) (tellingRegs k k') (h ▸ ?_)
    exact List.mem_filter.mpr ⟨mem_telling List.mem_cons_self, by simpa using hne⟩
  · exact congrArg Prod.fst (List.cons.inj h).1

theorem regs_gains (d : Spec) (v : Word) (st : Status) (c : Ctx) :
    (c.gains d v st).regs = if d = 0 then c.regs.push v else (c.regs.push v).put (namedIdx d) v := by
  simp [Ctx.gains, Ctx.regs_writeDest]

/-- A result is seen in the queue. -/
theorem value_of_gains {c : Ctx} {d d' : Spec} {v v' : Word} {st st' : Status} (h : c.gains d v st = c.gains d' v' st') : v = v' := by
  have hq : ∀ (d : Spec) (v : Word) (st : Status), (c.gains d v st).regs.q.head? = some v := by
    intro d v st
    rw [regs_gains]
    split <;> rfl
  exact Option.some.inj ((hq d v st).symm.trans ((congrArg (fun c : Ctx => c.regs.q.head?) h).trans (hq d' v' st')))

/-- The same place of a result (R27): the queue alone, or the same named register. -/
def SameDest (d d' : Spec) : Prop := d = 0 ∧ d' = 0 ∨ d ≠ 0 ∧ d' ≠ 0 ∧ namedIdx d = namedIdx d'

theorem writeDest_of_sameDest {d d' : Spec} (h : SameDest d d') (c : Ctx) (v : Word) : c.writeDest d v = c.writeDest d' v := by
  rcases h with ⟨rfl, rfl⟩ | ⟨h, h', hk⟩
  · rfl
  · rw [Ctx.writeDest, Ctx.writeDest, if_neg (by simpa using h), if_neg (by simpa using h'), hk]

/-- Where the registers tell, two results that agree have one place. -/
theorem sameDest_of_gains {c : Ctx} {d d' : Spec} {v v' : Word} {st st' : Status} (hn : c.regs.n = tellingRegs (namedIdx d) (namedIdx d'))
    (h : c.gains d v st = c.gains d' v' st') : SameDest d d' := by
  obtain rfl := value_of_gains h
  have hregs := congrArg (fun c : Ctx => c.regs.n) h
  have hset : ∀ (k : Nat), ((c.regs.push v).put k v).n = mset 0 k v c.regs.n := fun _ => rfl
  have hpush : (c.regs.push v).n = c.regs.n := rfl
  simp only [regs_gains, apply_ite RegSet.n, hset, hpush, hn] at hregs
  by_cases hd : d = 0
  · by_cases hd' : d' = 0
    · exact .inl ⟨hd, hd'⟩
    · rw [if_pos hd, if_neg hd'] at hregs
      exact absurd hregs.symm (mset_telling_ne (List.mem_cons_of_mem _ List.mem_cons_self) v)
  · by_cases hd' : d' = 0
    · rw [if_neg hd, if_pos hd'] at hregs
      exact absurd hregs (mset_telling_ne List.mem_cons_self v)
    · rw [if_neg hd, if_neg hd'] at hregs
      exact .inr ⟨hd, hd', mset_telling_inj hregs⟩

theorem firstPoisoned_congr {c c' : Ctx} (h : c.regs.pois = c'.regs.pois) (l : List Spec) : firstPoisoned c l = firstPoisoned c' l := by
  induction l with
  | nil => rfl
  | cons sp sps ih =>
    unfold firstPoisoned
    rw [specPoisoned, specPoisoned, h, ih]

theorem specAbsent_congr {c c' : Ctx} (h : c.regs.pres = c'.regs.pres) : specAbsent c = specAbsent c' := by
  funext sp
  rw [specAbsent, specAbsent, h]

/-- Whether an op runs does not depend on the values of the named registers. -/
theorem runs_of_values {s : State} {g : Bool} {i : Instr} (h : s.runs g i) (n : Map Word) :
    (s.updCtx s.cur.cx fun c => c.setRegs { c.regs with n := n }).runs g i := by
  have hregs : (s.updCtx s.cur.cx fun c => c.setRegs { c.regs with n := n }).here.regs = { s.here.regs with n := n } := by
    rw [updCtx_here, Ctx.regs_setRegs]
  obtain ⟨hheld, hpois, hoff⟩ := h
  refine ⟨?_, ?_, hoff⟩
  · rw [← hheld]
    have habs := specAbsent_congr (c := (s.updCtx s.cur.cx fun c => c.setRegs { c.regs with n := n }).here) (c' := s.here) (by rw [hregs])
    unfold opHeld
    dsimp only
    rw [habs]
    rfl
  · rw [← hpois]
    exact firstPoisoned_congr (by rw [hregs]) _

/-- An S1 or S2 op that computes its result into a place of its own has that place for its destination. -/
theorem sameDest_of_computes {i : Instr} {dr d : Spec} {x : (Spec → Word) → Word} {res : (Spec → Word) → Nat → Except Trap (Word × Status)}
    {f : State → Word × Status} (hi : isScalarOp i = true) (hdiv : isDivide i = false)
    (hop : ∀ r s, scalarEffect i r s = scalarOp false (srcSpecs i) dr (x (specVal r s.cur.cx)) (res (specVal r s.cur.cx) s.cur.slot) r s)
    (hc : Computes i false d f) {s : State} (hruns : s.runs false i) (hphase : s.here.phase = .running) : SameDest dr d := by
  have hhere := updCtx_here s fun c => c.setRegs { c.regs with n := tellingRegs (namedIdx dr) (namedIdx d) }
  obtain ⟨v, st, -, heq⟩ := result_of_computes hi hdiv hop hc (runs_of_values hruns (tellingRegs (namedIdx dr) (namedIdx d)))
    (by rw [hhere, Ctx.setRegs_phase, hphase])
  exact sameDest_of_gains (by rw [hhere, Ctx.regs_setRegs]) heq

end Sys2Proof.Machine

namespace Sys2Proof.Machine

/-- A result that agrees with another from one context agrees from a later one too, which has the status bits of the first. -/
theorem gains_later {c c' : Ctx} {d d' : Spec} {v v' : Word} {st st' a : Status} (h : c.gains d v st = c.gains d' v' st') (hd : SameDest d d')
    (hf : c'.fpstatus = c.fpstatus ||| a) : c'.gains d v st = c'.gains d' v' st' := by
  obtain rfl := value_of_gains h
  have hst : c.fpstatus ||| st = c.fpstatus ||| st' := by
    have := congrArg Ctx.fpstatus h
    simpa [Ctx.gains, Ctx.orStatus] using this
  have hlater : c'.fpstatus ||| st = c'.fpstatus ||| st' := by
    rw [hf, BitVec.or_assoc, BitVec.or_comm a st, ← BitVec.or_assoc, hst, BitVec.or_assoc, BitVec.or_comm st' a, ← BitVec.or_assoc]
  rw [Ctx.gains, Ctx.gains, writeDest_of_sameDest hd, Ctx.orStatus, Ctx.orStatus]
  simp only [Ctx.writeDest_fpstatus, Ctx.push_fpstatus, hlater]

theorem gains_fpstatus (d : Spec) (v : Word) (st : Status) (c : Ctx) : (c.gains d v st).fpstatus = c.fpstatus ||| st := by
  simp [Ctx.gains, Ctx.orStatus]

theorem gains_guard (d : Spec) (v : Word) (st : Status) (c : Ctx) : (c.gains d v st).guard = c.guard := by
  simp [Ctx.gains]

/-- An S1 or S2 op of a bundle has its result from the operands as they were before (R94). -/
theorem scalarEffect_in_bundle {i : Instr} {dr : Spec} {x : (Spec → Word) → Word} {res : (Spec → Word) → Nat → Except Trap (Word × Status)}
    {r m : State} {v : Word} {st : Status}
    (hop : ∀ r s, scalarEffect i r s = scalarOp false (srcSpecs i) dr (x (specVal r s.cur.cx)) (res (specVal r s.cur.cx) s.cur.slot) r s)
    (hslot : ∀ vals k k' y, res vals k = .ok y → res vals k' = .ok y) (hres : res (specVal r r.cur.cx) r.cur.slot = .ok (v, st))
    (hpois : firstPoisoned r.here (srcSpecs i) = none) (hcx : m.cur.cx = r.cur.cx) : scalarEffect i r.restated m = .ok (m.gives dr v st) := by
  have hval : specVal r.restated m.cur.cx = specVal r r.cur.cx := funext fun a => by rw [hcx, specVal_restated]
  have hctx : r.restated.ctx m.cur.cx = r.here := by rw [hcx, restated_ctx]
  rw [hop, hval, hslot _ _ m.cur.slot _ hres]
  exact scalarOp_result (by rw [hctx, hpois]) (by simp)

theorem scalarSlots_two {i j : Instr} {r s s1 s2 : State} (h1 : scalarEffect i r { s with cur := { s.cur with slot := 1 } } = .ok s1)
    (h2 : scalarEffect j r { s1 with cur := { s1.cur with slot := 2 } } = .ok s2) : scalarSlots r [(1, i), (2, j)] s = .ok s2 := by
  simp only [scalarSlots, List.foldlM_cons, List.foldlM_nil, h1]
  change (scalarEffect j r { s1 with cur := { s1.cur with slot := 2 } } >>= fun s => pure s) = _
  rw [h2]
  rfl

end Sys2Proof.Machine

namespace Sys2Proof.Machine

/-! ## Bundles of an S1 and an S2 op (R22, R94) -/

theorem isScalarOp_of_slot {slot : Nat} {i : Instr} (hs : slot ∈ i.slots) (h : slot = 1 ∨ slot = 2) (hn : isNop i = false) : isScalarOp i = true := by
  rcases h with rfl | rfl <;> simp [isScalarOp, hn, hs]

/-- An S1 or S2 op names nothing that is allotted, and is not privileged. -/
theorem permitted_of_scalar {i : Instr} (hi : isScalarOp i = true) (s : State) (cx : Nat) : s.unallotted cx i = none ∧ privileged i = false := by
  cases i with
  | add | sub | mul | mulh | mulhw | min | max | minw | maxw | and | or | xor | andn | orn | shl | shr | sar | rol | ceq | cne | clt |
  cle | cltw | clew | lea | addi | abs | andi | ori | xori | shli | shri | sari | roli | ceqi | clti | clz | ctz | popc | brev | bswap |
  exts | extz | bset | bclr | btst | bflip | mov | fadd | fsub | fmul | fmin | fmax | fcmp | fcvtf | fcvti | fabs | fneg | sel | fma |
  ins | bperm | movz | movk | div | divw | rem | remw => exact ⟨rfl, rfl⟩
  | _ => exact absurd hi Bool.false_ne_true

/-- An S1 or S2 op that is not a divide is not held where its operands and its destination are present (R63). -/
theorem unheld_of_scalar {s : State} {slot : Nat} {i : Instr} (h : opHeld i s = false) (hs : slot ∈ i.slots) (h1 : 1 ≤ slot) (h2 : slot ≤ 2)
    (hdiv : isDivide i = false) : s.Unheld (slot, i) := by
  obtain ⟨hsrc, hdst⟩ := opHeld_operands h
  refine ⟨hsrc, fun _ => hdst, fun h3 => absurd h3 (by simp only; omega), fun h0 => absurd h0 (by simp only; omega), ?_, hdiv⟩
  rintro g rfl
  simp only [Instr.slots, List.mem_singleton] at hs
  omega

section
variable {i j : Instr} (hwi : i.wf = true) (hwj : j.wf = true) (hsi : 1 ∈ i.slots) (hsj : 2 ∈ j.slots)

theorem names_scalars {hdr : W32} (h : hdr.extractLsb' 0 8 = 6) : Names hdr [(1, i), (2, j)] :=
  ⟨(present_of_low h).trans (by decide : (List.range 8).filter (fun k => (6 : BitVec 8).getLsbD k) = [1, 2]),
    (bundleWords_of_low h).trans (by decide : bundleWords ((6 : BitVec 8).setWidth 32) = 2)⟩

include hwi hwj hsi hsj in
theorem placed_scalars : Placed [(1, i), (2, j)] := by
  constructor <;> simp [hwi, hwj, hsi, hsj]

include hsi hsj in
/-- An S1 and an S2 op, unguarded, that do not clash are legal together (R52). -/
theorem legal_scalars {s : State} {cx : Nat} (hni : isNop i = false) (hnj : isNop j = false) (hgi : gBitOf i = false) (hgj : gBitOf j = false)
    (hclash : clash i j = false) : s.Legal cx [(1, i), (2, j)] := by
  have hi := permitted_of_scalar (isScalarOp_of_slot hsi (.inl rfl) hni) s cx
  have hj := permitted_of_scalar (isScalarOp_of_slot hsj (.inr rfl) hnj) s cx
  constructor
  case apart => simp [hclash]
  all_goals simp only [List.mem_cons, List.not_mem_nil, or_false, forall_eq_or_imp, forall_eq]
  · exact ⟨hgi, hgj⟩
  · exact ⟨repeatable_of_slot hsi (by decide), repeatable_of_slot hsj (by decide)⟩
  · exact ⟨hi.1, hj.1⟩
  · exact ⟨.inl hi.2, .inl hj.2⟩

theorem scalarOps_scalars (hni : isNop i = false) (hnj : isNop j = false) : scalarOps (slotOps false [(1, i), (2, j)]) = [(1, i), (2, j)] := by
  simp [scalarOps, opsOf_slotOps, hni, hnj]

/-- What two ops of S1 and S2 have computed, each from the state `s` (R94). -/
def State.givesBoth (s : State) (d e : Spec) (x y : Word × Status) : State := (s.gives d x.1 x.2).gives e y.1 y.2

/-- S1's result is written first, and S2's operands are as they were before. -/
theorem scalarSlots_of_computes {s : State} {d e : Spec} {f g : State → Word × Status} (hsi : 1 ∈ i.slots) (hsj : 2 ∈ j.slots)
    (hni : isNop i = false) (hnj : isNop j = false) (hgi : gBitOf i = false) (hgj : gBitOf j = false) (hdi : isDivide i = false)
    (hdj : isDivide j = false) (hci : Computes i false d f) (hcj : Computes j false e g) (hri : s.runs false i) (hrj : s.runs false j)
    (hphase : s.here.phase = .running) :
    ∃ t, scalarSlots s.restated [(1, i), (2, j)] s.restated = .ok t ∧ { t with cur := s.cur } = s.givesBoth d e (f s) (g s) := by
  have hi := isScalarOp_of_slot hsi (.inl rfl) hni
  have hj := isScalarOp_of_slot hsj (.inr rfl) hnj
  obtain ⟨di, xi, ri, hopi, hsloti⟩ := scalarEffect_isScalar hi hdi
  obtain ⟨dj, xj, rj, hopj, hslotj⟩ := scalarEffect_isScalar hj hdj
  rw [hgi] at hopi
  rw [hgj] at hopj
  obtain ⟨v, st, hv, hgv⟩ := result_of_computes hi hdi hopi hci hri hphase
  obtain ⟨w, st', hw, hgw⟩ := result_of_computes hj hdj hopj hcj hrj hphase
  have hsame := sameDest_of_computes hj hdj hopj hcj hrj hphase
  refine ⟨_, scalarSlots_two (scalarEffect_in_bundle hopi hsloti hv hri.2.1 rfl) (scalarEffect_in_bundle hopj hslotj hw hrj.2.1 rfl), ?_⟩
  have hlater := gains_later hgw hsame (gains_fpstatus di v st s.here)
  calc _ = (s.restated.updCtx s.cur.cx (Ctx.gains di v st)).updCtx s.cur.cx (Ctx.gains dj w st') := rfl
    _ = s.updCtx s.cur.cx fun c => (c.gains di v st).gains dj w st' := by rw [restated_updCtx, updCtx_updCtx]
    _ = s.updCtx s.cur.cx fun c => (c.gains d (f s).1 (f s).2).gains e (g s).1 (g s).2 := updCtx_congr (by rw [hlater, hgv])
    _ = _ := (updCtx_updCtx s s.cur.cx (Ctx.gains d (f s).1 (f s).2) (Ctx.gains e (g s).1 (g s).2)).symm

theorem givesBoth_updCtx (s : State) (d e : Spec) (x y : Word × Status) (f : Ctx → Ctx) : (s.givesBoth d e x y).updCtx s.cur.cx f =
    s.updCtx s.cur.cx fun c => f ((c.gains d x.1 x.2).gains e y.1 y.2) :=
  (updCtx_updCtx (s.gives d x.1 x.2) s.cur.cx _ f).trans (updCtx_updCtx s s.cur.cx (Ctx.gains d x.1 x.2) _)

theorem givesBoth_guard (s : State) (d e : Spec) (x y : Word × Status) : ((s.givesBoth d e x y).ctx s.cur.cx).guard = s.here.guard := by
  have hctx : (s.givesBoth d e x y).ctx s.cur.cx = (s.here.gains d x.1 x.2).gains e y.1 y.2 := by
    have := congrArg (State.ctx · s.cur.cx) (givesBoth_updCtx s d e x y fun c => c)
    simpa only [State.ctx_updCtx] using this
  rw [hctx, gains_guard, gains_guard]
end

section
variable {s : State} {i j : Instr} {d e : Spec} {f g : State → Word × Status} (hsi : 1 ∈ i.slots) (hsj : 2 ∈ j.slots) (hni : isNop i = false)
  (hnj : isNop j = false) (hgi : gBitOf i = false) (hgj : gBitOf j = false) (hdi : isDivide i = false) (hdj : isDivide j = false)
  (hci : Computes i false d f) (hcj : Computes j false e g)
include hsi hsj hni hnj hgi hgj hdi hdj hci hcj

/-- An S1 and an S2 op that nothing holds give both results, and the bundle goes on. -/
theorem issue_scalars {b : Bundle} (hrun : s.mayRun b.hdr) (hd : s.decodeTrap s.cur.cx b = none)
    (hl : b.slots s.here = slotOps false [(1, i), (2, j)]) (hri : (s.inRep b).runs false i) (hrj : (s.inRep b).runs false j) :
    s.issue b = (((s.inRep b).givesBoth d e (f (s.inRep b)) (g (s.inRep b))).updCtx s.cur.cx Ctx.nextOrd).repeated ⟨b.instr, b.entry⟩ b.hdr
      (s.here.pc + b.units) (s.inRep b).cur.left := by
  have h0 : ∀ p ∈ [(1, i), (2, j)], p.1 ≠ 0 := by simp
  have hmem : ∀ p ∈ liveOps (s.inRep b).cur.off (slotOps false [(1, i), (2, j)]), p = (1, i) ∨ p = (2, j) := by
    rw [liveOps_slotOps]
    exact fun p hp => by simpa using List.mem_of_mem_filter hp
  have hh : s.holds (s.curOf s.cur.cx b) b (slotOps false [(1, i), (2, j)]) = false := by
    refine holds_slotOps_eq_false rfl (by simp) hrun.2.2.2.2.2.1 hrun.2.2.2.2.1 (dividing_of_mayIssue hrun.1) fun p hp _ => .inr ?_
    simp only [List.mem_cons, List.not_mem_nil, or_false] at hp
    rcases hp with rfl | rfl
    · exact unheld_of_scalar (s := s.inRep b) hri.1 hsi (by decide) (by decide) hdi
    · exact unheld_of_scalar (s := s.inRep b) hrj.1 hsj (by decide) (by decide) hdj
  have hbkpt : bkptLive (liveOps (s.inRep b).cur.off (slotOps false [(1, i), (2, j)])) = false :=
    bkptLive_of_nonzero fun p hp => by rcases hmem p hp with rfl | rfl <;> simp [hsi, hsj]
  have hstream : (liveOps (s.inRep b).cur.off (slotOps false [(1, i), (2, j)])).filter (fun p => 3 ≤ p.1) = [] :=
    List.filter_eq_nil_iff.mpr fun p hp => by rcases hmem p hp with rfl | rfl <;> simp
  have hdiv : (liveOps (s.inRep b).cur.off (slotOps false [(1, i), (2, j)])).any (fun p => isDivide p.2) = false :=
    List.any_eq_false.mpr fun p hp => by rcases hmem p hp with rfl | rfl <;> simp [hdi, hdj]
  have hS0 := liveS0_of_nonzero (off := (s.inRep b).cur.off) (sticky := false) h0
  have hz : (s.inRep b).zeroed b (slotOps false [(1, i), (2, j)]) = (s.inRep b).restated := zeroed_of_precise (by simp [opsOf_slotOps])
  obtain ⟨t, ht, hboth⟩ := scalarSlots_of_computes (s := s.inRep b) hsi hsj hni hnj hgi hgj hdi hdj hci hcj hri hrj (phase_of_mayIssue hrun.1)
  have hguard : (t.ctx s.cur.cx).guard = none :=
    (congrArg (fun u : State => (u.ctx s.cur.cx).guard) hboth).trans ((givesBoth_guard (s.inRep b) d e _ _).trans hrun.2.2.2.1)
  have hissue := issue_of_effects (s1 := (s.inRep b).restated) (s2 := t) hrun hd hl hh hbkpt (by rw [hS0]; rfl) (by rw [hS0, hz]; rfl)
    (by rw [hz, scalarOps_scalars hni hnj]; exact ht) hguard (by rw [hstream]; rfl) hdiv
  rw [hissue, hboth]
  refine (congrArg (fun u => State.finishRep (s.inRep b) u b _) (givesBoth_updCtx (s.inRep b) d e _ _ Ctx.inOrder)).trans ?_
  refine (finishRep_inOrder (u := s.inRep b) rfl fun k hk => ?_).trans ?_
  · cases hS0.symm.trans hk
  · exact congrArg (fun u : State => u.repeated _ _ _ _) (givesBoth_updCtx (s.inRep b) d e _ _ Ctx.nextOrd).symm

/-- A bundle of an S1 and an S2 op that the decoder reads and that no guard governs. -/
theorem exec_scalars {hdr : W32} (hissues : s.issues hdr) (hwi : i.wf = true) (hwj : j.wf = true) (hclash : clash i j = false)
    (hri : (s.firstRep 6 (hdr.extractLsb' 8 7).toNat).runs false i) (hrj : (s.firstRep 6 (hdr.extractLsb' 8 7).toNat).runs false j)
    (hlow : hdr.extractLsb' 0 8 = 6) (hroom : pcIdx s.here.pc + 6 ≤ 16384) :
    exec (.fullBundle hdr [(encodeParcel i).1, (encodeParcel j).1]) s =
      .next ((((s.firstRep 6 (hdr.extractLsb' 8 7).toNat).givesBoth d e (f (s.firstRep 6 (hdr.extractLsb' 8 7).toNat))
        (g (s.firstRep 6 (hdr.extractLsb' 8 7).toNat))).updCtx s.cur.cx Ctx.nextOrd).repeated
          ⟨.fullBundle hdr [(encodeParcel i).1, (encodeParcel j).1], 0⟩ hdr (s.here.pc + 6) (hdr.extractLsb' 8 7).toNat) := by
  obtain ⟨hrun, hst, hmid, hfield⟩ := hissues
  have hnames := names_scalars (i := i) (j := j) hlow
  have hplaced := placed_scalars hwi hwj hsi hsj
  have hlegal := legal_scalars (s := s) (cx := s.cur.cx) hsi hsj hni hnj hgi hgj hclash
  have hcond := conditions_fullBundleOf hrun.2.2.2.1 hnames hplaced hroom hlegal
  have hl := slots_fullBundleOf (c := s.here) hnames hplaced (.inr (by simp)) (by simp [hst])
  rw [if_neg (by simp [hfield]), ← hl] at hcond
  have hb : fullBundleOf hdr [(encodeParcel i).1, (encodeParcel j).1] = _ := fullBundleOf_wordsOf hnames hplaced
  have hrep := inRep_unguarded (b := fullBundleOf hdr [(encodeParcel i).1, (encodeParcel j).1]) hmid hfield
  rw [hb] at hrep
  have hissue := issue_scalars (b := fullBundleOf hdr [(encodeParcel i).1, (encodeParcel j).1]) hsi hsj hni hnj hgi hgj hdi hdj hci hcj hrun
    (decodeTrap_of_nil hcond) hl (by rw [hb, hrep]; exact hri) (by rw [hb, hrep]; exact hrj)
  rw [hb, hrep] at hissue
  rw [exec_fullBundle, hb]
  exact out_repeated hissue hrun.2.2.1
end

end Sys2Proof.Machine

namespace Sys2Proof.Machine

/-- Settles O42: a repetition is split into what its slots do, each kind of bundle by the lemma that carries it out, and what follows the
repetition, which is the same for all of them. -/
theorem bundles : Obligations.Bundles := by
  unfold Obligations.Bundles
  intro hdr rc index s
  refine ⟨?stream, ?control, ?unguarded⟩
  case stream =>
    intro hrun i slot there ws hstream hd hwhere
    obtain ⟨h3, h7, hwf, hs, hn, hon⟩ := hstream
    have hs := List.contains_iff_mem.mp hs
    have hbad := hrun.2.2.1
    rcases hwhere with ⟨rfl, hlow, rfl, hst⟩ | ⟨rfl, hlow, rfl, hst⟩
    · have hb := own_of_one hlow hwf hs
      have hissue := issue_present_stream (b := fullBundleOf hdr (wordsIn slot i)) hrun hd (by rw [hb]) hst hwf hs h3 hn hon
      refine out_repeated (hissue.trans ?_) hbad
      rw [hb]
      refine congrArg (fun z : State => (z.issueAlone slot i).repeated _ _ _ _) (congrArg (State.updCtx _ s.cur.cx) (funext fun c => ?_))
      refine if_congr ?_ rfl rfl
      simp only [true_and]
      exact Nat.sub_eq_zero_iff_le
    · have hb := fullBundleOf_nil hlow
      have hissue := issue_sticky_stream (b := fullBundleOf hdr []) hrun hd (by rw [hb]) hst hwf hs h3 hn hon
      refine out_repeated (hissue.trans ?_) hbad
      rw [hb]
      rfl
  case control =>
    intro hrun hst hsk i hwf hslots hn ws nxt ordered hd
    refine ⟨fun hlow hoff hgi => exec_ctl_off hrun hst hsk hlow hwf hslots hd hoff hgi, fun hlow hruns t ht hsys hphase => ⟨fun hi => ?acts, fun hleft hi => ?transfers⟩,
      fun j slot hstream hleft hi hlow hd' => ?beside⟩
    case acts =>
      have hi : actsAtIssue i = true := by
        rcases hi with ⟨g, ⟨m, rfl | rfl | rfl | rfl⟩ | ⟨r, d, rfl⟩ | ⟨k, rfl⟩ | ⟨a, rfl | rfl⟩⟩ <;> rfl
      exact exec_ctl_acting hrun hst hsk hlow hwf hslots hd hn hruns (exec_of_actsAtIssue hi _) ht hsys hphase hi fun _ _ => rfl
    case transfers =>
      have hi : transfers i = true := by
        rcases hi with ⟨g, ⟨k, rfl | rfl⟩ | ⟨a, rfl⟩ | rfl | ⟨u, rfl⟩ | ⟨a, k, rfl⟩⟩ <;> rfl
      refine exec_ctl_transferring hrun hst hsk hlow hwf hslots hd hn hruns (exec_of_transfers hi _) ht hsys hphase hi hleft (s0Post_of_transfers hi)
    case beside =>
      obtain ⟨h3, -, hj, hs, hnj, hon⟩ := hstream
      have hs := List.contains_iff_mem.mp hs
      have hbeside := exec_branch_beside hrun hst hsk hwf hslots hn hi h3 hj hs hnj hon hleft hlow hd hd'
      obtain ⟨t, ht, hexec⟩ := hbeside
      refine ⟨t, (congrArg (exec i) (congrArg (fun z : State => z.issueAlone slot j) (congrArg (State.updCtx _ s.cur.cx) (funext fun c =>
        if_congr ?_ rfl rfl)))).trans ht, hexec⟩
      simp only [true_and]
      exact Nat.sub_eq_zero_iff_le.symm
  case unguarded =>
    intro hissues
    have hbad := hissues.1.2.2.1
    have hg := hissues.1.2.2.2.1
    obtain ⟨hrun, hst, hmid, hfield⟩ := id hissues
    refine ⟨?scalars, ?stream, ?outside, ?empty⟩
    case scalars =>
      intro i j d e f g z hwi hwj hsi hsj hni hnj hgi hgj hdi hdj hclash hci hcj hri hrj hlow hroom
      exact exec_scalars (List.contains_iff_mem.mp hsi) (List.contains_iff_mem.mp hsj) hni hnj hgi hgj hdi hdj hci hcj hissues hwi hwj hclash
        hri hrj hlow hroom
    case stream =>
      intro i slot h3 h7 hwf hs hn hgi hall hperm hlow hpois hheld hdiv
      have hs := List.contains_iff_mem.mp hs
      have hlegal := legal_one hs (by omega) hgi hall hperm
      refine ⟨fun hroom => ?full, fun hcalled h6 hword hroom => ?call⟩
      case full =>
        have hb := own_of_one hlow hwf hs
        have hcond := conditions_fullBundleOf hg (names_one hlow (slot_lt hs)) (placed_one hwf hs) (ops := [(slot, i)])
          (by rw [show wordsOf [(slot, i)] = wordsIn slot i from List.append_nil _]; exact hroom) hlegal
        rw [if_neg (by simp [hfield]), show wordsOf [(slot, i)] = wordsIn slot i from List.append_nil _] at hcond
        have hissue := issue_unguarded_stream (b := fullBundleOf hdr (wordsIn slot i)) hissues hcond (by rw [hb]) hwf hs h3 hn hheld hpois
        rw [hb] at hissue
        refine out_repeated ((congrArg s.issue hb).trans hissue) hbad
      case call =>
        obtain ⟨hin, hhdr, h7, habsent, hrc, hcall⟩ := hcalled
        have hb := templateOf_one (k := s.core (coreOf s.cur.cx)) (rc := rc) hmid hin rfl hhdr h7 habsent hrc hcall hlow h3 h6 hs hword
        have hown : parcelsOf [(slot, i)] = [(slot, parcelOf i)] := rfl
        have hcond := conditions_slotOps (b := (s.core (coreOf s.cur.cx)).templateOf s.here index rc) (sticky := false) hg
          (by rw [hb]; exact ⟨rfl, rfl, rfl, hroom⟩) hlegal
        have hissue := issue_unguarded_stream (b := (s.core (coreOf s.cur.cx)).templateOf s.here index rc) (by rw [hb]; exact hissues)
          (hcond.trans (by rw [hb]; simp [hfield])) (by rw [hb]) hwf hs h3 hn hheld hpois
        rw [hb] at hissue
        refine out_repeated ((congrArg s.issue hb).trans hissue) hbad
    case outside => exact fun hout hroom => exec_tcall_outside hissues hout hroom
    case empty => exact fun hlow hroom => exec_fullBundle_nil hissues hlow hroom
end Sys2Proof.Machine

/-! # How commands end (R24, R71, R92, R214, R237, R256, R277, R288, R307, R323) -/

namespace Sys2Proof.Machine

/-! ## A command's read leaves the commands in progress as they were

Memory, its slices and copies, translation, and a command's own read of them (R202, R286–R303, R353). -/

theorem ite_cmds {s t u : State} {p : Prop} [Decidable p] (hs : s.cmds = u.cmds) (ht : t.cmds = u.cmds) : (if p then s else t).cmds = u.cmds := by
  split
  · exact hs
  · exact ht

@[simp] theorem noteWear_cmds (s : State) (key : Nat) : (s.noteWear key).cmds = s.cmds := ite_cmds rfl rfl

@[simp] theorem sliceRoom_cmds (s : State) (quad key : Nat) : (s.sliceRoom quad key).1.cmds = s.cmds := by
  fun_cases State.sliceRoom s quad key with
  | case3 => exact ite_cmds (noteWear_cmds _ _) rfl
  | _ => rfl

@[simp] theorem fillSlice_cmds (s : State) (key : Nat) : (s.fillSlice key).cmds = s.cmds := by
  unfold State.fillSlice
  refine ite_cmds rfl ?_
  have hroom := sliceRoom_cmds (s.mediaAccess key) (homeQuad key) key
  exact ite_cmds ((noteWear_cmds _ _).trans hroom) hroom

@[simp] theorem servesRead_cmds (s : State) (key : Nat) : (s.servesRead key).cmds = s.cmds := rfl

theorem homeRead_cmds {s : State} {key n : Nat} {r : State × List Byte × Bool} (h : s.homeRead key n = some r) : r.1.cmds = s.cmds := by
  unfold State.homeRead at h
  dsimp only at h
  split at h
  · cases h; rfl
  · split at h
    · cases h
      simp
    · split at h
      · cases h; rfl
      · cases h

@[simp] theorem homeWrite_cmds (s : State) (key : Nat) (bs : List Byte) (poison : Bool) : (s.homeWrite key bs poison).cmds = s.cmds := by
  unfold State.homeWrite
  refine ite_cmds ?_ (ite_cmds rfl ?_)
  · exact ite_cmds rfl (ite_cmds rfl rfl)
  · exact ite_cmds rfl (ite_cmds rfl rfl)

theorem copyRead_cmds {s : State} {q key n : Nat} {r : State × List Byte × Bool} (h : s.copyRead q key n = some r) : r.1.cmds = s.cmds := by
  revert h
  fun_cases State.copyRead s q key n with
  | case1 =>
    rintro ⟨⟩
    rfl
  | case2 => exact fun h => nomatch h
  | case3 _ u _ _ hread v _ hroom =>
    rintro ⟨⟩
    have hv : v.cmds = u.cmds := (congrArg (fun p => p.1.cmds) hroom).symm.trans (sliceRoom_cmds u q key)
    refine Eq.trans ?_ (hv.trans (homeRead_cmds hread))
    exact ite_cmds rfl rfl

@[simp] theorem countMigration_cmds (s : State) (key die : Nat) : (s.countMigration key die).cmds = s.cmds := by
  unfold State.countMigration
  dsimp only
  split
  · exact ite_cmds rfl rfl
  · rfl

@[simp] theorem walkRead_cmds (s : State) (key : Nat) : (s.walkRead key).1.cmds = s.cmds := by
  simp [State.walkRead]

/-- A word of a table, from the walk cache or from memory (R296, R299). -/
theorem walkWord_cmds {s u : State} {cached : Option Word} {key : Nat} {e : Word}
    (h : (match cached with | some w => (s, w) | none => s.walkRead key) = (u, e)) : u.cmds = s.cmds := by
  cases cached with
  | some w => cases h; rfl
  | none =>
    have hread : s.walkRead key = (u, e) := h
    exact (congrArg (fun p => p.1.cmds) hread).symm.trans (walkRead_cmds s key)

theorem walkFrom_cmds (s : State) (sp : Space) (kind : AccKind) (va n t : Nat) (up : Bool) (l : List WalkEntry) :
    (s.walkFrom sp kind va n t up l).1.cmds = s.cmds := by
  fun_induction State.walkFrom s sp kind va n t up l with
  | case1 => rfl
  | case4 _ _ _ _ _ _ _ _ _ hword _ _ _ _ ih => exact ih.trans (walkWord_cmds hword)
  | case2 _ _ _ _ _ _ _ _ _ hword | case3 _ _ _ _ _ _ _ _ _ hword | case5 _ _ _ _ _ _ _ _ _ hword | case6 _ _ _ _ _ _ _ _ _ hword
  | case7 _ _ _ _ _ _ _ _ _ hword => exact walkWord_cmds hword

theorem walk_cmds {s u : State} {sp : Space} {kind : AccKind} {va : Nat} {r : Except Trap WalkRes} (h : s.walk sp kind va = (u, r)) :
    u.cmds = s.cmds := by
  unfold State.walk at h
  dsimp only at h
  split at h
  · cases h; rfl
  · split at h
    · cases h; rfl
    · split at h
      · cases h; rfl
      · have := walkFrom_cmds s sp kind va 5 ((sp.root.extractLsb' 12 40).toNat * 4096) true []
        rwa [h] at this

@[simp] theorem l1Fill_cmds (s : State) (sp : Space) (t : TlbEntry) : (s.l1Fill sp t).cmds = s.cmds := by
  unfold State.l1Fill
  split <;> rfl

theorem walkDone_cmds {s u : State} {sp : Space} {kind : AccKind} {va : Nat} {w : WalkRes} {t : TlbEntry} (h : s.walkDone sp kind va w = (u, t)) :
    u.cmds = s.cmds := by
  cases h
  have hfill : ((s.walkFill sp w).touch w.key).cmds = s.cmds := ite_cmds rfl rfl
  have hleaf : ∀ (bs : List Byte) (p : Prop) [Decidable p], (if p then (s.walkFill sp w).touch w.key
      else ((s.walkFill sp w).touch w.key).homeWrite w.key bs false).cmds = s.cmds := fun bs p _ =>
    ite_cmds hfill ((homeWrite_cmds _ _ _ _).trans hfill)
  exact ite_cmds (hleaf _ _) ((l1Fill_cmds _ _ _).trans (hleaf _ _))

/-- The commands in progress are those of `s` in what a translation leaves, whether it succeeds or traps. -/
def TranslationKeepsCmds (s : State) : Except (State × Trap) (State × Xlated) → Prop
  | .ok a => a.1.cmds = s.cmds
  | .error a => a.1.cmds = s.cmds

theorem xlate_keepsCmds (s : State) (sp : Space) (kind : AccKind) (va : Nat) : TranslationKeepsCmds s (s.xlate sp kind va) := by
  fun_cases State.xlate s sp kind va with
  | case3 => exact ite_cmds rfl (l1Fill_cmds _ _ _)
  | case5 _ _ _ _ hwalk | case7 _ _ _ _ hwalk => exact walk_cmds hwalk
  | case6 _ _ _ _ hwalk _ _ _ hdone => exact (walkDone_cmds hdone).trans (walk_cmds hwalk)
  | _ => rfl

/-! ### A command's read -/

/-- The commands in progress are those of `s` in what an agent's access leaves, whether it succeeds or faults. -/
def KeepsCmds {α : Type} (s : State) (st : α → State) : Except EngErr α → Prop
  | .ok a => (st a).cmds = s.cmds
  | .error (.fault (some u)) => u.cmds = s.cmds
  | .error _ => True

theorem KeepsCmds.trans {α : Type} {s t : State} {st : α → State} {x : Except EngErr α} (h : t.cmds = s.cmds) (hx : KeepsCmds t st x) :
    KeepsCmds s st x := by
  unfold KeepsCmds at hx ⊢
  split
  · exact hx.trans h
  · exact hx.trans h
  · trivial

theorem KeepsCmds.bind {α β : Type} {s : State} {st : α → State} {st' : β → State} {x : Except EngErr α} {f : α → Except EngErr β}
    (h : KeepsCmds s st x) (hf : ∀ a, KeepsCmds (st a) st' (f a)) : KeepsCmds s st' (x >>= f) := by
  cases x with
  | ok a => exact (hf a).trans h
  | error e =>
    change KeepsCmds s st' (.error e)
    cases e with
    | fault w => cases w <;> exact h
    | _ => trivial

theorem agentPlan_keepsCmds (s : State) (a : Agent) (kind : AccKind) (va n : Nat) : KeepsCmds s Prod.fst (s.agentPlan a kind va n) := by
  have hx := xlate_keepsCmds s a.sp kind va
  fun_cases State.agentPlan s a kind va n with
  | case10 _ _ _ h | case11 _ _ _ h | case13 _ _ _ h =>
    rw [h] at hx
    exact hx
  | case3 | case5 | case7 | case8 => rfl
  | _ => trivial

theorem agentPlans_keepsCmds (a : Agent) (kind : AccKind) (l : List (Nat × Nat)) (s : State) :
    KeepsCmds s Prod.fst (State.agentPlans a kind l s) := by
  induction l generalizing s with
  | nil => rfl
  | cons p ps ih => exact (agentPlan_keepsCmds s a kind _ _).bind fun x => (ih x.1).bind (st' := Prod.fst) fun _ => Eq.refl _

theorem agentReadPiece_keepsCmds (s : State) (a : Agent) (p : Piece) : KeepsCmds s Prod.fst (s.agentReadPiece a p) := by
  have hmig : ∀ (key : Nat) (p : Prop) [Decidable p], (if p then s.countMigration key (a.cl / 8) else s).cmds = s.cmds := fun _ _ _ =>
    ite_cmds (countMigration_cmds _ _ _) rfl
  fun_cases State.agentReadPiece s a p with
  | case7 => exact hmig _ _
  | case9 _ _ _ _ _ _ _ _ _ h => exact (homeRead_cmds h).trans (hmig _ _)
  | case11 _ _ _ _ _ _ _ h =>
    split at h
    · exact (copyRead_cmds h).trans (hmig _ _)
    · exact (homeRead_cmds h).trans (hmig _ _)
  | case5 | case6 | case8 | case10 => trivial
  | _ => rfl

theorem agentReadPieces_keepsCmds (a : Agent) (l : List Piece) (s : State) : KeepsCmds s Prod.fst (State.agentReadPieces a l s) := by
  induction l generalizing s with
  | nil => rfl
  | cons p ps ih => exact (agentReadPiece_keepsCmds s a p).bind fun x => (ih x.1).bind (st' := Prod.fst) fun _ => Eq.refl _

theorem agentRead_keepsCmds (s : State) (a : Agent) (va n : Nat) : KeepsCmds s Prod.fst (s.agentRead a va n) :=
  (agentPlans_keepsCmds a .read _ s).bind fun _ => agentReadPieces_keepsCmds a _ _

theorem agentRead_cmds {s s1 : State} {a : Agent} {va n : Nat} {bs : List Byte} {p : Bool} (h : s.agentRead a va n = .ok (s1, bs, p)) :
    s1.cmds = s.cmds := by
  have := agentRead_keepsCmds s a va n
  rwa [h] at this

theorem agentRead_fault_cmds {s : State} {a : Agent} {va n : Nat} {w : Option State} (h : s.agentRead a va n = .error (.fault w)) :
    (w.getD s).cmds = s.cmds := by
  have := agentRead_keepsCmds s a va n
  rw [h] at this
  cases w with
  | some u => exact this
  | none => rfl

theorem fillLines_cmds (key n : Nat) (s : State) : (State.fillLines key n s).cmds = s.cmds := by
  induction n generalizing key s with
  | zero => rfl
  | succ n ih => exact (ih (key + 128) (s.fillSlice key)).trans (fillSlice_cmds s key)

end Sys2Proof.Machine

namespace Sys2Proof.Machine

/-! ## The ends of commands in progress -/

theorem exec_commandCompletion (id : Nat) (s : State) : exec (.commandCompletion id) s = execCommandCompletion id s := rfl

/-! ### What `COMMAND_COMPLETION` does, command by command -/

/-- The commands that end with nothing more than their end (R214, R237, R256, R277, R289). -/
def endsPlainly : Instr → Bool
  | .stage .. => true
  | .rrel .. => true
  | .lwarm .. => true
  | .unpin .. => true
  | .unlease .. => true
  | _ => false

section
variable {s : State} {id : Nat} {c : Command} {g : Bool} {t : Tail} {a b d : Spec} (hid : s.cmd id = some c) (hplay : c.play = none)
include hid hplay

theorem completion_plain {i : Instr} (hi : c.entry.instr = some i) (h : endsPlainly i = true) :
    exec (.commandCompletion id) s = .next (s.endCmd id none) := by
  rw [exec_commandCompletion, execCommandCompletion]
  simp only [hid, hplay, hi, Option.isSome_none, Bool.false_eq_true, if_false]
  cases i with
  | stage | rrel | lwarm | unpin | unlease => rfl
  | _ => cases h

theorem completion_swappg (hi : c.entry.instr = some (.swappg g t a b d)) :
    exec (.commandCompletion id) s = .next (if c.begun then s.endCmd id none else s) := by
  rw [exec_commandCompletion, execCommandCompletion]
  simp only [hid, hplay, hi, Option.isSome_none, Bool.false_eq_true, if_false]

theorem completion_rinit {ring : BitVec 5} (hi : c.entry.instr = some (.rinit g t a b ring)) :
    exec (.commandCompletion id) s = .next ((s.finishRinit id c ring.toNat).getD s) := by
  rw [exec_commandCompletion, execCommandCompletion]
  simp only [hid, hplay, hi, Option.isSome_none, Bool.false_eq_true, if_false]

theorem completion_tload {n : BitVec 9} {u : State} (hi : c.entry.instr = some (.tload g t a b n))
    (h : s.finishTload id c (n.toNat + 1) = some u) : exec (.commandCompletion id) s = u.out := by
  rw [exec_commandCompletion, execCommandCompletion]
  simp only [hid, hplay, hi, h, Option.isSome_none, Bool.false_eq_true, if_false]

theorem completion_pinwin (hi : c.entry.instr = some (.pinwin g t a b d)) :
    exec (.commandCompletion id) s = .next (s.finishPinwin id c) := by
  rw [exec_commandCompletion, execCommandCompletion]
  simp only [hid, hplay, hi, Option.isSome_none, Bool.false_eq_true, if_false]

theorem completion_tlbinv {mode : BitVec 2} (hi : c.entry.instr = some (.tlbinv g t a b mode)) :
    exec (.commandCompletion id) s = .next ((s.finishTlbinv id c mode).getD s) := by
  rw [exec_commandCompletion, execCommandCompletion]
  simp only [hid, hplay, hi, Option.isSome_none, Bool.false_eq_true, if_false]

theorem completion_mapwin {w : BitVec 4} {exact : Bool} (hi : c.entry.instr = some (.mapwin g t a b w exact)) :
    exec (.commandCompletion id) s = .next (s.finishMapwin id c w.toNat exact) := by
  rw [exec_commandCompletion, execCommandCompletion]
  simp only [hid, hplay, hi, Option.isSome_none, Bool.false_eq_true, if_false]
end

/-! ### What the end of each of them leaves -/

/-- The command of number `id`, with tail `t`, is in progress; it is not a playbook's, and its context is bound. -/
structure Command.Ends (s : State) (id : Nat) (c : Command) (t : Tail) : Prop where
  found : s.cmd id = some c
  play : c.play = none
  area : c.area = none
  tail : c.entry.instr.bind tailFields = some t

section
variable {s u : State} {id : Nat} {c : Command} {t : Tail} (he : c.Ends s id t)
include he

/-- Its end, in a state with the same commands in progress. -/
theorem endCmd_eq_ended (hu : u.cmds = s.cmds) (fail : Option (Nat × Nat)) :
    u.endCmd id fail = u.ended id c fun x => x.commandEnds t c.entry.ord (c.scm ++ c.entry.scm) fail := by
  obtain ⟨hid, hplay, harea, ht⟩ := he
  have hcmd : u.cmd id = some c := by rw [State.cmd, hu]; exact hid
  simp only [State.endCmd, hcmd, hplay, ht, State.onCmdCtx, harea]
  rfl
end

section
variable {s s1 : State} {id : Nat} {c : Command} {bs : List Byte} {p : Bool}

/-- A ring that a command leaves invalid (R237). -/
def State.ringOff (s : State) (cl h : Nat) : State := s.updCluster cl fun k => k.setRing h { k.ring h with valid := false }

theorem ringOff_cmds (s : State) (cl h : Nat) : (s.ringOff cl h).cmds = s.cmds := rfl

theorem finishRinit_bound {h : Nat} (hb : s.ringBound c.cl (ringAt (s.cmdAgent c .rings).l h) = true) : s.finishRinit id c h = none := by
  unfold State.finishRinit
  dsimp only
  rw [if_pos hb]

theorem finishRinit_fault {h : Nat} {w : Option State} (hb : s.ringBound c.cl (ringAt (s.cmdAgent c .rings).l h) = false)
    (hr : s.agentRead (s.cmdAgent c .rings) (c.entry.val 0).toNat 32 = .error (.fault w)) :
    s.finishRinit id c h = some (((w.getD s).ringOff c.cl (ringAt (s.cmdAgent c .rings).l h)).endCmd id (some (7, 2))) := by
  unfold State.finishRinit
  dsimp only
  rw [if_neg (by simp [hb]), hr]
  rfl

/-- A ring's descriptor is good (R236, R237): its base and its slots' size are multiples of 64, its slots lie in scratch, and its reserved bytes
are zero. -/
def RingDescr (bs : List Byte) : Prop :=
  bytesNum bs 0 8 % 64 = 0 ∧ bytesNum bs 8 4 % 64 = 0 ∧ 64 ≤ bytesNum bs 8 4 ∧ bytesNum bs 8 4 ≤ 2 ^ 23 ∧ 0 < bytesNum bs 12 4 ∧
    1 ≤ bytesNum bs 16 1 ∧ bytesNum bs 16 1 ≤ 64 ∧ (∀ z ∈ bs.drop 17, z = 0) ∧
    bytesNum bs 0 8 + bytesNum bs 16 1 * bytesNum bs 8 4 ≤ 2 ^ 23

/-- What `finishRinit` refuses in a descriptor. -/
theorem ringDescr_iff (bs : List Byte) : RingDescr bs ↔
    (bytesNum bs 0 8 % 64 != 0 || bytesNum bs 8 4 % 64 != 0 || bytesNum bs 8 4 < 64 || 2 ^ 23 < bytesNum bs 8 4 || bytesNum bs 12 4 = 0 ||
      bytesNum bs 16 1 < 1 || 64 < bytesNum bs 16 1 || !(bs.drop 17).all (· == 0) ||
      2 ^ 23 < bytesNum bs 0 8 + bytesNum bs 16 1 * bytesNum bs 8 4) = false := by
  simp only [RingDescr, Bool.or_eq_false_iff, bne_eq_false_iff_eq, decide_eq_false_iff_not, Nat.not_lt, Bool.not_eq_false', List.all_eq_true,
    beq_iff_eq, Nat.pos_iff_ne_zero, and_assoc]

/-- The ring that a descriptor sets up (R236): the slot consumed next is that of operand b. -/
def ringOfDescr (bs : List Byte) (cons : Word) (gen : BitVec 16) : Ring :=
  { nslot := BitVec.ofNat 7 (bytesNum bs 16 1), cons := cons.setWidth 6, valid := true, base := BitVec.ofNat 23 (bytesNum bs 0 8)
    slotsz := BitVec.ofNat 32 (bytesNum bs 8 4), target := BitVec.ofNat 32 (bytesNum bs 12 4), gen := gen }

theorem finishRinit_refuses {h : Nat} (hb : s.ringBound c.cl (ringAt (s.cmdAgent c .rings).l h) = false)
    (hr : s.agentRead (s.cmdAgent c .rings) (c.entry.val 0).toNat 32 = .ok (s1, bs, p)) (hd : ¬RingDescr bs) :
    s.finishRinit id c h = some ((s1.ringOff c.cl (ringAt (s.cmdAgent c .rings).l h)).endCmd id (some (7, 2))) := by
  rw [ringDescr_iff, Bool.not_eq_false] at hd
  unfold State.finishRinit
  dsimp only
  rw [if_neg (by simp [hb]), hr]
  dsimp only
  rw [if_pos hd]
  rfl

theorem finishRinit_sets_up {h : Nat} (hb : s.ringBound c.cl (ringAt (s.cmdAgent c .rings).l h) = false)
    (hr : s.agentRead (s.cmdAgent c .rings) (c.entry.val 0).toNat 32 = .ok (s1, bs, p)) (hd : RingDescr bs) :
    s.finishRinit id c h = some ((s1.updCluster c.cl fun k => k.setRing (ringAt (s.cmdAgent c .rings).l h)
      (ringOfDescr bs (c.entry.val 1) ((k.ring (ringAt (s.cmdAgent c .rings).l h)).gen + 1))).endCmd id none) := by
  rw [ringDescr_iff] at hd
  unfold State.finishRinit
  dsimp only
  rw [if_neg (by simp [hb]), hr]
  dsimp only
  rw [if_neg (by rw [hd]; exact Bool.false_ne_true)]
  rfl

theorem finishTload_fault {n : Nat} {w : Option State}
    (hr : s.agentRead (s.cmdAgent c .scratch) (c.entry.val 0).toNat (32 * n) = .error (.fault w)) :
    s.finishTload id c n = some ((w.getD s).endCmd id (some (7, 2))) := by
  unfold State.finishTload
  dsimp only
  rw [hr]
  rfl

theorem finishTload_loads {n : Nat} (harea : c.area = none)
    (hr : s.agentRead (s.cmdAgent c .scratch) (c.entry.val 0).toNat (32 * n) = .ok (s1, bs, p)) :
    s.finishTload id c n =
      some ((s1.updCore (coreOf c.cx) fun k => k.putTmpl ((s1.ctx c.cx).tbase + (c.entry.val 1).toNat) bs n).endCmd id none) := by
  unfold State.finishTload
  dsimp only
  rw [hr]
  simp only [State.cmdCtx, harea]

theorem finishPinwin_fills {q n ser : Nat} (hb : c.bound = some (q, n, ser)) (hv : (mget ({} : Pin) n (s.quad q).pins).valid = true)
    (hs : (mget ({} : Pin) n (s.quad q).pins).serial.toNat = ser) :
    s.finishPinwin id c =
      (State.fillLines (mget ({} : Pin) n (s.quad q).pins).base ((mget ({} : Pin) n (s.quad q).pins).size / 128) s).endCmd id none := by
  simp only [State.finishPinwin, hb, hv, hs, decide_true, Bool.and_true, if_true]

theorem finishTlbinv_ends {mode : BitVec 2} (hnet : ∀ x ∈ s.net, ¬(x.1 < (c.bound.map fun b => b.1).getD 0))
    (hheld : ∀ x ∈ s.ctxs, x.2.held409 = []) : s.finishTlbinv id c mode = some (s.endCmd id none) := by
  unfold State.finishTlbinv
  dsimp only
  rw [if_neg]
  simp only [Bool.or_eq_true, List.any_eq_true, not_or, not_exists, not_and]
  exact ⟨fun x hx => by simp [hnet x hx], fun x hx => by simp [hheld x hx]⟩
end

/-! ### The window of a `MAPWIN` in every die (R323) -/

theorem merase_merase {α : Type} (k : Nat) (m : Map α) : merase k (merase k m) = merase k m := by simp [merase]

theorem setWindow_setWindow (d : Die) (w : Nat) (r : RWindow) : (d.setWindow w r).setWindow w r = d.setWindow w r := by
  unfold Die.setWindow
  split
  · rw [merase_merase]
  · rw [mput_mput]

/-- A change made to each die of a list, which made twice is made once. -/
theorem die_foldl_updDie {f : Die → Die} (hf : ∀ d, f (f d) = f d) (l : List Nat) (s : State) (k : Nat) :
    (l.foldl (fun s d => s.updDie d f) s).die k = if k ∈ l then f (s.die k) else s.die k := by
  induction l generalizing s with
  | nil => rfl
  | cons d ds ih =>
    rw [List.foldl_cons, ih]
    rcases eq_or_ne k d with rfl | hne
    · simp [hf]
    · simp [State.die_updDie_ne s hne, hne]

theorem foldl_updDie_dies (f : Die → Die) (l : List Nat) (s : State) :
    ∃ ds, l.foldl (fun s d => s.updDie d f) s = { s with dies := ds } := by
  induction l generalizing s with
  | nil => exact ⟨s.dies, rfl⟩
  | cons d ds ih => exact ih (s.updDie d f)

end Sys2Proof.Machine

namespace Sys2Proof.Machine

/-! ## Tokens, flags and `ENGFAIL` at the end of a command (R70, R71, R92) -/

theorem tok_of_tokens {c c' : Ctx} (h : c.tokens = c'.tokens) (k : BitVec 6) : c.tok k = c'.tok k := by
  rw [Ctx.tok, Ctx.tok, h]

/-- The end of the command that a token is tracked through decides the token. -/
theorem tok_endToken {c : Ctx} {k : BitVec 6} {ord : Nat} (hk : k ≠ 0) (hof : mget 0 k.toNat c.tokOf = ord) (hp : c.tok k = .pending) (failed : Bool) :
    (c.endToken k ord failed).tok k = if failed then .failed else .complete := by
  have hcond : (k != 0 && mget 0 k.toNat c.tokOf == ord && c.tok k == .pending) = true := by simpa [hof, hp] using hk
  rw [Ctx.endToken, if_pos hcond, Ctx.tok, if_neg (by simpa using hk)]
  exact mget_mset_self _ _ _ _

theorem setDone_tokens (c : Ctx) (t : Tail) : (c.setDone t).tokens = c.tokens := by
  unfold Ctx.setDone
  split <;> rfl

theorem endToken_flags (c : Ctx) (k : BitVec 6) (ord : Nat) (failed : Bool) : (c.endToken k ord failed).flags = c.flags := by
  unfold Ctx.endToken
  split <;> rfl

theorem setDone_flags {t : Tail} (h : t.fen = true) (c : Ctx) : (c.setDone t).flags = c.flags ||| (1 : BitVec 16) <<< t.fnum.toNat := by
  rw [Ctx.setDone, if_pos h]
  rfl

theorem tellEnd_tokens (c : Ctx) (ord : Nat) (failed : Bool) : (c.tellEnd ord failed).tokens = c.tokens := rfl

theorem recordFailure_tokens (c : Ctx) (t : Tail) (kind why : Nat) : (c.recordFailure t kind why).tokens = c.tokens := rfl

theorem tellEnd_flags (c : Ctx) (ord : Nat) (failed : Bool) : (c.tellEnd ord failed).flags = c.flags := rfl

theorem recordFailure_flags (c : Ctx) (t : Tail) (kind why : Nat) : (c.recordFailure t kind why).flags = c.flags := rfl

section
variable {c : Ctx} {t : Tail} {ord : Nat}

theorem commandDone_tok (hk : t.prod ≠ 0) (hof : mget 0 t.prod.toNat c.tokOf = ord) (hp : c.tok t.prod = .pending) :
    (c.commandDone t ord).tok t.prod = .complete := by
  have htok : (c.commandDone t ord).tokens = (c.endToken t.prod ord false).tokens := by
    rw [Ctx.commandDone, setDone_tokens, tellEnd_tokens]
  rw [tok_of_tokens htok, tok_endToken hk hof hp, if_neg Bool.false_ne_true]

theorem commandFailed_tok (hk : t.prod ≠ 0) (hof : mget 0 t.prod.toNat c.tokOf = ord) (hp : c.tok t.prod = .pending) (kind why : Nat) :
    (c.commandFailed t ord kind why).tok t.prod = .failed := by
  have htok : (c.commandFailed t ord kind why).tokens = (c.endToken t.prod ord true).tokens := by
    rw [Ctx.commandFailed, setDone_tokens, recordFailure_tokens, tellEnd_tokens]
  rw [tok_of_tokens htok, tok_endToken hk hof hp, if_pos rfl]

theorem commandDone_flags (hfen : t.fen = true) : (c.commandDone t ord).flags = c.flags ||| (1 : BitVec 16) <<< t.fnum.toNat := by
  rw [Ctx.commandDone, setDone_flags hfen, tellEnd_flags, endToken_flags]

theorem commandFailed_flags (hfen : t.fen = true) (kind why : Nat) :
    (c.commandFailed t ord kind why).flags = c.flags ||| (1 : BitVec 16) <<< t.fnum.toNat := by
  rw [Ctx.commandFailed, setDone_flags hfen, recordFailure_flags, tellEnd_flags, endToken_flags]

/-- A context's failure record (R92). -/
def Ctx.failures (c : Ctx) : Word × Bool := (c.engfail, c.engrec)

theorem setDone_failures (c : Ctx) : (c.setDone t).failures = c.failures := by
  unfold Ctx.setDone
  split <;> rfl

theorem endToken_failures (c : Ctx) (k : BitVec 6) (failed : Bool) : (c.endToken k ord failed).failures = c.failures := by
  unfold Ctx.endToken
  split <;> rfl

theorem commandFailed_failures (kind why : Nat) :
    (c.commandFailed t ord kind why).failures = (failRecord t kind why c.engfail c.engrec, true) := by
  have hend := endToken_failures (ord := ord) c t.prod true
  refine (setDone_failures _).trans ?_
  change (failRecord t kind why (c.endToken t.prod ord true).failures.1 (c.endToken t.prod ord true).failures.2, true) = _
  rw [hend]
  rfl
end

/-! ### The first failure's record (R92) -/

theorem failRecord_bit {t : Tail} (h : t.fen = true) (kind why : Nat) (old : Word) (rec : Bool) :
    (failRecord t kind why old rec).getLsbD t.fnum.toNat = true := by
  have := t.fnum.isLt
  simp [failRecord, h]
  omega

/-- The first failure's token, kind and reason, bit by bit. -/
theorem failRecord_getLsbD (t : Tail) (kind : Nat) (old : Word) {k : Nat} (hk : 16 ≤ k) (hk' : k < 64) :
    (failRecord t kind 1 old false).getLsbD k = (t.prod.getLsbD (k - 16) || (decide (22 ≤ k) && (kind % 8 + 8).testBit (k - 22))) := by
  have hkind : (kind % 8 * 2 ^ 22 + 1 % 4 * 2 ^ 25).testBit k = (decide (22 ≤ k) && (kind % 8 + 8).testBit (k - 22)) := by
    rw [show kind % 8 * 2 ^ 22 + 1 % 4 * 2 ^ 25 = 2 ^ 22 * (kind % 8 + 8) by omega, Nat.testBit_two_pow_mul]
  have hflag : ((1 : Word) <<< t.fnum.toNat).getLsbD k = false := by
    have := t.fnum.isLt
    simp
    omega
  have hfirst : ((old.extractLsb' 0 16).setWidth 64 ||| (t.prod.setWidth 64 <<< 16) |||
      BitVec.ofNat 64 (kind % 8 * 2 ^ 22 + 1 % 4 * 2 ^ 25)).getLsbD k =
        (t.prod.getLsbD (k - 16) || (decide (22 ≤ k) && (kind % 8 + 8).testBit (k - 22))) := by
    rw [BitVec.getLsbD_or, BitVec.getLsbD_or, BitVec.getLsbD_ofNat, hkind]
    simp [hk', Nat.not_lt.mpr hk]
  unfold failRecord
  dsimp only
  rw [if_neg Bool.false_ne_true]
  split
  · rw [BitVec.getLsbD_or, hflag, Bool.or_false, hfirst]
  · exact hfirst

theorem failRecord_first (t : Tail) (kind : Nat) (old : Word) :
    (failRecord t kind 1 old false).extractLsb' 16 6 = t.prod ∧ (failRecord t kind 1 old false).extractLsb' 25 2 = 1 := by
  constructor
  · ext k hk
    rw [BitVec.getElem_extractLsb', failRecord_getLsbD t kind old (by omega) (by omega)]
    simp [BitVec.getLsbD_eq_getElem hk, Nat.not_le.mpr (show 16 + k < 22 by omega)]
  · have hbits : ∀ m < 8, ∀ k < 2, (m + 8).testBit (3 + k) = (1 : BitVec 2).getLsbD k := by decide
    ext k hk
    rw [BitVec.getElem_extractLsb', failRecord_getLsbD t kind old (by omega) (by omega), show 25 + k - 22 = 3 + k by omega,
      hbits (kind % 8) (Nat.mod_lt _ (by decide)) k hk, BitVec.getLsbD_eq_getElem hk]
    simp [BitVec.getLsbD_of_ge t.prod (25 + k - 16) (by omega), show 22 ≤ 25 + k by omega]

end Sys2Proof.Machine

namespace Sys2Proof.Machine

open Sys2Proof.Laws.Encodable (parcelG_pk)

/-! ## The start of a command (R24, R67, R71) -/

/-- What S7's instructions have in common: their slot, and no vector register, no beat of the array and no `NOP` among them. -/
theorem command_kind {i : Instr} {t : Tail} (ht : tailFields i = some t) :
    7 ∈ i.slots ∧ isNop i = false ∧ countsAwc i = false ∧ vWrite i = none := by
  have hall : ((tailFields i).isNone || (i.slots.contains 7 && !isNop i && !countsAwc i && (vWrite i).isNone)) = true := by cases i <;> rfl
  simp only [ht, Option.isNone_some, Bool.false_or, Bool.and_eq_true, Bool.not_eq_true', Option.isNone_iff_eq_none, List.contains_iff_mem] at hall
  exact ⟨hall.1.1.1, hall.1.1.2, hall.1.2, hall.2⟩

theorem exec_command {i : Instr} {t : Tail} (ht : tailFields i = some t) (s : State) : exec i s = aloneCommand (gBitOf i) i s := by
  have hg : ∀ g op x, parcelG (pk g op x) = g := parcelG_pk
  cases i with
  | cpy | stage | rinit | rawait | rrel | lease | lcmd | unlease | lwarm | launch | wstr | bankcfg | tload | pinwin | unpin | swappg | tlbinv
  | mapwin => rw [gBitOf, encodeParcel, hg]; rfl
  | _ => cases ht

/-- A command that the guard turns off completes its token (R24). -/
theorem exec_command_off {i : Instr} {t : Tail} (ht : tailFields i = some t) {s : State} (hoff : (gBitOf i && s.cur.off) = true) :
    exec i s = .next (s.streamed 7 i fun c => c.completeToken t.prod) := by
  obtain ⟨-, hn, -, -⟩ := command_kind ht
  have hoff' : (s.cur.off && parcelG (parcelOf i).w0) = true := by rw [Bool.and_comm]; exact hoff
  rw [exec_command ht, aloneCommand, if_pos hoff]
  refine congrArg Host.Outcome.next (congrArg (s.updCtx s.cur.cx) (funext fun c => ?_))
  simp only [State.issueCtx, hn, hoff', Ctx.guardedOff, ht, Bool.false_eq_true, if_false, if_true]

/-! ### What its issue leaves -/

/-- A named register that a command has yet to write (R69). -/
def Ctx.awaits (c : Ctx) (ord : Nat) (k : Nat) : Ctx :=
  { c.clearPresence (.n c.sys k) with outs := c.outs ++ [{ ord := ord, slot := 7, dst := .n c.sys k, val := none }] }

theorem listOuts_command {c : Ctx} {e : Entry} {i : Instr} (hv : vWrite i = none) (hs : e.slot = 7) (hsys : e.sys = c.sys) :
    c.listOuts e i = match nWrite i with
      | none => c
      | some d => c.awaits e.ord (namedIdx d) := by
  unfold Ctx.listOuts dstsOf
  rw [hv, hsys]
  cases nWrite i with
  | none => rfl
  | some d =>
    simp only [List.append_nil, List.foldl_cons, List.foldl_nil, hs]
    rfl

end Sys2Proof.Machine

namespace Sys2Proof.Machine

/-- What the issue of a command leaves of its context: its phase and level, its faults, its registers' values, its flags and failures. -/
def Ctx.kept (c : Ctx) :=
  ((c.phase, c.sys, c.sfault, c.v), (c.prog.n, c.shad.n), (c.flags, c.engfail, c.engrec, c.guard))

theorem clearPresence_kept (c : Ctx) (sys : Bool) (k : Nat) : (c.clearPresence (.n sys k)).kept = c.kept := by
  cases sys <;> rfl

theorem awaits_kept (c : Ctx) (ord k : Nat) : (c.awaits ord k).kept = c.kept := clearPresence_kept c c.sys k

theorem clearPresence_queues (c : Ctx) (sys : Bool) (k : Nat) : (c.clearPresence (.n sys k)).queues = c.queues := by
  cases sys <;> rfl

theorem awaits_queues (c : Ctx) (ord k : Nat) : (c.awaits ord k).queues = c.queues := clearPresence_queues c c.sys k

theorem makeToken_kept (c : Ctx) (k : BitVec 6) (ord : Nat) : (c.makeToken k ord).kept = c.kept := by
  unfold Ctx.makeToken
  split <;> rfl

theorem makeToken_queues (c : Ctx) (k : BitVec 6) (ord : Nat) : (c.makeToken k ord).queues = c.queues := by
  unfold Ctx.makeToken
  split <;> rfl

theorem makeToken_outs (c : Ctx) (k : BitVec 6) (ord : Nat) : (c.makeToken k ord).outs = c.outs := by
  unfold Ctx.makeToken
  split <;> rfl

/-- A produced token is pending, and tracked through its command. -/
theorem makeToken_pending {k : BitVec 6} (hk : k ≠ 0) (c : Ctx) (ord : Nat) :
    (c.makeToken k ord).tok k = .pending ∧ mget 0 k.toNat (c.makeToken k ord).tokOf = ord := by
  have hk' : ¬(k == 0) = true := by simpa using hk
  rw [Ctx.makeToken, if_neg hk', Ctx.tok, if_neg hk']
  exact ⟨mget_mset_self .complete k.toNat .pending c.tokens, mget_mput_self 0 k.toNat ord c.tokOf⟩

/-- The write that a command has yet to make, with its value where it has one (R69). -/
def commandOuts (i : Instr) (ord : Nat) (sys : Bool) (val : Option OutVal) : List Out :=
  (nWrite i).toList.map fun d => { ord := ord, slot := 7, dst := .n sys (namedIdx d), val := val }

/-- What the issue of a command with nothing outstanding leaves: its entry at the head of its queue, its destination absent, its token
pending. -/
structure State.IssuesCommand (s : State) (i : Instr) (t : Tail) (c : Ctx) : Prop where
  queue : c.queue 7 = [s.cmdNow i]
  outs : c.outs = commandOuts i s.here.ord s.here.sys none
  kept : c.kept = s.here.kept
  ord : c.ord = s.here.ord + 1
  token : t.prod ≠ 0 → c.tok t.prod = .pending ∧ mget 0 t.prod.toNat c.tokOf = s.here.ord

theorem cmdNow_facts {i : Instr} {t : Tail} (ht : tailFields i = some t) (s : State) :
    ((s.cmdNow i).slot = 7 ∧ (s.cmdNow i).ord = s.here.ord ∧ (s.cmdNow i).sys = s.here.sys ∧ (s.cmdNow i).fault = false ∧
      (s.cmdNow i).phase = .queued ∧ (s.cmdNow i).par = parcelOf i ∧ (s.cmdNow i).vals = s.captured i) := by
  simp only [State.cmdNow, Ctx.captureTokens, ht]
  exact ⟨rfl, rfl, rfl, rfl, rfl, rfl, rfl⟩

theorem issuedCtx_command {i : Instr} {t : Tail} (ht : tailFields i = some t) {s : State} (hq : s.here.queues = []) (ho : s.here.outs = []) :
    s.IssuesCommand i t (s.issuedCtx 7 i s.here) := by
  obtain ⟨-, -, ha, hv⟩ := command_kind ht
  obtain ⟨hslot, hord, hsys, -⟩ := cmdNow_facts ht s
  have hbase : ∃ c : Ctx, s.here.listOuts (s.cmdNow i) i = c ∧ c.outs = commandOuts i s.here.ord s.here.sys none ∧ c.kept = s.here.kept ∧
      c.queues = [] := by
    refine ⟨_, listOuts_command hv hslot hsys, ?_⟩
    rw [hord]
    unfold commandOuts
    cases nWrite i with
    | none => exact ⟨ho, rfl, hq⟩
    | some d =>
      exact ⟨congrArg (· ++ _) ho, awaits_kept _ _ _, (awaits_queues _ _ _).trans hq⟩
  obtain ⟨c, hc, houts, hkept, hqueues⟩ := hbase
  have hI : s.issuedCtx 7 i s.here =
      { (c.setQueue 7 [s.cmdNow i]).makeToken t.prod s.here.ord with
        sticky := if oneShot i then merase 7 s.here.sticky else mput 7 (parcelOf i) s.here.sticky
        cursors := s.stepCursors s.cur.cx 7 i s.here.cursors
        ord := s.here.ord + 1 } := by
    have hnow : s.here.captureTokens i (s.entryOf 7 i) = s.cmdNow i := rfl
    have hqueue : s.here.queue 7 = [] := by rw [Ctx.queue, hq]; rfl
    simp only [State.issuedCtx, Ctx.enqueue, hnow, hslot, hord, hc, ha, ht, hqueue, Bool.false_eq_true, if_false, List.nil_append]
  rw [hI]
  refine ⟨?_, (makeToken_outs _ _ _).trans houts, (makeToken_kept _ _ _).trans hkept, rfl, fun hk => makeToken_pending hk _ _⟩
  refine (congrArg (mget [] 7) (makeToken_queues _ _ _)).trans ?_
  exact mget_mset_self [] 7 [s.cmdNow i] c.queues

end Sys2Proof.Machine

namespace Sys2Proof.Machine

/-! ### The head of S7's queue -/

/-- A command's entry decodes to it again (R33). -/
theorem cmdNow_instr {i : Instr} {t : Tail} (hwf : i.wf = true) (ht : tailFields i = some t) (s : State) : (s.cmdNow i).instr = some i := by
  obtain ⟨hslot, -, -, -, -, hpar, -⟩ := cmdNow_facts ht s
  rw [Entry.instr, hslot, hpar, decodeParcel_parcelOf hwf (command_kind ht).1]

/-- What the tokens that a command consumes make of its entry (R71). -/
theorem cmdNow_tokens {i : Instr} {t : Tail} (ht : tailFields i = some t) (s : State) :
    ((s.cmdNow i).waits.isEmpty = true ↔ ∀ k ∈ [t.c1, t.c2, t.c3], s.here.tok k ≠ .pending) ∧
      ((s.cmdNow i).dead = true ↔ ∃ k ∈ [t.c1, t.c2, t.c3], s.here.tok k = .failed) := by
  simp only [State.cmdNow, Ctx.captureTokens, ht, List.isEmpty_iff, List.map_eq_nil_iff, List.filter_eq_nil_iff, beq_iff_eq, List.any_eq_true, ne_eq, and_self]

theorem startHead7_queued {u : State} {cx : Nat} {e : Entry} {i : Instr} (hq : (u.ctx cx).queue 7 = [e]) (hf : e.fault = false)
    (hp : e.phase = .queued) (hi : e.instr = some i) : u.startHead7 cx = u.settle cx e (u.startCmd cx e i) := by
  simp only [State.startHead7, hq, hf, hp, hi]

theorem applyOuts_of_unvalued {c : Ctx} (h : ∀ o ∈ c.outs, o.val = none) (n : Nat) : Ctx.applyOuts n c = c := by
  cases n with
  | zero => rfl
  | succ n =>
    have hfind : (c.outs.find? fun o => o.val.isSome && c.outReady o) = none := List.find?_eq_none.mpr fun o ho => by simp [h o ho]
    rw [Ctx.applyOuts, hfind]

theorem commandOuts_val (i : Instr) (ord : Nat) (sys : Bool) (val : Option OutVal) : ∀ o ∈ commandOuts i ord sys val, o.val = val := by
  simp [commandOuts]

section
variable {s : State} {i : Instr} {t : Tail} (hwf : i.wf = true) (ht : tailFields i = some t) (hon : (gBitOf i && s.cur.off) = false)
  (hheld : streamHeld 7 i s = false) (hpois : firstPoisoned s.here (srcSpecs i) = none) (hcalm : s.calm)
include hwf ht hon hheld hpois hcalm

/-- A command that issues with nothing outstanding stands at the head of its queue, and starts if it can. -/
theorem exec_command_starts : exec i s = (((s.updCtx s.cur.cx (s.issuedCtx 7 i)).settle s.cur.cx (s.cmdNow i)
    ((s.updCtx s.cur.cx (s.issuedCtx 7 i)).startCmd s.cur.cx (s.cmdNow i) i)).landed).out := by
  obtain ⟨hq, ho, -, -, -⟩ := hcalm
  obtain ⟨-, -, -, hfault, hphase, -⟩ := cmdNow_facts ht s
  have hoff : (s.cur.off && parcelG (encodeParcel i).1) = false := by rw [Bool.and_comm]; exact hon
  have hhead : ((s.updCtx s.cur.cx (s.issuedCtx 7 i)).ctx s.cur.cx).queue 7 = [s.cmdNow i] := by
    rw [State.ctx_updCtx]
    exact (issuedCtx_command ht hq ho).queue
  have hpois : firstPoisoned (s.ctx s.cur.cx) (srcSpecs i) = none := hpois
  rw [exec_command ht, aloneCommand, if_neg (by rw [hon]; exact Bool.false_ne_true), if_neg (by rw [hheld]; exact Bool.false_ne_true)]
  simp only [hpois]
  rw [issueAlone_eq (command_kind ht).2.1 hoff, startHead7_queued hhead hfault hphase (cmdNow_instr hwf ht s)]

/-- While a token that it consumes is pending, a command waits at the head of its queue (R71). -/
theorem exec_command_waits (hpend : ∃ k ∈ [t.c1, t.c2, t.c3], s.here.tok k = .pending) :
    exec i s = .next (s.updCtx s.cur.cx (s.issuedCtx 7 i)) := by
  obtain ⟨k, hk, hpend⟩ := hpend
  have hwaits : (s.cmdNow i).waits.isEmpty = false := by
    rw [Bool.eq_false_iff, ne_eq, (cmdNow_tokens ht s).1]
    exact fun h => h k hk hpend
  have hcmd : (s.updCtx s.cur.cx (s.issuedCtx 7 i)).startCmd s.cur.cx (s.cmdNow i) i = .wait := by
    rw [State.startCmd, hwaits]
    rfl
  have houts : ∀ o ∈ (s.issuedCtx 7 i s.here).outs, o.val = none := by
    rw [(issuedCtx_command ht hcalm.1 hcalm.2.1).outs]
    exact commandOuts_val i _ _ _
  rw [exec_command_starts hwf ht hon hheld hpois hcalm, hcmd, State.settle, landed_updCtx, updCtx_congr (applyOuts_of_unvalued houts _)]
  exact out_next hcalm.2.2.2.1
end

theorem kept_regs {c c' : Ctx} (h : c.kept = c'.kept) (k : Nat) : c.prog.get k = c'.prog.get k ∧ c.shad.get k = c'.shad.get k := by
  simp only [Ctx.kept, Prod.mk.injEq] at h
  obtain ⟨-, ⟨hprog, hshad⟩, -⟩ := h
  exact ⟨congrArg (mget 0 k) hprog, congrArg (mget 0 k) hshad⟩

/-- A command that waits stands at the head of its queue. -/
theorem standsAt_issued {s : State} {i : Instr} {t : Tail} (ht : tailFields i = some t) (hq : s.here.queues = []) (ho : s.here.outs = []) :
    s.standsAt (s.updCtx s.cur.cx (s.issuedCtx 7 i)) 7 i .queued := by
  obtain ⟨-, hord, -, hfault, hphase, -, hvals⟩ := cmdNow_facts ht s
  obtain ⟨hqueue, -, hkept, hnext, -⟩ := issuedCtx_command ht hq ho
  have hhere := updCtx_here s (s.issuedCtx 7 i)
  have hregs := kept_regs hkept
  simp only [Ctx.kept, Prod.mk.injEq] at hkept
  obtain ⟨⟨hph, hsys, hsf, hv⟩, -, -⟩ := hkept
  rw [State.standsAt, hhere]
  exact ⟨⟨s.cmdNow i, hqueue, hphase, hfault, hvals, hord⟩, rfl, hph, hsys, hsf, hv, hnext, hregs⟩

end Sys2Proof.Machine

namespace Sys2Proof.Machine

/-! ### A command that consumes a failed token (R71) -/

/-- A context whose command fails without starting: its destination is to keep its value, and the entry is gone. -/
def Ctx.failsDead (t : Tail) (e : Entry) (kind : Nat) (c : Ctx) : Ctx :=
  let x := (c.setOut e.ord e.slot { keep := true }).commandEnds t e.ord e.scm (some (kind, 1))
  x.setQueue e.slot ((x.queue e.slot).filter fun x => x.ord != e.ord)

theorem settle_failDead {i : Instr} {t : Tail} (ht : tailFields i = some t) (s : State) (cx : Nat) (f : Ctx → Ctx) (e : Entry) :
    (s.updCtx cx f).settle cx e (.done ((s.updCtx cx f).failDead cx e i)) = s.updCtx cx fun c => (f c).failsDead t e (deadKind e i) := by
  rw [State.settle, State.dropEntry, State.failDead, ht]
  dsimp only
  rw [State.setOut, updCtx_updCtx, updCtx_updCtx, updCtx_updCtx]
  rfl

section
variable {s : State} {i : Instr} {t : Tail} (hwf : i.wf = true) (ht : tailFields i = some t) (hon : (gBitOf i && s.cur.off) = false)
  (hheld : streamHeld 7 i s = false) (hpois : firstPoisoned s.here (srcSpecs i) = none) (hcalm : s.calm)
include hwf ht hon hheld hpois hcalm

/-- The context after a command that consumes a failed token. -/
theorem exec_command_fails (hnone : ∀ k ∈ [t.c1, t.c2, t.c3], s.here.tok k ≠ .pending)
    (hfail : ∃ k ∈ [t.c1, t.c2, t.c3], s.here.tok k = .failed) :
    exec i s = .next (s.updCtx s.cur.cx fun c =>
      Ctx.applyOuts ((s.issuedCtx 7 i s.here).failsDead t (s.cmdNow i) (deadKind (s.cmdNow i) i)).outs.length
        ((s.issuedCtx 7 i c).failsDead t (s.cmdNow i) (deadKind (s.cmdNow i) i))) := by
  have hcmd : (s.updCtx s.cur.cx (s.issuedCtx 7 i)).startCmd s.cur.cx (s.cmdNow i) i =
      .done ((s.updCtx s.cur.cx (s.issuedCtx 7 i)).failDead s.cur.cx (s.cmdNow i) i) := by
    rw [State.startCmd, (cmdNow_tokens ht s).1.mpr hnone, (cmdNow_tokens ht s).2.mpr hfail]
    rfl
  rw [exec_command_starts hwf ht hon hheld hpois hcalm, hcmd, settle_failDead ht, landed_updCtx]
  exact out_next hcalm.2.2.2.1
end

/-! What of its context the failure changes. -/

theorem setDone_queues (c : Ctx) (t : Tail) : (c.setDone t).queues = c.queues := by
  unfold Ctx.setDone
  split <;> rfl

theorem endToken_queues (c : Ctx) (k : BitVec 6) (ord : Nat) (failed : Bool) : (c.endToken k ord failed).queues = c.queues := by
  unfold Ctx.endToken
  split <;> rfl

theorem queue_of_queues {c c' : Ctx} (h : c.queues = c'.queues) (slot : Nat) : c.queue slot = c'.queue slot := congrArg (mget [] slot) h

theorem queue_setQueue (c : Ctx) (slot : Nat) (q : List Entry) : (c.setQueue slot q).queue slot = q := mget_mset_self [] slot q c.queues

theorem tellEnd_ords (c : Ctx) (ord : Nat) (failed : Bool) : ((c.tellEnd ord failed).queue 7).map Entry.ord = (c.queue 7).map Entry.ord := by
  refine (congrArg (List.map Entry.ord) (queue_setQueue c 7 _)).trans ?_
  rw [List.map_map]
  refine List.map_congr_left fun e _ => ?_
  simp only [Function.comp_apply]
  split <;> rfl

theorem noteScm_ords (c : Ctx) (t : Tail) (ord : Nat) (lines : List Nat) :
    ((c.noteScm t ord lines).queue 7).map Entry.ord = (c.queue 7).map Entry.ord := by
  refine (congrArg (List.map Entry.ord) (queue_setQueue c 7 _)).trans ?_
  rw [List.map_map]
  refine List.map_congr_left fun e _ => ?_
  simp only [Function.comp_apply]
  split <;> rfl

theorem recordFailure_queues (c : Ctx) (t : Tail) (kind why : Nat) : (c.recordFailure t kind why).queues = c.queues := rfl

/-- The end of a command leaves the entries of its queue in their places. -/
theorem commandEnds_ords (c : Ctx) (t : Tail) (ord : Nat) (scm : List Nat) (kind why : Nat) :
    ((c.commandEnds t ord scm (some (kind, why))).queue 7).map Entry.ord = (c.queue 7).map Entry.ord := by
  have hq : ((c.noteScm t ord scm).commandFailed t ord kind why).queues = (((c.noteScm t ord scm).endToken t.prod ord true).tellEnd ord true).queues := by
    rw [Ctx.commandFailed, setDone_queues, recordFailure_queues]
  rw [Ctx.commandEnds, queue_of_queues hq, tellEnd_ords, queue_of_queues (endToken_queues _ _ _ _), noteScm_ords]

/-- What the end of a command leaves of its context besides tokens, flags, failures and what waits on it. -/
def Ctx.unended (c : Ctx) := (c.sys, c.prog, c.shad, c.outs, c.guard.isSome)

theorem commandEnds_unended (c : Ctx) (t : Tail) (ord : Nat) (scm : List Nat) (kind why : Nat) :
    (c.commandEnds t ord scm (some (kind, why))).unended = c.unended := by
  have hdone : ∀ c : Ctx, (c.setDone t).unended = c.unended := by
    intro c
    unfold Ctx.setDone
    split
    · simp [Ctx.unended, Ctx.onSnap, Ctx.setFlags]
    · rfl
  have htok : ∀ c : Ctx, (c.endToken t.prod ord true).unended = c.unended := by
    intro c
    unfold Ctx.endToken
    split <;> rfl
  have hrec : ∀ c : Ctx, (c.recordFailure t kind why).unended = c.unended := by
    intro c
    simp [Ctx.unended, Ctx.onSnap, Ctx.recordFailure]
  have htell : ∀ c : Ctx, (c.tellEnd ord true).unended = c.unended := fun _ => rfl
  rw [Ctx.commandEnds, Ctx.commandFailed, hdone, hrec, htell, htok]
  rfl

end Sys2Proof.Machine

namespace Sys2Proof.Machine

/-! What a failed command leaves. -/

section
variable {s : State} {i : Instr} {t : Tail} {c : Ctx} (ht : tailFields i = some t) (h : s.IssuesCommand i t c) (kind : Nat)
include ht h

theorem failsDead_queue : (c.failsDead t (s.cmdNow i) kind).queue 7 = [] := by
  have hslot := (cmdNow_facts ht s).1
  refine (queue_of_queues (c' := Ctx.setQueue _ 7 _) (by rw [Ctx.failsDead, hslot]) 7).trans ((queue_setQueue _ 7 _).trans ?_)
  rw [List.filter_eq_nil_iff]
  intro x hx
  have hords := commandEnds_ords (c.setOut (s.cmdNow i).ord (s.cmdNow i).slot { keep := true }) t (s.cmdNow i).ord (s.cmdNow i).scm kind 1
  have hmem := List.mem_map_of_mem (f := Entry.ord) (hslot ▸ hx)
  rw [hslot] at hords hmem
  rw [hords] at hmem
  have hqueue : (c.setOut (s.cmdNow i).ord 7 { keep := true }).queue 7 = [s.cmdNow i] := h.queue
  rw [hqueue] at hmem
  simpa using hmem

theorem failsDead_tok (hk : t.prod ≠ 0) : (c.failsDead t (s.cmdNow i) kind).tok t.prod = .failed := by
  obtain ⟨hp, hof⟩ := h.token hk
  exact commandFailed_tok (c := (c.setOut (s.cmdNow i).ord (s.cmdNow i).slot { keep := true }).noteScm t (s.cmdNow i).ord (s.cmdNow i).scm) hk
    (hof.trans (cmdNow_facts ht s).2.1.symm) hp kind 1

omit ht in
theorem failsDead_flags (hfen : t.fen = true) :
    (c.failsDead t (s.cmdNow i) kind).flags = s.here.flags ||| (1 : BitVec 16) <<< t.fnum.toNat := by
  have hkept := h.kept
  simp only [Ctx.kept, Prod.mk.injEq] at hkept
  rw [← hkept.2.2.1]
  exact commandFailed_flags (c := (c.setOut (s.cmdNow i).ord (s.cmdNow i).slot { keep := true }).noteScm t (s.cmdNow i).ord (s.cmdNow i).scm) hfen
    kind 1

omit ht in
theorem failsDead_failures : (c.failsDead t (s.cmdNow i) kind).failures = (failRecord t kind 1 s.here.engfail s.here.engrec, true) := by
  have hkept := h.kept
  simp only [Ctx.kept, Prod.mk.injEq] at hkept
  rw [← hkept.2.2.2.1, ← hkept.2.2.2.2.1]
  exact commandFailed_failures (c := (c.setOut (s.cmdNow i).ord (s.cmdNow i).slot { keep := true }).noteScm t (s.cmdNow i).ord (s.cmdNow i).scm)
    kind 1

theorem failsDead_outs : (c.failsDead t (s.cmdNow i) kind).outs = commandOuts i s.here.ord s.here.sys (some { keep := true }) := by
  obtain ⟨hslot, hord, -⟩ := cmdNow_facts ht s
  have hun := congrArg (fun u => u.2.2.2.1)
    (commandEnds_unended (c.setOut (s.cmdNow i).ord (s.cmdNow i).slot { keep := true }) t (s.cmdNow i).ord (s.cmdNow i).scm kind 1)
  refine Eq.trans hun ?_
  change (c.outs.map fun o => if o.ord = (s.cmdNow i).ord && o.slot = (s.cmdNow i).slot then { o with val := some { keep := true } } else o) = _
  rw [h.outs, hslot, hord, commandOuts, commandOuts, List.map_map]
  exact List.map_congr_left fun d _ => by simp

omit ht in
/-- The registers and the level of the context are as its issue left them. -/
theorem failsDead_regs : (c.failsDead t (s.cmdNow i) kind).sys = s.here.sys ∧
    ∀ k, (c.failsDead t (s.cmdNow i) kind).regs.get k = s.here.regs.get k := by
  have hun := commandEnds_unended (c.setOut (s.cmdNow i).ord (s.cmdNow i).slot { keep := true }) t (s.cmdNow i).ord (s.cmdNow i).scm kind 1
  have hsys : (c.failsDead t (s.cmdNow i) kind).sys = c.sys := congrArg (fun u => u.1) hun
  have hprog : (c.failsDead t (s.cmdNow i) kind).prog = c.prog := congrArg (fun u => u.2.1) hun
  have hshad : (c.failsDead t (s.cmdNow i) kind).shad = c.shad := congrArg (fun u => u.2.2.1) hun
  have hregs := kept_regs h.kept
  have hkept := h.kept
  simp only [Ctx.kept, Prod.mk.injEq] at hkept
  refine ⟨hsys.trans hkept.1.2.1, fun k => ?_⟩
  rw [Ctx.regs, hsys, hprog, hshad, hkept.1.2.1, Ctx.regs]
  split
  · exact (hregs k).2
  · exact (hregs k).1
end

/-! A destination that becomes present with its old value (R69, R71). -/

/-- What the landing of a write leaves of its context. -/
def Ctx.told (c : Ctx) := (c.queues, c.tokens, c.flags, c.engfail, c.engrec)

theorem applyOut_told (c : Ctx) (o : Out) (v : OutVal) {sys : Bool} {k : Nat} (hd : o.dst = .n sys k) : (c.applyOut o v).told = c.told := by
  unfold Ctx.applyOut
  rw [hd]
  dsimp only
  split <;> cases sys <;> rfl

theorem regs_setSet (c : Ctx) (r : RegSet) : (c.setSet c.sys r).regs = r := by
  cases h : c.sys <;> simp [Ctx.setSet, Ctx.regs, h]

theorem regs_onSnap (c : Ctx) (f : Snapshot → Snapshot) : (c.onSnap f).regs = c.regs := rfl

theorem set_sys (c : Ctx) : c.set c.sys = c.regs := rfl

/-- A write to a register of the level that the context is at. -/
theorem applyOut_regs (c : Ctx) (o : Out) (v : OutVal) {k : Nat} (hd : o.dst = .n c.sys k) :
    (c.applyOut o v).regs = c.regs.applyOut k v (!((c.outs.filter fun x => x != o).any fun x => x.dst == o.dst)) := by
  have hset : ∀ (x : Ctx), x.sys = c.sys → x.prog = c.prog → x.shad = c.shad → ∀ last,
      (x.setSet c.sys ((x.set c.sys).applyOut k v last)).regs = c.regs.applyOut k v last := by
    intro x hs hp hh last
    have hx : x.regs = c.regs := by rw [Ctx.regs, Ctx.regs, hs, hp, hh]
    rw [← hs, regs_setSet, set_sys, hx]
  unfold Ctx.applyOut
  dsimp only
  split
  next sys k' hdst =>
    cases hd.symm.trans hdst
    split
    · refine (regs_onSnap _ _).trans (hset _ ?_ ?_ ?_ _) <;> rfl
    · refine hset _ ?_ ?_ ?_ _ <;> rfl
  next hdst => cases hd.symm.trans hdst

/-- A register whose only write keeps its value becomes present with it. -/
theorem applyOut_keeps (r : RegSet) {k : Nat} (hk : k < 32) :
    (∀ j, (r.applyOut k { keep := true } true).get j = r.get j) ∧ (r.applyOut k { keep := true } true).pres.getLsbD k = true := by
  refine ⟨fun _ => rfl, ?_⟩
  change (r.pres ||| (1 : BitVec 32) <<< k).getLsbD k = true
  rw [BitVec.getLsbD_or, BitVec.getLsbD_shiftLeft]
  simp [hk]

/-- The one outstanding write of a command, where it has its value, takes effect. -/
theorem applyOuts_one {c : Ctx} {o : Out} {v : OutVal} {sys : Bool} {k : Nat} (ho : c.outs = [o]) (hv : o.val = some v) (hd : o.dst = .n sys k) :
    Ctx.applyOuts c.outs.length c = c.applyOut o v := by
  have hready : c.outReady o = true := by
    unfold Ctx.outReady
    rw [ho, hd]
    simp
  have hfind : (c.outs.find? fun o => o.val.isSome && c.outReady o) = some o := by
    rw [ho, List.find?_cons_of_pos (by simp [hv, hready])]
  rw [show c.outs.length = 0 + 1 by rw [ho]; rfl, Ctx.applyOuts, hfind]
  dsimp only
  rw [hv]
  rfl

/-- The write of a failed command lands: nothing but its destination changes, which is present with its old value. -/
theorem landed_command {c : Ctx} {i : Instr} {ord : Nat} (ho : c.outs = commandOuts i ord c.sys (some { keep := true })) :
    (Ctx.applyOuts c.outs.length c).told = c.told ∧ ∀ d, nWrite i = some d → namedIdx d < 32 →
      (∀ j, (Ctx.applyOuts c.outs.length c).regs.get j = c.regs.get j) ∧
        (Ctx.applyOuts c.outs.length c).regs.pres.getLsbD (namedIdx d) = true := by
  unfold commandOuts at ho
  cases hn : nWrite i with
  | none =>
    rw [hn] at ho
    have hnil : c.outs = [] := ho
    rw [hnil]
    exact ⟨rfl, fun _ h => nomatch h⟩
  | some d =>
    rw [hn] at ho
    have hone : c.outs = [{ ord := ord, slot := 7, dst := .n c.sys (namedIdx d), val := some { keep := true } }] := ho
    rw [applyOuts_one hone rfl rfl]
    refine ⟨applyOut_told c _ _ rfl, fun d' hd' hlt => ?_⟩
    cases hd'
    rw [applyOut_regs c _ _ rfl, hone]
    have hlast : (!(([{ ord := ord, slot := 7, dst := .n c.sys (namedIdx d), val := some { keep := true } }] : List Out).filter fun x =>
        x != { ord := ord, slot := 7, dst := .n c.sys (namedIdx d), val := some { keep := true } }).any fun x =>
          x.dst == .n c.sys (namedIdx d)) = true := by simp
    rw [hlast]
    exact applyOut_keeps c.regs hlt

end Sys2Proof.Machine

namespace Sys2Proof.Machine

/-- A command's destination is a named register. -/
theorem nWrite_command_lt {i : Instr} {t : Tail} (ht : tailFields i = some t) (hwf : i.wf = true) {d : Spec} (hd : nWrite i = some d) :
    namedIdx d < 32 := by
  have hnamed : isNamed d = true := by
    cases i with
    | rawait | lease | pinwin | swappg =>
      cases hd
      simp only [Instr.wf, Bool.and_eq_true] at hwf
      tauto
    | cpy | stage | rinit | rrel | lcmd | unlease | lwarm | launch | wstr | bankcfg | tload | unpin | tlbinv | mapwin => cases hd
    | _ => cases ht
  simp only [isNamed, Bool.and_eq_true, decide_eq_true_eq] at hnamed
  rw [namedIdx]
  omega

/-- The parts of a context that what has landed leaves alone. -/
theorem told_parts {c c' : Ctx} (h : c.told = c'.told) :
    (∀ k, c.queue k = c'.queue k) ∧ (∀ k, c.tok k = c'.tok k) ∧ c.flags = c'.flags ∧ c.failures = c'.failures := by
  simp only [Ctx.told, Prod.mk.injEq] at h
  obtain ⟨hq, htok, hflags, hfail, hrec⟩ := h
  refine ⟨queue_of_queues hq, tok_of_tokens htok, hflags, ?_⟩
  rw [Ctx.failures, Ctx.failures, hfail, hrec]

/-- What stands in a context after a command that consumes a failed token (R71, R92). -/
structure State.CommandFailed (s : State) (i : Instr) (t : Tail) (kind : Nat) (c : Ctx) : Prop where
  queue : c.queue 7 = []
  token : t.prod ≠ 0 → c.tok t.prod = .failed
  flag : t.fen = true → c.flags = s.here.flags ||| (1 : BitVec 16) <<< t.fnum.toNat
  failures : c.failures = (failRecord t kind 1 s.here.engfail s.here.engrec, true)
  dest : ∀ d, nWrite i = some d → c.regs.get (namedIdx d) = s.here.regs.get (namedIdx d) ∧ c.regs.pres.getLsbD (namedIdx d) = true

theorem commandFailed_of_issues {s : State} {i : Instr} {t : Tail} {c : Ctx} (hwf : i.wf = true) (ht : tailFields i = some t)
    (h : s.IssuesCommand i t c) (kind : Nat) :
    s.CommandFailed i t kind (Ctx.applyOuts (c.failsDead t (s.cmdNow i) kind).outs.length (c.failsDead t (s.cmdNow i) kind)) := by
  obtain ⟨hsys, hget⟩ := failsDead_regs h kind
  obtain ⟨htold, hdest⟩ := landed_command (c := c.failsDead t (s.cmdNow i) kind) (i := i) (ord := s.here.ord)
    (by rw [hsys]; exact failsDead_outs ht h kind)
  obtain ⟨hqueue, htok, hflags, hfail⟩ := told_parts htold
  refine ⟨(hqueue 7).trans (failsDead_queue ht h kind), fun hk => (htok t.prod).trans (failsDead_tok ht h kind hk),
    fun hfen => hflags.trans (failsDead_flags h kind hfen), hfail.trans (failsDead_failures h kind), fun d hd => ?_⟩
  obtain ⟨hkeep, hpres⟩ := hdest d hd (nWrite_command_lt ht hwf hd)
  exact ⟨(hkeep _).trans (hget _), hpres⟩

/-- The failure record that a failed command leaves, as `ENGFAIL` shows it. -/
theorem engfail_of_commandFailed {s : State} {i : Instr} {t : Tail} {kind : Nat} {c : Ctx} (h : s.CommandFailed i t kind c) :
    (t.fen = true → c.engfail.getLsbD t.fnum.toNat = true) ∧
      (s.here.engrec = false → c.engfail.extractLsb' 16 6 = t.prod ∧ c.engfail.extractLsb' 25 2 = 1) ∧ c.engrec = true := by
  have hfail := h.failures
  simp only [Ctx.failures, Prod.mk.injEq] at hfail
  obtain ⟨hfail, hrec⟩ := hfail
  rw [hfail]
  refine ⟨fun hfen => failRecord_bit hfen _ _ _ _, fun hfirst => ?_, hrec⟩
  rw [hfirst]
  exact failRecord_first t kind _

end Sys2Proof.Machine

namespace Sys2Proof.Machine

/-- Settles O41: what a command's issue leaves decides the first two parts; the third is what ending a command does to tokens and flags; in the
fourth each command's end is its own function, which leaves the commands in progress as they were but for the one that ends. -/
theorem commandsEnd : Obligations.CommandsEnd := by
  unfold Obligations.CommandsEnd
  refine ⟨?off, ?starts, ?tokens, ?ends⟩
  case off =>
    rintro g i t s - ht rfl hoff
    exact exec_command_off ht hoff
  case starts =>
    rintro g i t s hwf ht rfl hheld hpois hcalm ks
    refine ⟨fun hon hpend => ⟨_, exec_command_waits hwf ht hon hheld hpois hcalm hpend, standsAt_issued ht hcalm.1 hcalm.2.1⟩,
      fun hon hnone hfail => ⟨_, exec_command_fails hwf ht hon hheld hpois hcalm hnone hfail, ?_⟩⟩
    have hfailed := commandFailed_of_issues hwf ht (issuedCtx_command ht hcalm.1 hcalm.2.1) (deadKind (s.cmdNow i) i)
    obtain ⟨hbit, hfirst, hrec⟩ := engfail_of_commandFailed hfailed
    obtain ⟨hqueue, htok, hflag, -, hdest⟩ := hfailed
    rw [updCtx_here]
    exact ⟨hqueue, htok, fun hfen => ⟨hflag hfen, hbit hfen⟩, hfirst, hrec, hdest, rfl, rfl, rfl, rfl⟩
  case tokens =>
    intro c t ord hk hof hp
    exact ⟨commandDone_tok hk hof hp, commandFailed_tok hk hof hp 7 2, commandDone_flags⟩
  case ends =>
    intro s s1 id c i t bs p hid hplay harea hi ht out ends done failed
    have he : c.Ends s id t := ⟨hid, hplay, harea, by rw [hi]; exact ht⟩
    have hplain : endsPlainly i = true → done s := fun h =>
      (completion_plain hid hplay hi h).trans (congrArg Host.Outcome.next (endCmd_eq_ended he rfl none))
    refine ⟨?stage, ?rrel, ?lwarm, ?unpin, ?unlease, ?swappg, ?rinit, ?tload, ?pinwin, ?tlbinv, ?mapwin⟩
    case stage => rintro g a rfl; exact hplain rfl
    case rrel => rintro g a r rfl; exact hplain rfl
    case lwarm => rintro g k w rfl; exact hplain rfl
    case unpin => rintro g a rfl; exact hplain rfl
    case unlease => rintro g a rfl; exact hplain rfl
    case swappg =>
      rintro g a b d rfl
      have hcompl := completion_swappg hid hplay hi
      refine ⟨fun hb => hcompl.trans ?_, fun hb => hcompl.trans ?_⟩
      · rw [if_pos hb]
        exact congrArg Host.Outcome.next (endCmd_eq_ended he rfl none)
      · rw [if_neg (by rw [hb]; exact Bool.false_ne_true)]
    case rinit =>
      rintro g a b ring rfl
      intro h num ok off
      have hcompl := completion_rinit hid hplay hi
      refine ⟨fun hb => hcompl.trans (by rw [finishRinit_bound hb]; rfl), fun w hb hr => ?_,
        fun hb hr => ⟨fun hd => ?_, fun hd => ?_⟩⟩
      · rw [finishRinit_fault hb hr] at hcompl
        exact hcompl.trans (congrArg Host.Outcome.next (endCmd_eq_ended he ((ringOff_cmds _ _ _).trans (agentRead_fault_cmds hr)) _))
      · rw [finishRinit_refuses hb hr hd] at hcompl
        exact hcompl.trans (congrArg Host.Outcome.next (endCmd_eq_ended he ((ringOff_cmds _ _ _).trans (agentRead_cmds hr)) _))
      · rw [finishRinit_sets_up hb hr hd] at hcompl
        exact hcompl.trans (congrArg Host.Outcome.next (endCmd_eq_ended he ((State.updCluster_cmds _ _ _).trans (agentRead_cmds hr)) none))
    case tload =>
      rintro g a b n rfl -
      refine ⟨fun w hr hbad => ?_, fun hr hbad => ?_⟩
      · have hend := endCmd_eq_ended he (agentRead_fault_cmds hr) (some (7, 2))
        refine (completion_tload hid hplay hi (finishTload_fault hr)).trans ?_
        rw [hend]
        exact out_next hbad
      · have hend := endCmd_eq_ended he ((State.updCore_cmds _ (coreOf c.cx) fun k =>
          k.putTmpl ((s1.ctx c.cx).tbase + (c.entry.val 1).toNat) bs (n.toNat + 1)).trans (agentRead_cmds hr)) none
        refine (completion_tload hid hplay hi (finishTload_loads harea hr)).trans ?_
        rw [hend]
        exact out_next hbad
    case pinwin =>
      rintro g a b d q n ser rfl hb w hv hser
      refine (completion_pinwin hid hplay hi).trans ?_
      rw [finishPinwin_fills hb hv hser]
      exact congrArg Host.Outcome.next (endCmd_eq_ended he (fillLines_cmds _ _ _) none)
    case tlbinv =>
      rintro g a b mode rfl hnet hheld
      refine (completion_tlbinv hid hplay hi).trans ?_
      rw [finishTlbinv_ends hnet hheld]
      exact congrArg Host.Outcome.next (endCmd_eq_ended he rfl none)
    case mapwin =>
      rintro g a b w exact rfl
      have hdies := foldl_updDie_dies (fun y => y.setWindow w.toNat (mapwinOf c.entry exact)) s.domainDies s
      have hdie := die_foldl_updDie (f := fun y => y.setWindow w.toNat (mapwinOf c.entry exact)) (fun d => setWindow_setWindow d w.toNat (mapwinOf c.entry exact)) s.domainDies s
      obtain ⟨ds, hds⟩ := hdies
      refine ⟨s.domainDies.foldl (fun s d => s.updDie d fun y => y.setWindow w.toNat (mapwinOf c.entry exact)) s,
        (completion_mapwin hid hplay hi).trans ?_, ?_, hdie⟩
      · exact congrArg Host.Outcome.next (endCmd_eq_ended he (by rw [hds]) none)
      · rw [hds]

end Sys2Proof.Machine

/-! # Control of a context (R78–R93) -/

namespace Sys2Proof.Machine

/-! ## An S0 op that executes -/

section
variable {g : Bool} {i : Instr} {op : State → State → Except Trap State} {post : State → State → State} {s : State} {c : Ctx}
  (hexec : exec i s = aloneCtl g i op post s) (h : s.runs0 g i)
include hexec h

theorem exec_ctl_traps {t : Trap} (hop : op s s = .error t) : exec i s = .next (s.takePrecise t) :=
  hexec.trans (aloneCtl_traps h hop)

/-- An S0 op that leaves every part but the context at hand, which becomes `c`. -/
theorem exec_ctl_becomes {s' : State} {f : Ctx → Ctx} (hop : op s s = .ok s')
    (hpost : post s s' = s.updCtx s.cur.cx f) (hf : f s.here = c) :
    ∃ t, exec i s = .next t ∧ OnlyCtx s.cur.cx s t ∧ t.here = c := by
  refine ⟨s.updCtx s.cur.cx f, (hexec.trans (aloneCtl_effect h hop)).trans ?_, updCtx_onlyCtx s s.cur.cx f, (updCtx_here s f).trans hf⟩
  rw [hpost]
  exact out_next h.2.2

end

theorem exec_br (g : Bool) (off : BitVec 24) (s : State) :
    exec (.br g off) s = aloneCtl g (.br g off) (fun _ s => brOp off s) (fun _ s => brPost off s) s := rfl
theorem exec_call (g : Bool) (off : BitVec 24) (s : State) :
    exec (.call g off) s = aloneCtl g (.call g off) (fun _ s => callOp off s) (fun _ s => callPost off s) s := rfl
theorem exec_jmp (g : Bool) (a : Spec) (s : State) : exec (.jmp g a) s = aloneCtl g (.jmp g a) (jmpOp a) (jmpPost a) s := rfl
theorem exec_ret (g : Bool) (s : State) : exec (.ret g) s = aloneCtl g (.ret g) retOp retPost s := rfl
theorem exec_brx (g : Bool) (u : BitVec 14) (s : State) :
    exec (.brx g u) s = aloneCtl g (.brx g u) (fun _ s => .ok s) (fun _ s => brxPost u s) s := rfl

/-! ## Transfers of control (R17, R78, R79) -/

section
variable {pc : Nat} {off : BitVec 24}

/-- A relative target lies in the bank (R17). -/
def InBank (pc : Nat) (off : BitVec 24) : Prop := 0 ≤ (pcIdx pc : Int) + off.toInt ∧ (pcIdx pc : Int) + off.toInt < 16384

theorem relTarget_inside (h : InBank pc off) : relTarget pc off = some (mkPc (pcBank pc) ((pcIdx pc : Int) + off.toInt).toNat) := by
  simpa [relTarget, InBank] using h

theorem relTarget_leaving (h : ¬InBank pc off) : relTarget pc off = none := by
  simpa [relTarget, InBank] using h
end

/-- An absolute target names the current bank in its 15 bits (R17). -/
def NamesBank (pc : Nat) (v : Word) : Prop := v.toNat < 2 ^ 15 ∧ v.toNat / 2 ^ 14 = pcBank pc

theorem namesBank_iff (pc : Nat) (v : Word) : (v >>> 15 == 0 && v.toNat / 2 ^ 14 == pcBank pc) = true ↔ NamesBank pc v := by
  have hshift : v >>> 15 = 0#64 ↔ v.toNat < 2 ^ 15 := by
    rw [← BitVec.toNat_inj, BitVec.toNat_ushiftRight, Nat.shiftRight_eq_div_pow, BitVec.toNat_ofNat]
    omega
  simp [NamesBank, hshift]

theorem absTarget_inside {pc : Nat} {v : Word} (h : NamesBank pc v) : absTarget pc v = some (mkPc (pcBank pc) (v.toNat % 2 ^ 14)) := by
  rw [absTarget, if_pos ((namesBank_iff pc v).mpr h), pcOfArch, ← h.2, Nat.mod_eq_of_lt]
  have := h.1
  omega

theorem absTarget_leaving {pc : Nat} {v : Word} (h : ¬NamesBank pc v) : absTarget pc v = none := by
  rw [absTarget, if_neg fun hc => h ((namesBank_iff pc v).mp hc)]

/-- A taken transfer leaves the loops whose body holds its target (R79). -/
theorem goto_eq (c : Ctx) (pc : Nat) : c.goto pc =
    { c with pc := pc, loops := c.loops.dropWhile fun e => !(decide (e.start ≤ pc) && decide (pc < e.stop)), mid := false, rcLeft := 0 } := by
  rw [Ctx.goto, loopLeave_eq]

end Sys2Proof.Machine

namespace Sys2Proof
open Machine

/-- Settles O10: each transfer by where its target lies. -/
theorem branches : Obligations.Branches := by
  unfold Obligations.Branches
  intro g off a u s bank rel goes left traps
  refine ⟨?br, ?call, ?jmp, ?ret, ?brx⟩
  case br =>
    refine fun hrun => ⟨fun h => ?_, fun h => ?_⟩
    · have ht : relTarget s.cur.pc off = some (mkPc bank rel.toNat) := relTarget_inside h
      exact exec_ctl_becomes (exec_br g off s) hrun (if_pos (by rw [ht]; rfl)) (by simp only [brPost, ht]; rfl) (goto_eq _ _)
    · exact exec_ctl_traps (exec_br g off s) hrun (by simp only [brOp, relTarget_leaving h]; rfl)
  case call =>
    refine fun hrun => ⟨fun h => ?_, fun h => ?_⟩
    · have ht : relTarget s.cur.pc off = some (mkPc bank rel.toNat) := relTarget_inside h
      refine exec_ctl_becomes (exec_call g off s) hrun (if_pos (by rw [ht]; rfl)) (updCtx_updCtx s s.cur.cx _ _) ?_
      simp only [State.updCtx, State.setCtx, ht, Ctx.setRegs_loops, linkOf]
    · exact exec_ctl_traps (exec_call g off s) hrun (by simp only [callOp, relTarget_leaving h]; rfl)
  case jmp =>
    refine fun hrun => ⟨fun h => ?_, fun h => ?_⟩
    · have ht := absTarget_inside h
      exact exec_ctl_becomes (exec_jmp g a s) hrun (if_pos (by rw [ht]; rfl)) (by simp only [jmpPost, ht]; rfl) (goto_eq _ _)
    · exact exec_ctl_traps (exec_jmp g a s) hrun (by simp only [jmpOp, absTarget_leaving h]; rfl)
  case ret =>
    refine fun hrun => ⟨fun h => ?_, fun h => ?_⟩
    · have ht := absTarget_inside h
      exact exec_ctl_becomes (exec_ret g s) hrun (if_pos (by rw [ht]; rfl)) (by simp only [retPost, ht]; rfl) (goto_eq _ _)
    · exact exec_ctl_traps (exec_ret g s) hrun (by simp only [retOp, absTarget_leaving h]; rfl)
  case brx => exact fun hrun => exec_ctl_becomes (exec_brx g u s) hrun rfl rfl rfl
end Sys2Proof

namespace Sys2Proof.Machine

/-! ## The loop stack (R79) -/

theorem exec_loop (g : Bool) (a : Spec) (len : BitVec 12) (s : State) :
    exec (.loop g a len) s = aloneCtl g (.loop g a len) (loopOp a len) (loopPost a len) s := rfl

section
variable {c : Ctx} {nxt : Nat} {e : LoopEntry} {es : List LoopEntry}

theorem fallThrough_of_no_loop (h : c.loops = []) : c.fallThrough nxt = { c with pc := nxt, mid := false, rcLeft := 0 } := by
  simp only [Ctx.fallThrough, h, loopEnd, Option.getD_none]

theorem fallThrough_back (h : c.loops = e :: es) (he : e.stop = nxt) (hc : 1 < e.count) :
    c.fallThrough nxt = { c with pc := e.start, loops := { e with count := e.count - 1 } :: es, mid := false, rcLeft := 0 } := by
  simp only [Ctx.fallThrough, h, loopEnd, he, hc, if_true, Option.getD_some]

theorem fallThrough_pops (h : c.loops = e :: es) (he : e.stop = nxt) (hc : e.count ≤ 1) :
    c.fallThrough nxt = { c with loops := es }.fallThrough nxt := by
  simp only [Ctx.fallThrough, h, loopEnd, he, Nat.not_lt.mpr hc, if_true, if_false]

theorem fallThrough_inside (h : c.loops = e :: es) (he : e.stop ≠ nxt) : c.fallThrough nxt = { c with pc := nxt, mid := false, rcLeft := 0 } := by
  simp only [Ctx.fallThrough, h, loopEnd, he, if_false, Option.getD_none]
end

section
variable {a : Spec} {len : BitVec 12} {s : State}

theorem loopOp_past_bank (h : 16384 < pcIdx s.cur.nxt + len.toNat) : loopOp a len s s = .error { cause := 0x02, slot := 0, info1 := 0 } := by
  simp only [loopOp, h, if_true]
  rfl

theorem loopOp_of_room (hb : pcIdx s.cur.nxt + len.toNat ≤ 16384) :
    loopOp a len s s = if (specVal s s.cur.cx a).toNat < 2 ^ 32 ∧ (s.ctx s.cur.cx).loops.length < 2 then .ok s
      else .error { cause := 0x04, slot := 0, info1 := specVal s s.cur.cx a } := by
  simp only [loopOp, Nat.not_lt.mpr hb, if_false]
  by_cases h : (specVal s s.cur.cx a).toNat < 2 ^ 32 ∧ (s.ctx s.cur.cx).loops.length < 2
  · rw [if_pos h, if_neg]
    simp only [Bool.or_eq_true, decide_eq_true_eq]
    omega
  · rw [if_neg h, if_pos]
    · rfl
    · simp only [Bool.or_eq_true, decide_eq_true_eq]
      omega

theorem loopPost_skips (h : s.opnd a = 0) : loopPost a len s s = s.updCtx s.cur.cx fun c => c.fallThrough (s.cur.nxt + len.toNat) := by
  unfold State.opnd at h
  simp only [loopPost, h, if_true]

theorem loopPost_enters (h : s.opnd a ≠ 0) : loopPost a len s s = s.updCtx s.cur.cx fun c =>
    { c with
      loops := ⟨s.cur.nxt, s.cur.nxt + len.toNat, pcBank s.cur.pc, (s.opnd a).toNat⟩ :: c.loops
      pc := s.cur.nxt, mid := false, rcLeft := 0 } := by
  unfold State.opnd at h ⊢
  simp only [loopPost, h, if_false]

end

end Sys2Proof.Machine

namespace Sys2Proof
open Machine

/-- Settles O11: `LOOP` by its count and the room on the stack, and the end of a body by the innermost loop. -/
theorem loops : Obligations.Loops := by
  unfold Obligations.Loops
  refine ⟨?loop, fun c nxt e es h => ⟨fallThrough_back h, fallThrough_pops h, fallThrough_inside h⟩, fun c nxt => fallThrough_of_no_loop⟩
  intro g a len s hrun v stop
  refine ⟨fun hb => ⟨fun h => ?_, fun h => ?_⟩, fun hb => exec_ctl_traps (exec_loop g a len s) hrun (loopOp_past_bank hb)⟩
  · have hop : loopOp a len s s = .ok s := (loopOp_of_room hb).trans (if_pos h)
    exact ⟨fun hv => exec_ctl_becomes (exec_loop g a len s) hrun hop (loopPost_enters fun h0 => hv (congrArg BitVec.toNat h0)) rfl,
      fun hv => exec_ctl_becomes (exec_loop g a len s) hrun hop (loopPost_skips (BitVec.eq_of_toNat_eq hv)) rfl⟩
  · exact exec_ctl_traps (exec_loop g a len s) hrun ((loopOp_of_room hb).trans (if_neg h))

end Sys2Proof

namespace Sys2Proof.Machine

/-! ## The flag ops (R80, R310) -/

theorem exec_waitf (g : Bool) (mask : BitVec 16) (s : State) :
    exec (.waitf g mask) s = aloneCtl g (.waitf g mask) (waitfOp mask) (fun _ s => s) s := rfl
theorem exec_peekf (g : Bool) (mask : BitVec 16) (s : State) :
    exec (.peekf g mask) s = aloneCtl g (.peekf g mask) (peekfOp mask) (fun _ s => s) s := rfl
theorem exec_setf (g : Bool) (mask : BitVec 16) (s : State) :
    exec (.setf g mask) s = aloneCtl g (.setf g mask) (fun _ s => .ok (setfOp mask s)) (fun _ s => s) s := rfl
theorem exec_clrf (g : Bool) (mask : BitVec 16) (s : State) :
    exec (.clrf g mask) s = aloneCtl g (.clrf g mask) (fun _ s => .ok (clrfOp mask s)) (fun _ s => s) s := rfl

theorem hasFlags_iff (c : Ctx) (mask : BitVec 16) : c.hasFlags mask = true ↔ c.flags &&& mask = mask := by simp [Ctx.hasFlags]

theorem ffail_eq (c : Ctx) : c.ffail = c.engfail.setWidth 16 := by
  ext i hi
  simp [Ctx.ffail, BitVec.getElem_extractLsb', BitVec.getElem_setWidth]

/-- A failed masked flag traps `ENGINE_FAIL` (R80). -/
theorem waitTrap_of_failed {mask : BitVec 16} {s : State} (h : s.here.engfail.setWidth 16 &&& mask ≠ 0) :
    ∃ tr : Trap, tr.cause = 0x0F ∧ tr.slot = 0 ∧ waitTrap mask s = some tr := by
  rw [← ffail_eq] at h
  exact ⟨_, rfl, rfl, if_neg h⟩

theorem waitTrap_of_none {mask : BitVec 16} {s : State} (h : s.here.engfail.setWidth 16 &&& mask = 0) : waitTrap mask s = none := by
  rw [← ffail_eq] at h
  exact if_pos h

/-- What a wait on flags moves to the lines that a `PERSIST` covers (R310). -/
theorem mem_coverFlags_unpersisted (c : Ctx) (mask : BitVec 16) (l : Nat) :
    l ∈ (c.coverFlags mask).unpersisted ↔ l ∈ c.unpersisted ∨ ∃ p ∈ c.flagScm, mask.getLsbD p.1 = true ∧ l ∈ p.2 := by
  simp only [Ctx.coverFlags, List.mem_append, List.mem_flatMap, List.mem_filter, and_assoc]

theorem mem_coverFlags_flagScm (c : Ctx) (mask : BitVec 16) (p : Nat × List Nat) :
    p ∈ (c.coverFlags mask).flagScm ↔ p ∈ c.flagScm ∧ mask.getLsbD p.1 = false := by
  simp only [Ctx.coverFlags, List.mem_filter, Bool.not_eq_true']

end Sys2Proof.Machine

namespace Sys2Proof
open Machine

/-- Settles O12: `WAITF` and `PEEKF` by the masked flags and failure bits; `SETF` and `CLRF` outright. -/
theorem flagOps : Obligations.FlagOps := by
  unfold Obligations.FlagOps
  intro g mask s hbad failed becomes waits
  have runs0 : ∀ {i}, s.runs g i → s0Waits i s = false → s.runs0 g i := fun h hw => ⟨h, hw, hbad⟩
  have ready : s.here.flags &&& mask = mask → (!s.here.hasFlags mask) = false := fun h => by rw [(hasFlags_iff _ _).mpr h]; rfl
  have unready : s.here.flags &&& mask ≠ mask → (!s.here.hasFlags mask) = true := fun h => by simpa [Ctx.hasFlags] using h
  have covers : ∀ {i} (f : BitVec 16), (∃ t, exec i s = .next t ∧ OnlyCtx s.cur.cx s t ∧ t.here = { s.here.coverFlags mask with flags := f }) → waits i f := by
    rintro i f ⟨t, ht, honly, hhere⟩
    refine ⟨t, ht, honly, ?_, ?_, ?_⟩ <;> rw [hhere]
    · rfl
    · exact mem_coverFlags_unpersisted s.here mask
    · exact mem_coverFlags_flagScm s.here mask
  refine ⟨fun hrun => ⟨fun h => ?_, fun h hf => ?_, fun h hf => ?_⟩, fun hrun => ⟨fun h => ?_, fun h hf => ?_, fun h hf => ?_⟩,
    fun hrun => exec_ctl_becomes (exec_setf g mask s) (runs0 hrun rfl) rfl rfl rfl,
    fun hrun => exec_ctl_becomes (exec_clrf g mask s) (runs0 hrun rfl) rfl rfl rfl⟩
  · exact (exec_waitf g mask s).trans (aloneCtl_waits hrun (unready h))
  · obtain ⟨tr, hc, hs, htr⟩ := waitTrap_of_failed hf
    exact ⟨tr, hc, hs, exec_ctl_traps (exec_waitf g mask s) (runs0 hrun (ready h)) (by simp only [waitfOp, htr])⟩
  · exact covers _ (exec_ctl_becomes (exec_waitf g mask s) (runs0 hrun (ready h)) (by simp only [waitfOp, waitTrap_of_none hf]; rfl) rfl rfl)
  · exact (exec_peekf g mask s).trans (aloneCtl_waits hrun (unready h))
  · obtain ⟨tr, hc, hs, htr⟩ := waitTrap_of_failed hf
    exact ⟨tr, hc, hs, exec_ctl_traps (exec_peekf g mask s) (runs0 hrun (ready h)) (by simp only [peekfOp, htr])⟩
  · exact covers _ (exec_ctl_becomes (exec_peekf g mask s) (runs0 hrun (ready h)) (by simp only [peekfOp, waitTrap_of_none hf]; rfl) rfl rfl)

end Sys2Proof

/-! # A command's number shared (R83, R265)

A state's list of commands is a list of pairs, and no obligation about a context's exit asks that its numbers differ. Where two
commands stand under one number, ending the one of the context at hand ends the first of that number. -/
namespace Sys2Proof.Machine

/-- A `LEASE` of a context at the bench, in progress. -/
def leaseInProgress (cx : Nat) : Command :=
  { cx := cx, cl := 0,
    entry :=
      { slot := 7, par := parcelOf (.lease false { prod := 0, c1 := 0, c2 := 0, c3 := 0, fen := false, fnum := 0 } 16 0 0), vals := [],
        cur := 0, cur2 := 0, rep := 0, pc := 0, ord := 0, sys := false, ckpt := false, fault := false, phase := .queued } }

/-- The machine at reset, but for two commands in progress under number 0: context 1's first, then context 0's. -/
def sharedNumber : State := { State.reset with cmds := [(0, leaseInProgress 1), (0, leaseInProgress 0)] }

/-- `sharedNumber` with context 0 in the handler of a trap taken while it retired (`EXITED`). -/
def sharedNumberInHandler : State := sharedNumber.updCtx 0 fun c => { c with sys := true, trapcause := 1 <<< 19 }

theorem engrec_of_exit_sharedNumber : ((sharedNumber.after (exec (.exit false) sharedNumber)).ctx 1).engrec = true := by decide

theorem engrec_of_rft_sharedNumberInHandler :
    ((sharedNumberInHandler.after (exec (.rft false) sharedNumberInHandler)).ctx 1).engrec = true := by decide

theorem sharedNumber_runs0 : sharedNumber.runs0 false (.exit false) := by
  refine ⟨⟨?_, ?_, ?_⟩, ?_, ?_⟩ <;> rfl

theorem sharedNumberInHandler_runs0 : sharedNumberInHandler.runs0 false (.rft false) := by
  refine ⟨⟨?_, ?_, ?_⟩, ?_, ?_⟩ <;> rfl

end Sys2Proof.Machine

namespace Sys2Proof
open Machine

/-- Refutes O13: its clause on `EXIT` says that no other context changes, of any state. Where a command of context 1 stands under
the number of context 0's pending request, `EXIT` of context 0 ends context 1's and notes its failure there. -/
theorem not_waitsAndExits : ¬ Obligations.WaitsAndExits := by
  unfold Obligations.WaitsAndExits
  rintro ⟨-, hexit⟩
  obtain ⟨t, ht, -, -, hother, -⟩ := hexit false sharedNumber sharedNumber_runs0
  have hnoted : (t.ctx 1).engrec = true := by simpa [ht, State.after] using engrec_of_exit_sharedNumber
  rw [hother 1 (by decide)] at hnoted
  exact absurd hnoted (by decide)

/-- Refutes O15: `RFT` that resumes retirement withdraws the handler's pending requests, and where a command of context 1 stands
under the number of one of them it is context 1 that changes. -/
theorem not_returnFromTrap : ¬ Obligations.ReturnFromTrap := by
  unfold Obligations.ReturnFromTrap
  intro h
  obtain ⟨t, ht, -, hother, -⟩ := h false sharedNumberInHandler sharedNumberInHandler_runs0 rfl
  have hnoted : (t.ctx 1).engrec = true := by simpa [ht, State.after] using engrec_of_rft_sharedNumberInHandler
  rw [hother 1 (by decide)] at hnoted
  exact absurd hnoted (by decide)

end Sys2Proof

/-! # Traps (R75, R76, R84, R89–R91) -/

namespace Sys2Proof.Machine

/-! ## Fields of a register made from a number -/

theorem extractLsb'_ofNat {w i k : Nat} (n : Nat) (h : i + k ≤ w) :
    (BitVec.ofNat w n).extractLsb' i k = BitVec.ofNat k (n / 2 ^ i) := by
  refine BitVec.eq_of_getLsbD_eq fun j hj => ?_
  have hij : i + j < w := by omega
  simp only [BitVec.getLsbD_extractLsb', BitVec.getLsbD_ofNat, Nat.testBit_div_two_pow, hj, hij, decide_true, Bool.true_and,
    Nat.add_comm]

theorem getLsbD_ofNat_of_div {w i n : Nat} {b : Bool} (hi : i < w) (h : n / 2 ^ i % 2 = b.toNat) : (BitVec.ofNat w n).getLsbD i = b := by
  rw [BitVec.getLsbD_ofNat, Nat.testBit_eq_decide_div_mod_eq, h]
  cases b <;> simp [hi]

theorem ofNat_congr {w m n : Nat} (h : m % 2 ^ w = n % 2 ^ w) : BitVec.ofNat w m = BitVec.ofNat w n :=
  BitVec.eq_of_toNat_eq (by simpa using h)

section
variable (cause : Nat) (pl stream drop exited mid : Bool) (left rpc : Nat)

/-- The fields of `TRAPCAUSE` (R90). -/
theorem trapcauseOf_fields :
    let v := trapcauseOf cause pl stream drop exited mid left rpc
    v.extractLsb' 0 8 = BitVec.ofNat 8 cause ∧ v.getLsbD 8 = pl ∧ v.extractLsb' 9 7 = BitVec.ofNat 7 left ∧ v.getLsbD 16 = stream ∧
      v.getLsbD 17 = drop ∧ v.getLsbD 18 = false ∧ v.getLsbD 19 = exited ∧ v.getLsbD 20 = mid ∧
      v.extractLsb' 21 15 = BitVec.ofNat 15 rpc := by
  have h1 := pl.toNat_le
  have h2 := stream.toNat_le
  have h3 := drop.toNat_le
  have h4 := exited.toNat_le
  have h5 := mid.toNat_le
  refine ⟨?_, ?_, ?_, ?_, ?_, ?_, ?_, ?_, ?_⟩
  · exact (extractLsb'_ofNat _ (by omega)).trans (ofNat_congr (by omega))
  · exact getLsbD_ofNat_of_div (by omega) (by omega)
  · exact (extractLsb'_ofNat _ (by omega)).trans (ofNat_congr (by omega))
  · exact getLsbD_ofNat_of_div (by omega) (by omega)
  · exact getLsbD_ofNat_of_div (by omega) (by omega)
  · exact getLsbD_ofNat_of_div (by omega) (by simp only [Bool.toNat_false]; omega)
  · exact getLsbD_ofNat_of_div (by omega) (by omega)
  · exact getLsbD_ofNat_of_div (by omega) (by omega)
  · exact (extractLsb'_ofNat _ (by omega)).trans (ofNat_congr (by omega))

end

/-! ## Trap entry -/

section
variable (s : State) (cx : Nat) (tr : Trap) (tpc rep rpc left : Nat) (mid stream drop : Bool)

theorem ctx_holdEntries (mark : Bool) : ∃ (fault : Option (Nat × Nat)) (waits late : List Entry),
    (s.holdEntries cx mark).ctx cx = (s.ctx cx).holdFrom fault mark waits late :=
  ⟨_, _, _, State.ctx_updCtx ..⟩

/-- The context as it enters a trap: the entries that the trap holds have left their queues, and cause, place and frame are saved
(R75). -/
theorem ctx_takeTrap (h : (s.ctx cx).doubleTraps = false) : ∃ (fault : Option (Nat × Nat)) (waits late : List Entry),
    let c := (s.ctx cx).holdFrom fault stream waits late
    (s.takeTrap cx tr tpc rep rpc left mid stream drop).ctx cx =
      c.enterTrap tr tpc rep rpc left mid (stream || !c.held.isEmpty) drop := by
  obtain ⟨fault, waits, late, hheld⟩ := ctx_holdEntries s cx stream
  refine ⟨fault, waits, late, ?_⟩
  rw [State.takeTrap, if_neg (by simp [h]), State.ctx_updCtx, hheld]

theorem mem_takeTrap_of_entered (h : (s.ctx cx).doubleTraps = false) :
    (s.takeTrap cx tr tpc rep rpc left mid stream drop).mem = s.mem := by
  rw [State.takeTrap, if_neg (by simp [h])]
  rfl

end

theorem archPc_handler (v : BitVec 16) : archPc (pcOfArch (v.extractLsb' 0 15).toNat) = (v.extractLsb' 0 15).toNat :=
  archPc_pcOfArch _ (v.extractLsb' 0 15).isLt

theorem doubleTraps_of_handled {c : Ctx} (hsys : c.sys = false) (hvec : c.trapvec.getLsbD 15 = true) : c.doubleTraps = false := by
  simp only [Ctx.doubleTraps, hsys, hvec]
  rfl

/-! ## A double trap (R76) -/

theorem stopCtx_queues {s : State} {cx k : Nat} (h : (s.ctx cx).queues = []) : ((s.stopCtx k).ctx cx).queues = [] := by
  change ((s.updCtx k Ctx.stopNow).ctx cx).queues = []
  rcases eq_or_ne cx k with rfl | hne
  · rw [State.ctx_updCtx]
    rfl
  · rwa [State.ctx_updCtx_ne _ hne]

theorem foldl_stopCtx_queues {l : List Nat} {s : State} {cx : Nat} (h : (s.ctx cx).queues = []) :
    ((l.foldl State.stopCtx s).ctx cx).queues = [] := by
  induction l generalizing s with
  | nil => exact h
  | cons k ks ih => exact ih (stopCtx_queues h)

theorem failLaunch_queues {s : State} {l : Option Nat} {status cx : Nat} (h : (s.ctx cx).queues = []) :
    ((s.failLaunch l status).ctx cx).queues = [] := by
  cases l with
  | none => exact h
  | some k => exact foldl_stopCtx_queues h

theorem failLaunch_mem (s : State) (l : Option Nat) (status : Nat) : (s.failLaunch l status).mem = s.mem := by
  cases l with
  | none => rfl
  | some k => exact foldl_keeps (f := State.stopCtx) (p := State.mem) (fun _ _ => rfl) _ _

/-- A launch that fails while it is not stopping stops with the status it failed with (R385). -/
theorem failLaunch_stop {s : State} {k : Nat} (status : Nat) (h : (mget {} k s.launches).stop = none) :
    (mget {} k (s.failLaunch (some k) status).launches).stop = some status := by
  have hfold := foldl_keeps (f := State.stopCtx) (p := State.launches) (fun _ _ => rfl)
  refine (congrArg (fun l => (mget ({} : Launch) k l).stop) (hfold _ _)).trans ?_
  rw [mget_mput_self, h]
  rfl

/-- A context that takes a double trap is free, with its queues discarded, and its launch stops with status FAULT (R76). -/
theorem takeTrap_double {s : State} {cx : Nat} (h : (s.ctx cx).doubleTraps = true) (tr : Trap) (tpc rep rpc left : Nat)
    (mid stream drop : Bool) :
    s.takeTrap cx tr tpc rep rpc left mid stream drop = (s.stopCtx cx).failLaunch (s.ctx cx).launch statusFault := by
  rw [State.takeTrap]
  exact if_pos h

/-! ## A plain halt (R416) -/

/-- `t` is `s`, but for requests forgotten and for entries of the streaming queues that rest. -/
def RestsFrom (s t : State) : Prop :=
  t = { s with ctxs := t.ctxs, net := t.net, quads := t.quads } ∧ ∀ cx, t.ctx cx = { s.ctx cx with queues := (t.ctx cx).queues }

theorem RestsFrom.refl (s : State) : RestsFrom s s := ⟨rfl, fun _ => rfl⟩

theorem RestsFrom.trans {s t u : State} (hst : RestsFrom s t) (htu : RestsFrom t u) : RestsFrom s u := by
  obtain ⟨ht, htc⟩ := hst
  obtain ⟨hu, huc⟩ := htu
  refine ⟨?_, fun cx => ?_⟩
  · rw [hu, ht]
  · rw [huc, htc]

theorem restsFrom_updCtx {s t : State} {cx : Nat} {f : Ctx → Ctx} (ht : t = { s with net := t.net, quads := t.quads })
    (hf : ∀ c : Ctx, f c = { c with queues := (f c).queues }) : RestsFrom s (t.updCtx cx f) := by
  refine ⟨by rw [ht]; rfl, fun k => ?_⟩
  have hctx : t.ctx k = s.ctx k := by rw [ht]; rfl
  rcases eq_or_ne k cx with rfl | hne
  · rw [State.ctx_updCtx, hctx]
    exact hf _
  · rw [State.ctx_updCtx_ne _ hne, hctx]

theorem restsFrom_haltWaits (s : State) (cx : Nat) : RestsFrom s (s.haltWaits cx) := by
  unfold State.haltWaits
  refine restsFrom_updCtx (s := s) rfl fun c => ?_
  dsimp only
  split <;> split <;> rfl

theorem restsFrom_foldl_haltWaits (core : Nat) (l : List Nat) (s : State) :
    RestsFrom s (l.foldl (fun (s : State) h => s.haltWaits (4 * core + h)) s) := by
  induction l generalizing s with
  | nil => exact .refl s
  | cons h l ih => exact (restsFrom_haltWaits s _).trans (ih _)

/-- A halt of a core sets its halt, pending while a divide is in progress on it, and lets what waits rest (R97, R416). -/
theorem plainHalt_spec (s : State) (core : Nat) : ∃ u, RestsFrom s u ∧
    s.plainHalt core = u.updCore core fun k => { k with halt := if (s.core core).divider.isSome then .pending else .plain } := by
  cases hdiv : (s.core core).divider.isSome with
  | true => exact ⟨s, .refl s, by rw [State.plainHalt, if_pos hdiv]; rfl⟩
  | false => exact ⟨_, restsFrom_foldl_haltWaits core _ s, by rw [State.plainHalt, if_neg (by simp [hdiv])]; rfl⟩

/-! ## The S0 ops that trap (R84) -/

theorem exec_trap (g : Bool) (n : BitVec 8) (s : State) :
    exec (.trap g n) s = aloneCtl g (.trap g n) (fun _ s => .ok s) (fun _ s => trapPost n s) s := rfl
theorem exec_bkpt (g : Bool) (n : BitVec 8) (s : State) :
    exec (.bkpt g n) s = aloneCtl g (.bkpt g n) (fun _ s => bkptOp n s) (fun _ s => s) s := rfl
theorem exec_rft (g : Bool) (s : State) :
    exec (.rft g) s = aloneCtl g (.rft g) (fun _ s => rftOp s) (fun _ s => (rftPost s).backToRetiring s.cur.cx) s := rfl

/-- No divide of the context at hand is in progress where nothing holds an op of it (R97). -/
theorem divider_of_not_opHeld {i : Instr} {s : State} (h : opHeld i s = false) :
    ((s.core (coreOf s.cur.cx)).divider.filter fun d => d.cx == s.cur.cx) = none := by
  cases hdiv : (s.core (coreOf s.cur.cx)).divider with
  | none => rfl
  | some d =>
    have hother : (d.cx == s.cur.cx) = false := by simp_all [opHeld]
    simp [Option.filter, hother]

/-- `TRAP` takes its trap after the fall through to the next bundle (R75). -/
theorem trapPost_of_no_divide {s : State} (n : BitVec 8)
    (h : ((s.core (coreOf s.cur.cx)).divider.filter fun d => d.cx == s.cur.cx) = none) :
    trapPost n s = (s.updCtx s.cur.cx fun c => c.fallThrough s.cur.nxt).softTrap s.cur.cx n s.cur.pc s.cur.rep s.cur.nxt := by
  simp only [trapPost, State.updCtx_core, State.updCtx_cur, h]

theorem info0_of_detail (rep : Nat) (n : BitVec 8) :
    BitVec.ofNat 64 (0 % 8 + rep % 128 * 2 ^ 3 + n.toNat % 2 ^ 48 * 2 ^ 16) = BitVec.ofNat 64 (n.toNat * 2 ^ 16 + rep % 128 * 8) := by
  have hn := n.isLt
  have hsum : 0 % 8 + rep % 128 * 2 ^ 3 + n.toNat % 2 ^ 48 * 2 ^ 16 = n.toNat * 2 ^ 16 + rep % 128 * 8 := by omega
  rw [hsum]

theorem takeTrap_cur (s : State) (cx : Nat) (tr : Trap) (tpc rep rpc left : Nat) (mid stream drop : Bool) :
    (s.takeTrap cx tr tpc rep rpc left mid stream drop).cur = s.cur := by
  unfold State.takeTrap
  dsimp only
  split
  · exact failLaunch_cur _ _ _
  · rfl

/-- What a trap of the context at hand at program level leaves it as, where it has a handler: what a handler reads of `TRAPCAUSE` and
`TRAPINFO0`, its level and its place (R75, R90, R91). -/
structure Handles (c : Ctx) (tr : Trap) (rep rpc left : Nat) (mid : Bool) (d : Ctx) : Prop where
  sys : d.sys = true
  cause : d.trapcause.extractLsb' 0 8 = BitVec.ofNat 8 tr.cause
  left : d.trapcause.extractLsb' 9 7 = BitVec.ofNat 7 left
  mid : d.trapcause.getLsbD 20 = mid
  rpc : d.trapcause.extractLsb' 21 15 = BitVec.ofNat 15 (archPc rpc)
  info0 : d.info0 = BitVec.ofNat 64 (tr.slot % 8 + rep % 128 * 2 ^ 3 + tr.detail % 2 ^ 48 * 2 ^ 16)
  pc : archPc d.pc = (c.trapvec.extractLsb' 0 15).toNat

theorem takeTrap_handles {s : State} (hsys : s.here.sys = false) (hvec : s.here.trapvec.getLsbD 15 = true) (tr : Trap)
    (tpc rep rpc left : Nat) (mid stream drop : Bool) :
    Handles s.here tr rep rpc left mid (s.takeTrap s.cur.cx tr tpc rep rpc left mid stream drop).here := by
  obtain ⟨fault, waits, late, hctx⟩ :=
    ctx_takeTrap s s.cur.cx tr tpc rep rpc left mid stream drop (doubleTraps_of_handled hsys hvec)
  obtain ⟨hcause, -, hleft, -, -, -, -, hmid, hrpc⟩ := trapcauseOf_fields tr.cause s.here.sys
    (stream || !(s.here.holdFrom fault stream waits late).held.isEmpty) drop (s.here.phase == .retiring) mid left (archPc rpc)
  unfold State.here
  rw [takeTrap_cur, hctx]
  exact ⟨rfl, hcause, hleft, hmid, hrpc, rfl, archPc_handler _⟩

end Sys2Proof.Machine

namespace Sys2Proof
open Machine

/-- Settles O14: entry to the handler and the double trap by `doubleTraps`, then each S0 op that traps. -/
theorem traps : Obligations.Traps := by
  unfold Obligations.Traps
  refine ⟨?taken, fun g n s hbad hsys hvec =>
    ⟨fun hruns => ?trap, fun hruns => ⟨fun harmed => ?bkpt, fun harmed => ?halt⟩, fun hruns => ?rft⟩⟩
  case taken =>
    intro s cx tr tpc rep rpc left mid stream drop c t d
    refine ⟨fun hsys hvec => ?entry, fun hdouble => ?double⟩
    case entry =>
      have hent := doubleTraps_of_handled hsys hvec
      have hmem := mem_takeTrap_of_entered s cx tr tpc rep rpc left mid stream drop hent
      obtain ⟨fault, waits, late, hctx⟩ := ctx_takeTrap s cx tr tpc rep rpc left mid stream drop hent
      obtain ⟨hcause, hpl, hleft, hstream, hdrop, hskip, hexited, hmid, hrpc⟩ := trapcauseOf_fields tr.cause c.sys
        (stream || !((s.ctx cx).holdFrom fault stream waits late).held.isEmpty) drop (c.phase == .retiring) mid left (archPc rpc)
      rw [show d = _ from hctx]
      exact ⟨hcause, hpl.trans hsys, hleft, hdrop, hskip, hexited, hmid, hrpc, fun hs => hstream.trans (by simp [hs]), rfl, rfl, rfl,
        rfl, rfl, rfl, rfl, rfl, archPc_handler _, rfl, rfl, rfl, rfl, rfl, hmem⟩
    case double =>
      have hd : c.doubleTraps = true := by rcases hdouble with h | h <;> simp only [Ctx.doubleTraps, h, Bool.not_false, Bool.or_true, Bool.true_or]
      have ht : t = (s.stopCtx cx).failLaunch c.launch statusFault := takeTrap_double hd tr tpc rep rpc left mid stream drop
      have hstopped : (s.stopCtx cx).ctx cx = c.stopNow := State.ctx_updCtx s cx _
      refine ⟨?_, ?_, ?_, fun l hl hrun => ?_⟩
      · rw [show d = t.ctx cx from rfl, ht]
        exact failLaunch_free (congrArg Ctx.phase hstopped)
      · rw [show d = t.ctx cx from rfl, ht]
        exact failLaunch_queues (congrArg Ctx.queues hstopped)
      · exact (congrArg State.mem ht).trans (failLaunch_mem _ _ _)
      · rw [ht, hl]
        exact failLaunch_stop statusFault hrun
  case trap =>
    have hexec := (exec_trap g n s).trans (aloneCtl_effect ⟨hruns, rfl, hbad⟩ rfl)
    rw [trapPost_of_no_divide n (divider_of_not_opHeld hruns.1)] at hexec
    have hu : (s.updCtx s.cur.cx fun c => c.fallThrough s.cur.nxt).here = s.here.fallThrough s.cur.nxt := updCtx_here s _
    have hd := takeTrap_handles (s := s.updCtx s.cur.cx fun c => c.fallThrough s.cur.nxt) (by rw [hu]; exact hsys)
      (by rw [hu]; exact hvec) { cause := 0x12, slot := 0, detail := n.toNat } s.cur.pc s.cur.rep s.cur.nxt 0 false false false
    exact ⟨_, hexec.trans (out_next ((takeTrap_bad ..).trans hbad)), hd.sys, hd.cause, hd.mid,
      hd.info0.trans (info0_of_detail _ _), hd.rpc, hd.pc.trans (by rw [hu]; rfl)⟩
  case bkpt =>
    have hexec := exec_ctl_traps (exec_bkpt g n s) ⟨hruns, rfl, hbad⟩ (if_neg (by simp [harmed]))
    have hd := takeTrap_handles hsys hvec { cause := 0x13, slot := 0, detail := n.toNat } s.cur.pc s.cur.rep s.cur.pc s.cur.left true
      false false
    exact ⟨_, hexec, hd.sys, hd.cause, hd.mid, hd.left, hd.info0.trans (info0_of_detail _ _), hd.rpc, hd.pc⟩
  case halt =>
    have hexec := (exec_bkpt g n s).trans (aloneCtl_effect ⟨hruns, rfl, hbad⟩ (if_pos harmed))
    obtain ⟨u, ⟨hu, hctx⟩, ht⟩ := plainHalt_spec s (coreOf s.cur.cx)
    have hbadt : (s.plainHalt (coreOf s.cur.cx)).bad = none := by rw [ht, State.updCore_bad, hu]; exact hbad
    have hcur : u.cur = s.cur := by rw [hu]
    have hhere : (s.plainHalt (coreOf s.cur.cx)).here = { s.here with queues := (u.ctx s.cur.cx).queues } := by
      rw [ht, State.here, State.updCore_cur, State.updCore_ctx, hcur, hctx]
    refine ⟨_, hexec.trans (out_next hbadt), ?_, ?_, ?_⟩
    · rw [ht, State.core_updCore]
    · rw [ht, hu]; rfl
    · rw [hhere]
      exact ⟨rfl, rfl, rfl, rfl, rfl⟩
  case rft =>
    have hwaits : s0Waits (.rft g) s = false := by
      change (s.here.sys && !s.here.queuesEmpty) = false
      rw [hsys]; rfl
    exact exec_ctl_traps (exec_rft g s) ⟨hruns, hwaits, hbad⟩ (if_neg (by simp [hsys]))
end Sys2Proof

namespace Sys2Proof
open Machine
/-- Settles O60, part by part of the state at reset. -/
theorem reset : Obligations.Reset := by
  unfold Obligations.Reset
  exact ⟨wf_reset, fun _ => rfl, fun _ => ⟨rfl, rfl, rfl, rfl, rfl, rfl, rfl, rfl⟩, fun _ _ => rfl, fun _ => rfl,
    fun _ => ⟨rfl, rfl, rfl, rfl, rfl⟩, fun _ _ => rfl, fun _ => ⟨rfl, rfl⟩, rfl, rfl, rfl, rfl⟩
end Sys2Proof

/-! # System registers (R85, R88–R93) -/

namespace Sys2Proof.Machine

theorem exec_mfs (g : Bool) (sr : BitVec 12) (d : Spec) (s : State) :
    exec (.mfs g sr d) s = aloneCtl g (.mfs g sr d) (mfsOp sr d) (fun _ s => s) s := rfl

/-- A destination that names a register receives the value there (R27). -/
theorem writeDest_of_isNamed {d : Spec} (h : isNamed d = true) (c : Ctx) (v : Word) :
    c.writeDest d v = c.setRegs (c.regs.put (d.toNat - 16) v) := by
  have hd : ¬(d == 0) = true := by
    rw [beq_iff_eq]
    rintro rfl
    exact absurd h (by decide)
  exact if_neg hd

/-! ## The fields of the registers that an `MFS` composes -/

theorem toNat_extractLsb'_ofNat {w i k : Nat} {n m : Nat} {x : BitVec k} (h : i + k ≤ w) (hm : n / 2 ^ i % 2 ^ k = m) (hx : x.toNat = m) :
    (BitVec.ofNat w n).extractLsb' i k = x := by
  rw [extractLsb'_ofNat n h]
  exact BitVec.eq_of_toNat_eq (by rw [BitVec.toNat_ofNat, hm, hx])

/-- `TMPLWIN` (R88). -/
theorem tmplwin_fields (tbase : Nat) (tsize : BitVec 2) (shared : Bool) :
    let v := BitVec.ofNat 64 (tbase % 2 ^ 9 + tsize.toNat * 2 ^ 9 + shared.toNat * 2 ^ 11)
    v.extractLsb' 0 9 = BitVec.ofNat 9 tbase ∧ v.extractLsb' 9 2 = tsize ∧ v.getLsbD 11 = shared ∧ v.extractLsb' 12 52 = 0 := by
  have hsize := tsize.isLt
  have hshared := shared.toNat_le
  refine ⟨?_, ?_, ?_, ?_⟩
  · exact (extractLsb'_ofNat _ (by omega)).trans (ofNat_congr (by omega))
  · exact toNat_extractLsb'_ofNat (by omega) (by omega) rfl
  · exact getLsbD_ofNat_of_div (by omega) (by omega)
  · exact toNat_extractLsb'_ofNat (m := 0) (by omega) (by omega) rfl

theorem grantOf_le (bfw : BitVec 9) (l : BitVec 3) : grantOf bfw l ≤ bfw.toNat :=
  Nat.div_le_of_le_mul (by rw [Nat.mul_comm]; exact Nat.mul_le_mul_right _ (by omega))

/-- `EWGRANT` with the power step in force or moved to (R390). -/
def ewgrantOf (bfw : BitVec 9) (limit : BitVec 3) (stalls : BitVec 24) (step : Nat) (moves : Bool) : Word :=
  BitVec.ofNat 64 (grantOf bfw limit + bfw.toNat * 2 ^ 9 + limit.toNat * 2 ^ 18 + step * 2 ^ 32 + moves.toNat * 2 ^ 37 +
    stalls.toNat * 2 ^ 40)

section
variable {s : State} {cx : Nat}

theorem ewgrant_of_still (h : (s.cluster (clusterOf cx)).move = none) :
    ewgrant s cx = ewgrantOf (s.core (coreOf cx)).bfw (s.cluster (clusterOf cx)).limit (s.ctx cx).stalls
      (s.cluster (clusterOf cx)).step.toNat false := by
  simp only [ewgrant, h]
  rfl

theorem ewgrant_of_moving {a e : Nat} (h : (s.cluster (clusterOf cx)).move = some (a, e)) :
    ewgrant s cx = ewgrantOf (s.core (coreOf cx)).bfw (s.cluster (clusterOf cx)).limit (s.ctx cx).stalls a true := by
  simp only [ewgrant, h]
  rfl

end

theorem ewgrantOf_fields (bfw : BitVec 9) (limit : BitVec 3) (stalls : BitVec 24) (step : Nat) (moves : Bool) (hstep : step < 32) :
    let v := ewgrantOf bfw limit stalls step moves
    v.extractLsb' 0 9 = BitVec.ofNat 9 (grantOf bfw limit) ∧ v.extractLsb' 9 9 = bfw ∧ v.extractLsb' 18 3 = limit ∧
      v.extractLsb' 21 11 = 0 ∧ v.extractLsb' 32 5 = BitVec.ofNat 5 step ∧ v.getLsbD 37 = moves ∧ v.extractLsb' 38 2 = 0 ∧
      v.extractLsb' 40 24 = stalls := by
  have hgrant := grantOf_le bfw limit
  have hbfw := bfw.isLt
  have hlimit := limit.isLt
  have hstalls := stalls.isLt
  have hmoves := moves.toNat_le
  simp only [ewgrantOf]
  generalize grantOf bfw limit = grant at hgrant ⊢
  refine ⟨?_, ?_, ?_, ?_, ?_, ?_, ?_, ?_⟩
  · exact (extractLsb'_ofNat _ (by omega)).trans (ofNat_congr (by omega))
  · exact toNat_extractLsb'_ofNat (by omega) (by omega) rfl
  · exact toNat_extractLsb'_ofNat (by omega) (by omega) rfl
  · exact toNat_extractLsb'_ofNat (m := 0) (by omega) (by omega) rfl
  · exact (extractLsb'_ofNat _ (by omega)).trans (ofNat_congr (by omega))
  · exact getLsbD_ofNat_of_div (by omega) (by omega)
  · exact toNat_extractLsb'_ofNat (m := 0) (by omega) (by omega) rfl
  · exact toNat_extractLsb'_ofNat (by omega) (by omega) rfl

/-- `RCOUNT` and the run under one register (R88). -/
theorem rerun_fields (rcount : BitVec 32) (rrun : BitVec 2) :
    let v : Word := rcount.setWidth 64 ||| (rrun.setWidth 64 <<< 32)
    v.extractLsb' 0 32 = rcount ∧ v.extractLsb' 32 2 = rrun ∧ v.extractLsb' 34 30 = 0 := by
  refine ⟨?_, ?_, ?_⟩ <;> refine BitVec.eq_of_getLsbD_eq fun j hj => ?_
  · have h : 0 + j < 32 := by omega
    simp [BitVec.getLsbD_extractLsb', BitVec.getLsbD_shiftLeft]
    grind
  · simp [BitVec.getLsbD_extractLsb', BitVec.getLsbD_shiftLeft]
    grind
  · simp [BitVec.getLsbD_extractLsb', BitVec.getLsbD_shiftLeft]
    grind

/-- `WDOG` has no more than 32 bits (R383). -/
theorem wdogOf_toNat_lt (s : State) (cx : Nat) : (wdogOf s cx).toNat < 2 ^ 32 := by
  unfold wdogOf
  split
  · decide
  · split
    · decide
    · rw [BitVec.toNat_ofNat]
      omega

theorem extractLsb'_high_eq_zero {v : Word} (h : v.toNat < 2 ^ 32) : v.extractLsb' 32 32 = 0 := by
  refine BitVec.eq_of_toNat_eq ?_
  rw [BitVec.extractLsb'_toNat, Nat.shiftRight_eq_div_pow, Nat.div_eq_of_lt h]
  rfl

/-- Without a watchdog `WDOG` reads as all ones (R383). -/
theorem wdogOf_of_none {s : State} {cx l : Nat} (hl : (s.ctx cx).launch = some l) (h : (s.launch l).wdog = none) :
    wdogOf s cx = 0xFFFFFFFF := by
  have h' : (mget {} l s.launches).wdog = none := h
  simp only [wdogOf, hl, h']

/-- `WDOG` is the time left in microseconds, rounded up (R383). -/
theorem wdogOf_toNat {s : State} {cx l ns : Nat} (hl : (s.ctx cx).launch = some l) (h : (s.launch l).wdog = some ns)
    (hns : ns ≤ 1000 * (2 ^ 32 - 1)) : (wdogOf s cx).toNat = (ns + 999) / 1000 := by
  have h' : (mget {} l s.launches).wdog = some ns := h
  simp only [wdogOf, hl, h', BitVec.toNat_ofNat]
  omega

/-- The registers of program level stand at 0x100 to 0x12F of the handler's (R88). -/
theorem sysRead_program {s : State} {cx : Nat} {sr : BitVec 12} (h : 0x100 ≤ sr.toNat ∧ sr.toNat ≤ 0x12F) :
    sysRead s cx sr = if sr.toNat < 0x120 then (s.ctx cx).prog.get (sr.toNat - 0x100) else (s.ctx cx).prog.q.getD (sr.toNat - 0x120) 0 := by
  obtain ⟨hlo, hhi⟩ := h
  have hhi' : sr.toNat < 0x130 := by omega
  rw [sysRead]
  by_cases hn : sr.toNat < 0x120
  · simp [hlo, hn]
  · have hq : 0x120 ≤ sr.toNat := by omega
    simp [hlo, hn, hq, hhi']

theorem sysOnly_eq (sr : BitVec 12) : sysOnly sr = decide (0x100 ≤ sr.toNat ∧ sr.toNat ≤ 0x12F) := by
  rw [Bool.eq_iff_iff]
  simp only [sysOnly, Bool.and_eq_true, decide_eq_true_eq]
  omega

end Sys2Proof.Machine

namespace Sys2Proof
open Machine

/-- Settles O16: the trap, then the value register by register. -/
theorem readSystemRegister : Obligations.ReadSystemRegister := by
  unfold Obligations.ReadSystemRegister
  intro g sr d s hrun hd pn
  have honly : sysOnly sr = pn := sysOnly_eq sr
  refine ⟨fun hsys hpn => ?traps, fun hlevel => ⟨sysRead s s.cur.cx sr, ?exec, fun hpn => ?program, ?_⟩⟩
  case traps => exact exec_ctl_traps (exec_mfs g sr d s) hrun (if_pos (by simp [honly, hpn, hsys]))
  case exec =>
    have hop : mfsOp sr d s s = .ok (s.updCtx s.cur.cx fun c => c.writeDest d (sysRead s s.cur.cx sr)) :=
      if_neg (by rcases hlevel with h | h <;> simp [honly, h])
    simp only [writeDest_of_isNamed hd] at hop
    exact (exec_mfs g sr d s).trans ((aloneCtl_effect hrun hop).trans (out_next hrun.2.2))
  case program => exact sysRead_program (of_decide_eq_true hpn)
  refine ⟨?_, ?_, ?_, ?_, ?_, ?_, ?_, ?_, ?_, ?_, ?_, ?_, ?_, ?_, ?_, ?_, ?_, ?_, ?_, ?tmplwin, ?ewgrant, ?rerun, ?wdog⟩ <;> rintro rfl
  case tmplwin => exact tmplwin_fields s.here.tbase s.here.tsize s.here.tshared
  case ewgrant =>
    intro b k hmove
    cases hm : k.move with
    | none =>
      obtain ⟨hgrant, hb, hlimit, hzero, hstep, hmoving, hzero', hstalls⟩ :=
        ewgrantOf_fields b k.limit s.here.stalls k.step.toNat false k.step.isLt
      rw [show sysRead s s.cur.cx 0x010 = ewgrantOf b k.limit s.here.stalls k.step.toNat false from ewgrant_of_still hm]
      exact ⟨hgrant, hb, hlimit, hzero, fun _ => ⟨hstep.trans (BitVec.ofNat_toNat _ _ |>.trans (BitVec.setWidth_eq _)), hmoving⟩, nofun, hzero', hstalls⟩
    | some m =>
      obtain ⟨a, e⟩ := m
      obtain ⟨hgrant, hb, hlimit, hzero, hstep, hmoving, hzero', hstalls⟩ :=
        ewgrantOf_fields b k.limit s.here.stalls a true (hmove a e hm)
      rw [show sysRead s s.cur.cx 0x010 = ewgrantOf b k.limit s.here.stalls a true from ewgrant_of_moving hm]
      refine ⟨hgrant, hb, hlimit, hzero, nofun, fun a' e' h => ?_, hzero', hstalls⟩
      obtain ⟨rfl, -⟩ := Prod.mk.inj (Option.some.inj h)
      exact ⟨hstep, hmoving⟩
  case rerun => exact rerun_fields s.here.rcount s.here.rrun
  case wdog =>
    refine ⟨extractLsb'_high_eq_zero (wdogOf_toNat_lt s s.cur.cx), fun l hl => ⟨wdogOf_of_none hl, fun ns hw hns => ?_⟩⟩
    have hv : (sysRead s s.cur.cx 0x040).toNat = (ns + 999) / 1000 := wdogOf_toNat hl hw hns
    omega
  all_goals rfl
end Sys2Proof

/-! # The write-back of vector registers (R102, R145) -/

namespace Sys2Proof.Machine

/-! ## A write of the hardware at its homes -/

/-- `t` is `s`, but for bytes of memory, their poison, and what homes note of an access. -/
def MemOf (s t : State) : Prop := t = { s with mem := t.mem, mpoison := t.mpoison, quads := t.quads }

theorem MemOf.refl (s : State) : MemOf s s := rfl

theorem MemOf.trans {s t u : State} (hst : MemOf s t) (htu : MemOf t u) : MemOf s u := by
  unfold MemOf at *
  rw [htu, hst]

section
variable {s t : State} (h : MemOf s t)
include h

theorem MemOf.ctx (cx : Nat) : t.ctx cx = s.ctx cx := by rw [h]; rfl
theorem MemOf.cur : t.cur = s.cur := by rw [h]
theorem MemOf.bad : t.bad = s.bad := by rw [h]
theorem MemOf.remapOff (key : Nat) : t.remapOff key = s.remapOff key := by rw [h]; rfl
/-- A change of one context after a write of memory. -/
theorem MemOf.updCtx (cx : Nat) (f : Ctx → Ctx) :
    t.updCtx cx f = { s with mem := t.mem, mpoison := t.mpoison, quads := t.quads, ctxs := (t.updCtx cx f).ctxs } := by
  rw [h]
  rfl
theorem MemOf.granted (write : Bool) (key n : Nat) : t.granted write key n = s.granted write key n := by rw [h]; rfl

end

theorem memPuts_append (m : List Host.Cell) (key : Nat) (as bs : List Byte) :
    memPuts m key (as ++ bs) = memPuts (memPuts m key as) (key + as.length) bs := by
  induction as generalizing m key with
  | nil => rfl
  | cons a as ih =>
    rw [List.cons_append, memPuts, memPuts, ih, List.length_cons]
    congr 1
    omega

theorem memPuts_take_drop (m : List Host.Cell) (key k : Nat) (bs : List Byte) :
    memPuts (memPuts m key (bs.take k)) (key + k) (bs.drop k) = memPuts m key bs := by
  rcases Nat.le_total k bs.length with hk | hk
  · have hlen : (bs.take k).length = k := List.length_take_of_le hk
    conv_rhs => rw [← List.take_append_drop k bs, memPuts_append, hlen]
  · rw [List.drop_eq_nil_of_le hk, List.take_of_length_le hk]
    rfl

/-- A write at the home of a key outside the remap table lands in memory. -/
theorem homeWrite_lands {s : State} {key : Nat} (bs : List Byte) (p : Bool) (h : s.remapOff key = none) :
    MemOf s (s.homeWrite key bs p) ∧ (s.homeWrite key bs p).mem = memPuts s.mem key bs := by
  have hmap : ((s.touch key).remapOff key).isSome = false := by
    rw [show (s.touch key).remapOff key = s.remapOff key from rfl, h]
    rfl
  unfold State.homeWrite
  simp only [hmap]
  split_ifs <;> first | exact ⟨rfl, rfl⟩ | contradiction

/-- Bytes written line by line outside the remap table land in memory. -/
theorem putLines_lands (n : Nat) {s : State} {key : Nat} {bs : List Byte} (hn : key % 128 + bs.length ≤ 128 * n)
    (h : ∀ i < bs.length, s.remapOff (key + i) = none) :
    MemOf s (State.putLines n s key bs) ∧ (State.putLines n s key bs).mem = memPuts s.mem key bs := by
  induction n generalizing s key bs with
  | zero =>
    obtain rfl : bs = [] := List.eq_nil_of_length_eq_zero (by omega)
    exact ⟨rfl, rfl⟩
  | succ n ih =>
    cases bs with
    | nil => exact ⟨rfl, rfl⟩
    | cons b bs' =>
      obtain ⟨hof, hmem⟩ := homeWrite_lands (key := key) ((b :: bs').take (128 - key % 128)) false (h 0 (by simp))
      have hrest := ih (s := s.homeWrite key ((b :: bs').take (128 - key % 128)) false) (key := key + (128 - key % 128))
        (bs := (b :: bs').drop (128 - key % 128)) (by rw [List.length_drop]; omega) fun i hi => by
          rw [hof.remapOff, Nat.add_assoc]
          exact h _ (by rw [List.length_drop] at hi; omega)
      exact ⟨hof.trans hrest.1, hrest.2.trans (by rw [hmem, memPuts_take_drop])⟩

/-- The columns of a tile image as bytes, four to a column. -/
theorem flatMap_getD_of_length {α : Type} {f : α → List Byte} {n : Nat} (hf : ∀ a, (f a).length = n) (l : List α) (k j : Nat) (hk : k < l.length)
    (hj : j < n) : (l.flatMap f).getD (n * k + j) 0 = (f l[k]).getD j 0 := by
  induction l generalizing k with
  | nil => simp at hk
  | cons a l ih =>
    rw [List.flatMap_cons]
    cases k with
    | zero =>
      rw [Nat.mul_zero, Nat.zero_add, List.getD_append _ _ _ _ (by rwa [hf])]
      rfl
    | succ k =>
      have hge : (f a).length ≤ n * (k + 1) + j := by rw [hf, Nat.mul_succ]; omega
      rw [List.getD_append_right _ _ _ _ hge, hf, show n * (k + 1) + j - n = n * k + j by rw [Nat.mul_succ]; omega]
      exact ih k (by simpa using hk)

theorem bytesOfTile_getD (v : Map W32) (k j : Nat) (hk : k < 1024) (hj : j < 4) :
    (bytesOfTile v).getD (4 * k + j) 0 = (bytesOfNat 4 (mget 0 k v).toNat).getD j 0 := by
  rw [bytesOfTile, flatMap_getD_of_length (n := 4) (fun _ => rfl) _ k j (by simpa using hk) hj, List.getElem_range]

theorem bytesOfTile_length (v : Map W32) : (bytesOfTile v).length = 4096 := by
  rw [bytesOfTile, List.length_flatMap]
  exact (List.sum_eq_card_nsmul _ 4 fun x hx => by obtain ⟨k, -, rfl⟩ := List.mem_map.mp hx; rfl).trans (by simp)

/-- A vector register written to a place that takes it: its tile image stands there, and no other byte has changed. -/
theorem putTile_lands {s : State} {key : Nat} {v : Map W32} (hpop : populated key = true) (hgrant : s.granted true key 4096 = true)
    (hmap : ∀ i < 4096, s.remapOff (key + i) = none) :
    MemOf s (s.putTile key v) ∧
      ∀ a, (s.putTile key v).byte a = if key ≤ a ∧ a < key + 4096 then (bytesOfTile v).getD (a - key) 0 else s.byte a := by
  have hlen := bytesOfTile_length v
  obtain ⟨hof, hmem⟩ := putLines_lands (4096 / 128 + 2) (s := s) (key := key) (bs := bytesOfTile v) (by omega) (by rwa [hlen])
  have heq : s.putTile key v = State.putLines (4096 / 128 + 2) s key (bytesOfTile v) := by
    rw [State.putTile, State.hwPut, if_neg (by simp [hpop]), hlen, if_pos hgrant]
  refine ⟨heq ▸ hof, fun a => ?_⟩
  rw [heq, State.byte, hmem, mget_memPuts, hlen]
  rfl

/-! ## Every dirty register written back -/

/-- A register is valid and dirty, and the place that it has in the save area. -/
def Ctx.dirtyAt (c : Ctx) (r : Nat) : Prop := c.vvalid.getLsbD r = true ∧ c.vdirty.getLsbD r = true
def Ctx.areaOf (c : Ctx) (r : Nat) : Nat := areaKey c.savebase + 4096 * r

/-- A place that takes a tile. -/
def State.takesTile (s : State) (key : Nat) : Prop :=
  populated key = true ∧ s.granted true key 4096 = true ∧ ∀ i < 4096, s.remapOff (key + i) = none

theorem MemOf.takesTile {s t : State} {key : Nat} (h : MemOf s t) (hs : s.takesTile key) : t.takesTile key := by
  obtain ⟨hpop, hgrant, hmap⟩ := hs
  exact ⟨hpop, by rwa [h.granted], fun i hi => by rw [h.remapOff]; exact hmap i hi⟩

/-- The first `n` registers that are valid and dirty stand at their places, and no other byte has changed. -/
structure WrittenBack (s t : State) (c : Ctx) (n : Nat) : Prop where
  memOf : MemOf s t
  written : ∀ r < n, c.dirtyAt r → ∀ i < 4096, t.byte (c.areaOf r + i) = (bytesOfTile (mget [] r c.v)).getD i 0
  kept : ∀ a, (∀ r < n, c.dirtyAt r → a < c.areaOf r ∨ c.areaOf r + 4096 ≤ a) → t.byte a = s.byte a

theorem WrittenBack.zero (s : State) (c : Ctx) : WrittenBack s s c 0 :=
  ⟨rfl, fun _ hr => absurd hr (Nat.not_lt_zero _), fun _ _ => rfl⟩

section
variable {s t : State} {c : Ctx} {n : Nat}

theorem WrittenBack.succ_clean (h : WrittenBack s t c n) (hd : ¬c.dirtyAt n) : WrittenBack s t c (n + 1) := by
  refine ⟨h.memOf, fun r hr hdr => ?_, fun a ha => h.kept a fun r hr hdr => ha r (by omega) hdr⟩
  rcases Nat.lt_succ_iff_lt_or_eq.mp hr with hlt | rfl
  · exact h.written r hlt hdr
  · exact absurd hdr hd

/-- Register `n` written back before those below it. -/
theorem WrittenBack.succ_dirty (h : WrittenBack (s.putTile (c.areaOf n) (mget [] n c.v)) t c n) (hd : c.dirtyAt n)
    (htakes : s.takesTile (c.areaOf n)) : WrittenBack s t c (n + 1) := by
  obtain ⟨hpop, hgrant, hmap⟩ := htakes
  obtain ⟨hof, hbyte⟩ := putTile_lands (v := mget [] n c.v) hpop hgrant hmap
  have harea : ∀ r, c.areaOf r = areaKey c.savebase + 4096 * r := fun _ => rfl
  refine ⟨hof.trans h.memOf, fun r hr hdr i hi => ?_, fun a ha => ?_⟩
  · rcases Nat.lt_succ_iff_lt_or_eq.mp hr with hlt | rfl
    · exact h.written r hlt hdr i hi
    · refine (h.kept _ fun r' hr' _ => .inr ?_).trans ?_
      · rw [harea, harea]; omega
      · rw [hbyte, if_pos (by omega), Nat.add_sub_cancel_left]
  · have hn := ha n (by omega) hd
    rw [h.kept a fun r hr hdr => ha r (by omega) hdr, hbyte, if_neg (by omega)]

end

theorem writeBack_writtenBack (n : Nat) {s : State} {cx : Nat} (h : ∀ r < n, (s.ctx cx).dirtyAt r → s.takesTile ((s.ctx cx).areaOf r)) :
    WrittenBack s (writeBack cx n s) (s.ctx cx) n := by
  induction n generalizing s with
  | zero => exact .zero s _
  | succ n ih =>
    rw [writeBack]
    by_cases hd : (s.ctx cx).dirtyAt n
    · have htakes := h n (by omega) hd
      obtain ⟨hpop, hgrant, hmap⟩ := htakes
      have hof := (putTile_lands (v := mget [] n (s.ctx cx).v) hpop hgrant hmap).1
      have hrest := ih (s := s.putTile ((s.ctx cx).areaOf n) (mget [] n (s.ctx cx).v)) fun r hr hdr => by
        rw [hof.ctx] at hdr ⊢
        exact hof.takesTile (h r (by omega) hdr)
      rw [hof.ctx] at hrest
      rw [if_pos (by rw [hd.1, hd.2]; rfl)]
      exact hrest.succ_dirty hd ⟨hpop, hgrant, hmap⟩
    · rw [if_neg fun hc => hd ((Bool.and_eq_true _ _).mp hc)]
      exact (ih fun r hr hdr => h r (by omega) hdr).succ_clean hd

/-- Four bytes read one by one. -/
theorem bytes_four {s : State} {key w : Nat} (h : ∀ j < 4, s.byte (key + j) = (bytesOfNat 4 w).getD j 0) :
    s.bytes key 4 = bytesOfNat 4 w := by
  change [s.byte (key + 0), s.byte (key + 1), s.byte (key + 2), s.byte (key + 3)] = _
  rw [h 0 (by omega), h 1 (by omega), h 2 (by omega), h 3 (by omega)]
  rfl

/-- A write of `SAVEBASE` to the module that the context is of (R102, R145). -/
theorem savebaseWriteOp_rebased {s : State} {v : Word} (hdie : cornerOf (v.extractLsb' 52 12).toNat = cornerOf (dieOf s.cur.cx))
    (htakes : s.areaTakes) : ∃ t, savebaseWriteOp v s = .ok t ∧ t.bad = s.bad ∧ s.rebased t v := by
  obtain ⟨hof, hwritten, hkept⟩ := writeBack_writtenBack 64 (s := s) (cx := s.cur.cx) fun r hr hd => htakes r hr hd.1 hd.2
  refine ⟨_, if_pos hdie, hof.bad, ?_, fun k hk => ?_, ?_, fun r hr hd k hk => ?_, hkept⟩
  · exact hof.updCtx s.cur.cx _
  · exact (State.ctx_updCtx_ne _ hk _).trans (hof.ctx k)
  · change ((writeBack s.cur.cx 64 s).updCtx s.cur.cx _).ctx (writeBack s.cur.cx 64 s).cur.cx = _
    rw [hof.cur, State.ctx_updCtx, hof.ctx]
  · refine bytes_four fun j hj => ?_
    rw [Nat.add_assoc]
    exact (hwritten r hr hd (4 * k + j) (by omega)).trans (bytesOfTile_getD _ k j hk hj)

end Sys2Proof.Machine

/-! # Writes of registers (R85, R88–R93, R102, R389, R432) -/

namespace Sys2Proof.Machine

theorem exec_mts (g : Bool) (sr : BitVec 12) (a : Spec) (s : State) :
    exec (.mts g sr a) s = aloneCtl g (.mts g sr a) (mtsOp sr a) (fun _ s => s) s := rfl
theorem exec_registerWrite_sys (sr : BitVec 12) (v : Word) (s : State) : exec (.registerWrite (.sys sr) v) s =
    match sysWrite sr v s with
    | .ok s' => s'.out
    | .error t => .next (s.takePrecise t) := rfl
theorem exec_registerWrite_bar0 (host : Bool) (m off : Nat) (v : Word) (s : State) :
    exec (.registerWrite (.bar0 host m off) v) s = (s.blockWrite host m off v).out := rfl
theorem exec_savebaseWrite (v : Word) (s : State) : exec (.savebaseWrite v) s =
    match savebaseWriteOp v s with
    | .ok s' => s'.out
    | .error t => .next (s.takePrecise t) := rfl

/-! ## A write to a system register -/

section
variable {sr : BitVec 12} {v : Word} {s : State}

theorem sysWrite_pn (hlo : 0x100 ≤ sr.toNat) (hhi : sr.toNat < 0x120) :
    sysWrite sr v s = .ok (s.updCtx s.cur.cx fun c => { c with prog := c.prog.put (sr.toNat - 0x100) v }) := by
  rw [sysWrite, if_pos (by simp [hlo, hhi]), pnWriteOp, BitVec.toNat_ofNat, show sr.toNat % 2 ^ 5 = sr.toNat - 0x100 by omega]

/-- A register past the named ones without a row of its own. -/
theorem sysWrite_of_le (hlo : 0x120 ≤ sr.toNat) : sysWrite sr v s = .ok (s.updCtx s.cur.cx (sysPlainWrite sr v)) := by
  rw [sysWrite, if_neg (by simp; omega)]
  split <;> first | omega | rfl

theorem sysWrite_pq (hlo : 0x120 ≤ sr.toNat) (hhi : sr.toNat < 0x130) :
    sysWrite sr v s = .ok (s.updCtx s.cur.cx fun c => { c with prog := { c.prog with q := c.prog.q.set (sr.toNat - 0x120) v } }) := by
  rw [sysWrite_of_le hlo]
  congr
  funext c
  exact if_pos (by simp [hlo, hhi])

/-- The registers that ignore a write (R88). -/
theorem sysWrite_ignored (h : sr.toNat ∈ [0x000, 0x001, 0x008, 0x009, 0x010, 0x020, 0x021, 0x022, 0x023, 0x040, 0x041]) :
    sysWrite sr v s = .ok (s.updCtx s.cur.cx fun c => c) := by
  have hsr : ∀ n, sr.toNat = n → sr = BitVec.ofNat 12 n := fun n hn => BitVec.eq_of_toNat_eq (by simp [← hn])
  simp only [List.mem_cons, List.not_mem_nil, or_false] at h
  rcases h with h | h | h | h | h | h | h | h | h | h | h <;> rw [hsr _ h] <;> rfl

end

/-- A write of `v` to a system register, by an `MTS` that may make it or by a `REGISTER_WRITE` (R85). -/
def WritesSys (i : Instr) (g : Bool) (sr : BitVec 12) (a : Spec) (v : Word) (s : State) : Prop :=
  (i = .mts g sr a ∧ v = s.opnd a ∧ s.runs0 g i ∧ ((sysOnly sr || sysPriv sr) = false ∨ s.here.sys = true)) ∨
    (i = .registerWrite (.sys sr) v ∧ s.bad = none)

theorem mtsOp_of_allowed {sr : BitVec 12} {a : Spec} {s : State}
    (hallowed : (sysOnly sr || sysPriv sr) = false ∨ s.here.sys = true) : mtsOp sr a s s = sysWrite sr (s.opnd a) s :=
  if_neg (by rcases hallowed with h | h <;> simp [h])

section
variable {i : Instr} {g : Bool} {sr : BitVec 12} {a : Spec} {v : Word} {s : State} (h : WritesSys i g sr a v s)
include h

theorem WritesSys.bad : s.bad = none := by
  obtain ⟨-, -, ⟨-, -, hbad⟩, -⟩ | ⟨-, hbad⟩ := h <;> exact hbad

theorem WritesSys.exec_ok {t : State} (hop : sysWrite sr v s = .ok t) (hbad : t.bad = s.bad) : exec i s = .next t := by
  have hout := out_next (hbad.trans h.bad)
  obtain ⟨rfl, rfl, hrun, hallowed⟩ | ⟨rfl, -⟩ := h
  · exact (exec_mts g sr a s).trans ((aloneCtl_effect hrun ((mtsOp_of_allowed hallowed).trans hop)).trans hout)
  · rw [exec_registerWrite_sys, hop]
    exact hout

theorem WritesSys.exec_error {t : Trap} (hop : sysWrite sr v s = .error t) : exec i s = .next (s.takePrecise t) := by
  obtain ⟨rfl, rfl, hrun, hallowed⟩ | ⟨rfl, -⟩ := h
  · exact (exec_mts g sr a s).trans (aloneCtl_traps hrun ((mtsOp_of_allowed hallowed).trans hop))
  · rw [exec_registerWrite_sys, hop]

end

theorem privileged_eq (sr : BitVec 12) : (sysOnly sr || sysPriv sr) =
    decide ((2 ≤ sr.toNat ∧ sr.toNat ≤ 7) ∨ sr.toNat = 0x11 ∨ sr.toNat = 0x30 ∨ sr.toNat = 0x31 ∨ (0x100 ≤ sr.toNat ∧ sr.toNat ≤ 0x12F)) := by
  rw [Bool.eq_iff_iff]
  simp only [sysOnly, sysPriv, Bool.or_eq_true, Bool.and_eq_true, decide_eq_true_eq, beq_iff_eq]
  omega

/-! ## The module register block -/

section
variable {m : Nat} {v : Word} {s : State} (hbad : s.bad = none)
include hbad

theorem bar0_of_link_down (off : Nat) (h : (s.mod m).cxlUp = false) : exec (.registerWrite (.bar0 true m off) v) s = .next s := by
  rw [exec_registerWrite_bar0, State.blockWrite, if_pos (by simp [h])]
  exact out_next hbad

theorem bar0_of_management {off : Nat} (h : 0x4100 ≤ off) : exec (.registerWrite (.bar0 false m off) v) s = .next s := by
  rw [exec_registerWrite_bar0, State.blockWrite, if_pos (by simp [h])]
  exact out_next hbad

theorem bar0_pwrlim (h : (s.mod m).cxlUp = true) :
    exec (.registerWrite (.bar0 true m 0x4100) v) s = exec (.pwrlimWrite m v) s := by
  rw [exec_registerWrite_bar0, State.blockWrite, if_neg (by simp [h])]
  change (s.after (execPwrlimWrite m v s)).out = execPwrlimWrite m v s
  rw [execPwrlimWrite, if_neg (by simp [h])]
  exact out_next hbad

theorem bar0_dmaWindow {w off : Nat} (hi : Bool) (h : (s.mod m).cxlUp = true) (hw : w < 16) (hoff : off = 0x4200 + 16 * w + 8 * hi.toNat) :
    exec (.registerWrite (.bar0 true m off) v) s = exec (.dmaWindowWrite m w hi v) s := by
  have hle := hi.toNat_le
  have hword : (off - 0x4200) / 16 = w := by omega
  have hhalf : (off % 16 != 0) = hi := by cases hi <;> simp at hoff ⊢ <;> omega
  rw [exec_registerWrite_bar0, State.blockWrite, if_neg (by simp [h]; omega), if_neg (by simp; omega), if_neg (by simp; omega),
    if_neg (by omega), if_neg (by omega), if_neg (by omega), if_pos (by simp; omega), hword, hhalf]
  change (s.after (execDmaWindowWrite m w hi v s)).out = execDmaWindowWrite m w hi v s
  rw [execDmaWindowWrite, if_neg (by simp [h]; omega)]
  exact out_next hbad

end

/-- What a write of `ENGFAIL` clears and what it leaves (R92). -/
theorem writeEngfail_fields (c : Ctx) (v : Word) :
    (c.writeEngfail v).engfail.extractLsb' 0 16 = c.engfail.extractLsb' 0 16 &&& ~~~(v.extractLsb' 0 16) ∧
      (c.writeEngfail v).engfail.extractLsb' 16 48 = c.engfail.extractLsb' 16 48 := by
  refine ⟨?_, ?_⟩ <;> refine BitVec.eq_of_getLsbD_eq fun j hj => ?_
  · simp [Ctx.writeEngfail, BitVec.getLsbD_extractLsb']
    grind
  · simp [Ctx.writeEngfail, BitVec.getLsbD_extractLsb']
    grind

end Sys2Proof.Machine

namespace Sys2Proof
open Machine

/-- Settles O17: the trap at program level, then the write register by register. -/
theorem writeSystemRegister : Obligations.WriteSystemRegister := by
  unfold Obligations.WriteSystemRegister
  intro g sr a s k priv
  have hpriv : (sysOnly sr || sysPriv sr) = priv := privileged_eq sr
  refine ⟨fun hrun hp hsys => exec_ctl_traps (exec_mts g sr a s) hrun (if_pos (by simp [hpriv, hp, hsys])), ?_⟩
  intro i v hi becomes
  rw [← hpriv] at hi
  have hw : WritesSys i g sr a v s := hi
  refine ⟨?_, ?_, ?_, ?_, ?_, ?_, ?_, ?_, ?savebase, ?_, ?_, ?_, fun hlo hhi => ?pn, fun hlo hhi => ?pq, fun hk => ?ignored⟩
  case pn => exact hw.exec_ok (sysWrite_pn hlo hhi) rfl
  case pq => exact hw.exec_ok (sysWrite_pq hlo hhi) rfl
  case ignored => exact hw.exec_ok (sysWrite_ignored hk) rfl
  case savebase =>
    rintro rfl
    refine ⟨fun hdie htakes => ?_, fun hdie => hw.exec_error (if_neg hdie)⟩
    obtain ⟨t, hop, hbad, hrebased⟩ := savebaseWriteOp_rebased hdie htakes
    exact ⟨t, hw.exec_ok hop hbad, hrebased⟩
  all_goals
    rintro rfl
    exact hw.exec_ok rfl rfl

/-- Settles O18: each row by its own write, and the block's rows by the offsets that reach them. -/
theorem registerWriteRows : Obligations.RegisterWriteRows := by
  unfold Obligations.RegisterWriteRows
  intro v i s
  refine ⟨rfl, rfl, rfl, rfl, ?engfail, fun hbad hdie htakes => ?savebase, fun hdie => ?outside, fun m off hbad => ?block⟩
  case engfail =>
    obtain ⟨hcleared, hkept⟩ := writeEngfail_fields s.here v
    refine ⟨_, rfl, updCtx_onlyCtx s s.cur.cx _, ?_⟩
    rw [engfailWriteOp, updCtx_here]
    exact ⟨hcleared, hkept, rfl⟩
  case savebase =>
    obtain ⟨t, hop, hbadt, hrebased⟩ := savebaseWriteOp_rebased hdie htakes
    refine ⟨t, ?_, hrebased⟩
    rw [exec_savebaseWrite, hop]
    exact out_next (hbadt.trans hbad)
  case outside =>
    rw [exec_savebaseWrite, show savebaseWriteOp v s = .error (trap0 trapOperandRange v) from if_neg hdie]
    rfl
  case block =>
    intro host
    exact ⟨bar0_of_link_down hbad off, fun hup => ⟨bar0_pwrlim hbad hup,
      fun w hw => ⟨bar0_dmaWindow hbad false hup hw rfl, bar0_dmaWindow hbad true hup hw (by rw [Bool.toNat_true]; omega)⟩⟩,
      bar0_of_management hbad⟩

end Sys2Proof

/-! # The issue of a streaming op of S3–S6 (R24, R41–R44, R63, R67, R69) -/

namespace Sys2Proof.Machine

open Sys2Proof.Laws.Encodable (parcelG_pk)

/-! ## The ops of S3–S6 -/

/-- What issue does with an op of S3–S6 is the same for every op of its slot. -/
theorem exec_stream {slot : Nat} {i : Instr} (h : slot ∈ [3, 4, 5, 6]) (hs : i.slots = [slot]) (hn : isNop i = false) (s : State) :
    exec i s = aloneStream slot (gBitOf i) i s := by
  have hg : ∀ g op x, parcelG (pk g op x) = g := parcelG_pk
  have hslot : i.slots.head? = some slot := by rw [hs]; rfl
  cases i with
  | ld | st | lda | stl | ldfe | ldff | stef | stff | feinit | vld | vst | vldw | vstf | ldnb | stt | waita | fence | drain | persist
  | pref | cflush | afadd | afaddf | afmin | afmax | afand | afor | afxor | axchg | acas | fpush | fpop | ldxs | vadd | vsub | vmul
  | vfma | vmin | vmax | vabs | vneg | vadds | vsubs | vmulh | vand | vor | vxor | vshl | vshr | vsar | vcmp | vsel | vacs | vrotr
  | vrotc | vbcr | vbcc | vredr | vredc | vshuf | vtrn | vmov | vsplat | vins | vext | viota | vcvt | vdecmv | vexp2 | vlog2 | vrcp
  | vrsq | mbeat | mwsel | mmode | aget | aput | aputa | aclr =>
    rw [gBitOf, encodeParcel, hg]
    cases hslot
    rfl
  | nopMem | nopVec | nopMx | nopAcc => cases hn
  | _ =>
    cases hslot <;> simp at h

theorem tailFields_of_stream {slot : Nat} {i : Instr} (h : slot ∈ [3, 4, 5, 6]) (hs : i.slots = [slot]) : tailFields i = none := by
  cases ht : tailFields i with
  | none => rfl
  | some t =>
    have h7 := (command_kind ht).1
    rw [hs, List.mem_singleton] at h7
    subst h7
    simp at h

/-! ## The destinations listed -/

/-- `d` is `c`, but for presence bits and outstanding writes. -/
def ListsFrom (c d : Ctx) : Prop :=
  d = { c with prog := { c.prog with pres := d.prog.pres }, shad := { c.shad with pres := d.shad.pres }, vpres := d.vpres, outs := d.outs }

theorem ListsFrom.trans {c d e : Ctx} (hcd : ListsFrom c d) (hde : ListsFrom d e) : ListsFrom c e := by
  unfold ListsFrom at *
  rw [hde, hcd]

theorem listsFrom_clearPresence (c : Ctx) (d : Dst) (outs : List Out) : ListsFrom c { c.clearPresence d with outs := outs } := by
  cases d with
  | n sys k => cases sys <;> rfl
  | v k => rfl

theorem listsFrom_listOuts (c : Ctx) (e : Entry) (i : Instr) : ListsFrom c (c.listOuts e i) := by
  unfold Ctx.listOuts
  induction dstsOf i e.sys generalizing c with
  | nil => rfl
  | cons d ds ih => exact (listsFrom_clearPresence c d _).trans (ih _)

/-- The presence bit of a named destination is cleared at the level of the entry, and of no other register (R69). -/
theorem listOuts_pres {c : Ctx} {e : Entry} {i : Instr} {d : Spec} (hsys : e.sys = c.sys) (h : nWrite i = some d) :
    (c.listOuts e i).regs.pres = c.regs.pres &&& ~~~((1 : BitVec 32) <<< namedIdx d) := by
  simp only [Ctx.listOuts, dstsOf, h, hsys]
  cases hsys' : c.sys <;> cases vWrite i <;> simp [Ctx.regs, Ctx.clearPresence, Ctx.setSet, Ctx.set, hsys']

theorem listOuts_vpres {c : Ctx} {e : Entry} {i : Instr} {v : Spec} (h : vWrite i = some v) :
    (c.listOuts e i).vpres = c.vpres &&& ~~~((1 : Word) <<< v.toNat) := by
  simp only [Ctx.listOuts, dstsOf, h]
  cases nWrite i with
  | none => rfl
  | some d => cases e.sys <;> rfl

/-! ## What issue leaves -/

/-- Issue of an op without tokens: its destinations listed, its entry behind those of its queue, and its count in `AWC`. -/
theorem enqueue_of_no_tail {c : Ctx} {e : Entry} {i : Instr} (h : tailFields i = none) :
    c.enqueue e i = { (c.listOuts e i).setQueue e.slot (c.queue e.slot ++ [e]) with awc := c.awc + (countsAwc i).toNat } := by
  have hlist := listsFrom_listOuts c e i
  simp only [Ctx.enqueue, Ctx.captureTokens, h]
  cases countsAwc i with
  | true => simp only [if_true, Ctx.setQueue]; rw [hlist]; rfl
  | false => simp only [Ctx.setQueue]; rw [hlist]; rfl

/-- An op turned off by the guard leaves its stickiness and its cursors (R24). -/
theorem issueAlone_off {slot : Nat} {i : Instr} {s : State} (h7 : slot ≠ 7) (hn : isNop i = false) (hoff : (gBitOf i && s.cur.off) = true) :
    s.issueAlone slot i = s.streamed slot i id := by
  have hpar : (s.cur.off && parcelG (parcelOf i).w0) = true := by rw [Bool.and_comm]; exact hoff
  simp only [State.issueAlone, State.issueCtx, hn, hpar, h7, if_true, Bool.false_eq_true, if_false]
  rfl

/-- An op that nothing holds and that reads no poison joins its queue, and starts if it is the first there (R67, R68). -/
theorem aloneStream_queued {slot : Nat} {g : Bool} {i : Instr} {s : State} (hon : (g && s.cur.off) = false)
    (hheld : streamHeld slot i s = false) (hp : firstPoisoned s.here (srcSpecs i) = none) :
    aloneStream slot g i s = (((s.issueAlone slot i).startHead s.cur.cx slot false).landed).out := by
  have hp' : firstPoisoned (s.ctx s.cur.cx) (srcSpecs i) = none := hp
  simp only [aloneStream, hon, hheld, hp', Bool.false_eq_true, if_false]

end Sys2Proof.Machine

namespace Sys2Proof
open Machine

/-- Settles O24: turned off, held, poisoned, or queued, as `aloneStream` tells them apart. -/
theorem streamingIssue : Obligations.StreamingIssue := by
  unfold Obligations.StreamingIssue
  rintro slot _ i s hslot hs rfl hn u e
  have h7 : slot ≠ 7 := by rintro rfl; simp at hslot
  have htail := tailFields_of_stream hslot hs
  have hexec := exec_stream hslot hs hn s
  refine ⟨fun hoff => ?off, fun hon hheld => ?held, fun hon hheld => ⟨fun sp hp => ?poisoned, fun hp => ?queued⟩⟩
  case off => exact (hexec.trans (aloneStream_off hoff)).trans (congrArg _ (issueAlone_off h7 hn hoff))
  case held => exact hexec.trans (aloneStream_held hon hheld)
  case poisoned => exact hexec.trans (aloneStream_poisoned hon hheld hp)
  case queued =>
    have hu : u = s.updCtx s.cur.cx (s.issuedCtx slot i) := issueAlone_eq hn (by rw [Bool.and_comm]; exact hon)
    have hhere : u.here = s.issuedCtx slot i s.here := by rw [hu, updCtx_here]
    have hlist := listsFrom_listOuts s.here e i
    have hctx : u.here = { s.here.listOuts e i with
        queues := mset [] slot (s.here.queue slot ++ [e]) (s.here.listOuts e i).queues
        awc := s.here.awc + (countsAwc i).toNat
        sticky := if oneShot i then merase slot s.here.sticky else mput slot (parcelOf i) s.here.sticky
        cursors := s.stepCursors s.cur.cx slot i s.here.cursors
        ord := s.here.ord + 1 } := by
      rw [hhere, State.issuedCtx, enqueue_of_no_tail htail]
      rfl
    have hqueues : u.here.queues = mset [] slot (s.here.queue slot ++ [e]) s.here.queues := by rw [hctx, hlist]
    refine ⟨hexec.trans (aloneStream_queued hon hheld hp), hu ▸ updCtx_onlyCtx s s.cur.cx _, ?_, fun k hk => ?_, rfl, rfl, rfl, rfl,
      ?_, ?_, ?_, fun d hd => ?_, fun v hv => ?_, fun k => ?_, ?_⟩
    · rw [Ctx.queue, hqueues, mget_mset_self]
    · rw [Ctx.queue, hqueues, mget_mset_ne _ hk]; rfl
    · rintro rfl; rfl
    · rintro rfl; rfl
    · rintro rfl; exact ⟨rfl, rfl⟩
    · rw [hctx]; exact listOuts_pres rfl hd
    · rw [hctx]; exact listOuts_vpres hv
    · rw [hctx, hlist]; exact ⟨rfl, rfl⟩
    · rw [hctx, hlist]; exact ⟨rfl, rfl, rfl, rfl, rfl, rfl, rfl⟩
end Sys2Proof

/-! # A register's columns stored with a zero (R140)

A state's vector register is a list of its columns. `VMOV` builds its result from the columns that are not 0, and no obligation
about the streaming queues asks that the list at its source leave out the others. -/
namespace Sys2Proof.Machine

/-- A `VMOV` of register 1 to register 9 at the head of S4's queue. -/
def vmovEntry : Entry :=
  { slot := 4, par := parcelOf (.vmov false 9 1), vals := [], cur := 0, cur2 := 0, rep := 0, pc := 0, ord := 0, sys := false, ckpt := false,
    fault := false, phase := .queued }

/-- The write that the `VMOV` has yet to make. -/
def vmovOut : Out := { ord := 0, slot := 4, dst := .v 9, val := none }

/-- The machine at reset, but for the `VMOV` of a register whose list holds column 0 as a 0. -/
def zeroColumn : State :=
  State.reset.updCtx 0 fun c => { c with queues := [(4, [vmovEntry])], outs := [vmovOut], v := [(1, [(0, 0)])], vvalid := 2 }

/-- The columns that the writes outstanding in context 0 hold. -/
def State.outVecs (s : State) : List (Option VReg) := (s.ctx 0).outs.map fun o => o.val.map OutVal.vec

theorem outVecs_of_zeroColumn : (zeroColumn.after (exec (.streamingEntryStart 0 4) zeroColumn)).outVecs = [some []] := by
  decide +kernel

end Sys2Proof.Machine

namespace Sys2Proof
open Machine

/-- Refutes O44: its clause on `VMOV` says that the result is the source's list of columns as it stands, of any state. Where that
list holds a column that is 0, the result leaves it out. -/
theorem not_streamingEvents : ¬ Obligations.StreamingEvents := by
  unfold Obligations.StreamingEvents
  rintro ⟨-, h⟩
  obtain ⟨hvmov, -⟩ := h zeroColumn 0 0 vmovOut {} vmovEntry []
  have hhead : (zeroColumn.ctx 0).queue 4 = [vmovEntry] ∧ (∀ x ∈ ([] : List Entry), x.ord ≠ vmovEntry.ord) ∧ vmovEntry.slot = 4 ∧
      vmovEntry.instr = some (.vmov false 9 1) ∧ vmovEntry.phase = .queued ∧ vmovEntry.fault = false ∧
      (zeroColumn.ctx 0).frozen = false ∧ (zeroColumn.ctx 0).guard = none := by
    refine ⟨rfl, ?_, rfl, rfl, rfl, rfl, rfl, rfl⟩
    nofun
  have hvec := (hvmov false 9 1 hhead rfl rfl).1 rfl rfl rfl
  have hout := outVecs_of_zeroColumn
  rw [hvec] at hout
  exact absurd hout (by decide)

end Sys2Proof

/-! # What a released store leaves of the repetition being carried out -/

namespace Sys2Proof.Machine

/-! ## A read of the hardware itself (R282, R291, R438) -/

/-- `t` is `s`, but for slices, media and wear. -/
def ReadsFrom (s t : State) : Prop :=
  t = { s with quads := t.quads, mods := t.mods } ∧ ∀ j, (t.mod j).life.rollbacks = (s.mod j).life.rollbacks

theorem ReadsFrom.refl (s : State) : ReadsFrom s s := ⟨rfl, fun _ => rfl⟩

theorem ReadsFrom.trans {s t u : State} (hst : ReadsFrom s t) (htu : ReadsFrom t u) : ReadsFrom s u := by
  obtain ⟨ht, htlife⟩ := hst
  obtain ⟨hu, hulife⟩ := htu
  exact ⟨by rw [hu, ht], fun j => (hulife j).trans (htlife j)⟩

theorem ReadsFrom.cur {s t : State} (h : ReadsFrom s t) : t.cur = s.cur := by rw [h.1]

theorem readsFrom_updQuad (s : State) (q : Nat) (f : Quad → Quad) : ReadsFrom s (s.updQuad q f) := ⟨rfl, fun _ => rfl⟩

theorem readsFrom_noteWear (s : State) (key : Nat) : ReadsFrom s (s.noteWear key) := by
  unfold State.noteWear
  split
  · refine ⟨rfl, fun j => ?_⟩
    rcases eq_or_ne j (modOf (keyDie key)) with rfl | hne
    · rw [State.mod_updMod]
      rfl
    · rw [State.mod_updMod_ne _ hne]
  · exact .refl s

theorem readsFrom_sliceRoom (s : State) (quad key : Nat) : ReadsFrom s (s.sliceRoom quad key).1 := by
  fun_cases State.sliceRoom s quad key with
  | case1 => exact .refl s
  | case2 => exact .refl s
  | case3 _ _ _ k =>
    dsimp only
    refine ReadsFrom.trans ?_ (readsFrom_updQuad ..)
    split
    · exact (readsFrom_updQuad s (homeQuad k) _).trans (readsFrom_noteWear ..)
    · exact .refl s

theorem readsFrom_fillSlice (s : State) (key : Nat) : ReadsFrom s (s.fillSlice key) := by
  unfold State.fillSlice
  split
  · exact .refl s
  · have hroom := (readsFrom_updQuad s (homeQuad key) _).trans (readsFrom_sliceRoom (s.mediaAccess key) (homeQuad key) key)
    dsimp only
    refine ReadsFrom.trans ?_ (readsFrom_updQuad ..)
    split
    · exact (hroom.trans (readsFrom_updQuad ..)).trans (readsFrom_noteWear ..)
    · exact hroom

theorem readsFrom_hwGet (s : State) (key n : Nat) : ReadsFrom s (s.hwGet key n).1 := by
  have hline (t : State) (l : Nat) : ReadsFrom t ((t.servesRead l).fillSlice l) :=
    (ReadsFrom.trans (readsFrom_updQuad ..) (readsFrom_updQuad ..)).trans (readsFrom_fillSlice ..)
  have hlines (ls : List Nat) (t : State) : ReadsFrom t (ls.foldl (fun (s : State) l => (s.servesRead l).fillSlice l) t) := by
    induction ls generalizing t with
    | nil => exact .refl t
    | cons l ls ih => exact (hline t l).trans (ih _)
  unfold State.hwGet
  split
  · exact .refl s
  · exact hlines _ s

theorem homeBytes_of_state {s t : State} (hmem : t.mem = s.mem) (hdies : t.dies = s.dies) (key n : Nat) : t.homeBytes key n = s.homeBytes key n := by
  induction n generalizing key with
  | zero => rfl
  | succ n ih =>
    rw [State.homeBytes, State.homeBytes, ih, State.homeByte, State.homeByte, State.remapOff, State.remapOff, State.byte, State.byte, State.die, State.die, hmem, hdies]

theorem hwGet_bytes {s : State} {key n : Nat} (h : s.granted false key n = true) : (s.hwGet key n).2 = s.homeBytes key n := by
  have hreads := (readsFrom_hwGet s key n).1
  have hsame : (s.hwGet key n).2 = (s.hwGet key n).1.homeBytes key n := by
    rw [State.hwGet, if_neg (by rw [h]; exact Bool.false_ne_true)]
  exact hsame.trans (homeBytes_of_state (by rw [hreads]) (by rw [hreads]) key n)

/-! ## The release of a held store (R409, R410) -/

section
variable (s : State)

@[simp] theorem cur_touch (key : Nat) : (s.touch key).cur = s.cur := rfl
@[simp] theorem cur_servesRead (key : Nat) : (s.servesRead key).cur = s.cur := rfl
@[simp] theorem cur_mediaAccess (key : Nat) : (s.mediaAccess key).cur = s.cur := rfl
@[simp] theorem cur_post (die : Nat) (code : LogCode) (data : List Nat) : (s.post die code data).cur = s.cur := rfl
@[simp] theorem cur_noteWear (key : Nat) : (s.noteWear key).cur = s.cur := (readsFrom_noteWear s key).cur
@[simp] theorem cur_sliceRoom (quad key : Nat) : (s.sliceRoom quad key).1.cur = s.cur := (readsFrom_sliceRoom s quad key).cur
@[simp] theorem cur_fillSlice (key : Nat) : (s.fillSlice key).cur = s.cur := (readsFrom_fillSlice s key).cur

theorem cur_homeRead {key n : Nat} {r : State × List Byte × Bool} (h : s.homeRead key n = some r) : r.1.cur = s.cur := by
  revert h
  unfold State.homeRead
  split_ifs
  · rintro ⟨⟩; rfl
  · dsimp only
    split
    · rintro ⟨⟩; simp
    · split_ifs <;> rintro ⟨⟩; simp

@[simp] theorem cur_homeWrite (key : Nat) (bs : List Byte) (p : Bool) : (s.homeWrite key bs p).cur = s.cur := by
  unfold State.homeWrite
  simp [apply_ite State.cur]

@[simp] theorem cur_writeBackCached (l : CacheLine) : (s.writeBackCached l).cur = s.cur := by
  unfold State.writeBackCached
  simp [apply_ite State.cur]

@[simp] theorem cur_flushCached (cl key : Nat) : (s.flushCached cl key).cur = s.cur := by
  fun_cases State.flushCached s cl key <;> simp

theorem cur_cacheFill {cl : Nat} {l : Option Nat} {key : Nat} {t : State} (h : s.cacheFill cl l key = some t) :
    t.cur = s.cur := by
  revert h
  fun_cases State.cacheFill s cl l key with
  | case1 => rintro ⟨⟩; simp
  | case2 => nofun
  | case3 _ t _ _ hr _ old _ u =>
    have hu : u.cur = t.cur := by cases old <;> simp [u]
    rintro ⟨⟩
    exact hu.trans ((cur_homeRead _ hr).trans (cur_flushCached s cl key))

theorem cur_cacheWrite {cl : Nat} {l : Option Nat} {key : Nat} {bs : List Byte} {p : Bool} {t : State}
    (h : s.cacheWrite cl l key bs p = some t) : t.cur = s.cur := by
  revert h
  fun_cases State.cacheWrite s cl l key bs p with
  | case2 _ hfill => rintro ⟨⟩; exact (cur_cacheFill s hfill :)
  | _ => nofun

@[simp] theorem cur_copyWrite (q key : Nat) (bs : List Byte) (p : Bool) : (s.copyWrite q key bs p).cur = s.cur := by
  unfold State.copyWrite
  dsimp only
  split <;> simp

@[simp] theorem cur_countMigration (key die : Nat) : (s.countMigration key die).cur = s.cur := by
  unfold State.countMigration
  dsimp only
  split
  · split_ifs <;> simp
  · simp

theorem cur_writePiece {cx : Nat} {cached : Bool} {p : Piece} {bs : List Byte} {poison : Bool} {t : State}
    (h : s.writePiece cx cached p bs poison = some t) : t.cur = s.cur := by
  have hcount : ∀ b : Bool, ∀ key, (if b = true then s.countMigration key (dieOf cx) else s).cur = s.cur := by
    simp [apply_ite State.cur]
  revert h
  fun_cases State.writePiece s cx cached p bs poison with
  | case2 => rintro ⟨⟩; rfl
  | case6 => exact fun h => (cur_cacheWrite _ h).trans (hcount ..)
  | case5 => rintro ⟨⟩; exact (cur_copyWrite ..).trans (hcount ..)
  | case7 => rintro ⟨⟩; exact (cur_homeWrite ..).trans (hcount ..)
  | _ => rintro ⟨⟩; rfl

@[simp] theorem cur_cleanLine (cx : Nat) (cached : Bool) (p : Piece) : (s.cleanLine cx cached p).cur = s.cur := by
  fun_cases State.cleanLine s cx cached p <;> simp

theorem cur_writeParts {cx : Nat} {cached poison : Bool} {whole : List Nat} {ps : List Piece} {bs : List Byte} {t : State}
    (h : s.writeParts cx cached poison whole ps bs = some t) : t.cur = s.cur := by
  revert h
  fun_induction State.writeParts s cx cached poison whole ps bs with
  | case1 => rintro ⟨⟩; rfl
  | case2 => nofun
  | case3 _ _ _ _ _ hp ih =>
    intro h
    rw [ih h, apply_ite State.cur, cur_cleanLine, ite_self, cur_writePiece _ hp]

theorem cur_writePieces {cx : Nat} {cached poison : Bool} {ps : List Piece} {bs : List Byte} {t : State}
    (h : s.writePieces cx cached poison ps bs = some t) : t.cur = s.cur := cur_writeParts s h

theorem cur_send {p : Packet} {r : State × Nat} (h : s.send p = some r) : r.1.cur = s.cur := by
  unfold State.send at h
  dsimp only at h
  split_ifs at h
  cases h
  rfl

theorem cur_releaseStore {cx : Nat} {h : HeldStore} {u : State} (hu : s.releaseStore cx h = some u) : u.cur = s.cur := by
  unfold State.releaseStore at hu
  dsimp only at hu
  split at hu
  · cases hu
  split at hu
  · obtain ⟨r, hr, rfl⟩ := Option.map_eq_some_iff.mp hu
    exact cur_send s hr
  · obtain ⟨t, ht, rfl⟩ := Option.map_eq_some_iff.mp hu
    simp [apply_ite State.cur, cur_writePieces s ht]

end

end Sys2Proof.Machine

/-! # A checkpoint and its snapshot (R87, R406, R409, R410) -/

namespace Sys2Proof.Machine

/-! ## The snapshot -/

section
variable {s : State} {cx : Nat}

theorem fillSlotsWith_of_valid (get : State → Nat → Nat → State × List Byte) {n : Nat} (h : ∀ r < n, (s.ctx cx).vvalid.getLsbD r = true) :
    fillSlotsWith get cx n s = s := by
  induction n with
  | zero => rfl
  | succ n ih =>
    rw [fillSlotsWith, ih fun r hr => h r (by omega)]
    exact if_pos (h n (by omega))

theorem fillSlots_of_valid {n : Nat} (h : ∀ r < n, (s.ctx cx).vvalid.getLsbD r = true) : State.fillSlots cx n s = s := by
  rw [fillSlots_eq_fillSlotsWith]
  exact fillSlotsWith_of_valid _ h

/-- The snapshot of a context whose registers are valid and that does not hold the array. -/
theorem takeSnapshot_of_valid (hv : ∀ n < 48, (s.ctx cx).vvalid.getLsbD n = true) (hacc : (s.ctx cx).accbanks.getLsbD 8 = false) :
    s.takeSnapshot cx =
      (s.setCtx cx { s.ctx cx with rcount := 0, rrun := 0, guard := some { snap := s.snapshotOf cx } }).updCore (coreOf cx) fun k =>
        { k with contain := k.contain.filter (· != cx) } := by
  have hholder : (s.ctx cx).holder = false := hacc
  simp only [State.takeSnapshot, fillSlots_of_valid hv, hholder, Bool.false_eq_true, if_false]

theorem ctx_takeSnapshot (hv : ∀ n < 48, (s.ctx cx).vvalid.getLsbD n = true) (hacc : (s.ctx cx).accbanks.getLsbD 8 = false) :
    (s.takeSnapshot cx).ctx cx = { s.ctx cx with rcount := 0, rrun := 0, guard := some { snap := s.snapshotOf cx } } := by
  rw [takeSnapshot_of_valid hv hacc]
  exact State.ctx_setCtx ..

/-- A snapshot holds the rows of the banks allotted to its context. -/
theorem snapshotOf_row {row : Nat} (hrow : (s.ctx cx).accbanks.getLsbD (row / 128) = true) (hlt : row < 1024) :
    mget [] row (s.snapshotOf cx).acc = mget [] row (s.core (coreOf cx)).acc := by
  have howns : (s.ctx cx).ownsRow row = true := by simp [Ctx.ownsRow, hrow, hlt]
  exact (mget_filter [] (s.ctx cx).ownsRow row _).trans (if_pos howns)

end

/-! ## The release step -/

theorem setCtx_updCtx (s : State) (cx : Nat) (f : Ctx → Ctx) (c : Ctx) : (s.updCtx cx f).setCtx cx c = s.setCtx cx c := by
  simp only [State.updCtx, State.setCtx, mput_mput]

/-- The context at hand as a checkpoint bundle releases its held stores, `hold` of them left. -/
def State.releasing (s : State) (g : Guard) (hold : List HeldStore) : State :=
  s.updCtx s.cur.cx fun c =>
    { c with rrun := 0, guard := some { g with runs := [], hold := hold, released := true, committing := g.committing || c.rrun != 0 } }

theorem exec_ckpt (b : Bool) (s : State) :
    exec (.ckpt b) s = aloneCtl b (.ckpt b) (fun _ s => .ok s) (fun _ s => ckptPost s) s := rfl

section
variable {s : State} {g : Guard} (hguard : s.here.guard = some g)
include hguard

theorem releaseAll_commit : (s.updCtx s.cur.cx Ctx.commit).releaseAll s.cur.cx =
    State.releaseHeld s.cur.cx g.hold.length (s.releasing g g.hold) := by
  have hopen : (s.updCtx s.cur.cx Ctx.commit).updCtx s.cur.cx (fun c => { c with guard := c.guard.map fun g => { g with released := true } }) =
      s.releasing g g.hold := by
    rw [updCtx_updCtx]
    refine updCtx_congr ?_
    rw [Ctx.commit, hguard]
    rfl
  have hheld : (s.releasing g g.hold).ctx s.cur.cx = _ := State.ctx_updCtx ..
  rw [State.releaseAll, hopen, hheld]
  rfl

omit hguard in
/-- The one held store goes out, or waits. -/
theorem releaseHeld_one (h : HeldStore) : State.releaseHeld s.cur.cx 1 (s.releasing g [h]) =
    ((s.releasing g []).releaseStore s.cur.cx h).getD (s.releasing g [h]) := by
  have hctx (hold : List HeldStore) : (s.releasing g hold).ctx s.cur.cx = _ := State.ctx_updCtx ..
  have hheld : ∃ g', ((s.releasing g [h]).ctx s.cur.cx).guard = some g' ∧ g'.hold = [h] ∧
      (s.releasing g [h]).setCtx s.cur.cx { (s.releasing g [h]).ctx s.cur.cx with guard := some { g' with hold := [] } } = s.releasing g [] := by
    rw [hctx]
    exact ⟨_, rfl, rfl, setCtx_updCtx ..⟩
  obtain ⟨g', hg', hhold, hrest⟩ := hheld
  simp only [State.releaseHeld, hg', hhold, hrest]
  cases (s.releasing g []).releaseStore s.cur.cx h <;> rfl

variable (herr : g.err = none)
include herr

theorem pendingError_of_no_error : s.pendingError s.cur.cx = none := by
  have hg : (s.ctx s.cur.cx).guard = some g := hguard
  rw [State.pendingError, hg, Option.bind_some, herr]
  exact ite_self _

/-- A checkpoint that no rerun keeps from it: the release step, then the snapshot once all that issued is done. -/
theorem ckptPost_of_commit (hend : s.endRerun s.cur.cx = none) : ckptPost s =
    let t := State.releaseHeld s.cur.cx g.hold.length (s.releasing g g.hold)
    if (t.ctx s.cur.cx).holdEmpty && t.ckptDone s.cur.cx then t.takeSnapshot s.cur.cx else t := by
  have hguarded : (s.ctx s.cur.cx).guarded = true := congrArg Option.isSome hguard
  simp only [ckptPost, hguarded, pendingError_of_no_error hguard herr, hend, releaseAll_commit hguard, Bool.not_true, Bool.false_eq_true, if_false,
    Option.none_or]

theorem ckptPost_of_rerun {u : State} (hend : s.endRerun s.cur.cx = some u) : ckptPost s = u := by
  have hguarded : (s.ctx s.cur.cx).guarded = true := congrArg Option.isSome hguard
  simp only [ckptPost, hguarded, pendingError_of_no_error hguard herr, hend, Bool.not_true, Bool.false_eq_true, if_false, Option.none_or]

end

/-! ## The end of a rerun (R414) -/

section
variable {s : State} {cx : Nat} {g : Guard} (hguard : (s.ctx cx).guard = some g)
include hguard

theorem endRerun_none (h : (s.ctx cx).rrun = 0 ∨ ((s.ctx cx).rrun ≠ 1 ∧ g.runs = [((s.ctx cx).rcount.toNat, g.sig)])) :
    s.endRerun cx = none := by
  simp only [State.endRerun, hguard]
  rcases h with h0 | ⟨h1, hruns⟩
  · rw [if_pos h0]
  · simp only [h1, hruns, beq_self_eq_true, if_true, if_false, ite_self]

theorem endRerun_first (h : (s.ctx cx).rrun = 1) : s.endRerun cx =
    some (((s.setCtx cx { s.ctx cx with guard := some { g with runs := [((s.ctx cx).rcount.toNat, g.sig)] } }).restoreRegion cx 2).countLife (dieOf cx)
      fun l => { l with reruns := satAdd l.reruns 1 }) := by
  simp only [State.endRerun, hguard, h, if_true]
  rfl

theorem endRerun_differs (h0 : (s.ctx cx).rrun ≠ 0) (h1 : (s.ctx cx).rrun ≠ 1) (h : g.runs ≠ [((s.ctx cx).rcount.toNat, g.sig)]) :
    s.endRerun cx = some (s.retireCore cx) := by
  simp only [State.endRerun, hguard, h0, h1, if_false, beq_eq_false_iff_ne.mpr h, Bool.false_eq_true]

end
end Sys2Proof.Machine

/-! # A region undone (R414, R415) -/

namespace Sys2Proof.Machine

/-- A context as its region is undone: as at the checkpoint, its queues empty, in run `run` of the region. -/
def Ctx.undone (c : Ctx) (g : Guard) (run : BitVec 2) : Ctx :=
  let x := g.snap
  { c with
    phase := .running, pc := x.pc, rcLeft := x.rcLeft, mid := x.mid, decoded := none, sys := x.sys, prog := x.prog, shad := x.shad, v := x.v
    vpres := x.vpres, vpois := x.vpois, vvalid := BitVec.allOnes 64, vdirty := BitVec.allOnes 64, vdec := x.vdec,
    flags := x.flags, fpstatus := x.fpstatus, engfail := x.engfail, engrec := x.engrec, loops := x.loops,
    cursors := x.cursors, sticky := x.sticky, awc := x.awc, frame := x.frame, trapcause := x.trapcause,
    trappc := x.trappc, info0 := x.info0, info1 := x.info1, trapvec := x.trapvec, skipS0 := x.skipS0,
    energy := x.energy, queues := [], outs := c.outs.filter fun o => o.slot = 7, sfault := [], held := x.held
    rrun := run, rcount := 0, guard := some { snap := x, runs := g.runs } }

/-- What undoing the region of a context leaves of the machine. -/
structure Undone (s : State) (cx : Nat) (g : Guard) (run : BitVec 2) (u : State) : Prop where
  here : u.ctx cx = (s.ctx cx).undone g run
  others : ∀ k, k ≠ cx → u.ctx k = s.ctx k
  array : (s.ctx cx).holder = true → s.granted false ((s.ctx cx).imageKey + 0x30000) 0x21440 = true →
    (u.core (coreOf cx)).arr = matArrayOf (s.homeBytes ((s.ctx cx).imageKey + 0x30000) 0x21440)
  retired : ∀ k, (u.core k).retired = (s.core k).retired
  rollbacks : ∀ j, (u.mod j).life.rollbacks = (s.mod j).life.rollbacks
  kept : u.mem = s.mem ∧ u.clusters = s.clusters ∧ u.launches = s.launches ∧ u.cur = s.cur ∧ u.bad = s.bad

/-- What the restart of a `WSTR` leaves of the machine. -/
def State.besideCmds (s : State) := (s.ctxs, s.cores, s.mods, (s.mem, s.clusters, s.launches, s.cur, s.bad))

theorem besideCmds_restartWstr (s : State) (p : Nat × Nat × Command) : (s.restartWstr p).besideCmds = s.besideCmds := by
  unfold State.restartWstr
  dsimp only
  split <;> rfl

theorem retired_updCore {s : State} {k : Nat} {f : Core → Core} (hf : ∀ c, (f c).retired = c.retired) (j : Nat) :
    ((s.updCore k f).core j).retired = (s.core j).retired := by
  rcases eq_or_ne j k with rfl | hne
  · rw [State.core_updCore, hf]
  · rw [State.core_updCore_ne _ hne]

/-- `t` is `s`, but for what is in flight, slices, media and wear. -/
def DiscardsFrom (s t : State) : Prop :=
  t = { s with net := t.net, gathers := t.gathers, quads := t.quads, mods := t.mods } ∧ ∀ j, (t.mod j).life.rollbacks = (s.mod j).life.rollbacks

theorem ReadsFrom.discards {s t u : State} (hu : ReadsFrom t u) (h : DiscardsFrom s t) : DiscardsFrom s u := by
  obtain ⟨ht, htlife⟩ := h
  obtain ⟨hu, hulife⟩ := hu
  exact ⟨by rw [hu, ht], fun j => (hulife j).trans (htlife j)⟩

theorem Undone.of_parts {s t : State} {cx : Nat} {g : Guard} {run : BitVec 2} {f : Core → Core}
    (h : DiscardsFrom s t) (hf : ∀ k, (f k).retired = k.retired)
    (harr : (s.ctx cx).holder = true → s.granted false ((s.ctx cx).imageKey + 0x30000) 0x21440 = true →
      ∀ k, (f k).arr = matArrayOf (s.homeBytes ((s.ctx cx).imageKey + 0x30000) 0x21440)) :
    Undone s cx g run (g.wstr.foldl State.restartWstr ((t.updCore (coreOf cx) f).setCtx cx ((s.ctx cx).undone g run))) := by
  obtain ⟨ht, hlife⟩ := h
  have hbeside := foldl_keeps (p := State.besideCmds) besideCmds_restartWstr g.wstr ((t.updCore (coreOf cx) f).setCtx cx ((s.ctx cx).undone g run))
  generalize g.wstr.foldl State.restartWstr ((t.updCore (coreOf cx) f).setCtx cx ((s.ctx cx).undone g run)) = u at hbeside ⊢
  simp only [State.besideCmds, Prod.mk.injEq] at hbeside
  obtain ⟨hctxs, hcores, hmods, hmem, hclusters, hlaunches, hcur, hbad⟩ := hbeside
  have hctx (k : Nat) : u.ctx k = ((t.updCore (coreOf cx) f).setCtx cx ((s.ctx cx).undone g run)).ctx k := by rw [State.ctx, State.ctx, hctxs]
  have hcore (k : Nat) : u.core k = (t.updCore (coreOf cx) f).core k := by rw [State.core, hcores]; rfl
  have htcore (k : Nat) : t.core k = s.core k := by rw [ht]; rfl
  refine ⟨?_, fun k hk => ?_, fun hholder hgrant => ?_, fun k => ?_, fun j => ?_, ?_, ?_, ?_, ?_, ?_⟩
  · rw [hctx, State.ctx_setCtx]
  · rw [hctx, State.ctx_setCtx_ne _ hk, ht]; rfl
  · rw [hcore, State.core_updCore, harr hholder hgrant]
  · rw [hcore, retired_updCore hf, htcore]
  · rw [State.mod, hmods]; exact hlife j
  · rw [hmem, ht]; rfl
  · rw [hclusters, ht]; rfl
  · rw [hlaunches, ht]; rfl
  · rw [hcur, ht]; rfl
  · rw [hbad, ht]; rfl

theorem restoreRegion_undone {s : State} {cx : Nat} {g : Guard} (run : BitVec 2) (hguard : (s.ctx cx).guard = some g)
    (himage : (s.ctx cx).holder = true → populated ((s.ctx cx).imageKey + 0x30000) = true) : Undone s cx g run (s.restoreRegion cx run) := by
  -- the read of the image as a parameter, which the kernel does not compute
  obtain ⟨get, hget, hreads, hbytes⟩ : ∃ get, get = State.hwGet ∧ (∀ t key n, ReadsFrom t (get t key n).1) ∧
      ∀ {s t : State} {key n}, t.mem = s.mem → t.dies = s.dies → t.granted false key n = true → (get t key n).2 = s.homeBytes key n :=
    ⟨_, rfl, readsFrom_hwGet, fun hmem hdies h => (hwGet_bytes h).trans (homeBytes_of_state hmem hdies _ _)⟩
  unfold State.restoreRegion
  rw [← hget]
  clear hget
  cases hholder : (s.ctx cx).holder with
  | false =>
    simp only [hguard, hholder, Bool.false_and, Bool.false_eq_true, if_false]
    exact Undone.of_parts ⟨rfl, fun _ => rfl⟩ (fun _ => rfl) (fun h => by rw [hholder] at h; cases h)
  | true =>
    simp only [hguard, hholder, himage hholder, Bool.not_true, Bool.and_false, Bool.false_eq_true, if_false, if_true]
    refine Undone.of_parts (ReadsFrom.discards (hreads ..) ⟨rfl, fun _ => rfl⟩) (fun _ => rfl) fun _ hgrant _ => congrArg matArrayOf ?_
    exact hbytes rfl rfl hgrant
end Sys2Proof.Machine

/-! # A core retired (R415) -/

namespace Sys2Proof.Machine

/-- Whether the machine has stopped, and which cores are retired. -/
def State.health (s : State) := (s.bad, fun k => (s.core k).retired)

theorem health_updCore {s : State} {k : Nat} {f : Core → Core} (hf : ∀ c, (f c).retired = c.retired) : (s.updCore k f).health = s.health :=
  Prod.ext rfl (funext (retired_updCore hf))

theorem health_dropEngines (s : State) (mine : Nat → Option (Nat × Nat) → Bool) : (s.dropEngines mine).health = s.health := rfl

theorem health_stopCtx (s : State) (cx : Nat) : (s.stopCtx cx).health = s.health := by
  rw [State.stopCtx, health_dropEngines, health_updCore]
  · rfl
  · exact fun _ => rfl

theorem health_failLaunch (s : State) (l : Option Nat) (status : Nat) : (s.failLaunch l status).health = s.health := by
  cases l with
  | none => rfl
  | some k => exact foldl_keeps (p := State.health) health_stopCtx _ _

theorem health_withdrawPlays (s : State) (l : Nat) : (s.withdrawPlays l).health = s.health :=
  foldl_keeps (f := fun (s : State) (e : Nat × Command) => s.withdrawPlay l e.1 e.2) (p := State.health) (fun _ _ => rfl) _ s

theorem Undone.health {s u : State} {cx : Nat} {g : Guard} {run : BitVec 2} (h : Undone s cx g run u) : u.health = s.health := by
  obtain ⟨-, -, -, -, hbad⟩ := h.kept
  exact Prod.ext hbad (funext h.retired)

/-- No guarded context holds the array, or has its snapshot to come. -/
def State.Undoable (s : State) : Prop :=
  ∀ cx, ∀ g, (s.ctx cx).guard = some g → g.closing = false ∧ (s.ctx cx).accbanks.getLsbD 8 = false

theorem Undone.undoable {s u : State} {cx : Nat} {g : Guard} {run : BitVec 2} (h : Undone s cx g run u) (hguard : (s.ctx cx).guard = some g)
    (hs : s.Undoable) : u.Undoable := by
  intro k g' hk
  rcases eq_or_ne k cx with rfl | hne
  · rw [h.here] at hk ⊢
    cases hk
    exact ⟨rfl, (hs k g hguard).2⟩
  · rw [h.others k hne] at hk ⊢
    exact hs k g' hk

theorem toCheckpoint_keeps {s : State} (hs : s.Undoable) (cx : Nat) : (s.toCheckpoint cx).Undoable ∧ (s.toCheckpoint cx).health = s.health := by
  cases hguard : (s.ctx cx).guard with
  | none =>
    have heq : s.toCheckpoint cx = s := by simp [State.toCheckpoint, Ctx.guarded, hguard]
    rw [heq]
    exact ⟨hs, rfl⟩
  | some g =>
    obtain ⟨hclosing, hacc⟩ := hs cx g hguard
    cases hreleased : g.released with
    | true =>
      have heq : s.toCheckpoint cx = s := by simp [State.toCheckpoint, hguard, hclosing, hreleased]
      rw [heq]
      exact ⟨hs, rfl⟩
    | false =>
      have heq : s.toCheckpoint cx = s.restoreRegion cx 0 := by simp [State.toCheckpoint, hguard, hclosing, hreleased]
      have hundone := restoreRegion_undone 0 hguard fun hholder => by rw [Ctx.holder, hacc] at hholder; cases hholder
      rw [heq]
      exact ⟨hundone.undoable hguard hs, hundone.health⟩

theorem foldl_toCheckpoint_keeps {l : List Nat} {s : State} (hs : s.Undoable) :
    (l.foldl State.toCheckpoint s).Undoable ∧ (l.foldl State.toCheckpoint s).health = s.health := by
  induction l generalizing s with
  | nil => exact ⟨hs, rfl⟩
  | cons cx l ih =>
    obtain ⟨hs', hhealth⟩ := toCheckpoint_keeps hs cx
    obtain ⟨hrest, hrest'⟩ := ih hs'
    exact ⟨hrest, hrest'.trans hhealth⟩

theorem health_preempt {s : State} (hs : s.Undoable) (l : Nat) : (s.preempt l).health = s.health := by
  unfold State.preempt
  dsimp only
  split
  · rfl
  · rw [health_withdrawPlays, (foldl_toCheckpoint_keeps _).2]
    · rfl
    · exact hs

/-- The core of a context retires, and the machine goes on. -/
theorem retireCore_retires {s : State} (hs : s.Undoable) (cx : Nat) :
    ((s.retireCore cx).core (coreOf cx)).retired = true ∧ (s.retireCore cx).bad = s.bad := by
  obtain ⟨hs', hhealth⟩ := foldl_toCheckpoint_keeps (l := (List.range 4).map fun h => 4 * coreOf cx + h) hs
  rw [List.foldl_map] at hs' hhealth
  unfold State.retireCore
  dsimp only
  generalize (List.range 4).foldl (fun s h => s.toCheckpoint (4 * coreOf cx + h)) s = t at hs' hhealth ⊢
  generalize hv : ((t.updCore (coreOf cx) fun y => { y with retired := true }).countLife (dieOf cx) fun l =>
      { l with retired := satAdd l.retired 1 }).post (dieOf cx) .coreRetired [coreOf cx] = v
  have hcore : (v.core (coreOf cx)).retired = true := by
    rw [← hv]
    change ((t.updCore (coreOf cx) fun y => { y with retired := true }).core (coreOf cx)).retired = true
    rw [State.core_updCore]
  have hbad : v.bad = s.bad := (by rw [← hv]; rfl : v.bad = t.bad).trans (congrArg Prod.fst hhealth)
  have hundo : v.Undoable := by rw [← hv]; exact hs'
  have hfinish {u : State} (hu : u.health = v.health) : (u.core (coreOf cx)).retired = true ∧ u.bad = s.bad :=
    ⟨(congrFun (congrArg Prod.snd hu) (coreOf cx)).trans hcore, (congrArg Prod.fst hu).trans hbad⟩
  split
  · exact hfinish rfl
  · split
    · exact hfinish (health_preempt hundo _)
    · exact hfinish (health_failLaunch ..)

end Sys2Proof.Machine

/-! # Checkpoints and errors, case by case (R410, R413, R414) -/

namespace Sys2Proof.Machine

/-! ## A checkpoint that commits -/

section
variable {s : State} {g : Guard} (hguard : s.here.guard = some g) (herr : g.err = none) (hend : s.endRerun s.cur.cx = none)
include hguard herr hend

theorem ckptPost_of_nothing_held (hhold : g.hold = []) : ckptPost s =
    if (s.releasing g []).ckptDone s.cur.cx then (s.releasing g []).takeSnapshot s.cur.cx else s.releasing g [] := by
  have hempty : ((s.releasing g []).ctx s.cur.cx).holdEmpty = true := by
    rw [State.releasing, State.ctx_updCtx]
    rfl
  rw [ckptPost_of_commit hguard herr hend, hhold]
  simp only [List.length_nil, State.releaseHeld, hempty, Bool.true_and]

theorem ckptPost_of_waiting_store {h : HeldStore} (hhold : g.hold = [h]) (hwaits : (s.releasing g []).releaseStore s.cur.cx h = none) :
    ckptPost s = s.releasing g [h] := by
  have hheld : ((s.releasing g [h]).ctx s.cur.cx).holdEmpty = false := by
    rw [State.releasing, State.ctx_updCtx]
    rfl
  rw [ckptPost_of_commit hguard herr hend, hhold, List.length_singleton, releaseHeld_one, hwaits]
  simp only [Option.getD_none, hheld, Bool.false_and, Bool.false_eq_true, if_false]

theorem ckptPost_of_released_store {h : HeldStore} {u : State} (hhold : g.hold = [h])
    (hgoes : (s.releasing g []).releaseStore s.cur.cx h = some u) (hempty : (u.ctx s.cur.cx).holdEmpty = true) :
    ckptPost s = if u.ckptDone s.cur.cx then u.takeSnapshot s.cur.cx else u := by
  rw [ckptPost_of_commit hguard herr hend, hhold, List.length_singleton, releaseHeld_one, hgoes]
  simp only [Option.getD_some, hempty, Bool.true_and]

end

/-- A snapshot taken changes the context, and the core's list of those whose errors are to be contained. -/
theorem takeSnapshot_frame {w : State} {cx : Nat} (hv : ∀ n < 48, (w.ctx cx).vvalid.getLsbD n = true)
    (hacc : (w.ctx cx).accbanks.getLsbD 8 = false) :
    let t := w.takeSnapshot cx
    t = { w with ctxs := t.ctxs, cores := t.cores } ∧ (∀ k, k ≠ cx → t.ctx k = w.ctx k) ∧
      ∀ k, t.core k = if k = coreOf cx then { w.core k with contain := (w.core k).contain.filter (· != cx) } else w.core k := by
  rw [takeSnapshot_of_valid hv hacc]
  refine ⟨rfl, fun k hk => State.ctx_setCtx_ne _ hk _, fun k => ?_⟩
  split
  · next h => rw [h, State.core_updCore]; rfl
  · next h => exact State.core_updCore_ne _ h _

/-! ## An error that undoes a region (R413, R414) -/

/-- A detected error of a context that is neither ending its region nor running it again. -/
theorem detected_of_running {s : State} {cx : Nat} {g : Guard} (hguard : (s.ctx cx).guard = some g) (hclosing : g.closing = false)
    (hreleased : g.released = false) (hrun : (s.ctx cx).rrun = 0) (hcontain : s.containing cx = false) (scratch : Bool) :
    s.detected cx scratch = ((s.addContained cx).restoreRegion cx 1).countLife (dieOf cx) fun l =>
      { l with rollbacks := satAdd l.rollbacks 1, reruns := satAdd l.reruns 1 } := by
  have hrun' : ((s.ctx cx).rrun != 0) = false := by rw [hrun]; rfl
  simp only [State.detected, hguard, hclosing, hreleased, hcontain, hrun', Bool.or_self, Bool.false_eq_true, if_false]

theorem exec_registerFileError {s : State} {cx r : Nat} (hr : r < 64) (hvalid : (s.ctx cx).vvalid.getLsbD r = true)
    (hguarded : (s.ctx cx).guarded = true) : exec (.registerFileError cx r) s = (s.detected cx false).out := by
  have hlt : ¬64 ≤ r := by omega
  change execRegisterFileError cx r s = _
  simp [execRegisterFileError, hlt, hvalid, hguarded]

/-- A context put among those whose errors are to be contained changes its core's list only. -/
theorem addContained_frame (s : State) (cx : Nat) : s.addContained cx = { s with cores := (s.addContained cx).cores } := by
  unfold State.addContained
  split <;> rfl

theorem satAdd_one_toNat (w : Word) : (satAdd w 1).toNat = min (2 ^ 64 - 1) (w.toNat + 1) := by
  rw [satAdd, BitVec.toNat_ofNat]
  omega

/-! ## The bundle after a checkpoint (R410) -/

theorem issue_closing {s : State} {g : Guard} (b : Bundle) (hguard : s.here.guard = some g) (hclosing : g.closing = true) (herr : g.err = none)
    (hmay : s.mayIssue s.cur.cx = true) (hswitch : s.mustSwitch (coreOf s.cur.cx) = false) :
    s.issue b = if s.ckptDone s.cur.cx then s.takeSnapshot s.cur.cx else s := by
  have hg : (s.ctx s.cur.cx).guard = some g := hguard
  simp only [State.issue, Ctx.closing, hg, hmay, hswitch, herr, hclosing, Bool.not_true, Bool.or_self, Bool.false_eq_true, if_false, if_true,
    Option.bind_some, Option.isSome_none, Option.map_some, Option.getD_some]

end Sys2Proof.Machine

namespace Sys2Proof
open Machine

/-- Settles O53: a checkpoint by what the rerun it ends and the held stores leave to do, the bundle after it by whether all that it
issued is done, and an error by what undoing a region leaves. -/
theorem checkpointAndRollback : Obligations.CheckpointAndRollback := by
  unfold Obligations.CheckpointAndRollback
  refine ⟨?ckpt, ?bundle, ?error⟩
  case ckpt =>
    intro b s g hruns hguard herr c cx open_ taken plain
    have hexec : exec (.ckpt b) s = (ckptPost s).out := (exec_ckpt b s).trans (aloneCtl_effect hruns rfl)
    obtain ⟨-, -, hbad⟩ := hruns
    have hnext {u : State} (hpost : ckptPost s = u) (hu : u.bad = none) : exec (.ckpt b) s = .next u := by
      rw [hexec, hpost, out_next hu]
    have hopen : (open_ []).ctx cx = _ := State.ctx_updCtx ..
    refine ⟨fun hcommit => ?commits, fun h1 hacc _ => ?first, fun h0 h1 hdiffer hall => ?differs⟩
    case commits =>
      have hend := endRerun_none hguard hcommit
      refine ⟨fun hhold hdone hplain => ?_, fun hhold hdone => ?_, fun h hhold => ⟨fun hwaits => ?_, fun u hgoes hu hempty => ?_⟩⟩
      · have hv : ∀ n < 48, ((open_ []).ctx cx).vvalid.getLsbD n = true := by rw [hopen]; exact hplain.1
        have hacc : ((open_ []).ctx cx).accbanks.getLsbD 8 = false := by rw [hopen]; exact hplain.2
        obtain ⟨hframe, hothers, hcores⟩ := takeSnapshot_frame hv hacc
        refine ⟨(open_ []).takeSnapshot cx, hnext ((ckptPost_of_nothing_held hguard herr hend hhold).trans (if_pos hdone)) ?_,
          ⟨(open_ []).snapshotOf cx, ctx_takeSnapshot hv hacc, ?_⟩, hframe, hothers, hcores⟩
        · rw [hframe]
          exact hbad
        · have hrow {row : Nat} (h : c.accbanks.getLsbD (row / 128) = true) := snapshotOf_row (s := open_ []) (cx := cx) (row := row) (by rw [hopen]; exact h)
          simp only [State.snapshotOf, hopen] at hrow ⊢
          exact ⟨rfl, rfl, rfl, rfl, rfl, rfl, rfl, rfl, rfl, rfl, rfl, rfl, rfl, rfl, rfl, fun row h hlt => hrow h hlt⟩
      · exact hnext ((ckptPost_of_nothing_held hguard herr hend hhold).trans (if_neg (by rw [← Bool.not_eq_true] at hdone; exact hdone))) hbad
      · exact hnext (ckptPost_of_waiting_store hguard herr hend hhold hwaits) hbad
      · have hcur : u.cur = s.cur := cur_releaseStore (open_ []) hgoes
        have hhere : u.here = u.ctx cx := by rw [State.here, hcur]
        rw [hhere] at hempty ⊢
        have hpost := ckptPost_of_released_store hguard herr hend hhold hgoes hempty
        refine ⟨fun hdone => hnext (hpost.trans (if_neg (by rw [hdone]; exact Bool.false_ne_true))) hu, fun hdone hv hacc => ?_⟩
        obtain ⟨hframe, -, -⟩ := takeSnapshot_frame hv hacc
        refine ⟨u.takeSnapshot cx, u.snapshotOf cx, hnext (hpost.trans (if_pos hdone)) (by rw [hframe]; exact hu), by rw [hframe], by rw [hframe], ?_⟩
        have hcur' : (u.takeSnapshot cx).cur = s.cur := by rw [hframe]; exact hcur
        rw [State.here, hcur', ctx_takeSnapshot hv hacc]
    case first =>
      have hctx : (s.setCtx cx { c with guard := some { g with runs := [(c.rcount.toNat, g.sig)] } }).ctx cx = _ := State.ctx_setCtx ..
      have hundone := restoreRegion_undone 2 (congrArg Ctx.guard hctx) fun hholder => by
        rw [hctx, Ctx.holder, hacc] at hholder
        cases hholder
      have hhere := hundone.here
      obtain ⟨hmem, -, -, hcur, hbad'⟩ := hundone.kept
      refine ⟨_, hnext (ckptPost_of_rerun hguard herr (endRerun_first hguard h1)) (hbad'.trans hbad), ?_⟩
      rw [hctx] at hhere
      generalize State.restoreRegion _ cx 2 = u at hhere hmem hcur
      have hback : (u.countLife (dieOf cx) fun l => { l with reruns := satAdd l.reruns 1 }).here = u.ctx cx := congrArg (fun v : Cur => u.ctx v.cx) hcur
      rw [hback, hhere]
      exact ⟨rfl, rfl, rfl, rfl, hmem, _, rfl, rfl⟩
    case differs =>
      obtain ⟨hretired, hbad'⟩ := retireCore_retires hall cx
      exact ⟨_, hnext (ckptPost_of_rerun hguard herr (endRerun_differs hguard h0 h1 hdiffer)) (hbad'.trans hbad), hretired⟩
  case bundle =>
    intro s hdr ws g hguard hclosing herr hmay hswitch hbad
    have hexec : exec (.fullBundle hdr ws) s = (s.issue (fullBundleOf hdr ws)).out := rfl
    rw [issue_closing _ hguard hclosing herr hmay hswitch] at hexec
    refine ⟨fun hdone => ?_, fun hdone hv hacc => ?_⟩
    · rw [hexec, if_neg (by rw [hdone]; exact Bool.false_ne_true), out_next hbad]
    · obtain ⟨hframe, -, -⟩ := takeSnapshot_frame hv hacc
      have hcur : (s.takeSnapshot s.cur.cx).cur = s.cur := by rw [hframe]
      refine ⟨s.takeSnapshot s.cur.cx, s.snapshotOf s.cur.cx, ?_, ?_, rfl, rfl, rfl, rfl⟩
      · rw [hexec, if_pos hdone, out_next]
        rw [hframe]
        exact hbad
      · rw [State.here, hcur, ctx_takeSnapshot hv hacc]
  case error =>
    intro s cx r g c x hguard hclosing hreleased hrun _ hbad hcontain himage hr hvalid
    have hframe := addContained_frame s cx
    have hctx (k : Nat) : (s.addContained cx).ctx k = s.ctx k := by rw [hframe]; rfl
    have hundone := restoreRegion_undone 1 ((congrArg Ctx.guard (hctx cx)).trans hguard) fun hholder => by
      rw [hctx] at hholder ⊢
      exact (himage hholder).1
    obtain ⟨hmem, hclusters, -, -, hbad'⟩ := hundone.kept
    have hhere := hundone.here
    have harray := hundone.array
    rw [hctx] at hhere harray
    have hexec : exec (.registerFileError cx r) s = _ := exec_registerFileError hr hvalid (congrArg Option.isSome hguard)
    rw [detected_of_running hguard hclosing hreleased hrun hcontain] at hexec
    refine ⟨_, hexec.trans (out_next (hbad'.trans ((congrArg State.bad hframe).trans hbad))), ?_⟩
    intro d
    have hd : d = c.undone g 1 := hhere
    rw [hd]
    refine ⟨rfl, rfl, rfl, rfl, rfl, rfl, rfl, rfl, rfl, rfl, rfl, rfl, rfl, rfl, rfl, rfl, rfl, rfl, rfl, ⟨_, rfl, rfl, rfl⟩, fun hholder => ?_, ?_, ?_,
      fun k hk => ?_, ?_⟩
    · have hbytes (key n : Nat) : (s.addContained cx).homeBytes key n = s.homeBytes key n :=
        homeBytes_of_state (by rw [hframe]) (by rw [hframe]) key n
      have hgrant (key n : Nat) : (s.addContained cx).granted false key n = s.granted false key n := by rw [hframe]; rfl
      rw [hbytes, hgrant] at harray
      exact harray hholder (himage hholder).2
    · exact hmem.trans (by rw [hframe])
    · exact hclusters.trans (by rw [hframe])
    · exact (hundone.others k hk).trans (hctx k)
    · have hlife := hundone.rollbacks (modOf (dieOf cx))
      have hmod : (s.addContained cx).mod (modOf (dieOf cx)) = s.mod (modOf (dieOf cx)) := by rw [hframe]; rfl
      rw [State.countLife, State.mod_updMod, hlife, hmod]
      exact satAdd_one_toNat _
end Sys2Proof
